-- ==== Sys2Proof/Word.lean ====
section
/-! DEFINITION. The words of the machine: R2, R3, R22. -/

namespace Sys2Proof

/-- A doubleword: an x register, an address while it is computed, a CSR. -/
abbrev Word := BitVec 64

/-- One byte of memory (R3). -/
abbrev Byte := BitVec 8

/-- One instruction word (R22). -/
abbrev IWord := BitVec 32

end Sys2Proof
end

