-- ==== Sys2Proof/Syntax.lean ====
section
/-! DEFINITION. The instructions and the whole steps of the Miolen 1024: one constructor per row of spec/opcode_table.json.

The first 283 rows in the table that carry a word are decoded from memory (`Sys2Proof/Decode.lean`). The other 111
rows are the steps of units beside the core (walker, copy engine, link engine, message interface, Solstice, host):
they carry no word, their operands name what they act on, and `State.turns` says when each is taken. -/

namespace Sys2Proof

/-- Privilege levels (R1, R20), least privileged first. -/
inductive Level where
  | K | T | D | P
  deriving DecidableEq, Repr

/-- The place of a context: the Hilbert index of its site and its context slot (R95, R102). -/
structure Key where
  h : Nat
  slot : Nat
  deriving DecidableEq, Repr

/-- Who makes an access to platform MMIO (R429): a level with the leaf and the first-level span it acts for. -/
structure Requester where
  level : Level
  leaf : Nat
  fl : Nat
  deriving DecidableEq, Repr

/-- A partition block (R89). -/
inductive Block where
  | leaf (j : Nat)
  | first (i : Nat)
  deriving DecidableEq, Repr

/-- The kind of an access, for alignment, permission and fault causes (R112, R114, R140). -/
inductive Access where
  | fetch | load | store | amo
  deriving DecidableEq, Repr

/-- Directions a link carries from its lower-left site (R11). -/
inductive LinkDir where
  | E | N
  deriving DecidableEq, Repr

/-- A link, named by the Hilbert index of its lower-left site and a direction (R1, R8). -/
structure Link where
  h : Nat
  dir : LinkDir
  deriving DecidableEq, Repr

/-- Why a posted access failed late (R214). -/
inductive LateReason where
  | rejected | poison | retired
  deriving DecidableEq, Repr

/-- A peer's write to a ring slot (16 words of the 64-byte packet) or to QWIDX (R81). -/
inductive PeerWrite where
  | ring (index : BitVec 32) (packet : BitVec 512)
  | bell (n : BitVec 32)
  deriving DecidableEq, Repr

/-- A peer's access to this module's memory (R397): a read of `n` bytes or a write of the `n` low bytes of `v`. -/
inductive PeerReq where
  | read (pa : Nat) (n : Nat)
  | write (pa : Nat) (n : Nat) (v : BitVec 1024)
  deriving DecidableEq, Repr

/-- What the destination's Solstice computes at the CHECK of a migration (R383). -/
structure MigAnswer where
  reachable : Bool
  keyEqual : Bool
  capacity : BitVec 8
  roomFree : Bool
  deriving DecidableEq, Repr

/-- A RED as it reaches a switch reduction slot (R398, R399). -/
structure Contribution where
  slot : Nat
  gen : Nat
  element : Nat
  op : Nat
  module : Nat
  value : BitVec 32
  deriving DecidableEq, Repr

/-- Power states of a site (R404). -/
inductive PowerState where
  | S0 | S1 | S2 | S3
  deriving DecidableEq, Repr

/-- What the verifiers of boot found (R401): both signatures and the rollback counter of steps 1 and 2, and training. -/
structure BootCheck where
  solsticeOk : Bool
  coreOk : Bool
  trainingOk : Bool
  deriving DecidableEq, Repr

/-- A fetch that failed (R132): its cause, the address and the second value. -/
structure FetchFault where
  cause : Nat
  va : Word
  val2 : Word
  floor : Level
  deriving DecidableEq, Repr

/-- What a failed member of a composition lost (R202): reason 1 registers, 2 site; the mask of registers not gathered. -/
structure SiteFailure where
  siteLost : Bool
  mask : BitVec 32
  deriving DecidableEq, Repr

/-- A unit that RAS retires (R214, R257, R384). -/
inductive RasUnit where
  | bank (h : Nat) (bank : Nat)
  | slice (h : Nat)
  | channel (c : Nat)
  | site (h : Nat)
  | engine (l : Link)
  deriving DecidableEq, Repr

/-- One row of spec/opcode_table.json each. Field names follow the cards: `d`, `a`, `b` are register numbers of the file
the card names, `imm` raw immediate bits, `pg` a predicate register, `f` an operand form or a tag. -/
inductive Instr where
  /-- LUI (R135). -/
  | lui (imm : BitVec 20) (d : BitVec 5)
  /-- AUIPC (R135). -/
  | auipc (imm : BitVec 20) (d : BitVec 5)
  /-- JAL (R132). -/
  | jal (imm : BitVec 20) (d : BitVec 5)
  /-- JALR (R132). -/
  | jalr (imm : BitVec 12) (a : BitVec 5) (d : BitVec 5)
  /-- BEQ (R132). -/
  | beq (b : BitVec 5) (a : BitVec 5) (off : BitVec 12)
  /-- BNE (R132). -/
  | bne (b : BitVec 5) (a : BitVec 5) (off : BitVec 12)
  /-- BLT (R132). -/
  | blt (b : BitVec 5) (a : BitVec 5) (off : BitVec 12)
  /-- BGE (R132). -/
  | bge (b : BitVec 5) (a : BitVec 5) (off : BitVec 12)
  /-- BLTU (R132). -/
  | bltu (b : BitVec 5) (a : BitVec 5) (off : BitVec 12)
  /-- BGEU (R132). -/
  | bgeu (b : BitVec 5) (a : BitVec 5) (off : BitVec 12)
  /-- LB (R141). -/
  | lb (imm : BitVec 12) (a : BitVec 5) (d : BitVec 5)
  /-- LH (R141). -/
  | lh (imm : BitVec 12) (a : BitVec 5) (d : BitVec 5)
  /-- LW (R141). -/
  | lw (imm : BitVec 12) (a : BitVec 5) (d : BitVec 5)
  /-- LD (R141). -/
  | ld (imm : BitVec 12) (a : BitVec 5) (d : BitVec 5)
  /-- LBU (R141). -/
  | lbu (imm : BitVec 12) (a : BitVec 5) (d : BitVec 5)
  /-- LHU (R141). -/
  | lhu (imm : BitVec 12) (a : BitVec 5) (d : BitVec 5)
  /-- LWU (R141). -/
  | lwu (imm : BitVec 12) (a : BitVec 5) (d : BitVec 5)
  /-- SB (R141). -/
  | sb (b : BitVec 5) (a : BitVec 5) (imm : BitVec 12)
  /-- SH (R141). -/
  | sh (b : BitVec 5) (a : BitVec 5) (imm : BitVec 12)
  /-- SW (R141). -/
  | sw (b : BitVec 5) (a : BitVec 5) (imm : BitVec 12)
  /-- SD (R141). -/
  | sd (b : BitVec 5) (a : BitVec 5) (imm : BitVec 12)
  /-- ADD (R137). -/
  | add (b : BitVec 5) (a : BitVec 5) (d : BitVec 5)
  /-- SLL (R137). -/
  | sll (b : BitVec 5) (a : BitVec 5) (d : BitVec 5)
  /-- SLT (R137). -/
  | slt (b : BitVec 5) (a : BitVec 5) (d : BitVec 5)
  /-- SLTU (R137). -/
  | sltu (b : BitVec 5) (a : BitVec 5) (d : BitVec 5)
  /-- XOR (R137). -/
  | xor (b : BitVec 5) (a : BitVec 5) (d : BitVec 5)
  /-- SRL (R137). -/
  | srl (b : BitVec 5) (a : BitVec 5) (d : BitVec 5)
  /-- OR (R137). -/
  | or (b : BitVec 5) (a : BitVec 5) (d : BitVec 5)
  /-- AND (R137). -/
  | and (b : BitVec 5) (a : BitVec 5) (d : BitVec 5)
  /-- SUB (R137). -/
  | sub (b : BitVec 5) (a : BitVec 5) (d : BitVec 5)
  /-- XNOR (R137). -/
  | xnor (b : BitVec 5) (a : BitVec 5) (d : BitVec 5)
  /-- SRA (R137). -/
  | sra (b : BitVec 5) (a : BitVec 5) (d : BitVec 5)
  /-- ORN (R137). -/
  | orn (b : BitVec 5) (a : BitVec 5) (d : BitVec 5)
  /-- ANDN (R137). -/
  | andn (b : BitVec 5) (a : BitVec 5) (d : BitVec 5)
  /-- MUL (R139). -/
  | mul (b : BitVec 5) (a : BitVec 5) (d : BitVec 5)
  /-- MULH (R139). -/
  | mulh (b : BitVec 5) (a : BitVec 5) (d : BitVec 5)
  /-- MULHSU (R139). -/
  | mulhsu (b : BitVec 5) (a : BitVec 5) (d : BitVec 5)
  /-- MULHU (R139). -/
  | mulhu (b : BitVec 5) (a : BitVec 5) (d : BitVec 5)
  /-- DIV (R139). -/
  | div (b : BitVec 5) (a : BitVec 5) (d : BitVec 5)
  /-- DIVU (R139). -/
  | divu (b : BitVec 5) (a : BitVec 5) (d : BitVec 5)
  /-- REM (R139). -/
  | rem (b : BitVec 5) (a : BitVec 5) (d : BitVec 5)
  /-- REMU (R139). -/
  | remu (b : BitVec 5) (a : BitVec 5) (d : BitVec 5)
  /-- SH1ADD (R137). -/
  | sh1add (b : BitVec 5) (a : BitVec 5) (d : BitVec 5)
  /-- SH2ADD (R137). -/
  | sh2add (b : BitVec 5) (a : BitVec 5) (d : BitVec 5)
  /-- SH3ADD (R137). -/
  | sh3add (b : BitVec 5) (a : BitVec 5) (d : BitVec 5)
  /-- MIN (R137). -/
  | min (b : BitVec 5) (a : BitVec 5) (d : BitVec 5)
  /-- MINU (R137). -/
  | minu (b : BitVec 5) (a : BitVec 5) (d : BitVec 5)
  /-- MAX (R137). -/
  | max (b : BitVec 5) (a : BitVec 5) (d : BitVec 5)
  /-- MAXU (R137). -/
  | maxu (b : BitVec 5) (a : BitVec 5) (d : BitVec 5)
  /-- ROL (R137). -/
  | rol (b : BitVec 5) (a : BitVec 5) (d : BitVec 5)
  /-- ROR (R137). -/
  | ror (b : BitVec 5) (a : BitVec 5) (d : BitVec 5)
  /-- ADDW (R137). -/
  | addw (b : BitVec 5) (a : BitVec 5) (d : BitVec 5)
  /-- SLLW (R137). -/
  | sllw (b : BitVec 5) (a : BitVec 5) (d : BitVec 5)
  /-- SRLW (R137). -/
  | srlw (b : BitVec 5) (a : BitVec 5) (d : BitVec 5)
  /-- SUBW (R137). -/
  | subw (b : BitVec 5) (a : BitVec 5) (d : BitVec 5)
  /-- SRAW (R137). -/
  | sraw (b : BitVec 5) (a : BitVec 5) (d : BitVec 5)
  /-- MULW (R139). -/
  | mulw (b : BitVec 5) (a : BitVec 5) (d : BitVec 5)
  /-- DIVW (R139). -/
  | divw (b : BitVec 5) (a : BitVec 5) (d : BitVec 5)
  /-- DIVUW (R139). -/
  | divuw (b : BitVec 5) (a : BitVec 5) (d : BitVec 5)
  /-- REMW (R139). -/
  | remw (b : BitVec 5) (a : BitVec 5) (d : BitVec 5)
  /-- REMUW (R139). -/
  | remuw (b : BitVec 5) (a : BitVec 5) (d : BitVec 5)
  /-- SH1ADD_UW (R137). -/
  | sh1addUw (b : BitVec 5) (a : BitVec 5) (d : BitVec 5)
  /-- SH2ADD_UW (R137). -/
  | sh2addUw (b : BitVec 5) (a : BitVec 5) (d : BitVec 5)
  /-- SH3ADD_UW (R137). -/
  | sh3addUw (b : BitVec 5) (a : BitVec 5) (d : BitVec 5)
  /-- ADD_UW (R137). -/
  | addUw (b : BitVec 5) (a : BitVec 5) (d : BitVec 5)
  /-- ZEXT_H (R137). -/
  | zextH (a : BitVec 5) (d : BitVec 5)
  /-- ROLW (R137). -/
  | rolw (b : BitVec 5) (a : BitVec 5) (d : BitVec 5)
  /-- RORW (R137). -/
  | rorw (b : BitVec 5) (a : BitVec 5) (d : BitVec 5)
  /-- ADDI (R138). -/
  | addi (imm : BitVec 12) (a : BitVec 5) (d : BitVec 5)
  /-- SLTI (R138). -/
  | slti (imm : BitVec 12) (a : BitVec 5) (d : BitVec 5)
  /-- SLTIU (R138). -/
  | sltiu (imm : BitVec 12) (a : BitVec 5) (d : BitVec 5)
  /-- XORI (R138). -/
  | xori (imm : BitVec 12) (a : BitVec 5) (d : BitVec 5)
  /-- ORI (R138). -/
  | ori (imm : BitVec 12) (a : BitVec 5) (d : BitVec 5)
  /-- ANDI (R138). -/
  | andi (imm : BitVec 12) (a : BitVec 5) (d : BitVec 5)
  /-- SLLI (R138). -/
  | slli (sh : BitVec 6) (a : BitVec 5) (d : BitVec 5)
  /-- SRLI (R138). -/
  | srli (sh : BitVec 6) (a : BitVec 5) (d : BitVec 5)
  /-- SRAI (R138). -/
  | srai (sh : BitVec 6) (a : BitVec 5) (d : BitVec 5)
  /-- RORI (R138). -/
  | rori (sh : BitVec 6) (a : BitVec 5) (d : BitVec 5)
  /-- CLZ (R138). -/
  | clz (a : BitVec 5) (d : BitVec 5)
  /-- CTZ (R138). -/
  | ctz (a : BitVec 5) (d : BitVec 5)
  /-- CPOP (R138). -/
  | cpop (a : BitVec 5) (d : BitVec 5)
  /-- SEXT_B (R138). -/
  | sextB (a : BitVec 5) (d : BitVec 5)
  /-- SEXT_H (R138). -/
  | sextH (a : BitVec 5) (d : BitVec 5)
  /-- REV8 (R138). -/
  | rev8 (a : BitVec 5) (d : BitVec 5)
  /-- ADDIW (R138). -/
  | addiw (imm : BitVec 12) (a : BitVec 5) (d : BitVec 5)
  /-- SLLIW (R139). -/
  | slliw (sh : BitVec 5) (a : BitVec 5) (d : BitVec 5)
  /-- SRLIW (R139). -/
  | srliw (sh : BitVec 5) (a : BitVec 5) (d : BitVec 5)
  /-- SRAIW (R139). -/
  | sraiw (sh : BitVec 5) (a : BitVec 5) (d : BitVec 5)
  /-- RORIW (R139). -/
  | roriw (sh : BitVec 5) (a : BitVec 5) (d : BitVec 5)
  /-- SLLI_UW (R138). -/
  | slliUw (sh : BitVec 6) (a : BitVec 5) (d : BitVec 5)
  /-- CLZW (R138). -/
  | clzw (a : BitVec 5) (d : BitVec 5)
  /-- CTZW (R138). -/
  | ctzw (a : BitVec 5) (d : BitVec 5)
  /-- CPOPW (R138). -/
  | cpopw (a : BitVec 5) (d : BitVec 5)
  /-- LR (R144). -/
  | lr (aq : BitVec 1) (rl : BitVec 1) (a : BitVec 5) (w : BitVec 1) (d : BitVec 5)
  /-- SC (R144). -/
  | sc (aq : BitVec 1) (rl : BitVec 1) (b : BitVec 5) (a : BitVec 5) (w : BitVec 1) (d : BitVec 5)
  /-- AMOSWAP (R143). -/
  | amoswap (aq : BitVec 1) (rl : BitVec 1) (b : BitVec 5) (a : BitVec 5) (w : BitVec 1) (d : BitVec 5)
  /-- AMOADD (R143). -/
  | amoadd (aq : BitVec 1) (rl : BitVec 1) (b : BitVec 5) (a : BitVec 5) (w : BitVec 1) (d : BitVec 5)
  /-- AMOXOR (R143). -/
  | amoxor (aq : BitVec 1) (rl : BitVec 1) (b : BitVec 5) (a : BitVec 5) (w : BitVec 1) (d : BitVec 5)
  /-- AMOAND (R143). -/
  | amoand (aq : BitVec 1) (rl : BitVec 1) (b : BitVec 5) (a : BitVec 5) (w : BitVec 1) (d : BitVec 5)
  /-- AMOOR (R143). -/
  | amoor (aq : BitVec 1) (rl : BitVec 1) (b : BitVec 5) (a : BitVec 5) (w : BitVec 1) (d : BitVec 5)
  /-- AMOMIN (R143). -/
  | amomin (aq : BitVec 1) (rl : BitVec 1) (b : BitVec 5) (a : BitVec 5) (w : BitVec 1) (d : BitVec 5)
  /-- AMOMAX (R143). -/
  | amomax (aq : BitVec 1) (rl : BitVec 1) (b : BitVec 5) (a : BitVec 5) (w : BitVec 1) (d : BitVec 5)
  /-- AMOMINU (R143). -/
  | amominu (aq : BitVec 1) (rl : BitVec 1) (b : BitVec 5) (a : BitVec 5) (w : BitVec 1) (d : BitVec 5)
  /-- AMOMAXU (R143). -/
  | amomaxu (aq : BitVec 1) (rl : BitVec 1) (b : BitVec 5) (a : BitVec 5) (w : BitVec 1) (d : BitVec 5)
  /-- FENCE (R147). -/
  | fence (p : BitVec 4) (c : BitVec 4)
  /-- FENCE_TSO (R146). -/
  | fenceTso
  /-- FENCE_I (R148). -/
  | fenceI
  /-- ECALL (R149). -/
  | ecall
  /-- EBREAK (R149). -/
  | ebreak
  /-- CSRRW (R151). -/
  | csrrw (c : BitVec 12) (a : BitVec 5) (d : BitVec 5)
  /-- CSRRS (R151). -/
  | csrrs (c : BitVec 12) (a : BitVec 5) (d : BitVec 5)
  /-- CSRRC (R151). -/
  | csrrc (c : BitVec 12) (a : BitVec 5) (d : BitVec 5)
  /-- CSRRWI (R151). -/
  | csrrwi (c : BitVec 12) (u : BitVec 5) (d : BitVec 5)
  /-- CSRRSI (R151). -/
  | csrrsi (c : BitVec 12) (u : BitVec 5) (d : BitVec 5)
  /-- CSRRCI (R151). -/
  | csrrci (c : BitVec 12) (u : BitVec 5) (d : BitVec 5)
  /-- HNOP (R29). -/
  | hnop (p : BitVec 20)
  /-- HWIDE (R29). -/
  | hwide (p : BitVec 20)
  /-- HSCOPE (R29). -/
  | hscope (t : BitVec 1) (c : BitVec 2) (o : BitVec 2)
  /-- HWAIT (R29). -/
  | hwait (w : BitVec 2)
  /-- HPRED (R29). -/
  | hpred (p : BitVec 3)
  /-- HBRH (R29). -/
  | hbrh (p : BitVec 20)
  /-- HPRIO (R29). -/
  | hprio (p : BitVec 2)
  /-- HSTREAM (R29). -/
  | hstream (p : BitVec 2)
  /-- HTILECO (R29). -/
  | htileco (rl : BitVec 10) (c : BitVec 10)
  /-- QSUB (R83). -/
  | qsub (b : BitVec 5) (a : BitVec 5) (d : BitVec 5)
  /-- QSUB_T (R83). -/
  | qsubT (b : BitVec 5) (a : BitVec 5) (d : BitVec 5)
  /-- TRIG (R78). -/
  | trig
  /-- LSTAT (R85). -/
  | lstat (a : BitVec 5) (f : BitVec 2) (d : BitVec 5)
  /-- TLB_INV (R118). -/
  | tlbInv (b : BitVec 5) (a : BitVec 5) (rl : BitVec 2) (s : BitVec 2)
  /-- TLB_SYNC (R119). -/
  | tlbSync
  /-- VADD (R158). -/
  | vadd (pg : BitVec 3) (b : BitVec 5) (a : BitVec 5) (f : BitVec 2) (d : BitVec 5)
  /-- VSUB (R158). -/
  | vsub (pg : BitVec 3) (b : BitVec 5) (a : BitVec 5) (f : BitVec 2) (d : BitVec 5)
  /-- VMUL (R158). -/
  | vmul (pg : BitVec 3) (b : BitVec 5) (a : BitVec 5) (f : BitVec 2) (d : BitVec 5)
  /-- VMULH (R158). -/
  | vmulh (pg : BitVec 3) (b : BitVec 5) (a : BitVec 5) (s : BitVec 1) (f : BitVec 2) (d : BitVec 5)
  /-- VMIN (R158). -/
  | vmin (pg : BitVec 3) (b : BitVec 5) (a : BitVec 5) (s : BitVec 1) (f : BitVec 2) (d : BitVec 5)
  /-- VMAX (R158). -/
  | vmax (pg : BitVec 3) (b : BitVec 5) (a : BitVec 5) (s : BitVec 1) (f : BitVec 2) (d : BitVec 5)
  /-- VABS (R158). -/
  | vabs (pg : BitVec 3) (a : BitVec 5) (d : BitVec 5)
  /-- VAND (R158). -/
  | vand (pg : BitVec 3) (b : BitVec 5) (a : BitVec 5) (f : BitVec 2) (d : BitVec 5)
  /-- VOR (R158). -/
  | vor (pg : BitVec 3) (b : BitVec 5) (a : BitVec 5) (f : BitVec 2) (d : BitVec 5)
  /-- VXOR (R158). -/
  | vxor (pg : BitVec 3) (b : BitVec 5) (a : BitVec 5) (f : BitVec 2) (d : BitVec 5)
  /-- VSLL (R158). -/
  | vsll (pg : BitVec 3) (b : BitVec 5) (a : BitVec 5) (f : BitVec 2) (d : BitVec 5)
  /-- VSRL (R158). -/
  | vsrl (pg : BitVec 3) (b : BitVec 5) (a : BitVec 5) (f : BitVec 2) (d : BitVec 5)
  /-- VSRA (R158). -/
  | vsra (pg : BitVec 3) (b : BitVec 5) (a : BitVec 5) (f : BitVec 2) (d : BitVec 5)
  /-- VCMP (R159). -/
  | vcmp (c : BitVec 3) (b : BitVec 5) (a : BitVec 5) (f : BitVec 2) (d : BitVec 5)
  /-- VSEL (R159). -/
  | vsel (c : BitVec 3) (b : BitVec 5) (a : BitVec 5) (f : BitVec 2) (d : BitVec 5)
  /-- VSADD (R158). -/
  | vsadd (pg : BitVec 3) (b : BitVec 5) (a : BitVec 5) (s : BitVec 1) (f : BitVec 2) (d : BitVec 5)
  /-- VFADD (R161). -/
  | vfadd (pg : BitVec 3) (b : BitVec 5) (a : BitVec 5) (f : BitVec 2) (d : BitVec 5)
  /-- VFSUB (R161). -/
  | vfsub (pg : BitVec 3) (b : BitVec 5) (a : BitVec 5) (f : BitVec 2) (d : BitVec 5)
  /-- VFMUL (R161). -/
  | vfmul (pg : BitVec 3) (b : BitVec 5) (a : BitVec 5) (f : BitVec 2) (d : BitVec 5)
  /-- VFMA (R161). -/
  | vfma (pg : BitVec 3) (b : BitVec 5) (a : BitVec 5) (f : BitVec 2) (d : BitVec 5)
  /-- VFMIN (R161). -/
  | vfmin (pg : BitVec 3) (b : BitVec 5) (a : BitVec 5) (f : BitVec 2) (d : BitVec 5)
  /-- VFMAX (R161). -/
  | vfmax (pg : BitVec 3) (b : BitVec 5) (a : BitVec 5) (f : BitVec 2) (d : BitVec 5)
  /-- VFMAXABS (R161). -/
  | vfmaxabs (pg : BitVec 3) (b : BitVec 5) (a : BitVec 5) (f : BitVec 2) (d : BitVec 5)
  /-- VFABS (R161). -/
  | vfabs (pg : BitVec 3) (a : BitVec 5) (d : BitVec 5)
  /-- VFNEG (R161). -/
  | vfneg (pg : BitVec 3) (a : BitVec 5) (d : BitVec 5)
  /-- VFCMP (R161). -/
  | vfcmp (c : BitVec 3) (b : BitVec 5) (a : BitVec 5) (f : BitVec 2) (d : BitVec 5)
  /-- VFCLASS (R161). -/
  | vfclass (pg : BitVec 3) (a : BitVec 5) (d : BitVec 5)
  /-- VFRCP (R161). -/
  | vfrcp (pg : BitVec 3) (a : BitVec 5) (d : BitVec 5)
  /-- VFRSQ (R161). -/
  | vfrsq (pg : BitVec 3) (a : BitVec 5) (d : BitVec 5)
  /-- VFEXP2 (R161). -/
  | vfexp2 (pg : BitVec 3) (a : BitVec 5) (d : BitVec 5)
  /-- VFLOG2 (R161). -/
  | vflog2 (pg : BitVec 3) (a : BitVec 5) (d : BitVec 5)
  /-- VFDIV (R161). -/
  | vfdiv (pg : BitVec 3) (b : BitVec 5) (a : BitVec 5) (f : BitVec 2) (d : BitVec 5)
  /-- VCVT (R163). -/
  | vcvt (pg : BitVec 3) (t : BitVec 1) (f : BitVec 4) (a : BitVec 5) (u : BitVec 1) (j : BitVec 2) (d : BitVec 5)
  /-- VPACK (R164). -/
  | vpack (a : BitVec 5) (j : BitVec 1) (d : BitVec 5)
  /-- VUNPACK (R164). -/
  | vunpack (f : BitVec 4) (a : BitVec 5) (j : BitVec 1) (d : BitVec 5)
  /-- VDQ (R165). -/
  | vdq (pg : BitVec 3) (b : BitVec 5) (a : BitVec 5) (j : BitVec 2) (d : BitVec 5)
  /-- VREDSUM (R166). -/
  | vredsum (pg : BitVec 3) (a : BitVec 5) (s : BitVec 1) (d : BitVec 5)
  /-- VREDMAX (R166). -/
  | vredmax (pg : BitVec 3) (a : BitVec 5) (s : BitVec 1) (d : BitVec 5)
  /-- VREDMIN (R166). -/
  | vredmin (pg : BitVec 3) (a : BitVec 5) (s : BitVec 1) (d : BitVec 5)
  /-- VPERM (R167). -/
  | vperm (pg : BitVec 3) (b : BitVec 5) (a : BitVec 5) (d : BitVec 5)
  /-- VSLIDE (R167). -/
  | vslide (pg : BitVec 3) (b : BitVec 5) (a : BitVec 5) (f : BitVec 2) (d : BitVec 5)
  /-- VBCAST (R167). -/
  | vbcast (pg : BitVec 3) (f : BitVec 4) (a : BitVec 5) (d : BitVec 5)
  /-- VMV_XV (R167). -/
  | vmvXv (b : BitVec 5) (a : BitVec 5) (u : BitVec 1) (d : BitVec 5)
  /-- VMV_VX (R167). -/
  | vmvVx (b : BitVec 5) (a : BitVec 5) (d : BitVec 5)
  /-- VLUT (R167). -/
  | vlut (pg : BitVec 3) (b : BitVec 5) (a : BitVec 5) (j : BitVec 2) (d : BitVec 5)
  /-- VSETTAG (R168). -/
  | vsettag (f : BitVec 4) (a : BitVec 5) (d : BitVec 5)
  /-- VTAG (R168). -/
  | vtag (a : BitVec 5) (d : BitVec 5)
  /-- PAND (R169). -/
  | pand (b : BitVec 3) (a : BitVec 3) (d : BitVec 3)
  /-- POR (R169). -/
  | por (b : BitVec 3) (a : BitVec 3) (d : BitVec 3)
  /-- PXOR (R169). -/
  | pxor (b : BitVec 3) (a : BitVec 3) (d : BitVec 3)
  /-- PNOT (R169). -/
  | pnot (a : BitVec 3) (d : BitVec 3)
  /-- PCNT (R169). -/
  | pcnt (a : BitVec 3) (d : BitVec 5)
  /-- PFIRST (R169). -/
  | pfirst (a : BitVec 3) (d : BitVec 5)
  /-- TZERO (R171). -/
  | tzero (f : BitVec 4) (d : BitVec 3)
  /-- TMOV (R171). -/
  | tmov (a : BitVec 3) (d : BitVec 3)
  /-- TTRANS (R171). -/
  | ttrans (a : BitVec 3) (d : BitVec 3)
  /-- TCVT (R171). -/
  | tcvt (f : BitVec 4) (a : BitVec 3) (rl : BitVec 3) (d : BitVec 3)
  /-- TCVT_SAT (R170). -/
  | tcvtSat (f : BitVec 4) (a : BitVec 3) (rl : BitVec 3) (d : BitVec 3)
  /-- TCVT_NOSAT (R170). -/
  | tcvtNosat (f : BitVec 4) (a : BitVec 3) (rl : BitVec 3) (d : BitVec 3)
  /-- TQSET (R172). -/
  | tqset (a : BitVec 3) (d : BitVec 3)
  /-- TPICK (R171). -/
  | tpick (b : BitVec 5) (a : BitVec 3) (c : BitVec 1) (d : BitVec 5)
  /-- TPLACE (R171). -/
  | tplace (b : BitVec 5) (a : BitVec 5) (c : BitVec 1) (d : BitVec 3)
  /-- TTAG_SET (R171). -/
  | ttagSet (f : BitVec 4) (d : BitVec 3)
  /-- TTAG_READ (R171). -/
  | ttagRead (a : BitVec 3) (d : BitVec 5)
  /-- XOP (R185). -/
  | xop (s : BitVec 6) (b : BitVec 5) (a : BitVec 5) (pg : BitVec 3) (d : BitVec 5)
  /-- XCFG_LOAD (R186). -/
  | xcfgLoad (a : BitVec 5) (d : BitVec 5)
  /-- XCFG_DROP (R187). -/
  | xcfgDrop (a : BitVec 5)
  /-- XCFG_QUERY (R187). -/
  | xcfgQuery (a : BitVec 5) (d : BitVec 5)
  /-- COMPOSE (R192). -/
  | compose (b : BitVec 2) (d : BitVec 5)
  /-- RELEASE (R201). -/
  | release (d : BitVec 5)
  /-- CSTAT (R204). -/
  | cstat (d : BitVec 5)
  /-- VLD (R217). -/
  | vld (w : BitVec 2) (imm : BitVec 5) (t : BitVec 4) (a : BitVec 5) (d : BitVec 5)
  /-- VLDS (R217). -/
  | vlds (w : BitVec 2) (t : BitVec 4) (b : BitVec 5) (a : BitVec 5) (d : BitVec 5)
  /-- VLDX (R217). -/
  | vldx (w : BitVec 2) (t : BitVec 4) (b : BitVec 5) (a : BitVec 5) (d : BitVec 5)
  /-- TLD (R218). -/
  | tld (w : BitVec 2) (a : BitVec 5) (d : BitVec 3)
  /-- VST (R217). -/
  | vst (w : BitVec 2) (imm : BitVec 5) (a : BitVec 5) (d : BitVec 5)
  /-- VSTS (R217). -/
  | vsts (w : BitVec 2) (b : BitVec 5) (a : BitVec 5) (d : BitVec 5)
  /-- VSTX (R217). -/
  | vstx (w : BitVec 2) (b : BitVec 5) (a : BitVec 5) (d : BitVec 5)
  /-- TST (R218). -/
  | tst (w : BitVec 2) (a : BitVec 5) (d : BitVec 3)
  /-- LD_S (R220). -/
  | ldS (w : BitVec 2) (s : BitVec 2) (b : BitVec 5) (a : BitVec 5) (f : BitVec 3) (d : BitVec 5)
  /-- ST_S (R220). -/
  | stS (w : BitVec 2) (s : BitVec 2) (b : BitVec 5) (a : BitVec 5) (f : BitVec 2)
  /-- LD_ACQ (R220). -/
  | ldAcq (w : BitVec 2) (s : BitVec 2) (b : BitVec 5) (a : BitVec 5) (f : BitVec 3) (d : BitVec 5)
  /-- ST_REL (R220). -/
  | stRel (w : BitVec 2) (s : BitVec 2) (b : BitVec 5) (a : BitVec 5) (f : BitVec 2)
  /-- RED (R221). -/
  | red (w : BitVec 2) (b : BitVec 5) (a : BitVec 5) (z : BitVec 1) (c : BitVec 5)
  /-- AMOF (R222). -/
  | amof (w : BitVec 2) (s : BitVec 2) (b : BitVec 5) (a : BitVec 5) (f : BitVec 3) (d : BitVec 5)
  /-- LACC_ADD (R223). -/
  | laccAdd (w : BitVec 2) (b : BitVec 5) (a : BitVec 5) (p : BitVec 1)
  /-- LACC_RND (R223). -/
  | laccRnd (w : BitVec 2) (a : BitVec 5) (f : BitVec 1) (d : BitVec 5)
  /-- LACC_CLR (R223). -/
  | laccClr (w : BitVec 2) (a : BitVec 5)
  /-- PIN (R224). -/
  | pin (w : BitVec 2) (a : BitVec 5) (d : BitVec 5)
  /-- UNPIN (R224). -/
  | unpin (w : BitVec 2) (a : BitVec 5) (d : BitVec 5)
  /-- CWAIT (R225). -/
  | cwait (w : BitVec 2) (b : BitVec 5)
  /-- XCOPY_1D (R238). -/
  | xcopy1d (aq : BitVec 1) (rl : BitVec 1) (b : BitVec 5) (a : BitVec 5) (s : BitVec 2) (d : BitVec 5)
  /-- XCOPY_2D (R238). -/
  | xcopy2d (aq : BitVec 1) (rl : BitVec 1) (a : BitVec 5) (s : BitVec 2) (d : BitVec 5)
  /-- XCOPY_TILE (R238). -/
  | xcopyTile (aq : BitVec 1) (rl : BitVec 1) (a : BitVec 5) (s : BitVec 2) (d : BitVec 5)
  /-- XCOPY_GATH (R238). -/
  | xcopyGath (aq : BitVec 1) (rl : BitVec 1) (a : BitVec 5) (s : BitVec 2) (d : BitVec 5)
  /-- XCOPY_WAIT (R239). -/
  | xcopyWait (a : BitVec 5) (d : BitVec 5)
  /-- XCOPY_WAIT_T (R239). -/
  | xcopyWaitT (a : BitVec 5) (d : BitVec 5)
  /-- XCOPY_STAT (R239). -/
  | xcopyStat (a : BitVec 5) (d : BitVec 5)
  /-- XCOPY_ABORT (R239). -/
  | xcopyAbort (a : BitVec 5) (d : BitVec 5)
  /-- LX_PROD (R260). -/
  | lxProd (a : BitVec 5) (d : BitVec 5)
  /-- LX_FEED (R260). -/
  | lxFeed (aq : BitVec 1) (rl : BitVec 1) (a : BitVec 5) (s : BitVec 2) (d : BitVec 5)
  /-- LX_FEEDT (R260). -/
  | lxFeedt (aq : BitVec 1) (rl : BitVec 1) (b : BitVec 5) (a : BitVec 3) (s : BitVec 2) (d : BitVec 5)
  /-- LX_WAIT (R261). -/
  | lxWait (a : BitVec 5) (d : BitVec 5)
  /-- LX_WAIT_T (R261). -/
  | lxWaitT (a : BitVec 5) (d : BitVec 5)
  /-- LX_DWAIT (R262). -/
  | lxDwait (b : BitVec 5) (a : BitVec 5) (d : BitVec 5)
  /-- LX_DWAIT_T (R262). -/
  | lxDwaitT (b : BitVec 5) (a : BitVec 5) (d : BitVec 5)
  /-- LX_STAT (R261). -/
  | lxStat (a : BitVec 5) (d : BitVec 5)
  /-- LX_ABORT (R261). -/
  | lxAbort (a : BitVec 5) (d : BitVec 5)
  /-- LX_EPI (R263). -/
  | lxEpi (b : BitVec 5) (a : BitVec 5) (d : BitVec 5)
  /-- LX_CFG (R264). -/
  | lxCfg (b : BitVec 5) (a : BitVec 5) (d : BitVec 5)
  /-- MSG_SEND (R295). -/
  | msgSend (b : BitVec 5) (a : BitVec 5) (d : BitVec 5)
  /-- MSG_SEND_T (R295). -/
  | msgSendT (b : BitVec 5) (a : BitVec 5) (d : BitVec 5)
  /-- MSG_PUT (R295). -/
  | msgPut (b : BitVec 5) (a : BitVec 5) (d : BitVec 5)
  /-- MSG_PUT_T (R295). -/
  | msgPutT (b : BitVec 5) (a : BitVec 5) (d : BitVec 5)
  /-- MSG_REPLY (R291). -/
  | msgReply (b : BitVec 5) (a : BitVec 5) (d : BitVec 5)
  /-- MSG_POST (R296). -/
  | msgPost (b : BitVec 5) (a : BitVec 5) (d : BitVec 5)
  /-- MSG_UNPOST (R296). -/
  | msgUnpost (a : BitVec 5) (d : BitVec 5)
  /-- MSG_POLL (R297). -/
  | msgPoll (a : BitVec 5) (f : BitVec 1) (d : BitVec 5)
  /-- MSG_POLL_TAKE (R297). -/
  | msgPollTake (d : BitVec 5)
  /-- MSG_SPILL (R298). -/
  | msgSpill (b : BitVec 5) (a : BitVec 5) (d : BitVec 5)
  /-- HDONE (R299). -/
  | hdone
  /-- CH_OPEN (R304). -/
  | chOpen (b : BitVec 5) (a : BitVec 5) (d : BitVec 3)
  /-- CH_CLOSE (R304). -/
  | chClose (a : BitVec 3)
  /-- CH_PUSH (R305). -/
  | chPush (b : BitVec 3) (a : BitVec 5)
  /-- CH_PUSH_T (R305). -/
  | chPushT (b : BitVec 3) (a : BitVec 5) (d : BitVec 5)
  /-- CH_POP (R305). -/
  | chPop (a : BitVec 3) (d : BitVec 5)
  /-- CH_POP_T (R305). -/
  | chPopT (b : BitVec 5) (a : BitVec 3) (d : BitVec 5)
  /-- CH_BIND (R306). -/
  | chBind (b : BitVec 5) (a : BitVec 5) (f : BitVec 1) (d : BitVec 5)
  /-- CH_STAT (R307). -/
  | chStat (a : BitVec 3) (d : BitVec 5)
  /-- NODE_NEW (R329). -/
  | nodeNew (a : BitVec 5) (d : BitVec 5)
  /-- NODE_LINK (R329). -/
  | nodeLink (b : BitVec 5) (a : BitVec 5) (d : BitVec 5)
  /-- NODE_ARM (R329). -/
  | nodeArm (a : BitVec 5) (d : BitVec 5)
  /-- NODE_DONE (R329). -/
  | nodeDone (a : BitVec 5) (d : BitVec 5)
  /-- RNG_NEXT (R330). -/
  | rngNext (d : BitVec 5)
  /-- ENQ (R331). -/
  | enq (a : BitVec 5) (d : BitVec 5)
  /-- ENQ_T (R331). -/
  | enqT (a : BitVec 5) (d : BitVec 5)
  /-- TASK_CANCEL (R327). -/
  | taskCancel (a : BitVec 5) (d : BitVec 5)
  /-- TASK_STAT (R332). -/
  | taskStat (a : BitVec 5) (d : BitVec 5)
  /-- GBAR (R334). -/
  | gbar (a : BitVec 5)
  /-- GBAR_T (R334). -/
  | gbarT (a : BitVec 5) (d : BitVec 5)
  /-- SEM_P (R335). -/
  | semP (a : BitVec 5)
  /-- SEM_P_T (R335). -/
  | semPT (a : BitVec 5) (d : BitVec 5)
  /-- SEM_V (R335). -/
  | semV (a : BitVec 5)
  /-- MON_ARM (R336). -/
  | monArm (a : BitVec 5) (d : BitVec 5)
  /-- MON_WAIT (R336). -/
  | monWait (d : BitVec 5)
  /-- MON_WAIT_T (R336). -/
  | monWaitT (d : BitVec 5)
  /-- TRET (R364). -/
  | tret
  /-- DRET (R364). -/
  | dret
  /-- PRET (R364). -/
  | pret
  /-- WFI (R365). -/
  | wfi
  /-- WSP_SW (R366). -/
  | wspSw (a : BitVec 5) (d : BitVec 5)
  /-- BIND_WB (R367). -/
  | bindWb
  /-- INSPECT (R368). -/
  | inspect (b : BitVec 5) (a : BitVec 5) (d : BitVec 5)
  /-- QCMD_REGISTER (R67). -/
  | qcmdRegister (q : Nat) (r : Requester)
  /-- QCMD_UNREGISTER (R67). -/
  | qcmdUnregister (q : Nat) (r : Requester)
  /-- QWIDX_WRITE (R68). -/
  | qwidxWrite (q : Nat) (n : BitVec 32) (r : Requester)
  /-- QCANCEL_WRITE (R77). -/
  | qcancelWrite (q : Nat) (n : BitVec 32) (r : Requester)
  /-- PACKET_FETCH (R70). -/
  | packetFetch (q : Nat)
  /-- PACKET_DISPATCH (R75); a number above 4,095 names the packets that an earlier registration consumed (R67). -/
  | packetDispatch (q : Nat)
  /-- KERNEL_PLACEMENT (R95). -/
  | kernelPlacement (leaf : Nat)
  /-- GRAPH_ARM (R319); a number above 4,095 as for PACKET_DISPATCH. -/
  | graphArm (q : Nat)
  /-- PEER_DOORBELL_WRITE (R81). -/
  | peerDoorbellWrite (srcMod : Nat) (srcLeaf : Nat) (q : Nat) (w : PeerWrite)
  /-- CONTEXT_RETIRE (R390). -/
  | contextRetire (k : Key)
  /-- KERNEL_COMPLETE (R391). -/
  | kernelComplete (kid : Nat)
  /-- PCMD_CREATE (R90). -/
  | pcmdCreate (blk : Block) (r : Requester)
  /-- PCMD_DESTROY (R91). -/
  | pcmdDestroy (blk : Block) (r : Requester)
  /-- PCMD_APPLY (R93). -/
  | pcmdApply (blk : Block) (r : Requester)
  /-- SPAN_DESTROY_COMPLETE (R91). -/
  | spanDestroyComplete (blk : Block)
  /-- QOSCMD_APPLY (R310). -/
  | qoscmdApply (leaf : Nat) (r : Requester)
  /-- PAGE_WALK_COMPLETE (R113). -/
  | pageWalkComplete (k : Key) (acc : Access) (va : Word)
  /-- TLB_INV_COMPLETE (R119). -/
  | tlbInvComplete (k : Key)
  /-- L2WAY_WRITE (R125). -/
  | l2wayWrite (value : Word)
  /-- L2WAY_TRANSITION_COMPLETE (R126). -/
  | l2wayTransitionComplete (leaf : Nat)
  /-- WSP_CSR_WRITE (R134). -/
  | wspCsrWrite (l : Level) (value : Word)
  /-- KEND_WRITE (R370). -/
  | kendWrite (value : Word)
  /-- OPLCTL_DROP (R215). -/
  | oplctlDrop
  /-- CPCTL_RESTART (R234). -/
  | cpctlRestart
  /-- CPCTL_ABORT (R234). -/
  | cpctlAbort
  /-- CQCTL_HOLD (R376). -/
  | cqctlHold (slot : Nat)
  /-- CQCTL_REMOVE (R376). -/
  | cqctlRemove (slot : Nat)
  /-- CQCTL_REBUILD (R376). -/
  | cqctlRebuild (slot : Nat)
  /-- COPY_HOLD_COMPLETE (R376). -/
  | copyHoldComplete (h : Nat)
  /-- REGISTER_WRITE (R152). -/
  | registerWrite (addr : Nat) (value : Word) (r : Requester)
  /-- WATCHDOG_EXPIRY (R283). -/
  | watchdogExpiry (k : Key)
  /-- TIMER_COMPARE (R355). -/
  | timerCompare (cycles : Nat)
  /-- FRAME_BOUNDARY (R309). -/
  | frameBoundary
  /-- CTL_TOKEN_GAIN (R312). -/
  | ctlTokenGain (h : Nat)
  /-- RENDEZVOUS_TIMEOUT (R269). -/
  | rendezvousTimeout (l : Link) (half : Nat)
  /-- PAUSE_TIMEOUT (R269). -/
  | pauseTimeout (k : Key) (handle : Nat)
  /-- FEED_TIMEOUT (R250). -/
  | feedTimeout (k : Key) (handle : Nat)
  /-- SINK_RETRY_TIMEOUT (R272). -/
  | sinkRetryTimeout (l : Link) (half : Nat)
  /-- SEND_BACKOFF_EXPIRY (R289). -/
  | sendBackoffExpiry (k : Key) (handle : Nat)
  /-- MESSAGE_RETRY_RESEND (R287). -/
  | messageRetryResend (k : Key) (handle : Nat)
  /-- SITE_WINDOW_RETRY (R375). -/
  | siteWindowRetry (k : Key) (idx : Nat)
  /-- CHANNEL_ASK_RETRY (R301). -/
  | channelAskRetry (k : Key) (q : Nat)
  /-- SEM_P_RETRY (R335). -/
  | semPRetry (k : Key)
  /-- PROD_NODE_REISSUE (R315). -/
  | prodNodeReissue (node : Nat)
  /-- SWITCH_SLOT_TIMEOUT (R399). -/
  | switchSlotTimeout (slot : Nat)
  /-- HEARTBEAT_MISS (R385). -/
  | heartbeatMiss (module : Nat)
  /-- TRAP_ENTRY (R361). -/
  | trapEntry
  /-- XIRQ_WRITE (R394). -/
  | xirqWrite (r : Requester) (value : Word)
  /-- HOME_ACCESS (R206). -/
  | homeAccess (k : Key) (idx : Nat)
  /-- STORE_ACK (R211). -/
  | storeAck (k : Key) (idx : Nat)
  /-- LATE_FAILURE (R214). -/
  | lateFailure (k : Key) (idx : Nat) (why : LateReason)
  /-- COPY_START (R227). -/
  | copyStart (h : Nat)
  /-- COPY_GRANT (R235). -/
  | copyGrant (k : Key) (handle : Nat)
  /-- COPY_COMPLETE (R232). -/
  | copyComplete (k : Key) (handle : Nat)
  /-- COPY_FAULT (R233). -/
  | copyFault (k : Key) (handle : Nat)
  /-- COPY_ABORTED (R239). -/
  | copyAborted (k : Key) (handle : Nat)
  /-- PRODUCT_OPEN (R252). -/
  | productOpen (l : Link) (half : Nat)
  /-- FEED_ARRIVAL (R250). -/
  | feedArrival (k : Key) (handle : Nat)
  /-- PRODUCT_GRANT (R252). -/
  | productGrant (l : Link) (half : Nat)
  /-- PRODUCT_DELIVERY (R255). -/
  | productDelivery (l : Link) (half : Nat)
  /-- DELIVERY_COMPLETE (R255). -/
  | deliveryComplete (l : Link) (half : Nat)
  /-- RESIDUE_MISMATCH (R257). -/
  | residueMismatch (l : Link)
  /-- FEED_RESUME (R271). -/
  | feedResume (k : Key) (handle : Nat)
  /-- PACKET_INJECTION (R309): of the send with a handle, or, with 2^32 + q, of the oldest unsent entry of the send end at q. -/
  | packetInjection (k : Key) (handle : Nat)
  /-- MESSAGE_ARRIVAL (R287). -/
  | messageArrival (k : Key) (handle : Nat)
  /-- REPLY_HOLD_RELEASE (R291). -/
  | replyHoldRelease (k : Key)
  /-- MESSAGE_ANSWER (R288). -/
  | messageAnswer (k : Key) (handle : Nat)
  /-- ACTIVATION_START (R281). -/
  | activationStart (k : Key)
  /-- CHANNEL_ENTRY_ARRIVAL (R300). -/
  | channelEntryArrival (k : Key) (q : Nat)
  /-- CHANNEL_FLOW_SIGNAL (R301). -/
  | channelFlowSignal (k : Key) (q : Nat)
  /-- CHANNEL_ASK (R301). -/
  | channelAsk (k : Key) (q : Nat)
  /-- CHANNEL_CLOSE_MARKER (R304). -/
  | channelCloseMarker (k : Key) (q : Nat)
  /-- CHANNEL_CLOSED_NOTICE (R304). -/
  | channelClosedNotice (k : Key) (q : Nat)
  /-- DISPATCH_DECISION (R320). -/
  | dispatchDecision (leaf : Nat)
  /-- NODE_FINISH (R318). -/
  | nodeFinish (node : Nat)
  /-- STEAL_REQUEST (R324). -/
  | stealRequest (thief : Key)
  /-- STEAL_HALF_ARRIVAL (R324). -/
  | stealHalfArrival (thief : Key)
  /-- STEAL_ACK (R324). -/
  | stealAck (victim : Key)
  /-- STEAL_RETURN (R325). -/
  | stealReturn (victim : Key)
  /-- PRECMD_SAVE (R372). -/
  | precmdSave (h : Nat) (r : Requester)
  /-- PRECMD_RESTORE (R378). -/
  | precmdRestore (h : Nat) (r : Requester)
  /-- SAVE_STOP (R373). -/
  | saveStop (k : Key)
  /-- SAVE_DRAINED (R374). -/
  | saveDrained (k : Key)
  /-- RESTORE_START (R378): `k` is the key of an image, whose slot is that it was saved from, modulo 8. -/
  | restoreStart (k : Key)
  /-- MIGCMD_START (R383). -/
  | migcmdStart (leaf : Nat) (r : Requester)
  /-- MIGCMD_CANCEL (R382). -/
  | migcmdCancel (leaf : Nat) (r : Requester)
  /-- MIGRATION_CHECK (R383). -/
  | migrationCheck (leaf : Nat) (answer : MigAnswer)
  /-- MIGRATION_TRANSFER_DONE (R383). -/
  | migrationTransferDone (leaf : Nat) (ok : Bool)
  /-- DBGCMD_OPEN (R406). -/
  | dbgcmdOpen (f : Nat)
  /-- DBGCMD_CLOSE (R406). -/
  | dbgcmdClose (f : Nat)
  /-- DBGCMD_HALT (R406). -/
  | dbgcmdHalt (f : Nat)
  /-- DBGCMD_RESUME (R406). -/
  | dbgcmdResume (f : Nat)
  /-- DBGCMD_STEP (R406). -/
  | dbgcmdStep (f : Nat)
  /-- DBGXVAL_WRITE (R406). -/
  | dbgxvalWrite (f : Nat) (value : Word)
  /-- INSPECTION_WINDOW_READ (R393). -/
  | inspectionWindowRead (f : Nat)
  /-- SWCMD_ALLOCATE (R398). -/
  | swcmdAllocate (leaf : Nat) (r : Requester)
  /-- SWITCH_ALLOCATION_ANSWER (R408). -/
  | switchAllocationAnswer (leaf : Nat)
  /-- SWITCH_CONTRIBUTION (R399). -/
  | switchContribution (c : Contribution)
  /-- PEER_ACCESS (R397). -/
  | peerAccess (srcMod : Nat) (srcLeaf : Nat) (a : PeerReq)
  /-- SITE_WAKE (R404). -/
  | siteWake (h : Nat)
  /-- SITE_GATE (R404). -/
  | siteGate (h : Nat) (target : PowerState)
  /-- BOOT (R401). -/
  | boot (verified : BootCheck)
  /-- ATTESTATION_REQUEST (R403). -/
  | attestationRequest (r : Requester) (nonce : BitVec 256)
  /-- CXL_DEVICE_REMOVAL (R395). -/
  | cxlDeviceRemoval (port : Nat)
  /-- ILLEGAL_INSTRUCTION (R27). -/
  | illegalInstruction (word : BitVec 32)
  /-- FETCH_FAULT (R132). -/
  | fetchFault (f : FetchFault)
  /-- SITE_FAULT (R202). -/
  | siteFault (k : Key) (member : Nat) (f : SiteFailure)
  /-- RAS_RETIREMENT (R384). -/
  | rasRetirement (u : RasUnit)
  /-- POWER_LOSS (R402). -/
  | powerLoss
  /-- RMA_WIPE (R405). -/
  | rmaWipe
  /-- RESERVATION_AGING (R144). -/
  | reservationAging (h : Nat)
  deriving DecidableEq, Repr

end Sys2Proof
end

