-- ==== Sys2Proof/WellFormed.lean ====
section
/-! DEFINITION. Which terms of Instr stand for an instruction or a step the spec has: the reserved field values of R24,
R27 and the owning cards are ill formed, and a step's operands name places that exist. -/

namespace Sys2Proof

/-- A format tag that a tile may hold (R34). -/
abbrev tileTag (f : BitVec 4) : Prop := f = 2 ∨ f = 3 ∨ 7 ≤ f.toNat ∧ f.toNat ≤ 14

/-- The rounding field of TCVT: vctl.RM, or one of the four keywords (R170). -/
abbrev tcvtRound (r : BitVec 3) : Prop := r = 0 ∨ 4 ≤ r.toNat

/-- R24: in the vector–channel form, b names one of q0 to q7 (R23). -/
abbrev chanForm (f : BitVec 2) (b : BitVec 5) : Prop := f = 3 → b.toNat < 8

/-- Reserved payload bits of HBRH are zero (R29). -/
abbrev hbrhOk (p : BitVec 20) : Prop :=
  (p.getLsbD 19 = true → p.extractLsb' 16 3 = 0) ∧ (p.getLsbD 19 = false → p.extractLsb' 8 11 = 0)

/-- A context's place exists (R9, R95). -/
abbrev Key.ok (k : Key) : Prop := k.h < 1024 ∧ k.slot < 8

/-- The lower-left site of a link (R8); a link off the package edge is found by `linkOf`, which names none. -/
abbrev Link.ok (l : Link) : Prop := l.h < 1024

/-- The number of a partition block and how many blocks its kind has (R89). -/
def Block.index : Block → Nat
  | .leaf j => j
  | .first i => i

def Block.bound : Block → Nat
  | .leaf _ => 64
  | .first _ => 16

/-- A partition block exists (R89). -/
abbrev Block.ok (b : Block) : Prop := b.index < b.bound

/-- A requester names a leaf and a first-level span that exist (R429). -/
abbrev Requester.ok (r : Requester) : Prop := r.leaf < 64 ∧ r.fl < 16

/-- The well-formedness check: every term the decoder answers passes it. -/
def Instr.wf : Instr → Bool
  | .lui _ _ => true
  | .auipc _ _ => true
  | .jal _ _ => true
  | .jalr _ _ _ => true
  | .beq _ _ _ => true
  | .bne _ _ _ => true
  | .blt _ _ _ => true
  | .bge _ _ _ => true
  | .bltu _ _ _ => true
  | .bgeu _ _ _ => true
  | .lb _ _ _ => true
  | .lh _ _ _ => true
  | .lw _ _ _ => true
  | .ld _ _ _ => true
  | .lbu _ _ _ => true
  | .lhu _ _ _ => true
  | .lwu _ _ _ => true
  | .sb _ _ _ => true
  | .sh _ _ _ => true
  | .sw _ _ _ => true
  | .sd _ _ _ => true
  | .add _ _ _ => true
  | .sll _ _ _ => true
  | .slt _ _ _ => true
  | .sltu _ _ _ => true
  | .xor _ _ _ => true
  | .srl _ _ _ => true
  | .or _ _ _ => true
  | .and _ _ _ => true
  | .sub _ _ _ => true
  | .xnor _ _ _ => true
  | .sra _ _ _ => true
  | .orn _ _ _ => true
  | .andn _ _ _ => true
  | .mul _ _ _ => true
  | .mulh _ _ _ => true
  | .mulhsu _ _ _ => true
  | .mulhu _ _ _ => true
  | .div _ _ _ => true
  | .divu _ _ _ => true
  | .rem _ _ _ => true
  | .remu _ _ _ => true
  | .sh1add _ _ _ => true
  | .sh2add _ _ _ => true
  | .sh3add _ _ _ => true
  | .min _ _ _ => true
  | .minu _ _ _ => true
  | .max _ _ _ => true
  | .maxu _ _ _ => true
  | .rol _ _ _ => true
  | .ror _ _ _ => true
  | .addw _ _ _ => true
  | .sllw _ _ _ => true
  | .srlw _ _ _ => true
  | .subw _ _ _ => true
  | .sraw _ _ _ => true
  | .mulw _ _ _ => true
  | .divw _ _ _ => true
  | .divuw _ _ _ => true
  | .remw _ _ _ => true
  | .remuw _ _ _ => true
  | .sh1addUw _ _ _ => true
  | .sh2addUw _ _ _ => true
  | .sh3addUw _ _ _ => true
  | .addUw _ _ _ => true
  | .zextH _ _ => true
  | .rolw _ _ _ => true
  | .rorw _ _ _ => true
  | .addi _ _ _ => true
  | .slti _ _ _ => true
  | .sltiu _ _ _ => true
  | .xori _ _ _ => true
  | .ori _ _ _ => true
  | .andi _ _ _ => true
  | .slli _ _ _ => true
  | .srli _ _ _ => true
  | .srai _ _ _ => true
  | .rori _ _ _ => true
  | .clz _ _ => true
  | .ctz _ _ => true
  | .cpop _ _ => true
  | .sextB _ _ => true
  | .sextH _ _ => true
  | .rev8 _ _ => true
  | .addiw _ _ _ => true
  | .slliw _ _ _ => true
  | .srliw _ _ _ => true
  | .sraiw _ _ _ => true
  | .roriw _ _ _ => true
  | .slliUw _ _ _ => true
  | .clzw _ _ => true
  | .ctzw _ _ => true
  | .cpopw _ _ => true
  | .lr _ _ _ _ _ => true
  | .sc _ _ _ _ _ _ => true
  | .amoswap _ _ _ _ _ _ => true
  | .amoadd _ _ _ _ _ _ => true
  | .amoxor _ _ _ _ _ _ => true
  | .amoand _ _ _ _ _ _ => true
  | .amoor _ _ _ _ _ _ => true
  | .amomin _ _ _ _ _ _ => true
  | .amomax _ _ _ _ _ _ => true
  | .amominu _ _ _ _ _ _ => true
  | .amomaxu _ _ _ _ _ _ => true
  | .fence _ _ => true
  | .fenceTso => true
  | .fenceI => true
  | .ecall => true
  | .ebreak => true
  | .csrrw _ _ _ => true
  | .csrrs _ _ _ => true
  | .csrrc _ _ _ => true
  | .csrrwi _ _ _ => true
  | .csrrsi _ _ _ => true
  | .csrrci _ _ _ => true
  | .hnop _ => true
  | .hwide _ => true
  | .hscope _ _ _ => true
  | .hwait _ => true
  | .hpred _ => true
  | .hbrh p => decide (hbrhOk p)
  | .hprio _ => true
  | .hstream p => decide (p ≠ 3)
  | .htileco _ _ => true
  | .qsub _ _ _ => true
  | .qsubT _ _ _ => true
  | .trig => true
  | .lstat _ f _ => decide (f ≠ 3)
  | .tlbInv _ _ _ _ => true
  | .tlbSync => true
  | .vadd _ b _ f _ => decide (chanForm f b)
  | .vsub _ b _ f _ => decide (chanForm f b)
  | .vmul _ b _ f _ => decide (chanForm f b)
  | .vmulh _ b _ _ f _ => decide (chanForm f b)
  | .vmin _ b _ _ f _ => decide (chanForm f b)
  | .vmax _ b _ _ f _ => decide (chanForm f b)
  | .vabs _ _ _ => true
  | .vand _ b _ f _ => decide (chanForm f b)
  | .vor _ b _ f _ => decide (chanForm f b)
  | .vxor _ b _ f _ => decide (chanForm f b)
  | .vsll _ b _ f _ => decide (chanForm f b)
  | .vsrl _ b _ f _ => decide (chanForm f b)
  | .vsra _ b _ f _ => decide (chanForm f b)
  | .vcmp _ b _ f d => decide (chanForm f b ∧ d.toNat < 8)
  | .vsel _ b _ f _ => decide (chanForm f b)
  | .vsadd _ b _ _ f _ => decide (chanForm f b)
  | .vfadd _ b _ f _ => decide (chanForm f b)
  | .vfsub _ b _ f _ => decide (chanForm f b)
  | .vfmul _ b _ f _ => decide (chanForm f b)
  | .vfma _ b _ f _ => decide (chanForm f b)
  | .vfmin _ b _ f _ => decide (chanForm f b)
  | .vfmax _ b _ f _ => decide (chanForm f b)
  | .vfmaxabs _ b _ f _ => decide (chanForm f b)
  | .vfabs _ _ _ => true
  | .vfneg _ _ _ => true
  | .vfcmp _ b _ f d => decide (chanForm f b ∧ d.toNat < 8)
  | .vfclass _ _ _ => true
  | .vfrcp _ _ _ => true
  | .vfrsq _ _ _ => true
  | .vfexp2 _ _ _ => true
  | .vflog2 _ _ _ => true
  | .vfdiv _ b _ f _ => decide (chanForm f b)
  | .vcvt _ _ f _ _ _ _ => decide (f ≠ 0 ∧ f ≠ 1 ∧ f ≠ 14 ∧ f ≠ 15)
  | .vpack _ _ _ => true
  | .vunpack f _ j _ => decide (11 ≤ f.toNat ∧ f.toNat ≤ 14 ∧ ¬((f = 11 ∨ f = 12) ∧ j = 1))
  | .vdq _ _ _ _ _ => true
  | .vredsum _ _ _ _ => true
  | .vredmax _ _ _ _ => true
  | .vredmin _ _ _ _ => true
  | .vperm _ _ _ _ => true
  | .vslide _ _ _ f _ => decide (f = 1 ∨ f = 2)
  | .vbcast _ f _ _ => decide (f ≠ 0)
  | .vmvXv _ _ _ _ => true
  | .vmvVx _ _ _ => true
  | .vlut _ _ _ _ _ => true
  | .vsettag _ _ _ => true
  | .vtag _ _ => true
  | .pand _ _ _ => true
  | .por _ _ _ => true
  | .pxor _ _ _ => true
  | .pnot _ _ => true
  | .pcnt _ _ => true
  | .pfirst _ _ => true
  | .tzero f _ => decide (tileTag f)
  | .tmov _ _ => true
  | .ttrans _ _ => true
  | .tcvt f _ rl _ => decide (tileTag f ∧ f ≠ 14 ∧ tcvtRound rl)
  | .tcvtSat f _ rl _ => decide (tileTag f ∧ f ≠ 14 ∧ tcvtRound rl)
  | .tcvtNosat f _ rl _ => decide (tileTag f ∧ f ≠ 14 ∧ tcvtRound rl)
  | .tqset _ _ => true
  | .tpick _ _ _ _ => true
  | .tplace _ _ _ _ => true
  | .ttagSet f _ => decide (f = 0 ∨ tileTag f)
  | .ttagRead _ _ => true
  | .xop _ _ _ _ _ => true
  | .xcfgLoad _ _ => true
  | .xcfgDrop _ => true
  | .xcfgQuery _ _ => true
  | .compose b _ => decide (b ≠ 0)
  | .release _ => true
  | .cstat _ => true
  | .vld _ _ t _ _ => decide (t ≠ 0)
  | .vlds _ t _ _ _ => decide (t ≠ 0 ∧ t ≠ 1)
  | .vldx _ t _ _ _ => decide (t ≠ 0 ∧ t ≠ 1)
  | .tld _ _ _ => true
  | .vst _ _ _ _ => true
  | .vsts _ _ _ _ => true
  | .vstx _ _ _ _ => true
  | .tst _ _ _ => true
  | .ldS _ _ _ _ f _ => decide (f ≠ 7)
  | .stS _ _ _ _ _ => true
  | .ldAcq _ _ _ _ f _ => decide (f ≠ 7)
  | .stRel _ _ _ _ _ => true
  | .red _ _ _ z c => decide (c.toNat ≤ 10 ∧ (8 ≤ c.toNat → z = 0))
  | .amof _ _ _ _ f _ => decide (2 ≤ f.toNat ∧ f.toNat ≤ 6)
  | .laccAdd _ _ _ _ => true
  | .laccRnd _ _ _ _ => true
  | .laccClr _ _ => true
  | .pin _ _ _ => true
  | .unpin _ _ _ => true
  | .cwait w _ => decide (w ≠ 0)
  | .xcopy1d aq rl _ _ s _ => decide (aq = 1 ∨ rl = 1 ∨ s = 0)
  | .xcopy2d aq rl _ s _ => decide (aq = 1 ∨ rl = 1 ∨ s = 0)
  | .xcopyTile aq rl _ s _ => decide (aq = 1 ∨ rl = 1 ∨ s = 0)
  | .xcopyGath aq rl _ s _ => decide (aq = 1 ∨ rl = 1 ∨ s = 0)
  | .xcopyWait _ _ => true
  | .xcopyWaitT _ _ => true
  | .xcopyStat _ _ => true
  | .xcopyAbort _ _ => true
  | .lxProd _ _ => true
  | .lxFeed aq rl _ s _ => decide (aq = 1 ∨ rl = 1 ∨ s = 0)
  | .lxFeedt aq rl _ _ s _ => decide (aq = 1 ∨ rl = 1 ∨ s = 0)
  | .lxWait _ _ => true
  | .lxWaitT _ _ => true
  | .lxDwait _ _ _ => true
  | .lxDwaitT _ _ _ => true
  | .lxStat _ _ => true
  | .lxAbort _ _ => true
  | .lxEpi _ _ _ => true
  | .lxCfg _ _ _ => true
  | .msgSend _ _ _ => true
  | .msgSendT _ _ _ => true
  | .msgPut _ _ _ => true
  | .msgPutT _ _ _ => true
  | .msgReply _ _ _ => true
  | .msgPost _ _ _ => true
  | .msgUnpost _ _ => true
  | .msgPoll _ _ _ => true
  | .msgPollTake _ => true
  | .msgSpill _ _ _ => true
  | .hdone => true
  | .chOpen _ _ _ => true
  | .chClose _ => true
  | .chPush _ _ => true
  | .chPushT _ _ _ => true
  | .chPop _ _ => true
  | .chPopT _ _ _ => true
  | .chBind _ _ _ _ => true
  | .chStat _ _ => true
  | .nodeNew _ _ => true
  | .nodeLink _ _ _ => true
  | .nodeArm _ _ => true
  | .nodeDone _ _ => true
  | .rngNext _ => true
  | .enq _ _ => true
  | .enqT _ _ => true
  | .taskCancel _ _ => true
  | .taskStat _ _ => true
  | .gbar _ => true
  | .gbarT _ _ => true
  | .semP _ => true
  | .semPT _ _ => true
  | .semV _ => true
  | .monArm _ _ => true
  | .monWait _ => true
  | .monWaitT _ => true
  | .tret => true
  | .dret => true
  | .pret => true
  | .wfi => true
  | .wspSw _ _ => true
  | .bindWb => true
  | .inspect _ _ _ => true
  | .qcmdRegister q r => decide (q < 4096 ∧ r.ok)
  | .qcmdUnregister q r => decide (q < 4096 ∧ r.ok)
  | .qwidxWrite q _ r => decide (q < 4096 ∧ r.ok)
  | .qcancelWrite q _ r => decide (q < 4096 ∧ r.ok)
  | .packetFetch q => decide (q < 4096)
  | .packetDispatch _ => true
  | .kernelPlacement leaf => decide (leaf < 64)
  | .graphArm _ => true
  | .peerDoorbellWrite srcMod srcLeaf q _ => decide (srcMod < 1024 ∧ srcLeaf < 64 ∧ q < 4096)
  | .contextRetire k => decide (k.ok)
  | .kernelComplete kid => decide (kid < 2 ^ 32)
  | .pcmdCreate blk r => decide (blk.ok ∧ r.ok)
  | .pcmdDestroy blk r => decide (blk.ok ∧ r.ok)
  | .pcmdApply blk r => decide (blk.ok ∧ r.ok)
  | .spanDestroyComplete blk => decide (blk.ok)
  | .qoscmdApply leaf r => decide (leaf < 64 ∧ r.ok)
  | .pageWalkComplete k _ _ => decide (k.ok)
  | .tlbInvComplete k => decide (k.ok)
  | .l2wayWrite _ => true
  | .l2wayTransitionComplete leaf => decide (leaf < 64)
  | .wspCsrWrite _ _ => true
  | .kendWrite _ => true
  | .oplctlDrop => true
  | .cpctlRestart => true
  | .cpctlAbort => true
  | .cqctlHold slot => decide (slot < 8)
  | .cqctlRemove slot => decide (slot < 8)
  | .cqctlRebuild slot => decide (slot < 8)
  | .copyHoldComplete h => decide (h < 1024)
  | .registerWrite addr _ r => decide (addr < 2 ^ 52 ∧ r.ok)
  | .watchdogExpiry k => decide (k.ok)
  | .timerCompare _ => true
  | .frameBoundary => true
  | .ctlTokenGain h => decide (h < 1024)
  | .rendezvousTimeout l half => decide (l.ok ∧ half < 2)
  | .pauseTimeout k handle => decide (k.ok ∧ handle < 2 ^ 32)
  | .feedTimeout k handle => decide (k.ok ∧ handle < 2 ^ 32)
  | .sinkRetryTimeout l half => decide (l.ok ∧ half < 2)
  | .sendBackoffExpiry k handle => decide (k.ok ∧ handle < 2 ^ 32)
  | .messageRetryResend k handle => decide (k.ok ∧ handle < 2 ^ 32)
  | .siteWindowRetry k idx => decide (k.ok ∧ idx < 32)
  | .channelAskRetry k q => decide (k.ok ∧ q < 8)
  | .semPRetry k => decide (k.ok)
  | .prodNodeReissue node => decide (node < 2 ^ 54)
  | .switchSlotTimeout slot => decide (slot < 256)
  | .heartbeatMiss module => decide (module < 1024)
  | .trapEntry => true
  | .xirqWrite r _ => decide (r.ok)
  | .homeAccess k idx => decide (k.ok ∧ idx < 32)
  | .storeAck k idx => decide (k.ok ∧ idx < 32)
  | .lateFailure k idx _ => decide (k.ok ∧ idx < 32)
  | .copyStart h => decide (h < 1024)
  | .copyGrant k handle => decide (k.ok ∧ handle < 2 ^ 32)
  | .copyComplete k handle => decide (k.ok ∧ handle < 2 ^ 32)
  | .copyFault k handle => decide (k.ok ∧ handle < 2 ^ 32)
  | .copyAborted k handle => decide (k.ok ∧ handle < 2 ^ 32)
  | .productOpen l half => decide (l.ok ∧ half < 2)
  | .feedArrival k handle => decide (k.ok ∧ handle < 2 ^ 32)
  | .productGrant l half => decide (l.ok ∧ half < 2)
  | .productDelivery l half => decide (l.ok ∧ half < 2)
  | .deliveryComplete l half => decide (l.ok ∧ half < 2)
  | .residueMismatch l => decide (l.ok)
  | .feedResume k handle => decide (k.ok ∧ handle < 2 ^ 32)
  | .packetInjection k handle => decide (k.ok ∧ handle < 2 ^ 32 + 8)
  | .messageArrival k handle => decide (k.ok ∧ handle < 2 ^ 32)
  | .replyHoldRelease k => decide (k.ok)
  | .messageAnswer k handle => decide (k.ok ∧ handle < 2 ^ 32)
  | .activationStart k => decide (k.ok)
  | .channelEntryArrival k q => decide (k.ok ∧ q < 8)
  | .channelFlowSignal k q => decide (k.ok ∧ q < 8)
  | .channelAsk k q => decide (k.ok ∧ q < 8)
  | .channelCloseMarker k q => decide (k.ok ∧ q < 8)
  | .channelClosedNotice k q => decide (k.ok ∧ q < 8)
  | .dispatchDecision leaf => decide (leaf < 64 + 4096)
  | .nodeFinish node => decide (node < 2 ^ 61)
  | .stealRequest thief => decide (thief.ok)
  | .stealHalfArrival thief => decide (thief.ok)
  | .stealAck victim => decide (victim.ok)
  | .stealReturn victim => decide (victim.ok)
  | .precmdSave h r => decide (h < 1024 ∧ r.ok)
  | .precmdRestore h r => decide (h < 1024 ∧ r.ok)
  | .saveStop k => decide (k.ok)
  | .saveDrained k => decide (k.ok)
  | .restoreStart k => decide (k.h < 1024)
  | .migcmdStart leaf r => decide (leaf < 64 ∧ r.ok)
  | .migcmdCancel leaf r => decide (leaf < 64 ∧ r.ok)
  | .migrationCheck leaf _ => decide (leaf < 64)
  | .migrationTransferDone leaf _ => decide (leaf < 64)
  | .dbgcmdOpen f => decide (f < 81)
  | .dbgcmdClose f => decide (f < 81)
  | .dbgcmdHalt f => decide (f < 81)
  | .dbgcmdResume f => decide (f < 81)
  | .dbgcmdStep f => decide (f < 81)
  | .dbgxvalWrite f _ => decide (f < 81)
  | .inspectionWindowRead f => decide (f < 81)
  | .swcmdAllocate leaf r => decide (leaf < 64 ∧ r.ok)
  | .switchAllocationAnswer leaf => decide (leaf < 64)
  | .switchContribution _ => true
  | .peerAccess srcMod srcLeaf _ => decide (srcMod < 1024 ∧ srcLeaf < 64)
  | .siteWake h => decide (h < 1024)
  | .siteGate h _ => decide (h < 1024)
  | .boot _ => true
  | .attestationRequest r _ => decide (r.ok)
  | .cxlDeviceRemoval port => decide (port < 4)
  | .illegalInstruction _ => true
  | .fetchFault _ => true
  | .siteFault k member _ => decide (k.ok ∧ member < 8)
  | .rasRetirement _ => true
  | .powerLoss => true
  | .rmaWipe => true
  | .reservationAging h => decide (h < 1024)

end Sys2Proof
end

