-- ==== Sys2Proof/Decode.lean ====
section
/-! DEFINITION. From words to instructions and back (R22 to R30, and the encoding tables of the owning chapters).

Every format of R23 cuts a word at the same five places, so a word is read once as `Fields`; each opcode then tells its
rows apart by the fields the table fixes. `decode` is total and rejects by name. -/

noncomputable section

namespace Sys2Proof

/-- The six fields every format is made of (R23). -/
structure Fields where
  f7 : BitVec 7
  b : BitVec 5
  a : BitVec 5
  f3 : BitVec 3
  d : BitVec 5
  op : BitVec 7
  deriving DecidableEq, Repr

/-- Cut a word at the field boundaries of R23. -/
def unpack (w : IWord) : Fields :=
  ⟨w.extractLsb' 25 7, w.extractLsb' 20 5, w.extractLsb' 15 5, w.extractLsb' 12 3, w.extractLsb' 7 5, w.extractLsb' 0 7⟩

/-- Join the fields into the word (R23). -/
def pack (x : Fields) : IWord := x.f7 ++ x.b ++ x.a ++ x.f3 ++ x.d ++ x.op

/-- B format: offset bits [12:1] out of [31], [7], [30:25] and [11:8] (R23). -/
def branchOff (f7 : BitVec 7) (d : BitVec 5) : BitVec 12 :=
  f7.extractLsb' 6 1 ++ d.extractLsb' 0 1 ++ f7.extractLsb' 0 6 ++ d.extractLsb' 1 4

/-- B format: bits [31:25] of an offset. -/
def branchHi (off : BitVec 12) : BitVec 7 := off.extractLsb' 11 1 ++ off.extractLsb' 4 6

/-- B format: bits [11:7] of an offset. -/
def branchLo (off : BitVec 12) : BitVec 5 := off.extractLsb' 0 4 ++ off.extractLsb' 10 1

/-- J format: offset bits [20:1] out of [31:12], which hold imm[20], imm[10:1], imm[11], imm[19:12] (R23). -/
def jalOff (r : BitVec 20) : BitVec 20 :=
  r.extractLsb' 19 1 ++ r.extractLsb' 0 8 ++ r.extractLsb' 8 1 ++ r.extractLsb' 9 10

/-- J format: bits [31:12] of an offset. -/
def jalRaw (off : BitVec 20) : BitVec 20 :=
  off.extractLsb' 19 1 ++ off.extractLsb' 0 10 ++ off.extractLsb' 10 1 ++ off.extractLsb' 11 8

/-- Major opcode 0x03: the rows the table gives it (R26). -/
def rawLoad (x : Fields) : Option Instr :=
  if x.f3 = 0#3 then some (.lb (x.f7 ++ x.b) x.a x.d)
  else if x.f3 = 1#3 then some (.lh (x.f7 ++ x.b) x.a x.d)
  else if x.f3 = 2#3 then some (.lw (x.f7 ++ x.b) x.a x.d)
  else if x.f3 = 3#3 then some (.ld (x.f7 ++ x.b) x.a x.d)
  else if x.f3 = 4#3 then some (.lbu (x.f7 ++ x.b) x.a x.d)
  else if x.f3 = 5#3 then some (.lhu (x.f7 ++ x.b) x.a x.d)
  else if x.f3 = 6#3 then some (.lwu (x.f7 ++ x.b) x.a x.d)
  else none

/-- Major opcode 0x07: the rows the table gives it (R26). -/
def rawVld (x : Fields) : Option Instr :=
  if x.b.extractLsb' 4 1 = 0#1 ∧ x.f3 = 0#3 then some (.vld (x.f7.extractLsb' 5 2) (x.f7.extractLsb' 0 5) (x.b.extractLsb' 0 4) x.a x.d)
  else if x.f7.extractLsb' 4 1 = 0#1 ∧ x.f3 = 1#3 then some (.vlds (x.f7.extractLsb' 5 2) (x.f7.extractLsb' 0 4) x.b x.a x.d)
  else if x.f7.extractLsb' 4 1 = 0#1 ∧ x.f3 = 2#3 then some (.vldx (x.f7.extractLsb' 5 2) (x.f7.extractLsb' 0 4) x.b x.a x.d)
  else if x.f7.extractLsb' 0 5 = 0#5 ∧ x.b = 0#5 ∧ x.f3 = 3#3 ∧ x.d.extractLsb' 3 2 = 0#2 then some (.tld (x.f7.extractLsb' 5 2) x.a (x.d.extractLsb' 0 3))
  else none

/-- Major opcode 0x0B: the rows the table gives it (R26). -/
def rawChan (x : Fields) : Option Instr :=
  if x.f7 = 0#7 ∧ x.f3 = 0#3 ∧ x.d.extractLsb' 3 2 = 0#2 then some (.chOpen x.b x.a (x.d.extractLsb' 0 3))
  else if x.f7 = 1#7 ∧ x.b = 0#5 ∧ x.a.extractLsb' 3 2 = 0#2 ∧ x.f3 = 0#3 ∧ x.d = 0#5 then some (.chClose (x.a.extractLsb' 0 3))
  else if x.f7 = 2#7 ∧ x.b.extractLsb' 3 2 = 0#2 ∧ x.f3 = 0#3 ∧ x.d = 0#5 then some (.chPush (x.b.extractLsb' 0 3) x.a)
  else if x.f7 = 3#7 ∧ x.b.extractLsb' 3 2 = 0#2 ∧ x.f3 = 0#3 then some (.chPushT (x.b.extractLsb' 0 3) x.a x.d)
  else if x.f7 = 4#7 ∧ x.b = 0#5 ∧ x.a.extractLsb' 3 2 = 0#2 ∧ x.f3 = 0#3 then some (.chPop (x.a.extractLsb' 0 3) x.d)
  else if x.f7 = 5#7 ∧ x.a.extractLsb' 3 2 = 0#2 ∧ x.f3 = 0#3 then some (.chPopT x.b (x.a.extractLsb' 0 3) x.d)
  else if x.f7 = 6#7 ∧ x.f3.extractLsb' 1 2 = 0#2 then some (.chBind x.b x.a (x.f3.extractLsb' 0 1) x.d)
  else if x.f7 = 7#7 ∧ x.b = 0#5 ∧ x.a.extractLsb' 3 2 = 0#2 ∧ x.f3 = 0#3 then some (.chStat (x.a.extractLsb' 0 3) x.d)
  else none

/-- Major opcode 0x0F: the rows the table gives it (R26). -/
def rawMiscMem (x : Fields) : Option Instr :=
  if x.f7.extractLsb' 3 4 = 0#4 ∧ x.a = 0#5 ∧ x.f3 = 0#3 ∧ x.d = 0#5 then some (.fence ((x.f7.extractLsb' 0 3) ++ (x.b.extractLsb' 4 1)) (x.b.extractLsb' 0 4))
  else if x.f7 = 65#7 ∧ x.b = 19#5 ∧ x.a = 0#5 ∧ x.f3 = 0#3 ∧ x.d = 0#5 then some (.fenceTso)
  else if x.f7 = 0#7 ∧ x.b = 0#5 ∧ x.a = 0#5 ∧ x.f3 = 1#3 ∧ x.d = 0#5 then some (.fenceI)
  else none

/-- Major opcode 0x13: the rows the table gives it (R26). -/
def rawOpImm (x : Fields) : Option Instr :=
  if x.f3 = 0#3 then some (.addi (x.f7 ++ x.b) x.a x.d)
  else if x.f3 = 2#3 then some (.slti (x.f7 ++ x.b) x.a x.d)
  else if x.f3 = 3#3 then some (.sltiu (x.f7 ++ x.b) x.a x.d)
  else if x.f3 = 4#3 then some (.xori (x.f7 ++ x.b) x.a x.d)
  else if x.f3 = 6#3 then some (.ori (x.f7 ++ x.b) x.a x.d)
  else if x.f3 = 7#3 then some (.andi (x.f7 ++ x.b) x.a x.d)
  else if x.f7.extractLsb' 1 6 = 0#6 ∧ x.f3 = 1#3 then some (.slli ((x.f7.extractLsb' 0 1) ++ x.b) x.a x.d)
  else if x.f7.extractLsb' 1 6 = 0#6 ∧ x.f3 = 5#3 then some (.srli ((x.f7.extractLsb' 0 1) ++ x.b) x.a x.d)
  else if x.f7.extractLsb' 1 6 = 16#6 ∧ x.f3 = 5#3 then some (.srai ((x.f7.extractLsb' 0 1) ++ x.b) x.a x.d)
  else if x.f7.extractLsb' 1 6 = 24#6 ∧ x.f3 = 5#3 then some (.rori ((x.f7.extractLsb' 0 1) ++ x.b) x.a x.d)
  else if x.f7 = 48#7 ∧ x.b = 0#5 ∧ x.f3 = 1#3 then some (.clz x.a x.d)
  else if x.f7 = 48#7 ∧ x.b = 1#5 ∧ x.f3 = 1#3 then some (.ctz x.a x.d)
  else if x.f7 = 48#7 ∧ x.b = 2#5 ∧ x.f3 = 1#3 then some (.cpop x.a x.d)
  else if x.f7 = 48#7 ∧ x.b = 4#5 ∧ x.f3 = 1#3 then some (.sextB x.a x.d)
  else if x.f7 = 48#7 ∧ x.b = 5#5 ∧ x.f3 = 1#3 then some (.sextH x.a x.d)
  else if x.f7 = 53#7 ∧ x.b = 24#5 ∧ x.f3 = 5#3 then some (.rev8 x.a x.d)
  else none

/-- Major opcode 0x17: the rows the table gives it (R26). -/
def rawAuipc (x : Fields) : Option Instr :=
  some (.auipc (x.f7 ++ x.b ++ x.a ++ x.f3) x.d)

/-- Major opcode 0x1B: the rows the table gives it (R26). -/
def rawOpImm32 (x : Fields) : Option Instr :=
  if x.f3 = 0#3 then some (.addiw (x.f7 ++ x.b) x.a x.d)
  else if x.f7 = 0#7 ∧ x.f3 = 1#3 then some (.slliw x.b x.a x.d)
  else if x.f7 = 0#7 ∧ x.f3 = 5#3 then some (.srliw x.b x.a x.d)
  else if x.f7 = 32#7 ∧ x.f3 = 5#3 then some (.sraiw x.b x.a x.d)
  else if x.f7 = 48#7 ∧ x.f3 = 5#3 then some (.roriw x.b x.a x.d)
  else if x.f7.extractLsb' 1 6 = 2#6 ∧ x.f3 = 1#3 then some (.slliUw ((x.f7.extractLsb' 0 1) ++ x.b) x.a x.d)
  else if x.f7 = 48#7 ∧ x.b = 0#5 ∧ x.f3 = 1#3 then some (.clzw x.a x.d)
  else if x.f7 = 48#7 ∧ x.b = 1#5 ∧ x.f3 = 1#3 then some (.ctzw x.a x.d)
  else if x.f7 = 48#7 ∧ x.b = 2#5 ∧ x.f3 = 1#3 then some (.cpopw x.a x.d)
  else none

/-- Major opcode 0x1F: the rows the table gives it (R26). -/
def rawHint (x : Fields) : Option Instr :=
  if x.d = 0#5 then some (.hnop (x.f7 ++ x.b ++ x.a ++ x.f3))
  else if x.d = 1#5 then some (.hwide (x.f7 ++ x.b ++ x.a ++ x.f3))
  else if x.f7 = 0#7 ∧ x.b = 0#5 ∧ x.a.extractLsb' 2 3 = 0#3 ∧ x.d = 2#5 then some (.hscope (x.a.extractLsb' 1 1) ((x.a.extractLsb' 0 1) ++ (x.f3.extractLsb' 2 1)) (x.f3.extractLsb' 0 2))
  else if x.f7 = 0#7 ∧ x.b = 0#5 ∧ x.a = 0#5 ∧ x.f3.extractLsb' 2 1 = 0#1 ∧ x.d = 3#5 then some (.hwait (x.f3.extractLsb' 0 2))
  else if x.f7 = 0#7 ∧ x.b = 0#5 ∧ x.a = 0#5 ∧ x.d = 4#5 then some (.hpred x.f3)
  else if x.d = 5#5 then some (.hbrh (x.f7 ++ x.b ++ x.a ++ x.f3))
  else if x.f7 = 0#7 ∧ x.b = 0#5 ∧ x.a = 0#5 ∧ x.f3.extractLsb' 2 1 = 0#1 ∧ x.d = 6#5 then some (.hprio (x.f3.extractLsb' 0 2))
  else if x.f7 = 0#7 ∧ x.b = 0#5 ∧ x.a = 0#5 ∧ x.f3.extractLsb' 2 1 = 0#1 ∧ x.d = 7#5 then some (.hstream (x.f3.extractLsb' 0 2))
  else if x.d = 8#5 then some (.htileco (x.f7 ++ (x.b.extractLsb' 2 3)) ((x.b.extractLsb' 0 2) ++ x.a ++ x.f3))
  else none

/-- Major opcode 0x23: the rows the table gives it (R26). -/
def rawStore (x : Fields) : Option Instr :=
  if x.f3 = 0#3 then some (.sb x.b x.a (x.f7 ++ x.d))
  else if x.f3 = 1#3 then some (.sh x.b x.a (x.f7 ++ x.d))
  else if x.f3 = 2#3 then some (.sw x.b x.a (x.f7 ++ x.d))
  else if x.f3 = 3#3 then some (.sd x.b x.a (x.f7 ++ x.d))
  else none

/-- Major opcode 0x27: the rows the table gives it (R26). -/
def rawVst (x : Fields) : Option Instr :=
  if x.b = 0#5 ∧ x.f3 = 0#3 then some (.vst (x.f7.extractLsb' 5 2) (x.f7.extractLsb' 0 5) x.a x.d)
  else if x.f7.extractLsb' 0 5 = 0#5 ∧ x.f3 = 1#3 then some (.vsts (x.f7.extractLsb' 5 2) x.b x.a x.d)
  else if x.f7.extractLsb' 0 5 = 0#5 ∧ x.f3 = 2#3 then some (.vstx (x.f7.extractLsb' 5 2) x.b x.a x.d)
  else if x.f7.extractLsb' 0 5 = 0#5 ∧ x.b = 0#5 ∧ x.f3 = 3#3 ∧ x.d.extractLsb' 3 2 = 0#2 then some (.tst (x.f7.extractLsb' 5 2) x.a (x.d.extractLsb' 0 3))
  else none

/-- Major opcode 0x2B: the rows the table gives it (R26). -/
def rawMsg (x : Fields) : Option Instr :=
  if x.f7 = 0#7 ∧ x.f3 = 0#3 then some (.msgSend x.b x.a x.d)
  else if x.f7 = 1#7 ∧ x.f3 = 0#3 then some (.msgSendT x.b x.a x.d)
  else if x.f7 = 2#7 ∧ x.f3 = 0#3 then some (.msgPut x.b x.a x.d)
  else if x.f7 = 3#7 ∧ x.f3 = 0#3 then some (.msgPutT x.b x.a x.d)
  else if x.f7 = 4#7 ∧ x.f3 = 0#3 then some (.msgReply x.b x.a x.d)
  else if x.f7 = 5#7 ∧ x.f3 = 0#3 then some (.msgPost x.b x.a x.d)
  else if x.f7 = 6#7 ∧ x.b = 0#5 ∧ x.f3 = 0#3 then some (.msgUnpost x.a x.d)
  else if x.f7 = 7#7 ∧ x.b = 0#5 ∧ x.f3.extractLsb' 1 2 = 0#2 then some (.msgPoll x.a (x.f3.extractLsb' 0 1) x.d)
  else if x.f7 = 7#7 ∧ x.b = 0#5 ∧ x.a = 0#5 ∧ x.f3 = 2#3 then some (.msgPollTake x.d)
  else if x.f7 = 8#7 ∧ x.f3 = 0#3 then some (.msgSpill x.b x.a x.d)
  else if x.f7 = 9#7 ∧ x.b = 0#5 ∧ x.a = 0#5 ∧ x.f3 = 0#3 ∧ x.d = 0#5 then some (.hdone)
  else none

/-- Major opcode 0x2F: the rows the table gives it (R26). -/
def rawAmo (x : Fields) : Option Instr :=
  if x.f7.extractLsb' 2 5 = 2#5 ∧ x.b = 0#5 ∧ x.f3.extractLsb' 1 2 = 1#2 then some (.lr (x.f7.extractLsb' 1 1) (x.f7.extractLsb' 0 1) x.a (x.f3.extractLsb' 0 1) x.d)
  else if x.f7.extractLsb' 2 5 = 3#5 ∧ x.f3.extractLsb' 1 2 = 1#2 then some (.sc (x.f7.extractLsb' 1 1) (x.f7.extractLsb' 0 1) x.b x.a (x.f3.extractLsb' 0 1) x.d)
  else if x.f7.extractLsb' 2 5 = 1#5 ∧ x.f3.extractLsb' 1 2 = 1#2 then some (.amoswap (x.f7.extractLsb' 1 1) (x.f7.extractLsb' 0 1) x.b x.a (x.f3.extractLsb' 0 1) x.d)
  else if x.f7.extractLsb' 2 5 = 0#5 ∧ x.f3.extractLsb' 1 2 = 1#2 then some (.amoadd (x.f7.extractLsb' 1 1) (x.f7.extractLsb' 0 1) x.b x.a (x.f3.extractLsb' 0 1) x.d)
  else if x.f7.extractLsb' 2 5 = 4#5 ∧ x.f3.extractLsb' 1 2 = 1#2 then some (.amoxor (x.f7.extractLsb' 1 1) (x.f7.extractLsb' 0 1) x.b x.a (x.f3.extractLsb' 0 1) x.d)
  else if x.f7.extractLsb' 2 5 = 12#5 ∧ x.f3.extractLsb' 1 2 = 1#2 then some (.amoand (x.f7.extractLsb' 1 1) (x.f7.extractLsb' 0 1) x.b x.a (x.f3.extractLsb' 0 1) x.d)
  else if x.f7.extractLsb' 2 5 = 8#5 ∧ x.f3.extractLsb' 1 2 = 1#2 then some (.amoor (x.f7.extractLsb' 1 1) (x.f7.extractLsb' 0 1) x.b x.a (x.f3.extractLsb' 0 1) x.d)
  else if x.f7.extractLsb' 2 5 = 16#5 ∧ x.f3.extractLsb' 1 2 = 1#2 then some (.amomin (x.f7.extractLsb' 1 1) (x.f7.extractLsb' 0 1) x.b x.a (x.f3.extractLsb' 0 1) x.d)
  else if x.f7.extractLsb' 2 5 = 20#5 ∧ x.f3.extractLsb' 1 2 = 1#2 then some (.amomax (x.f7.extractLsb' 1 1) (x.f7.extractLsb' 0 1) x.b x.a (x.f3.extractLsb' 0 1) x.d)
  else if x.f7.extractLsb' 2 5 = 24#5 ∧ x.f3.extractLsb' 1 2 = 1#2 then some (.amominu (x.f7.extractLsb' 1 1) (x.f7.extractLsb' 0 1) x.b x.a (x.f3.extractLsb' 0 1) x.d)
  else if x.f7.extractLsb' 2 5 = 28#5 ∧ x.f3.extractLsb' 1 2 = 1#2 then some (.amomaxu (x.f7.extractLsb' 1 1) (x.f7.extractLsb' 0 1) x.b x.a (x.f3.extractLsb' 0 1) x.d)
  else none

/-- Major opcode 0x33: the rows the table gives it (R26). -/
def rawOp (x : Fields) : Option Instr :=
  if x.f7 = 0#7 ∧ x.f3 = 0#3 then some (.add x.b x.a x.d)
  else if x.f7 = 0#7 ∧ x.f3 = 1#3 then some (.sll x.b x.a x.d)
  else if x.f7 = 0#7 ∧ x.f3 = 2#3 then some (.slt x.b x.a x.d)
  else if x.f7 = 0#7 ∧ x.f3 = 3#3 then some (.sltu x.b x.a x.d)
  else if x.f7 = 0#7 ∧ x.f3 = 4#3 then some (.xor x.b x.a x.d)
  else if x.f7 = 0#7 ∧ x.f3 = 5#3 then some (.srl x.b x.a x.d)
  else if x.f7 = 0#7 ∧ x.f3 = 6#3 then some (.or x.b x.a x.d)
  else if x.f7 = 0#7 ∧ x.f3 = 7#3 then some (.and x.b x.a x.d)
  else if x.f7 = 32#7 ∧ x.f3 = 0#3 then some (.sub x.b x.a x.d)
  else if x.f7 = 32#7 ∧ x.f3 = 4#3 then some (.xnor x.b x.a x.d)
  else if x.f7 = 32#7 ∧ x.f3 = 5#3 then some (.sra x.b x.a x.d)
  else if x.f7 = 32#7 ∧ x.f3 = 6#3 then some (.orn x.b x.a x.d)
  else if x.f7 = 32#7 ∧ x.f3 = 7#3 then some (.andn x.b x.a x.d)
  else if x.f7 = 1#7 ∧ x.f3 = 0#3 then some (.mul x.b x.a x.d)
  else if x.f7 = 1#7 ∧ x.f3 = 1#3 then some (.mulh x.b x.a x.d)
  else if x.f7 = 1#7 ∧ x.f3 = 2#3 then some (.mulhsu x.b x.a x.d)
  else if x.f7 = 1#7 ∧ x.f3 = 3#3 then some (.mulhu x.b x.a x.d)
  else if x.f7 = 1#7 ∧ x.f3 = 4#3 then some (.div x.b x.a x.d)
  else if x.f7 = 1#7 ∧ x.f3 = 5#3 then some (.divu x.b x.a x.d)
  else if x.f7 = 1#7 ∧ x.f3 = 6#3 then some (.rem x.b x.a x.d)
  else if x.f7 = 1#7 ∧ x.f3 = 7#3 then some (.remu x.b x.a x.d)
  else if x.f7 = 16#7 ∧ x.f3 = 2#3 then some (.sh1add x.b x.a x.d)
  else if x.f7 = 16#7 ∧ x.f3 = 4#3 then some (.sh2add x.b x.a x.d)
  else if x.f7 = 16#7 ∧ x.f3 = 6#3 then some (.sh3add x.b x.a x.d)
  else if x.f7 = 5#7 ∧ x.f3 = 4#3 then some (.min x.b x.a x.d)
  else if x.f7 = 5#7 ∧ x.f3 = 5#3 then some (.minu x.b x.a x.d)
  else if x.f7 = 5#7 ∧ x.f3 = 6#3 then some (.max x.b x.a x.d)
  else if x.f7 = 5#7 ∧ x.f3 = 7#3 then some (.maxu x.b x.a x.d)
  else if x.f7 = 48#7 ∧ x.f3 = 1#3 then some (.rol x.b x.a x.d)
  else if x.f7 = 48#7 ∧ x.f3 = 5#3 then some (.ror x.b x.a x.d)
  else none

/-- Major opcode 0x37: the rows the table gives it (R26). -/
def rawLui (x : Fields) : Option Instr :=
  some (.lui (x.f7 ++ x.b ++ x.a ++ x.f3) x.d)

/-- Major opcode 0x3B: the rows the table gives it (R26). -/
def rawOp32 (x : Fields) : Option Instr :=
  if x.f7 = 0#7 ∧ x.f3 = 0#3 then some (.addw x.b x.a x.d)
  else if x.f7 = 0#7 ∧ x.f3 = 1#3 then some (.sllw x.b x.a x.d)
  else if x.f7 = 0#7 ∧ x.f3 = 5#3 then some (.srlw x.b x.a x.d)
  else if x.f7 = 32#7 ∧ x.f3 = 0#3 then some (.subw x.b x.a x.d)
  else if x.f7 = 32#7 ∧ x.f3 = 5#3 then some (.sraw x.b x.a x.d)
  else if x.f7 = 1#7 ∧ x.f3 = 0#3 then some (.mulw x.b x.a x.d)
  else if x.f7 = 1#7 ∧ x.f3 = 4#3 then some (.divw x.b x.a x.d)
  else if x.f7 = 1#7 ∧ x.f3 = 5#3 then some (.divuw x.b x.a x.d)
  else if x.f7 = 1#7 ∧ x.f3 = 6#3 then some (.remw x.b x.a x.d)
  else if x.f7 = 1#7 ∧ x.f3 = 7#3 then some (.remuw x.b x.a x.d)
  else if x.f7 = 16#7 ∧ x.f3 = 2#3 then some (.sh1addUw x.b x.a x.d)
  else if x.f7 = 16#7 ∧ x.f3 = 4#3 then some (.sh2addUw x.b x.a x.d)
  else if x.f7 = 16#7 ∧ x.f3 = 6#3 then some (.sh3addUw x.b x.a x.d)
  else if x.f7 = 4#7 ∧ x.f3 = 0#3 then some (.addUw x.b x.a x.d)
  else if x.f7 = 4#7 ∧ x.b = 0#5 ∧ x.f3 = 4#3 then some (.zextH x.a x.d)
  else if x.f7 = 48#7 ∧ x.f3 = 1#3 then some (.rolw x.b x.a x.d)
  else if x.f7 = 48#7 ∧ x.f3 = 5#3 then some (.rorw x.b x.a x.d)
  else none

/-- Major opcode 0x3F: the rows the table gives it (R26). -/
def rawTask (x : Fields) : Option Instr :=
  if x.f7 = 0#7 ∧ x.f3 = 0#3 then some (.qsub x.b x.a x.d)
  else if x.f7 = 1#7 ∧ x.f3 = 0#3 then some (.qsubT x.b x.a x.d)
  else if x.f7 = 2#7 ∧ x.b = 0#5 ∧ x.a = 0#5 ∧ x.f3 = 0#3 ∧ x.d = 0#5 then some (.trig)
  else if x.f7 = 3#7 ∧ x.b = 0#5 ∧ x.f3.extractLsb' 2 1 = 0#1 then some (.lstat x.a (x.f3.extractLsb' 0 2) x.d)
  else if x.f7 = 16#7 ∧ x.b = 0#5 ∧ x.f3 = 0#3 then some (.nodeNew x.a x.d)
  else if x.f7 = 17#7 ∧ x.f3 = 0#3 then some (.nodeLink x.b x.a x.d)
  else if x.f7 = 18#7 ∧ x.b = 0#5 ∧ x.f3 = 0#3 then some (.nodeArm x.a x.d)
  else if x.f7 = 19#7 ∧ x.b = 0#5 ∧ x.f3 = 0#3 then some (.nodeDone x.a x.d)
  else if x.f7 = 20#7 ∧ x.b = 0#5 ∧ x.a = 0#5 ∧ x.f3 = 0#3 then some (.rngNext x.d)
  else if x.f7 = 21#7 ∧ x.b = 0#5 ∧ x.f3 = 0#3 then some (.enq x.a x.d)
  else if x.f7 = 22#7 ∧ x.b = 0#5 ∧ x.f3 = 0#3 then some (.enqT x.a x.d)
  else if x.f7 = 23#7 ∧ x.b = 0#5 ∧ x.f3 = 0#3 then some (.taskCancel x.a x.d)
  else if x.f7 = 24#7 ∧ x.b = 0#5 ∧ x.f3 = 0#3 then some (.taskStat x.a x.d)
  else none

/-- Major opcode 0x43: the rows the table gives it (R26). -/
def rawVflt (x : Fields) : Option Instr :=
  if x.f7.extractLsb' 3 4 = 0#4 ∧ x.f3.extractLsb' 2 1 = 0#1 then some (.vfadd (x.f7.extractLsb' 0 3) x.b x.a (x.f3.extractLsb' 0 2) x.d)
  else if x.f7.extractLsb' 3 4 = 1#4 ∧ x.f3.extractLsb' 2 1 = 0#1 then some (.vfsub (x.f7.extractLsb' 0 3) x.b x.a (x.f3.extractLsb' 0 2) x.d)
  else if x.f7.extractLsb' 3 4 = 2#4 ∧ x.f3.extractLsb' 2 1 = 0#1 then some (.vfmul (x.f7.extractLsb' 0 3) x.b x.a (x.f3.extractLsb' 0 2) x.d)
  else if x.f7.extractLsb' 3 4 = 3#4 ∧ x.f3.extractLsb' 2 1 = 0#1 then some (.vfma (x.f7.extractLsb' 0 3) x.b x.a (x.f3.extractLsb' 0 2) x.d)
  else if x.f7.extractLsb' 3 4 = 4#4 ∧ x.f3.extractLsb' 2 1 = 0#1 then some (.vfmin (x.f7.extractLsb' 0 3) x.b x.a (x.f3.extractLsb' 0 2) x.d)
  else if x.f7.extractLsb' 3 4 = 5#4 ∧ x.f3.extractLsb' 2 1 = 0#1 then some (.vfmax (x.f7.extractLsb' 0 3) x.b x.a (x.f3.extractLsb' 0 2) x.d)
  else if x.f7.extractLsb' 3 4 = 6#4 ∧ x.f3.extractLsb' 2 1 = 0#1 then some (.vfmaxabs (x.f7.extractLsb' 0 3) x.b x.a (x.f3.extractLsb' 0 2) x.d)
  else if x.f7.extractLsb' 3 4 = 7#4 ∧ x.b = 0#5 ∧ x.f3 = 0#3 then some (.vfabs (x.f7.extractLsb' 0 3) x.a x.d)
  else if x.f7.extractLsb' 3 4 = 8#4 ∧ x.b = 0#5 ∧ x.f3 = 0#3 then some (.vfneg (x.f7.extractLsb' 0 3) x.a x.d)
  else if x.f7.extractLsb' 3 4 = 9#4 ∧ x.f3.extractLsb' 2 1 = 0#1 then some (.vfcmp (x.f7.extractLsb' 0 3) x.b x.a (x.f3.extractLsb' 0 2) x.d)
  else if x.f7.extractLsb' 3 4 = 10#4 ∧ x.b = 0#5 ∧ x.f3 = 0#3 then some (.vfclass (x.f7.extractLsb' 0 3) x.a x.d)
  else if x.f7.extractLsb' 3 4 = 11#4 ∧ x.b = 0#5 ∧ x.f3 = 0#3 then some (.vfrcp (x.f7.extractLsb' 0 3) x.a x.d)
  else if x.f7.extractLsb' 3 4 = 12#4 ∧ x.b = 0#5 ∧ x.f3 = 0#3 then some (.vfrsq (x.f7.extractLsb' 0 3) x.a x.d)
  else if x.f7.extractLsb' 3 4 = 13#4 ∧ x.b = 0#5 ∧ x.f3 = 0#3 then some (.vfexp2 (x.f7.extractLsb' 0 3) x.a x.d)
  else if x.f7.extractLsb' 3 4 = 14#4 ∧ x.b = 0#5 ∧ x.f3 = 0#3 then some (.vflog2 (x.f7.extractLsb' 0 3) x.a x.d)
  else if x.f7.extractLsb' 3 4 = 15#4 ∧ x.f3.extractLsb' 2 1 = 0#1 then some (.vfdiv (x.f7.extractLsb' 0 3) x.b x.a (x.f3.extractLsb' 0 2) x.d)
  else none

/-- Major opcode 0x47: the rows the table gives it (R26). -/
def rawLink (x : Fields) : Option Instr :=
  if x.f7 = 0#7 ∧ x.b = 0#5 ∧ x.f3 = 0#3 then some (.lxProd x.a x.d)
  else if x.f7.extractLsb' 0 1 = 0#1 ∧ x.f7.extractLsb' 3 4 = 1#4 ∧ x.b = 0#5 ∧ x.f3.extractLsb' 2 1 = 0#1 then some (.lxFeed (x.f7.extractLsb' 2 1) (x.f7.extractLsb' 1 1) x.a (x.f3.extractLsb' 0 2) x.d)
  else if x.f7.extractLsb' 0 1 = 0#1 ∧ x.f7.extractLsb' 3 4 = 2#4 ∧ x.a.extractLsb' 3 2 = 0#2 ∧ x.f3.extractLsb' 2 1 = 0#1 then some (.lxFeedt (x.f7.extractLsb' 2 1) (x.f7.extractLsb' 1 1) x.b (x.a.extractLsb' 0 3) (x.f3.extractLsb' 0 2) x.d)
  else if x.f7 = 24#7 ∧ x.b = 0#5 ∧ x.f3 = 0#3 then some (.lxWait x.a x.d)
  else if x.f7 = 32#7 ∧ x.b = 0#5 ∧ x.f3 = 0#3 then some (.lxWaitT x.a x.d)
  else if x.f7 = 40#7 ∧ x.f3 = 0#3 then some (.lxDwait x.b x.a x.d)
  else if x.f7 = 48#7 ∧ x.f3 = 0#3 then some (.lxDwaitT x.b x.a x.d)
  else if x.f7 = 56#7 ∧ x.b = 0#5 ∧ x.f3 = 0#3 then some (.lxStat x.a x.d)
  else if x.f7 = 64#7 ∧ x.b = 0#5 ∧ x.f3 = 0#3 then some (.lxAbort x.a x.d)
  else if x.f7 = 72#7 ∧ x.f3 = 0#3 then some (.lxEpi x.b x.a x.d)
  else if x.f7 = 80#7 ∧ x.f3 = 0#3 then some (.lxCfg x.b x.a x.d)
  else none

/-- Major opcode 0x4B: the rows the table gives it (R26). -/
def rawXcopy (x : Fields) : Option Instr :=
  if x.f7.extractLsb' 0 2 = 0#2 ∧ x.f7.extractLsb' 4 3 = 0#3 ∧ x.f3.extractLsb' 2 1 = 0#1 then some (.xcopy1d (x.f7.extractLsb' 3 1) (x.f7.extractLsb' 2 1) x.b x.a (x.f3.extractLsb' 0 2) x.d)
  else if x.f7.extractLsb' 0 2 = 0#2 ∧ x.f7.extractLsb' 4 3 = 1#3 ∧ x.b = 0#5 ∧ x.f3.extractLsb' 2 1 = 0#1 then some (.xcopy2d (x.f7.extractLsb' 3 1) (x.f7.extractLsb' 2 1) x.a (x.f3.extractLsb' 0 2) x.d)
  else if x.f7.extractLsb' 0 2 = 0#2 ∧ x.f7.extractLsb' 4 3 = 2#3 ∧ x.b = 0#5 ∧ x.f3.extractLsb' 2 1 = 0#1 then some (.xcopyTile (x.f7.extractLsb' 3 1) (x.f7.extractLsb' 2 1) x.a (x.f3.extractLsb' 0 2) x.d)
  else if x.f7.extractLsb' 0 2 = 0#2 ∧ x.f7.extractLsb' 4 3 = 3#3 ∧ x.b = 0#5 ∧ x.f3.extractLsb' 2 1 = 0#1 then some (.xcopyGath (x.f7.extractLsb' 3 1) (x.f7.extractLsb' 2 1) x.a (x.f3.extractLsb' 0 2) x.d)
  else if x.f7 = 64#7 ∧ x.b = 0#5 ∧ x.f3 = 0#3 then some (.xcopyWait x.a x.d)
  else if x.f7 = 80#7 ∧ x.b = 0#5 ∧ x.f3 = 0#3 then some (.xcopyWaitT x.a x.d)
  else if x.f7 = 96#7 ∧ x.b = 0#5 ∧ x.f3 = 0#3 then some (.xcopyStat x.a x.d)
  else if x.f7 = 112#7 ∧ x.b = 0#5 ∧ x.f3 = 0#3 then some (.xcopyAbort x.a x.d)
  else none

/-- Major opcode 0x4F: the rows the table gives it (R26). -/
def rawSmem (x : Fields) : Option Instr :=
  if x.f7.extractLsb' 0 3 = 0#3 then some (.ldS (x.f7.extractLsb' 5 2) (x.f7.extractLsb' 3 2) x.b x.a x.f3 x.d)
  else if x.f7.extractLsb' 0 3 = 1#3 ∧ x.f3.extractLsb' 2 1 = 0#1 ∧ x.d = 0#5 then some (.stS (x.f7.extractLsb' 5 2) (x.f7.extractLsb' 3 2) x.b x.a (x.f3.extractLsb' 0 2))
  else if x.f7.extractLsb' 0 3 = 2#3 then some (.ldAcq (x.f7.extractLsb' 5 2) (x.f7.extractLsb' 3 2) x.b x.a x.f3 x.d)
  else if x.f7.extractLsb' 0 3 = 3#3 ∧ x.f3.extractLsb' 2 1 = 0#1 ∧ x.d = 0#5 then some (.stRel (x.f7.extractLsb' 5 2) (x.f7.extractLsb' 3 2) x.b x.a (x.f3.extractLsb' 0 2))
  else if x.f7.extractLsb' 0 5 = 4#5 ∧ x.f3.extractLsb' 1 2 = 1#2 then some (.red (x.f7.extractLsb' 5 2) x.b x.a (x.f3.extractLsb' 0 1) x.d)
  else if x.f7.extractLsb' 0 3 = 5#3 then some (.amof (x.f7.extractLsb' 5 2) (x.f7.extractLsb' 3 2) x.b x.a x.f3 x.d)
  else if x.f7.extractLsb' 0 5 = 6#5 ∧ x.f3.extractLsb' 1 2 = 1#2 ∧ x.d = 0#5 then some (.laccAdd (x.f7.extractLsb' 5 2) x.b x.a (x.f3.extractLsb' 0 1))
  else if x.f7.extractLsb' 0 5 = 6#5 ∧ x.b = 0#5 ∧ x.f3.extractLsb' 1 2 = 2#2 then some (.laccRnd (x.f7.extractLsb' 5 2) x.a (x.f3.extractLsb' 0 1) x.d)
  else if x.f7.extractLsb' 0 5 = 6#5 ∧ x.b = 0#5 ∧ x.f3 = 6#3 ∧ x.d = 0#5 then some (.laccClr (x.f7.extractLsb' 5 2) x.a)
  else if x.f7.extractLsb' 0 5 = 7#5 ∧ x.b = 0#5 ∧ x.f3 = 4#3 then some (.pin (x.f7.extractLsb' 5 2) x.a x.d)
  else if x.f7.extractLsb' 0 5 = 7#5 ∧ x.b = 0#5 ∧ x.f3 = 5#3 then some (.unpin (x.f7.extractLsb' 5 2) x.a x.d)
  else if x.f7.extractLsb' 0 5 = 7#5 ∧ x.a = 0#5 ∧ x.f3 = 6#3 ∧ x.d = 0#5 then some (.cwait (x.f7.extractLsb' 5 2) x.b)
  else none

/-- Major opcode 0x53: the rows the table gives it (R26). -/
def rawVint (x : Fields) : Option Instr :=
  if x.f7.extractLsb' 3 4 = 0#4 ∧ x.f3.extractLsb' 2 1 = 0#1 then some (.vadd (x.f7.extractLsb' 0 3) x.b x.a (x.f3.extractLsb' 0 2) x.d)
  else if x.f7.extractLsb' 3 4 = 1#4 ∧ x.f3.extractLsb' 2 1 = 0#1 then some (.vsub (x.f7.extractLsb' 0 3) x.b x.a (x.f3.extractLsb' 0 2) x.d)
  else if x.f7.extractLsb' 3 4 = 2#4 ∧ x.f3.extractLsb' 2 1 = 0#1 then some (.vmul (x.f7.extractLsb' 0 3) x.b x.a (x.f3.extractLsb' 0 2) x.d)
  else if x.f7.extractLsb' 3 4 = 3#4 then some (.vmulh (x.f7.extractLsb' 0 3) x.b x.a (x.f3.extractLsb' 2 1) (x.f3.extractLsb' 0 2) x.d)
  else if x.f7.extractLsb' 3 4 = 4#4 then some (.vmin (x.f7.extractLsb' 0 3) x.b x.a (x.f3.extractLsb' 2 1) (x.f3.extractLsb' 0 2) x.d)
  else if x.f7.extractLsb' 3 4 = 5#4 then some (.vmax (x.f7.extractLsb' 0 3) x.b x.a (x.f3.extractLsb' 2 1) (x.f3.extractLsb' 0 2) x.d)
  else if x.f7.extractLsb' 3 4 = 6#4 ∧ x.b = 0#5 ∧ x.f3 = 0#3 then some (.vabs (x.f7.extractLsb' 0 3) x.a x.d)
  else if x.f7.extractLsb' 3 4 = 7#4 ∧ x.f3.extractLsb' 2 1 = 0#1 then some (.vand (x.f7.extractLsb' 0 3) x.b x.a (x.f3.extractLsb' 0 2) x.d)
  else if x.f7.extractLsb' 3 4 = 8#4 ∧ x.f3.extractLsb' 2 1 = 0#1 then some (.vor (x.f7.extractLsb' 0 3) x.b x.a (x.f3.extractLsb' 0 2) x.d)
  else if x.f7.extractLsb' 3 4 = 9#4 ∧ x.f3.extractLsb' 2 1 = 0#1 then some (.vxor (x.f7.extractLsb' 0 3) x.b x.a (x.f3.extractLsb' 0 2) x.d)
  else if x.f7.extractLsb' 3 4 = 10#4 ∧ x.f3.extractLsb' 2 1 = 0#1 then some (.vsll (x.f7.extractLsb' 0 3) x.b x.a (x.f3.extractLsb' 0 2) x.d)
  else if x.f7.extractLsb' 3 4 = 11#4 ∧ x.f3.extractLsb' 2 1 = 0#1 then some (.vsrl (x.f7.extractLsb' 0 3) x.b x.a (x.f3.extractLsb' 0 2) x.d)
  else if x.f7.extractLsb' 3 4 = 12#4 ∧ x.f3.extractLsb' 2 1 = 0#1 then some (.vsra (x.f7.extractLsb' 0 3) x.b x.a (x.f3.extractLsb' 0 2) x.d)
  else if x.f7.extractLsb' 3 4 = 13#4 ∧ x.f3.extractLsb' 2 1 = 0#1 then some (.vcmp (x.f7.extractLsb' 0 3) x.b x.a (x.f3.extractLsb' 0 2) x.d)
  else if x.f7.extractLsb' 3 4 = 14#4 ∧ x.f3.extractLsb' 2 1 = 0#1 then some (.vsel (x.f7.extractLsb' 0 3) x.b x.a (x.f3.extractLsb' 0 2) x.d)
  else if x.f7.extractLsb' 3 4 = 15#4 then some (.vsadd (x.f7.extractLsb' 0 3) x.b x.a (x.f3.extractLsb' 2 1) (x.f3.extractLsb' 0 2) x.d)
  else none

/-- Major opcode 0x57: the rows the table gives it (R26). -/
def rawVmisc (x : Fields) : Option Instr :=
  if x.f7.extractLsb' 3 4 = 0#4 then some (.vcvt (x.f7.extractLsb' 0 3) (x.b.extractLsb' 4 1) (x.b.extractLsb' 0 4) x.a (x.f3.extractLsb' 2 1) (x.f3.extractLsb' 0 2) x.d)
  else if x.f7 = 8#7 ∧ x.b = 0#5 ∧ x.f3.extractLsb' 1 2 = 0#2 then some (.vpack x.a (x.f3.extractLsb' 0 1) x.d)
  else if x.f7 = 16#7 ∧ x.b.extractLsb' 4 1 = 0#1 ∧ x.f3.extractLsb' 1 2 = 0#2 then some (.vunpack (x.b.extractLsb' 0 4) x.a (x.f3.extractLsb' 0 1) x.d)
  else if x.f7.extractLsb' 3 4 = 3#4 ∧ x.f3.extractLsb' 2 1 = 0#1 then some (.vdq (x.f7.extractLsb' 0 3) x.b x.a (x.f3.extractLsb' 0 2) x.d)
  else if x.f7.extractLsb' 3 4 = 4#4 ∧ x.b = 0#5 ∧ x.f3.extractLsb' 0 2 = 0#2 then some (.vredsum (x.f7.extractLsb' 0 3) x.a (x.f3.extractLsb' 2 1) x.d)
  else if x.f7.extractLsb' 3 4 = 5#4 ∧ x.b = 0#5 ∧ x.f3.extractLsb' 0 2 = 0#2 then some (.vredmax (x.f7.extractLsb' 0 3) x.a (x.f3.extractLsb' 2 1) x.d)
  else if x.f7.extractLsb' 3 4 = 6#4 ∧ x.b = 0#5 ∧ x.f3.extractLsb' 0 2 = 0#2 then some (.vredmin (x.f7.extractLsb' 0 3) x.a (x.f3.extractLsb' 2 1) x.d)
  else if x.f7.extractLsb' 3 4 = 7#4 ∧ x.f3 = 0#3 then some (.vperm (x.f7.extractLsb' 0 3) x.b x.a x.d)
  else if x.f7.extractLsb' 3 4 = 8#4 ∧ x.f3.extractLsb' 2 1 = 0#1 then some (.vslide (x.f7.extractLsb' 0 3) x.b x.a (x.f3.extractLsb' 0 2) x.d)
  else if x.f7.extractLsb' 3 4 = 9#4 ∧ x.b.extractLsb' 4 1 = 0#1 ∧ x.f3 = 0#3 then some (.vbcast (x.f7.extractLsb' 0 3) (x.b.extractLsb' 0 4) x.a x.d)
  else if x.f7 = 80#7 ∧ x.f3.extractLsb' 0 2 = 1#2 then some (.vmvXv x.b x.a (x.f3.extractLsb' 2 1) x.d)
  else if x.f7 = 88#7 ∧ x.f3 = 1#3 then some (.vmvVx x.b x.a x.d)
  else if x.f7.extractLsb' 3 4 = 12#4 ∧ x.f3.extractLsb' 2 1 = 0#1 then some (.vlut (x.f7.extractLsb' 0 3) x.b x.a (x.f3.extractLsb' 0 2) x.d)
  else if x.f7 = 104#7 ∧ x.b.extractLsb' 4 1 = 0#1 ∧ x.f3 = 0#3 then some (.vsettag (x.b.extractLsb' 0 4) x.a x.d)
  else if x.f7 = 112#7 ∧ x.b = 0#5 ∧ x.f3 = 0#3 then some (.vtag x.a x.d)
  else if x.f7 = 120#7 ∧ x.b.extractLsb' 3 2 = 0#2 ∧ x.a.extractLsb' 3 2 = 0#2 ∧ x.f3 = 0#3 ∧ x.d.extractLsb' 3 2 = 0#2 then some (.pand (x.b.extractLsb' 0 3) (x.a.extractLsb' 0 3) (x.d.extractLsb' 0 3))
  else if x.f7 = 121#7 ∧ x.b.extractLsb' 3 2 = 0#2 ∧ x.a.extractLsb' 3 2 = 0#2 ∧ x.f3 = 0#3 ∧ x.d.extractLsb' 3 2 = 0#2 then some (.por (x.b.extractLsb' 0 3) (x.a.extractLsb' 0 3) (x.d.extractLsb' 0 3))
  else if x.f7 = 122#7 ∧ x.b.extractLsb' 3 2 = 0#2 ∧ x.a.extractLsb' 3 2 = 0#2 ∧ x.f3 = 0#3 ∧ x.d.extractLsb' 3 2 = 0#2 then some (.pxor (x.b.extractLsb' 0 3) (x.a.extractLsb' 0 3) (x.d.extractLsb' 0 3))
  else if x.f7 = 123#7 ∧ x.b = 0#5 ∧ x.a.extractLsb' 3 2 = 0#2 ∧ x.f3 = 0#3 ∧ x.d.extractLsb' 3 2 = 0#2 then some (.pnot (x.a.extractLsb' 0 3) (x.d.extractLsb' 0 3))
  else if x.f7 = 124#7 ∧ x.b = 0#5 ∧ x.a.extractLsb' 3 2 = 0#2 ∧ x.f3 = 0#3 then some (.pcnt (x.a.extractLsb' 0 3) x.d)
  else if x.f7 = 125#7 ∧ x.b = 0#5 ∧ x.a.extractLsb' 3 2 = 0#2 ∧ x.f3 = 0#3 then some (.pfirst (x.a.extractLsb' 0 3) x.d)
  else none

/-- Major opcode 0x5B: the rows the table gives it (R26). -/
def rawBind (x : Fields) : Option Instr :=
  if x.f7 = 0#7 ∧ x.b.extractLsb' 2 3 = 0#3 ∧ x.a = 0#5 ∧ x.f3 = 0#3 then some (.compose (x.b.extractLsb' 0 2) x.d)
  else if x.f7 = 1#7 ∧ x.b = 0#5 ∧ x.a = 0#5 ∧ x.f3 = 0#3 then some (.release x.d)
  else if x.f7 = 2#7 ∧ x.b = 0#5 ∧ x.a = 0#5 ∧ x.f3 = 0#3 then some (.cstat x.d)
  else none

/-- Major opcode 0x63: the rows the table gives it (R26). -/
def rawBranch (x : Fields) : Option Instr :=
  if x.f3 = 0#3 then some (.beq x.b x.a (branchOff x.f7 x.d))
  else if x.f3 = 1#3 then some (.bne x.b x.a (branchOff x.f7 x.d))
  else if x.f3 = 4#3 then some (.blt x.b x.a (branchOff x.f7 x.d))
  else if x.f3 = 5#3 then some (.bge x.b x.a (branchOff x.f7 x.d))
  else if x.f3 = 6#3 then some (.bltu x.b x.a (branchOff x.f7 x.d))
  else if x.f3 = 7#3 then some (.bgeu x.b x.a (branchOff x.f7 x.d))
  else none

/-- Major opcode 0x67: the rows the table gives it (R26). -/
def rawJalr (x : Fields) : Option Instr :=
  if x.f3 = 0#3 then some (.jalr (x.f7 ++ x.b) x.a x.d)
  else none

/-- Major opcode 0x6B: the rows the table gives it (R26). -/
def rawSync (x : Fields) : Option Instr :=
  if x.f7 = 0#7 ∧ x.b = 0#5 ∧ x.f3 = 0#3 ∧ x.d = 0#5 then some (.gbar x.a)
  else if x.f7 = 1#7 ∧ x.b = 0#5 ∧ x.f3 = 0#3 then some (.gbarT x.a x.d)
  else if x.f7 = 2#7 ∧ x.b = 0#5 ∧ x.f3 = 0#3 ∧ x.d = 0#5 then some (.semP x.a)
  else if x.f7 = 3#7 ∧ x.b = 0#5 ∧ x.f3 = 0#3 then some (.semPT x.a x.d)
  else if x.f7 = 4#7 ∧ x.b = 0#5 ∧ x.f3 = 0#3 ∧ x.d = 0#5 then some (.semV x.a)
  else if x.f7 = 5#7 ∧ x.b = 0#5 ∧ x.f3 = 0#3 then some (.monArm x.a x.d)
  else if x.f7 = 6#7 ∧ x.b = 0#5 ∧ x.a = 0#5 ∧ x.f3 = 0#3 then some (.monWait x.d)
  else if x.f7 = 7#7 ∧ x.b = 0#5 ∧ x.a = 0#5 ∧ x.f3 = 0#3 then some (.monWaitT x.d)
  else none

/-- Major opcode 0x6F: the rows the table gives it (R26). -/
def rawJal (x : Fields) : Option Instr :=
  some (.jal (jalOff (x.f7 ++ x.b ++ x.a ++ x.f3)) x.d)

/-- Major opcode 0x73: the rows the table gives it (R26). -/
def rawSystem (x : Fields) : Option Instr :=
  if x.f7 = 0#7 ∧ x.b = 0#5 ∧ x.a = 0#5 ∧ x.f3 = 0#3 ∧ x.d = 0#5 then some (.ecall)
  else if x.f7 = 0#7 ∧ x.b = 1#5 ∧ x.a = 0#5 ∧ x.f3 = 0#3 ∧ x.d = 0#5 then some (.ebreak)
  else if x.f3 = 1#3 then some (.csrrw (x.f7 ++ x.b) x.a x.d)
  else if x.f3 = 2#3 then some (.csrrs (x.f7 ++ x.b) x.a x.d)
  else if x.f3 = 3#3 then some (.csrrc (x.f7 ++ x.b) x.a x.d)
  else if x.f3 = 5#3 then some (.csrrwi (x.f7 ++ x.b) x.a x.d)
  else if x.f3 = 6#3 then some (.csrrsi (x.f7 ++ x.b) x.a x.d)
  else if x.f3 = 7#3 then some (.csrrci (x.f7 ++ x.b) x.a x.d)
  else if x.f7 = 9#7 ∧ x.f3 = 0#3 ∧ x.d.extractLsb' 4 1 = 0#1 then some (.tlbInv x.b x.a (x.d.extractLsb' 2 2) (x.d.extractLsb' 0 2))
  else if x.f7 = 11#7 ∧ x.b = 0#5 ∧ x.a = 0#5 ∧ x.f3 = 0#3 ∧ x.d = 0#5 then some (.tlbSync)
  else if x.f7 = 8#7 ∧ x.b = 2#5 ∧ x.a = 0#5 ∧ x.f3 = 0#3 ∧ x.d = 0#5 then some (.tret)
  else if x.f7 = 16#7 ∧ x.b = 2#5 ∧ x.a = 0#5 ∧ x.f3 = 0#3 ∧ x.d = 0#5 then some (.dret)
  else if x.f7 = 24#7 ∧ x.b = 2#5 ∧ x.a = 0#5 ∧ x.f3 = 0#3 ∧ x.d = 0#5 then some (.pret)
  else if x.f7 = 8#7 ∧ x.b = 5#5 ∧ x.a = 0#5 ∧ x.f3 = 0#3 ∧ x.d = 0#5 then some (.wfi)
  else if x.f7 = 12#7 ∧ x.b = 0#5 ∧ x.f3 = 0#3 then some (.wspSw x.a x.d)
  else if x.f7 = 13#7 ∧ x.b = 0#5 ∧ x.a = 0#5 ∧ x.f3 = 0#3 ∧ x.d = 0#5 then some (.bindWb)
  else if x.f7 = 14#7 ∧ x.f3 = 0#3 then some (.inspect x.b x.a x.d)
  else none

/-- Major opcode 0x77: the rows the table gives it (R26). -/
def rawXop (x : Fields) : Option Instr :=
  if x.f7.extractLsb' 0 1 = 0#1 then some (.xop (x.f7.extractLsb' 1 6) x.b x.a x.f3 x.d)
  else if x.f7 = 1#7 ∧ x.b = 0#5 ∧ x.f3 = 0#3 then some (.xcfgLoad x.a x.d)
  else if x.f7 = 3#7 ∧ x.b = 0#5 ∧ x.f3 = 0#3 ∧ x.d = 0#5 then some (.xcfgDrop x.a)
  else if x.f7 = 5#7 ∧ x.b = 0#5 ∧ x.f3 = 0#3 then some (.xcfgQuery x.a x.d)
  else none

/-- Major opcode 0x7B: the rows the table gives it (R26). -/
def rawTile (x : Fields) : Option Instr :=
  if x.f7 = 0#7 ∧ x.b.extractLsb' 4 1 = 0#1 ∧ x.a = 0#5 ∧ x.f3 = 0#3 ∧ x.d.extractLsb' 3 2 = 0#2 then some (.tzero (x.b.extractLsb' 0 4) (x.d.extractLsb' 0 3))
  else if x.f7 = 1#7 ∧ x.b = 0#5 ∧ x.a.extractLsb' 3 2 = 0#2 ∧ x.f3 = 0#3 ∧ x.d.extractLsb' 3 2 = 0#2 then some (.tmov (x.a.extractLsb' 0 3) (x.d.extractLsb' 0 3))
  else if x.f7 = 2#7 ∧ x.b = 0#5 ∧ x.a.extractLsb' 3 2 = 0#2 ∧ x.f3 = 0#3 ∧ x.d.extractLsb' 3 2 = 0#2 then some (.ttrans (x.a.extractLsb' 0 3) (x.d.extractLsb' 0 3))
  else if x.f7 = 3#7 ∧ x.b.extractLsb' 4 1 = 0#1 ∧ x.a.extractLsb' 3 2 = 0#2 ∧ x.d.extractLsb' 3 2 = 0#2 then some (.tcvt (x.b.extractLsb' 0 4) (x.a.extractLsb' 0 3) x.f3 (x.d.extractLsb' 0 3))
  else if x.f7 = 8#7 ∧ x.b.extractLsb' 4 1 = 0#1 ∧ x.a.extractLsb' 3 2 = 0#2 ∧ x.d.extractLsb' 3 2 = 0#2 then some (.tcvtSat (x.b.extractLsb' 0 4) (x.a.extractLsb' 0 3) x.f3 (x.d.extractLsb' 0 3))
  else if x.f7 = 9#7 ∧ x.b.extractLsb' 4 1 = 0#1 ∧ x.a.extractLsb' 3 2 = 0#2 ∧ x.d.extractLsb' 3 2 = 0#2 then some (.tcvtNosat (x.b.extractLsb' 0 4) (x.a.extractLsb' 0 3) x.f3 (x.d.extractLsb' 0 3))
  else if x.f7 = 4#7 ∧ x.b = 0#5 ∧ x.a.extractLsb' 3 2 = 0#2 ∧ x.f3 = 0#3 ∧ x.d.extractLsb' 3 2 = 0#2 then some (.tqset (x.a.extractLsb' 0 3) (x.d.extractLsb' 0 3))
  else if x.f7 = 5#7 ∧ x.a.extractLsb' 3 2 = 0#2 ∧ x.f3.extractLsb' 1 2 = 0#2 then some (.tpick x.b (x.a.extractLsb' 0 3) (x.f3.extractLsb' 0 1) x.d)
  else if x.f7 = 6#7 ∧ x.f3.extractLsb' 1 2 = 0#2 ∧ x.d.extractLsb' 3 2 = 0#2 then some (.tplace x.b x.a (x.f3.extractLsb' 0 1) (x.d.extractLsb' 0 3))
  else if x.f7 = 7#7 ∧ x.b.extractLsb' 4 1 = 0#1 ∧ x.a = 0#5 ∧ x.f3 = 0#3 ∧ x.d.extractLsb' 3 2 = 0#2 then some (.ttagSet (x.b.extractLsb' 0 4) (x.d.extractLsb' 0 3))
  else if x.f7 = 7#7 ∧ x.b = 0#5 ∧ x.a.extractLsb' 3 2 = 0#2 ∧ x.f3 = 1#3 then some (.ttagRead (x.a.extractLsb' 0 3) x.d)
  else none

/-- The row a word's fields belong to, by its major opcode; `none` where no row claims them. -/
def rawDecode (x : Fields) : Option Instr :=
  match x.op.toNat with
  | 0x03 => rawLoad x
  | 0x07 => rawVld x
  | 0x0B => rawChan x
  | 0x0F => rawMiscMem x
  | 0x13 => rawOpImm x
  | 0x17 => rawAuipc x
  | 0x1B => rawOpImm32 x
  | 0x1F => rawHint x
  | 0x23 => rawStore x
  | 0x27 => rawVst x
  | 0x2B => rawMsg x
  | 0x2F => rawAmo x
  | 0x33 => rawOp x
  | 0x37 => rawLui x
  | 0x3B => rawOp32 x
  | 0x3F => rawTask x
  | 0x43 => rawVflt x
  | 0x47 => rawLink x
  | 0x4B => rawXcopy x
  | 0x4F => rawSmem x
  | 0x53 => rawVint x
  | 0x57 => rawVmisc x
  | 0x5B => rawBind x
  | 0x63 => rawBranch x
  | 0x67 => rawJalr x
  | 0x6B => rawSync x
  | 0x6F => rawJal x
  | 0x73 => rawSystem x
  | 0x77 => rawXop x
  | 0x7B => rawTile x
  | _ => none

/-- Why a word is an illegal instruction (R27). -/
inductive DecodeError where
  /-- Bits [1:0] are not 0b11 (R22). -/
  | lowBits
  /-- Major opcode 0x5F or 0x7F (R26). -/
  | reservedOpcode
  /-- The function fields hold a value no card assigns, or a fixed field is nonzero. -/
  | unassigned
  /-- A field holds a value the card of this instruction reserves. -/
  | reservedValue (i : Instr)
  deriving DecidableEq, Repr

/-- The instruction a word stands for, or why it is illegal (R27). -/
def decode (w : IWord) : Except DecodeError Instr :=
  if w.extractLsb' 0 2 ≠ 3#2 then .error .lowBits
  else if w.extractLsb' 0 7 = 0x5F#7 ∨ w.extractLsb' 0 7 = 0x7F#7 then .error .reservedOpcode
  else
    match rawDecode (unpack w) with
    | none => .error .unassigned
    | some i => if i.wf then .ok i else .error (.reservedValue i)

/-- A little-endian word from its four bytes, the lowest address first (R3, R22). -/
def wordOfBytes (b0 b1 b2 b3 : Byte) : IWord := b3 ++ b2 ++ b1 ++ b0

/-- Decode the four bytes at the head of a list and answer the rest with the instruction. -/
def decodeBytes : List Byte → Option (Except DecodeError Instr × List Byte)
  | b0 :: b1 :: b2 :: b3 :: rest => some (decode (wordOfBytes b0 b1 b2 b3), rest)
  | _ => none

/-- The instruction the decoder reads from the word whose bits are `w`, numbered as the opcode table numbers them. -/
def decodeTableWord (_nbits w : Nat) : Option Instr :=
  let v := BitVec.ofNat 32 w
  match decodeBytes [v.extractLsb' 0 8, v.extractLsb' 8 8, v.extractLsb' 16 8, v.extractLsb' 24 8] with
  | some (.ok i, _) => some i
  | _ => none

/-- The fields of an instruction's word; `none` for a step, which has no word. -/
def encodeFields : Instr → Option Fields
  | .lui imm d => some ⟨imm.extractLsb' 13 7, imm.extractLsb' 8 5, imm.extractLsb' 3 5, imm.extractLsb' 0 3, d, 55#7⟩
  | .auipc imm d => some ⟨imm.extractLsb' 13 7, imm.extractLsb' 8 5, imm.extractLsb' 3 5, imm.extractLsb' 0 3, d, 23#7⟩
  | .jal imm d => some ⟨(jalRaw imm).extractLsb' 13 7, (jalRaw imm).extractLsb' 8 5, (jalRaw imm).extractLsb' 3 5, (jalRaw imm).extractLsb' 0 3, d, 111#7⟩
  | .jalr imm a d => some ⟨imm.extractLsb' 5 7, imm.extractLsb' 0 5, a, 0#3, d, 103#7⟩
  | .beq b a off => some ⟨branchHi off, b, a, 0#3, branchLo off, 99#7⟩
  | .bne b a off => some ⟨branchHi off, b, a, 1#3, branchLo off, 99#7⟩
  | .blt b a off => some ⟨branchHi off, b, a, 4#3, branchLo off, 99#7⟩
  | .bge b a off => some ⟨branchHi off, b, a, 5#3, branchLo off, 99#7⟩
  | .bltu b a off => some ⟨branchHi off, b, a, 6#3, branchLo off, 99#7⟩
  | .bgeu b a off => some ⟨branchHi off, b, a, 7#3, branchLo off, 99#7⟩
  | .lb imm a d => some ⟨imm.extractLsb' 5 7, imm.extractLsb' 0 5, a, 0#3, d, 3#7⟩
  | .lh imm a d => some ⟨imm.extractLsb' 5 7, imm.extractLsb' 0 5, a, 1#3, d, 3#7⟩
  | .lw imm a d => some ⟨imm.extractLsb' 5 7, imm.extractLsb' 0 5, a, 2#3, d, 3#7⟩
  | .ld imm a d => some ⟨imm.extractLsb' 5 7, imm.extractLsb' 0 5, a, 3#3, d, 3#7⟩
  | .lbu imm a d => some ⟨imm.extractLsb' 5 7, imm.extractLsb' 0 5, a, 4#3, d, 3#7⟩
  | .lhu imm a d => some ⟨imm.extractLsb' 5 7, imm.extractLsb' 0 5, a, 5#3, d, 3#7⟩
  | .lwu imm a d => some ⟨imm.extractLsb' 5 7, imm.extractLsb' 0 5, a, 6#3, d, 3#7⟩
  | .sb b a imm => some ⟨imm.extractLsb' 5 7, b, a, 0#3, imm.extractLsb' 0 5, 35#7⟩
  | .sh b a imm => some ⟨imm.extractLsb' 5 7, b, a, 1#3, imm.extractLsb' 0 5, 35#7⟩
  | .sw b a imm => some ⟨imm.extractLsb' 5 7, b, a, 2#3, imm.extractLsb' 0 5, 35#7⟩
  | .sd b a imm => some ⟨imm.extractLsb' 5 7, b, a, 3#3, imm.extractLsb' 0 5, 35#7⟩
  | .add b a d => some ⟨0#7, b, a, 0#3, d, 51#7⟩
  | .sll b a d => some ⟨0#7, b, a, 1#3, d, 51#7⟩
  | .slt b a d => some ⟨0#7, b, a, 2#3, d, 51#7⟩
  | .sltu b a d => some ⟨0#7, b, a, 3#3, d, 51#7⟩
  | .xor b a d => some ⟨0#7, b, a, 4#3, d, 51#7⟩
  | .srl b a d => some ⟨0#7, b, a, 5#3, d, 51#7⟩
  | .or b a d => some ⟨0#7, b, a, 6#3, d, 51#7⟩
  | .and b a d => some ⟨0#7, b, a, 7#3, d, 51#7⟩
  | .sub b a d => some ⟨32#7, b, a, 0#3, d, 51#7⟩
  | .xnor b a d => some ⟨32#7, b, a, 4#3, d, 51#7⟩
  | .sra b a d => some ⟨32#7, b, a, 5#3, d, 51#7⟩
  | .orn b a d => some ⟨32#7, b, a, 6#3, d, 51#7⟩
  | .andn b a d => some ⟨32#7, b, a, 7#3, d, 51#7⟩
  | .mul b a d => some ⟨1#7, b, a, 0#3, d, 51#7⟩
  | .mulh b a d => some ⟨1#7, b, a, 1#3, d, 51#7⟩
  | .mulhsu b a d => some ⟨1#7, b, a, 2#3, d, 51#7⟩
  | .mulhu b a d => some ⟨1#7, b, a, 3#3, d, 51#7⟩
  | .div b a d => some ⟨1#7, b, a, 4#3, d, 51#7⟩
  | .divu b a d => some ⟨1#7, b, a, 5#3, d, 51#7⟩
  | .rem b a d => some ⟨1#7, b, a, 6#3, d, 51#7⟩
  | .remu b a d => some ⟨1#7, b, a, 7#3, d, 51#7⟩
  | .sh1add b a d => some ⟨16#7, b, a, 2#3, d, 51#7⟩
  | .sh2add b a d => some ⟨16#7, b, a, 4#3, d, 51#7⟩
  | .sh3add b a d => some ⟨16#7, b, a, 6#3, d, 51#7⟩
  | .min b a d => some ⟨5#7, b, a, 4#3, d, 51#7⟩
  | .minu b a d => some ⟨5#7, b, a, 5#3, d, 51#7⟩
  | .max b a d => some ⟨5#7, b, a, 6#3, d, 51#7⟩
  | .maxu b a d => some ⟨5#7, b, a, 7#3, d, 51#7⟩
  | .rol b a d => some ⟨48#7, b, a, 1#3, d, 51#7⟩
  | .ror b a d => some ⟨48#7, b, a, 5#3, d, 51#7⟩
  | .addw b a d => some ⟨0#7, b, a, 0#3, d, 59#7⟩
  | .sllw b a d => some ⟨0#7, b, a, 1#3, d, 59#7⟩
  | .srlw b a d => some ⟨0#7, b, a, 5#3, d, 59#7⟩
  | .subw b a d => some ⟨32#7, b, a, 0#3, d, 59#7⟩
  | .sraw b a d => some ⟨32#7, b, a, 5#3, d, 59#7⟩
  | .mulw b a d => some ⟨1#7, b, a, 0#3, d, 59#7⟩
  | .divw b a d => some ⟨1#7, b, a, 4#3, d, 59#7⟩
  | .divuw b a d => some ⟨1#7, b, a, 5#3, d, 59#7⟩
  | .remw b a d => some ⟨1#7, b, a, 6#3, d, 59#7⟩
  | .remuw b a d => some ⟨1#7, b, a, 7#3, d, 59#7⟩
  | .sh1addUw b a d => some ⟨16#7, b, a, 2#3, d, 59#7⟩
  | .sh2addUw b a d => some ⟨16#7, b, a, 4#3, d, 59#7⟩
  | .sh3addUw b a d => some ⟨16#7, b, a, 6#3, d, 59#7⟩
  | .addUw b a d => some ⟨4#7, b, a, 0#3, d, 59#7⟩
  | .zextH a d => some ⟨4#7, 0#5, a, 4#3, d, 59#7⟩
  | .rolw b a d => some ⟨48#7, b, a, 1#3, d, 59#7⟩
  | .rorw b a d => some ⟨48#7, b, a, 5#3, d, 59#7⟩
  | .addi imm a d => some ⟨imm.extractLsb' 5 7, imm.extractLsb' 0 5, a, 0#3, d, 19#7⟩
  | .slti imm a d => some ⟨imm.extractLsb' 5 7, imm.extractLsb' 0 5, a, 2#3, d, 19#7⟩
  | .sltiu imm a d => some ⟨imm.extractLsb' 5 7, imm.extractLsb' 0 5, a, 3#3, d, 19#7⟩
  | .xori imm a d => some ⟨imm.extractLsb' 5 7, imm.extractLsb' 0 5, a, 4#3, d, 19#7⟩
  | .ori imm a d => some ⟨imm.extractLsb' 5 7, imm.extractLsb' 0 5, a, 6#3, d, 19#7⟩
  | .andi imm a d => some ⟨imm.extractLsb' 5 7, imm.extractLsb' 0 5, a, 7#3, d, 19#7⟩
  | .slli sh a d => some ⟨0#6 ++ (sh.extractLsb' 5 1), sh.extractLsb' 0 5, a, 1#3, d, 19#7⟩
  | .srli sh a d => some ⟨0#6 ++ (sh.extractLsb' 5 1), sh.extractLsb' 0 5, a, 5#3, d, 19#7⟩
  | .srai sh a d => some ⟨16#6 ++ (sh.extractLsb' 5 1), sh.extractLsb' 0 5, a, 5#3, d, 19#7⟩
  | .rori sh a d => some ⟨24#6 ++ (sh.extractLsb' 5 1), sh.extractLsb' 0 5, a, 5#3, d, 19#7⟩
  | .clz a d => some ⟨48#7, 0#5, a, 1#3, d, 19#7⟩
  | .ctz a d => some ⟨48#7, 1#5, a, 1#3, d, 19#7⟩
  | .cpop a d => some ⟨48#7, 2#5, a, 1#3, d, 19#7⟩
  | .sextB a d => some ⟨48#7, 4#5, a, 1#3, d, 19#7⟩
  | .sextH a d => some ⟨48#7, 5#5, a, 1#3, d, 19#7⟩
  | .rev8 a d => some ⟨53#7, 24#5, a, 5#3, d, 19#7⟩
  | .addiw imm a d => some ⟨imm.extractLsb' 5 7, imm.extractLsb' 0 5, a, 0#3, d, 27#7⟩
  | .slliw sh a d => some ⟨0#7, sh, a, 1#3, d, 27#7⟩
  | .srliw sh a d => some ⟨0#7, sh, a, 5#3, d, 27#7⟩
  | .sraiw sh a d => some ⟨32#7, sh, a, 5#3, d, 27#7⟩
  | .roriw sh a d => some ⟨48#7, sh, a, 5#3, d, 27#7⟩
  | .slliUw sh a d => some ⟨2#6 ++ (sh.extractLsb' 5 1), sh.extractLsb' 0 5, a, 1#3, d, 27#7⟩
  | .clzw a d => some ⟨48#7, 0#5, a, 1#3, d, 27#7⟩
  | .ctzw a d => some ⟨48#7, 1#5, a, 1#3, d, 27#7⟩
  | .cpopw a d => some ⟨48#7, 2#5, a, 1#3, d, 27#7⟩
  | .lr aq rl a w d => some ⟨2#5 ++ aq ++ rl, 0#5, a, 1#2 ++ w, d, 47#7⟩
  | .sc aq rl b a w d => some ⟨3#5 ++ aq ++ rl, b, a, 1#2 ++ w, d, 47#7⟩
  | .amoswap aq rl b a w d => some ⟨1#5 ++ aq ++ rl, b, a, 1#2 ++ w, d, 47#7⟩
  | .amoadd aq rl b a w d => some ⟨0#5 ++ aq ++ rl, b, a, 1#2 ++ w, d, 47#7⟩
  | .amoxor aq rl b a w d => some ⟨4#5 ++ aq ++ rl, b, a, 1#2 ++ w, d, 47#7⟩
  | .amoand aq rl b a w d => some ⟨12#5 ++ aq ++ rl, b, a, 1#2 ++ w, d, 47#7⟩
  | .amoor aq rl b a w d => some ⟨8#5 ++ aq ++ rl, b, a, 1#2 ++ w, d, 47#7⟩
  | .amomin aq rl b a w d => some ⟨16#5 ++ aq ++ rl, b, a, 1#2 ++ w, d, 47#7⟩
  | .amomax aq rl b a w d => some ⟨20#5 ++ aq ++ rl, b, a, 1#2 ++ w, d, 47#7⟩
  | .amominu aq rl b a w d => some ⟨24#5 ++ aq ++ rl, b, a, 1#2 ++ w, d, 47#7⟩
  | .amomaxu aq rl b a w d => some ⟨28#5 ++ aq ++ rl, b, a, 1#2 ++ w, d, 47#7⟩
  | .fence p c => some ⟨0#4 ++ (p.extractLsb' 1 3), (p.extractLsb' 0 1) ++ c, 0#5, 0#3, 0#5, 15#7⟩
  | .fenceTso => some ⟨65#7, 19#5, 0#5, 0#3, 0#5, 15#7⟩
  | .fenceI => some ⟨0#7, 0#5, 0#5, 1#3, 0#5, 15#7⟩
  | .ecall => some ⟨0#7, 0#5, 0#5, 0#3, 0#5, 115#7⟩
  | .ebreak => some ⟨0#7, 1#5, 0#5, 0#3, 0#5, 115#7⟩
  | .csrrw c a d => some ⟨c.extractLsb' 5 7, c.extractLsb' 0 5, a, 1#3, d, 115#7⟩
  | .csrrs c a d => some ⟨c.extractLsb' 5 7, c.extractLsb' 0 5, a, 2#3, d, 115#7⟩
  | .csrrc c a d => some ⟨c.extractLsb' 5 7, c.extractLsb' 0 5, a, 3#3, d, 115#7⟩
  | .csrrwi c u d => some ⟨c.extractLsb' 5 7, c.extractLsb' 0 5, u, 5#3, d, 115#7⟩
  | .csrrsi c u d => some ⟨c.extractLsb' 5 7, c.extractLsb' 0 5, u, 6#3, d, 115#7⟩
  | .csrrci c u d => some ⟨c.extractLsb' 5 7, c.extractLsb' 0 5, u, 7#3, d, 115#7⟩
  | .hnop p => some ⟨p.extractLsb' 13 7, p.extractLsb' 8 5, p.extractLsb' 3 5, p.extractLsb' 0 3, 0#5, 31#7⟩
  | .hwide p => some ⟨p.extractLsb' 13 7, p.extractLsb' 8 5, p.extractLsb' 3 5, p.extractLsb' 0 3, 1#5, 31#7⟩
  | .hscope t c o => some ⟨0#7, 0#5, 0#3 ++ t ++ (c.extractLsb' 1 1), (c.extractLsb' 0 1) ++ o, 2#5, 31#7⟩
  | .hwait w => some ⟨0#7, 0#5, 0#5, 0#1 ++ w, 3#5, 31#7⟩
  | .hpred p => some ⟨0#7, 0#5, 0#5, p, 4#5, 31#7⟩
  | .hbrh p => some ⟨p.extractLsb' 13 7, p.extractLsb' 8 5, p.extractLsb' 3 5, p.extractLsb' 0 3, 5#5, 31#7⟩
  | .hprio p => some ⟨0#7, 0#5, 0#5, 0#1 ++ p, 6#5, 31#7⟩
  | .hstream p => some ⟨0#7, 0#5, 0#5, 0#1 ++ p, 7#5, 31#7⟩
  | .htileco rl c => some ⟨rl.extractLsb' 3 7, (rl.extractLsb' 0 3) ++ (c.extractLsb' 8 2), c.extractLsb' 3 5, c.extractLsb' 0 3, 8#5, 31#7⟩
  | .qsub b a d => some ⟨0#7, b, a, 0#3, d, 63#7⟩
  | .qsubT b a d => some ⟨1#7, b, a, 0#3, d, 63#7⟩
  | .trig => some ⟨2#7, 0#5, 0#5, 0#3, 0#5, 63#7⟩
  | .lstat a f d => some ⟨3#7, 0#5, a, 0#1 ++ f, d, 63#7⟩
  | .tlbInv b a rl s => some ⟨9#7, b, a, 0#3, 0#1 ++ rl ++ s, 115#7⟩
  | .tlbSync => some ⟨11#7, 0#5, 0#5, 0#3, 0#5, 115#7⟩
  | .vadd pg b a f d => some ⟨0#4 ++ pg, b, a, 0#1 ++ f, d, 83#7⟩
  | .vsub pg b a f d => some ⟨1#4 ++ pg, b, a, 0#1 ++ f, d, 83#7⟩
  | .vmul pg b a f d => some ⟨2#4 ++ pg, b, a, 0#1 ++ f, d, 83#7⟩
  | .vmulh pg b a s f d => some ⟨3#4 ++ pg, b, a, s ++ f, d, 83#7⟩
  | .vmin pg b a s f d => some ⟨4#4 ++ pg, b, a, s ++ f, d, 83#7⟩
  | .vmax pg b a s f d => some ⟨5#4 ++ pg, b, a, s ++ f, d, 83#7⟩
  | .vabs pg a d => some ⟨6#4 ++ pg, 0#5, a, 0#3, d, 83#7⟩
  | .vand pg b a f d => some ⟨7#4 ++ pg, b, a, 0#1 ++ f, d, 83#7⟩
  | .vor pg b a f d => some ⟨8#4 ++ pg, b, a, 0#1 ++ f, d, 83#7⟩
  | .vxor pg b a f d => some ⟨9#4 ++ pg, b, a, 0#1 ++ f, d, 83#7⟩
  | .vsll pg b a f d => some ⟨10#4 ++ pg, b, a, 0#1 ++ f, d, 83#7⟩
  | .vsrl pg b a f d => some ⟨11#4 ++ pg, b, a, 0#1 ++ f, d, 83#7⟩
  | .vsra pg b a f d => some ⟨12#4 ++ pg, b, a, 0#1 ++ f, d, 83#7⟩
  | .vcmp c b a f d => some ⟨13#4 ++ c, b, a, 0#1 ++ f, d, 83#7⟩
  | .vsel c b a f d => some ⟨14#4 ++ c, b, a, 0#1 ++ f, d, 83#7⟩
  | .vsadd pg b a s f d => some ⟨15#4 ++ pg, b, a, s ++ f, d, 83#7⟩
  | .vfadd pg b a f d => some ⟨0#4 ++ pg, b, a, 0#1 ++ f, d, 67#7⟩
  | .vfsub pg b a f d => some ⟨1#4 ++ pg, b, a, 0#1 ++ f, d, 67#7⟩
  | .vfmul pg b a f d => some ⟨2#4 ++ pg, b, a, 0#1 ++ f, d, 67#7⟩
  | .vfma pg b a f d => some ⟨3#4 ++ pg, b, a, 0#1 ++ f, d, 67#7⟩
  | .vfmin pg b a f d => some ⟨4#4 ++ pg, b, a, 0#1 ++ f, d, 67#7⟩
  | .vfmax pg b a f d => some ⟨5#4 ++ pg, b, a, 0#1 ++ f, d, 67#7⟩
  | .vfmaxabs pg b a f d => some ⟨6#4 ++ pg, b, a, 0#1 ++ f, d, 67#7⟩
  | .vfabs pg a d => some ⟨7#4 ++ pg, 0#5, a, 0#3, d, 67#7⟩
  | .vfneg pg a d => some ⟨8#4 ++ pg, 0#5, a, 0#3, d, 67#7⟩
  | .vfcmp c b a f d => some ⟨9#4 ++ c, b, a, 0#1 ++ f, d, 67#7⟩
  | .vfclass pg a d => some ⟨10#4 ++ pg, 0#5, a, 0#3, d, 67#7⟩
  | .vfrcp pg a d => some ⟨11#4 ++ pg, 0#5, a, 0#3, d, 67#7⟩
  | .vfrsq pg a d => some ⟨12#4 ++ pg, 0#5, a, 0#3, d, 67#7⟩
  | .vfexp2 pg a d => some ⟨13#4 ++ pg, 0#5, a, 0#3, d, 67#7⟩
  | .vflog2 pg a d => some ⟨14#4 ++ pg, 0#5, a, 0#3, d, 67#7⟩
  | .vfdiv pg b a f d => some ⟨15#4 ++ pg, b, a, 0#1 ++ f, d, 67#7⟩
  | .vcvt pg t f a u j d => some ⟨0#4 ++ pg, t ++ f, a, u ++ j, d, 87#7⟩
  | .vpack a j d => some ⟨8#7, 0#5, a, 0#2 ++ j, d, 87#7⟩
  | .vunpack f a j d => some ⟨16#7, 0#1 ++ f, a, 0#2 ++ j, d, 87#7⟩
  | .vdq pg b a j d => some ⟨3#4 ++ pg, b, a, 0#1 ++ j, d, 87#7⟩
  | .vredsum pg a s d => some ⟨4#4 ++ pg, 0#5, a, s ++ 0#2, d, 87#7⟩
  | .vredmax pg a s d => some ⟨5#4 ++ pg, 0#5, a, s ++ 0#2, d, 87#7⟩
  | .vredmin pg a s d => some ⟨6#4 ++ pg, 0#5, a, s ++ 0#2, d, 87#7⟩
  | .vperm pg b a d => some ⟨7#4 ++ pg, b, a, 0#3, d, 87#7⟩
  | .vslide pg b a f d => some ⟨8#4 ++ pg, b, a, 0#1 ++ f, d, 87#7⟩
  | .vbcast pg f a d => some ⟨9#4 ++ pg, 0#1 ++ f, a, 0#3, d, 87#7⟩
  | .vmvXv b a u d => some ⟨80#7, b, a, u ++ 1#2, d, 87#7⟩
  | .vmvVx b a d => some ⟨88#7, b, a, 1#3, d, 87#7⟩
  | .vlut pg b a j d => some ⟨12#4 ++ pg, b, a, 0#1 ++ j, d, 87#7⟩
  | .vsettag f a d => some ⟨104#7, 0#1 ++ f, a, 0#3, d, 87#7⟩
  | .vtag a d => some ⟨112#7, 0#5, a, 0#3, d, 87#7⟩
  | .pand b a d => some ⟨120#7, 0#2 ++ b, 0#2 ++ a, 0#3, 0#2 ++ d, 87#7⟩
  | .por b a d => some ⟨121#7, 0#2 ++ b, 0#2 ++ a, 0#3, 0#2 ++ d, 87#7⟩
  | .pxor b a d => some ⟨122#7, 0#2 ++ b, 0#2 ++ a, 0#3, 0#2 ++ d, 87#7⟩
  | .pnot a d => some ⟨123#7, 0#5, 0#2 ++ a, 0#3, 0#2 ++ d, 87#7⟩
  | .pcnt a d => some ⟨124#7, 0#5, 0#2 ++ a, 0#3, d, 87#7⟩
  | .pfirst a d => some ⟨125#7, 0#5, 0#2 ++ a, 0#3, d, 87#7⟩
  | .tzero f d => some ⟨0#7, 0#1 ++ f, 0#5, 0#3, 0#2 ++ d, 123#7⟩
  | .tmov a d => some ⟨1#7, 0#5, 0#2 ++ a, 0#3, 0#2 ++ d, 123#7⟩
  | .ttrans a d => some ⟨2#7, 0#5, 0#2 ++ a, 0#3, 0#2 ++ d, 123#7⟩
  | .tcvt f a rl d => some ⟨3#7, 0#1 ++ f, 0#2 ++ a, rl, 0#2 ++ d, 123#7⟩
  | .tcvtSat f a rl d => some ⟨8#7, 0#1 ++ f, 0#2 ++ a, rl, 0#2 ++ d, 123#7⟩
  | .tcvtNosat f a rl d => some ⟨9#7, 0#1 ++ f, 0#2 ++ a, rl, 0#2 ++ d, 123#7⟩
  | .tqset a d => some ⟨4#7, 0#5, 0#2 ++ a, 0#3, 0#2 ++ d, 123#7⟩
  | .tpick b a c d => some ⟨5#7, b, 0#2 ++ a, 0#2 ++ c, d, 123#7⟩
  | .tplace b a c d => some ⟨6#7, b, a, 0#2 ++ c, 0#2 ++ d, 123#7⟩
  | .ttagSet f d => some ⟨7#7, 0#1 ++ f, 0#5, 0#3, 0#2 ++ d, 123#7⟩
  | .ttagRead a d => some ⟨7#7, 0#5, 0#2 ++ a, 1#3, d, 123#7⟩
  | .xop s b a pg d => some ⟨s ++ 0#1, b, a, pg, d, 119#7⟩
  | .xcfgLoad a d => some ⟨1#7, 0#5, a, 0#3, d, 119#7⟩
  | .xcfgDrop a => some ⟨3#7, 0#5, a, 0#3, 0#5, 119#7⟩
  | .xcfgQuery a d => some ⟨5#7, 0#5, a, 0#3, d, 119#7⟩
  | .compose b d => some ⟨0#7, 0#3 ++ b, 0#5, 0#3, d, 91#7⟩
  | .release d => some ⟨1#7, 0#5, 0#5, 0#3, d, 91#7⟩
  | .cstat d => some ⟨2#7, 0#5, 0#5, 0#3, d, 91#7⟩
  | .vld w imm t a d => some ⟨w ++ imm, 0#1 ++ t, a, 0#3, d, 7#7⟩
  | .vlds w t b a d => some ⟨w ++ 0#1 ++ t, b, a, 1#3, d, 7#7⟩
  | .vldx w t b a d => some ⟨w ++ 0#1 ++ t, b, a, 2#3, d, 7#7⟩
  | .tld w a d => some ⟨w ++ 0#5, 0#5, a, 3#3, 0#2 ++ d, 7#7⟩
  | .vst w imm a d => some ⟨w ++ imm, 0#5, a, 0#3, d, 39#7⟩
  | .vsts w b a d => some ⟨w ++ 0#5, b, a, 1#3, d, 39#7⟩
  | .vstx w b a d => some ⟨w ++ 0#5, b, a, 2#3, d, 39#7⟩
  | .tst w a d => some ⟨w ++ 0#5, 0#5, a, 3#3, 0#2 ++ d, 39#7⟩
  | .ldS w s b a f d => some ⟨w ++ s ++ 0#3, b, a, f, d, 79#7⟩
  | .stS w s b a f => some ⟨w ++ s ++ 1#3, b, a, 0#1 ++ f, 0#5, 79#7⟩
  | .ldAcq w s b a f d => some ⟨w ++ s ++ 2#3, b, a, f, d, 79#7⟩
  | .stRel w s b a f => some ⟨w ++ s ++ 3#3, b, a, 0#1 ++ f, 0#5, 79#7⟩
  | .red w b a z c => some ⟨w ++ 4#5, b, a, 1#2 ++ z, c, 79#7⟩
  | .amof w s b a f d => some ⟨w ++ s ++ 5#3, b, a, f, d, 79#7⟩
  | .laccAdd w b a p => some ⟨w ++ 6#5, b, a, 1#2 ++ p, 0#5, 79#7⟩
  | .laccRnd w a f d => some ⟨w ++ 6#5, 0#5, a, 2#2 ++ f, d, 79#7⟩
  | .laccClr w a => some ⟨w ++ 6#5, 0#5, a, 6#3, 0#5, 79#7⟩
  | .pin w a d => some ⟨w ++ 7#5, 0#5, a, 4#3, d, 79#7⟩
  | .unpin w a d => some ⟨w ++ 7#5, 0#5, a, 5#3, d, 79#7⟩
  | .cwait w b => some ⟨w ++ 7#5, b, 0#5, 6#3, 0#5, 79#7⟩
  | .xcopy1d aq rl b a s d => some ⟨0#3 ++ aq ++ rl ++ 0#2, b, a, 0#1 ++ s, d, 75#7⟩
  | .xcopy2d aq rl a s d => some ⟨1#3 ++ aq ++ rl ++ 0#2, 0#5, a, 0#1 ++ s, d, 75#7⟩
  | .xcopyTile aq rl a s d => some ⟨2#3 ++ aq ++ rl ++ 0#2, 0#5, a, 0#1 ++ s, d, 75#7⟩
  | .xcopyGath aq rl a s d => some ⟨3#3 ++ aq ++ rl ++ 0#2, 0#5, a, 0#1 ++ s, d, 75#7⟩
  | .xcopyWait a d => some ⟨64#7, 0#5, a, 0#3, d, 75#7⟩
  | .xcopyWaitT a d => some ⟨80#7, 0#5, a, 0#3, d, 75#7⟩
  | .xcopyStat a d => some ⟨96#7, 0#5, a, 0#3, d, 75#7⟩
  | .xcopyAbort a d => some ⟨112#7, 0#5, a, 0#3, d, 75#7⟩
  | .lxProd a d => some ⟨0#7, 0#5, a, 0#3, d, 71#7⟩
  | .lxFeed aq rl a s d => some ⟨1#4 ++ aq ++ rl ++ 0#1, 0#5, a, 0#1 ++ s, d, 71#7⟩
  | .lxFeedt aq rl b a s d => some ⟨2#4 ++ aq ++ rl ++ 0#1, b, 0#2 ++ a, 0#1 ++ s, d, 71#7⟩
  | .lxWait a d => some ⟨24#7, 0#5, a, 0#3, d, 71#7⟩
  | .lxWaitT a d => some ⟨32#7, 0#5, a, 0#3, d, 71#7⟩
  | .lxDwait b a d => some ⟨40#7, b, a, 0#3, d, 71#7⟩
  | .lxDwaitT b a d => some ⟨48#7, b, a, 0#3, d, 71#7⟩
  | .lxStat a d => some ⟨56#7, 0#5, a, 0#3, d, 71#7⟩
  | .lxAbort a d => some ⟨64#7, 0#5, a, 0#3, d, 71#7⟩
  | .lxEpi b a d => some ⟨72#7, b, a, 0#3, d, 71#7⟩
  | .lxCfg b a d => some ⟨80#7, b, a, 0#3, d, 71#7⟩
  | .msgSend b a d => some ⟨0#7, b, a, 0#3, d, 43#7⟩
  | .msgSendT b a d => some ⟨1#7, b, a, 0#3, d, 43#7⟩
  | .msgPut b a d => some ⟨2#7, b, a, 0#3, d, 43#7⟩
  | .msgPutT b a d => some ⟨3#7, b, a, 0#3, d, 43#7⟩
  | .msgReply b a d => some ⟨4#7, b, a, 0#3, d, 43#7⟩
  | .msgPost b a d => some ⟨5#7, b, a, 0#3, d, 43#7⟩
  | .msgUnpost a d => some ⟨6#7, 0#5, a, 0#3, d, 43#7⟩
  | .msgPoll a f d => some ⟨7#7, 0#5, a, 0#2 ++ f, d, 43#7⟩
  | .msgPollTake d => some ⟨7#7, 0#5, 0#5, 2#3, d, 43#7⟩
  | .msgSpill b a d => some ⟨8#7, b, a, 0#3, d, 43#7⟩
  | .hdone => some ⟨9#7, 0#5, 0#5, 0#3, 0#5, 43#7⟩
  | .chOpen b a d => some ⟨0#7, b, a, 0#3, 0#2 ++ d, 11#7⟩
  | .chClose a => some ⟨1#7, 0#5, 0#2 ++ a, 0#3, 0#5, 11#7⟩
  | .chPush b a => some ⟨2#7, 0#2 ++ b, a, 0#3, 0#5, 11#7⟩
  | .chPushT b a d => some ⟨3#7, 0#2 ++ b, a, 0#3, d, 11#7⟩
  | .chPop a d => some ⟨4#7, 0#5, 0#2 ++ a, 0#3, d, 11#7⟩
  | .chPopT b a d => some ⟨5#7, b, 0#2 ++ a, 0#3, d, 11#7⟩
  | .chBind b a f d => some ⟨6#7, b, a, 0#2 ++ f, d, 11#7⟩
  | .chStat a d => some ⟨7#7, 0#5, 0#2 ++ a, 0#3, d, 11#7⟩
  | .nodeNew a d => some ⟨16#7, 0#5, a, 0#3, d, 63#7⟩
  | .nodeLink b a d => some ⟨17#7, b, a, 0#3, d, 63#7⟩
  | .nodeArm a d => some ⟨18#7, 0#5, a, 0#3, d, 63#7⟩
  | .nodeDone a d => some ⟨19#7, 0#5, a, 0#3, d, 63#7⟩
  | .rngNext d => some ⟨20#7, 0#5, 0#5, 0#3, d, 63#7⟩
  | .enq a d => some ⟨21#7, 0#5, a, 0#3, d, 63#7⟩
  | .enqT a d => some ⟨22#7, 0#5, a, 0#3, d, 63#7⟩
  | .taskCancel a d => some ⟨23#7, 0#5, a, 0#3, d, 63#7⟩
  | .taskStat a d => some ⟨24#7, 0#5, a, 0#3, d, 63#7⟩
  | .gbar a => some ⟨0#7, 0#5, a, 0#3, 0#5, 107#7⟩
  | .gbarT a d => some ⟨1#7, 0#5, a, 0#3, d, 107#7⟩
  | .semP a => some ⟨2#7, 0#5, a, 0#3, 0#5, 107#7⟩
  | .semPT a d => some ⟨3#7, 0#5, a, 0#3, d, 107#7⟩
  | .semV a => some ⟨4#7, 0#5, a, 0#3, 0#5, 107#7⟩
  | .monArm a d => some ⟨5#7, 0#5, a, 0#3, d, 107#7⟩
  | .monWait d => some ⟨6#7, 0#5, 0#5, 0#3, d, 107#7⟩
  | .monWaitT d => some ⟨7#7, 0#5, 0#5, 0#3, d, 107#7⟩
  | .tret => some ⟨8#7, 2#5, 0#5, 0#3, 0#5, 115#7⟩
  | .dret => some ⟨16#7, 2#5, 0#5, 0#3, 0#5, 115#7⟩
  | .pret => some ⟨24#7, 2#5, 0#5, 0#3, 0#5, 115#7⟩
  | .wfi => some ⟨8#7, 5#5, 0#5, 0#3, 0#5, 115#7⟩
  | .wspSw a d => some ⟨12#7, 0#5, a, 0#3, d, 115#7⟩
  | .bindWb => some ⟨13#7, 0#5, 0#5, 0#3, 0#5, 115#7⟩
  | .inspect b a d => some ⟨14#7, b, a, 0#3, d, 115#7⟩
  | .qcmdRegister _ _ => none
  | .qcmdUnregister _ _ => none
  | .qwidxWrite _ _ _ => none
  | .qcancelWrite _ _ _ => none
  | .packetFetch _ => none
  | .packetDispatch _ => none
  | .kernelPlacement _ => none
  | .graphArm _ => none
  | .peerDoorbellWrite _ _ _ _ => none
  | .contextRetire _ => none
  | .kernelComplete _ => none
  | .pcmdCreate _ _ => none
  | .pcmdDestroy _ _ => none
  | .pcmdApply _ _ => none
  | .spanDestroyComplete _ => none
  | .qoscmdApply _ _ => none
  | .pageWalkComplete _ _ _ => none
  | .tlbInvComplete _ => none
  | .l2wayWrite _ => none
  | .l2wayTransitionComplete _ => none
  | .wspCsrWrite _ _ => none
  | .kendWrite _ => none
  | .oplctlDrop => none
  | .cpctlRestart => none
  | .cpctlAbort => none
  | .cqctlHold _ => none
  | .cqctlRemove _ => none
  | .cqctlRebuild _ => none
  | .copyHoldComplete _ => none
  | .registerWrite _ _ _ => none
  | .watchdogExpiry _ => none
  | .timerCompare _ => none
  | .frameBoundary => none
  | .ctlTokenGain _ => none
  | .rendezvousTimeout _ _ => none
  | .pauseTimeout _ _ => none
  | .feedTimeout _ _ => none
  | .sinkRetryTimeout _ _ => none
  | .sendBackoffExpiry _ _ => none
  | .messageRetryResend _ _ => none
  | .siteWindowRetry _ _ => none
  | .channelAskRetry _ _ => none
  | .semPRetry _ => none
  | .prodNodeReissue _ => none
  | .switchSlotTimeout _ => none
  | .heartbeatMiss _ => none
  | .trapEntry => none
  | .xirqWrite _ _ => none
  | .homeAccess _ _ => none
  | .storeAck _ _ => none
  | .lateFailure _ _ _ => none
  | .copyStart _ => none
  | .copyGrant _ _ => none
  | .copyComplete _ _ => none
  | .copyFault _ _ => none
  | .copyAborted _ _ => none
  | .productOpen _ _ => none
  | .feedArrival _ _ => none
  | .productGrant _ _ => none
  | .productDelivery _ _ => none
  | .deliveryComplete _ _ => none
  | .residueMismatch _ => none
  | .feedResume _ _ => none
  | .packetInjection _ _ => none
  | .messageArrival _ _ => none
  | .replyHoldRelease _ => none
  | .messageAnswer _ _ => none
  | .activationStart _ => none
  | .channelEntryArrival _ _ => none
  | .channelFlowSignal _ _ => none
  | .channelAsk _ _ => none
  | .channelCloseMarker _ _ => none
  | .channelClosedNotice _ _ => none
  | .dispatchDecision _ => none
  | .nodeFinish _ => none
  | .stealRequest _ => none
  | .stealHalfArrival _ => none
  | .stealAck _ => none
  | .stealReturn _ => none
  | .precmdSave _ _ => none
  | .precmdRestore _ _ => none
  | .saveStop _ => none
  | .saveDrained _ => none
  | .restoreStart _ => none
  | .migcmdStart _ _ => none
  | .migcmdCancel _ _ => none
  | .migrationCheck _ _ => none
  | .migrationTransferDone _ _ => none
  | .dbgcmdOpen _ => none
  | .dbgcmdClose _ => none
  | .dbgcmdHalt _ => none
  | .dbgcmdResume _ => none
  | .dbgcmdStep _ => none
  | .dbgxvalWrite _ _ => none
  | .inspectionWindowRead _ => none
  | .swcmdAllocate _ _ => none
  | .switchAllocationAnswer _ => none
  | .switchContribution _ => none
  | .peerAccess _ _ _ => none
  | .siteWake _ => none
  | .siteGate _ _ => none
  | .boot _ => none
  | .attestationRequest _ _ => none
  | .cxlDeviceRemoval _ => none
  | .illegalInstruction _ => none
  | .fetchFault _ => none
  | .siteFault _ _ _ => none
  | .rasRetirement _ => none
  | .powerLoss => none
  | .rmaWipe => none
  | .reservationAging _ => none

/-- The word of an instruction; `none` for a step, which has no word. -/
def encode (i : Instr) : Option IWord := (encodeFields i).map pack

end Sys2Proof

end
end

