-- ==== Sys2Proof/Config.lean ====
section
/-! DEFINITION. What an implementation fixes, and the free values: each stands where the spec leaves an outcome open, has no
body, and so cannot be evaluated or assumed by any proof. -/

namespace Sys2Proof.Config

/-- R107: bytes of CXL memory behind ports 0 to 3, populated consecutively from the base of the window (R395). -/
opaque cxlBytes : Nat → Nat

/-- R107: bytes of host memory reached through Fralis, from the base of its region. -/
opaque hostBytes : Nat

/-- R380 code 7: channel accesses that one second-level access causes. The argument is `State.tick`. -/
opaque channelAccesses : Nat → Nat

/-- R309, R380 code 5: flits of a packet to which the spec gives no length; it gives one to a stream entry alone (R300). The argument
is `State.tick`. -/
opaque packetFlits : Nat → Nat

/-- R380 code 10: contention cycles of a context within a stretch of time. The argument is `State.tick`. -/
opaque contention : Nat → Nat

/-- R402, R403: the ECDSA signature on P-384 of the content of an attestation report. -/
opaque ecdsaSignature : List Nat → BitVec 768

/-- R402, R403: the HSS signature of the content of an attestation report, with the key of a leaf index. -/
opaque hssSignature : Nat → List Nat → List Byte

/-- R383, R403: measurements of the verified firmware, by boot step. -/
opaque measurement : Nat → BitVec 384

/-- R401, R403: the fused rollback counters of boot steps 1 and 2. -/
opaque rollbackCounter : Nat → Nat

/-- R171: where each bit of a tile of 16-bit elements falls when TTAG gives it a tag of 8-bit elements, and back: the spec keeps every
bit and does not say which element it falls into. -/
opaque tileLayout : Equiv.Perm (Fin 65536)

/-- R157: operand b of the immediate form where the spec gives the integer no value under a's tag: a float format that does not
hold it exactly, and the tags BITS, QC4 and LACC-slice, which are neither integer nor float. -/
opaque immediateFill : BitVec 4 → BitVec 5 → Nat

/-- R310: some mesh link would carry more than 4,096 stamped flits in a frame under the quotas given, each the span of a leaf, whose
sites its routes join, with its four quotas. The spec does not say how a quota spreads over routes. -/
opaque overcommitted : List (Nat × Nat × List Nat) → Bool

/-- R382: KiB of the image that a migration has moved; the layout of an image is not architectural (R372). The argument is
`State.tick`. -/
opaque kibMoved : Nat → Nat

/-- R397: what a peer answers to an access that is never posted: 1 for a NACK, 2 for an uncorrectable error, 3 for a retired unit, and
otherwise the access is performed. The argument is `State.tick`. -/
opaque peerAnswer : Nat → Nat

/-- R398: the switch has room for the slot of an allocation; the spec does not say when it answers NOROOM. The argument is
`State.tick`. -/
opaque switchRoom : Nat → Bool

/-- R398: the number of this module in its fabric domain. -/
opaque moduleNumber : Nat

/-- R400: LEN and the payload bytes that a switch completion carries beyond its elements; the spec states neither. The argument
is `State.tick`. -/
opaque switchFill : Nat → BitVec 512

end Sys2Proof.Config
end

