-- ==== Sys2Proof/Machine/State.lean ====
section
/-! DEFINITION. The state of one module: the running context, every other context, and every unit the spec gives state to.

`State.cx` is the context whose instruction the next step runs; `State.others` holds every other one. `State.turns` is plain
data that says which step of another agent is taken next; an empty list lets the running context go on. -/

namespace Sys2Proof.Machine

/-! ## Registers of a context -/

/-- A format tag (R34). -/
abbrev Tag := BitVec 4

/-- A v register: its tag and 1,024 bits, element 0 lowest (R31, R34). -/
structure VReg where
  tag : Tag
  bits : BitVec 1024
  deriving DecidableEq, Repr

/-- An m register: its tag, 4,096 cells of 16 bits (element 64r + c lies in the low bits of its cell), and the side band (R31). -/
structure MReg where
  tag : Tag
  elems : BitVec 65536
  side : BitVec 2048
  deriving DecidableEq, Repr

/-- A pending hint: its kind and payload and the address it was fetched from (R28 to R30). -/
structure Hint where
  kind : Nat
  payload : BitVec 20
  addr : Word
  deriving DecidableEq, Repr

/-- The trap and timer CSRs of one of the levels T, D, P (R353, R355). The delegation pair does not exist at T. -/
structure TrapRegs where
  status : Word
  edeleg : Word
  ideleg : Word
  ie : Word
  swi : Bool
  vec : Word
  scratch : Word
  epc : Word
  cause : Word
  val : Word
  val2 : Word
  cmp : Word
  deriving DecidableEq, Repr

/-- One queued interrupt event (R359, R426): code, floor, Lval, and whether a ninth event merged into it. -/
structure IrqEvent where
  code : Nat
  floor : Level
  val : Word
  merged : Bool
  deriving DecidableEq, Repr

/-- An external interrupt that its source holds (R394). -/
structure ExtIrq where
  level : Level
  source : Nat
  deriving DecidableEq, Repr

/-- A pending asynchronous exception: 26, 29, 31, 32, 33 or 34 (R360), with its floor, and how old what raised it is: the entry of
cause 31, the copy of cause 33 (R214, R234). -/
structure AsyncExc where
  code : Nat
  val : Word
  val2 : Word
  floor : Level
  age : Nat
  deriving DecidableEq, Repr

/-- The identity CSRs (R102). -/
structure Ident where
  hid : Word
  kspan : Word
  pword : Word
  ctxid : Word
  gset : Word
  deriving DecidableEq, Repr

/-- The workspace pointers, one for each level, as CSR values (R133). -/
structure WspRegs where
  k : Word
  t : Word
  d : Word
  p : Word
  deriving DecidableEq, Repr

/-! ## The operand log -/

/-- The kinds of an operand-log entry (R215). -/
inductive OpKind where
  | store | red | laccAdd | laccClr | trig | semV
  deriving DecidableEq, Repr

/-- The store count that tracks an entry (R208). -/
inductive CountClass where
  | scs | scd | scm | none
  deriving DecidableEq, Repr

/-- How far a posted access has come (R213, R214): on its way, performed, refused at its place with the error answer on its way,
or FAILED. -/
inductive OpState where
  | sent | performed | refused (why : LateReason) | failed (why : LateReason)
  deriving DecidableEq, Repr

/-- One entry of the operand log (R213): the address as issued, the data, and where it is performed. -/
structure OpEntry where
  idx : Nat
  addr : Word
  kind : OpKind
  op : Nat
  len : Nat
  scope : BitVec 2
  strong : Bool
  data : BitVec 1024
  /-- The bytes of a store that are still to be written, by their distance from `addr`. -/
  cells : List Host.Cell
  /-- A store: bytes of its parts that are written in one step each (R339). -/
  unit : Nat
  /-- The place of `addr` and the site there, as translated at issue; a window address is placed when performed. -/
  pa : Nat
  site : Nat
  count : CountClass
  st : OpState
  /-- The level at which it was issued: its access is that of the level. -/
  lvl : Level
  /-- The site it was sent from: the core's, or the queue bank of a composed thread (R14, R198). -/
  src : Nat
  /-- When it was sent, in the module's running order. -/
  seq : Nat
  /-- When its answer left the place of performance, once it has (R14). -/
  done : Nat
  /-- It has release order (R210). -/
  rel : Bool
  /-- Part of a store is written: its place has taken it (R214, R339). -/
  begun : Bool
  deriving DecidableEq, Repr

/-- A load performed early (R210): the bytes [pa, pa + n) of the device physical space at the home `site`, as they read then. It is
that of the thread's load there which `skip` others precede; `weak` says that a strong load may not take it any more (R345). -/
structure EarlyLoad where
  site : Nat
  pa : Nat
  n : Nat
  val : Nat
  skip : Nat
  weak : Bool
  deriving DecidableEq, Repr

/-! ## Bound registers -/

/-- Where a bound v or m register lies (R155). -/
inductive RegHome where
  | banks | reserve | saveArea
  deriving DecidableEq, Repr

/-- A bound register of a context (R155): `reg` is its number, 32 + i for m[i], and `use` orders its last use. -/
structure BoundReg where
  reg : Nat
  home : RegHome
  use : Nat
  deriving DecidableEq, Repr

/-! ## Messages, channels, activations -/

/-- The states of a send (R288). -/
inductive SendState where
  | queued | sent | backoff | accepted | refused | rejected
  deriving DecidableEq, Repr

/-- An answer on its way back to the sender (R287). -/
inductive SendAnswer where
  | accept | refuse | reject (reason : Nat) | retry
  deriving DecidableEq, Repr

/-- A send entry, live or among the 16 most recently ended (R288, R289). `order` is the injection order on its pair (R14). -/
structure Send where
  handle : Nat
  dest : Nat
  img : BitVec 512
  retry : Bool
  st : SendState
  n : Nat
  retries : Nat
  rej : Nat
  order : Nat
  answer : Option SendAnswer
  /-- When the answer left the destination (R14). -/
  answered : Nat
  deriving DecidableEq, Repr

/-- The states of a posted receive (R297). -/
inductive PostState where
  | posted | matched | unposted
  deriving DecidableEq, Repr

/-- A posted receive (R290): its buffer's local-window offset and its match word. -/
structure Posted where
  handle : Nat
  buf : Nat
  want : Word
  st : PostState
  deriving DecidableEq, Repr

/-- A reply in the hold slot (R291): the send it came from, and its image. -/
structure HeldReply where
  src : Key
  handle : Nat
  img : BitVec 512
  deriving DecidableEq, Repr

/-- A mailbox entry: the message and whether its activation has started (R287). -/
structure MailEntry where
  img : BitVec 512
  started : Bool
  deriving DecidableEq, Repr

/-- One entry of a stream: 128 bytes and their tag (R33, R300). -/
abbrev StreamEntry := VReg

/-- An open q register (R300, R301, R304): a send end holds its unsent entries, a receive end its buffer. -/
structure Chan where
  q : Nat
  sendEnd : Bool
  peer : Nat
  rtag : BitVec 16
  depth : Nat
  offAt : Nat
  onAt : Nat
  buf : Nat
  /-- Receive end: the slot of the buffer that holds the oldest entry. -/
  head : Nat
  entries : List StreamEntry
  off : Bool
  askDue : Bool
  marker : Bool
  closed : Bool
  deriving DecidableEq, Repr

/-- The source of a binding (R306). -/
inductive BindSource where
  | route (rtag : BitVec 16)
  | window (off : Nat)
  deriving DecidableEq, Repr

/-- A binding of an event source to a handler (R306). -/
structure Binding where
  src : BindSource
  hnd : Nat
  deriving DecidableEq, Repr

/-- A waiting event (R281, R282). -/
inductive Event where
  | message (img : BitVec 512)
  | channel (q : Nat) (hnd : Nat)
  | task (node : Nat) (hnd : Nat) (lo hi grain depth : Nat)
  | window (off : Nat) (tag : BitVec 16) (hnd : Nat)
  deriving DecidableEq, Repr

/-- The running activation (R281): its kind (0 is the launch start), what it holds, its node and its depth (R326), and the
channel whose event began it. -/
structure Activation where
  kind : Nat
  holdsMail : Bool
  node : Option Nat
  depth : Nat
  q : Option Nat
  deriving DecidableEq, Repr

/-- The range register (R323). -/
structure Range where
  v : Bool
  lo : Nat
  hi : Nat
  grain : Nat
  node : Nat
  deriving DecidableEq, Repr

/-- What one stage of translation answers: its output, permissions and attributes (R110 to R112). -/
structure StageOut where
  out : Nat
  size : Nat
  r : Bool
  w : Bool
  x : Bool
  k : Bool
  mt : Nat
  /-- TW and TSH of a tensor page. -/
  tensor : Option (Nat × Nat)
  shared : Bool
  /-- It comes from a table entry: a stage that is off has none (R108). -/
  entry : Bool
  deriving DecidableEq, Repr

/-- A stage-2 or stage-3 entry that a walk has used, for the page that starts at `input` (R111, R113): its span is a leaf, or a
first-level span. -/
structure UsedEntry where
  stage : Nat
  span : Nat
  input : Nat
  out : StageOut
  deriving DecidableEq, Repr

/-- A whole translation: what stages 1, 2 and 3 answered, in order, and the stage-2 and stage-3 entries that it is built from, those of
its table reads among them (R108, R113, R115). -/
structure Xlat where
  o1 : StageOut
  o2 : StageOut
  o3 : StageOut
  used : List UsedEntry
  deriving DecidableEq, Repr

/-- Where a translation failed (R114): the stage, its input, and whether on a table read of an earlier stage. -/
structure WalkFail where
  stage : Nat
  input : Nat
  table : Bool
  deriving DecidableEq, Repr

/-- Where cached translations are held (R115): the TLB of a core, or the one that a die shares. -/
inductive TlbPlace where
  | core (h : Nat)
  | die (d : Nat)
  deriving DecidableEq, Repr

/-- A whole translation held by a TLB (R115), for the page that starts at `va`. K and T pass through the same stages, and share
entries under T. -/
structure TlbEntry where
  at_ : TlbPlace
  leaf : Nat
  fl : Nat
  level : Level
  va : Nat
  x : Xlat
  deriving DecidableEq, Repr

/-- A stage-2 or stage-3 entry held by the extent cache of a die (R115). -/
structure ExtEntry where
  die : Nat
  entry : UsedEntry
  deriving DecidableEq, Repr

/-- What a walk finds (R113, R115): the answers of its stages in order, without regard to who asked, the failure that ended it if one
did, and the entries it used. -/
structure Found where
  outs : List StageOut
  fail : Option WalkFail
  used : List UsedEntry
  deriving DecidableEq, Repr

/-- A walk in flight on a die (R115): the tables are read, and the result is not delivered yet. It is one of a leaf and of the stages that
a level passes through, for a page of 4 KiB; any request for these joins it. -/
structure Walk where
  die : Nat
  leaf : Nat
  fl : Nat
  level : Level
  page : Nat
  res : Found
  deriving DecidableEq, Repr

/-- The watch of a context (R336): the line at its place, the translation that led there, and the wake reason once
triggered. -/
structure Watch where
  via : Option TlbEntry
  line : Nat
  home : Nat
  va : Word
  order : Nat
  trig : Option Nat
  deriving DecidableEq, Repr

/-- The reservation of a context (R144): the line at its place, the address and width of the LR, and whether its entry at
the home has reached 512 cycles. -/
structure Resv where
  line : Nat
  addr : Word
  width : Nat
  home : Nat
  order : Nat
  aged : Bool
  deriving DecidableEq, Repr

/-- A pin (R224): the address PIN named, the line it pins, and the translation that led there. -/
structure PinEntry where
  via : Option TlbEntry
  /-- The home of the line. -/
  site : Nat
  va : Word
  line : Nat
  deriving DecidableEq, Repr

/-- Where a context is in its life (R281, R373, R374, R390, R362). -/
inductive Status where
  /-- Holds the core: an activation is running, at any level. -/
  | running
  /-- Between activations. -/
  | parked
  /-- Its HDONE has begun the retirement (R390). -/
  | retiring
  /-- Stopped for a save, not yet drained (R374). -/
  | saving
  /-- In its image (R374). -/
  | saved
  /-- Waiting for a slot and banks (R378). -/
  | restoring
  /-- No context: the slot is free, or the context has ended. -/
  | free
  /-- Stopped because its P handler's first instruction failed (R362). -/
  | failed
  deriving DecidableEq, Repr

/-- Message-interface CSRs and limits (R283, R285). -/
structure MsgRegs where
  hndtab : Word
  msgland : Word
  rring : Word
  rrhead : Word
  msgcnt : Word
  mbox : Nat
  swin : Nat
  deriving DecidableEq, Repr

/-- The watchdog (R283): the CSR, the limit in force for the running activation, and the cycles counted. -/
structure Wdog where
  reg : Word
  limit : Nat
  count : Nat
  deriving DecidableEq, Repr

/-- The state of a composition (R190, R204). -/
structure Composition where
  n : Nat
  last : Nat
  oh : Nat
  /-- A request that dissolves it: the instructions that may still go before, and LAST (R202). -/
  due : Option (Nat × Nat)
  deriving DecidableEq, Repr

/-- A debug halt (R406): the function whose session asked, whether the context has stopped, whether one step is under way and
has begun, and the DBGPC that takes effect at the next resume or step. -/
structure Halt where
  session : Nat
  halted : Bool
  stepping : Bool
  moved : Bool
  pc : Option Word
  deriving DecidableEq, Repr

/-- Everything the spec gives one context. -/
structure Ctx where
  key : Key
  kid : Nat
  status : Status
  level : Level
  pc : Word
  /-- x0 to x31 of the running level; the cached copy is the architectural value (R32). -/
  x : Vector Word 32
  /-- Which cached registers differ from the workspace (R32, R134). -/
  dirty : BitVec 32
  hint : Option Hint
  /-- The level whose handler's first instruction has not committed yet (R362). -/
  first : Option Level
  /-- Levels whose handler was interrupted before its first instruction committed, and has not gone on yet (R362). -/
  firsts : List Level
  /-- A WFI waits: no boundary comes before it commits (R365). -/
  waiting : Bool
  ident : Ident
  /-- Physical bank of each logical bank (R97). -/
  banks : List Nat
  /-- Bank counts of REG and ACC (R96, R97). -/
  regBanks : Nat
  accBanks : Nat
  /-- Code object address and entry data of the kernel (R36, R38). -/
  obj : Word
  thread : Bool
  wsp : WspRegs
  vctl : Word
  vflags : Word
  v : Vector VReg 32
  m : Vector MReg 8
  p : Vector (BitVec 128) 8
  chans : List Chan
  /-- Send ends already closed whose entries are not all injected (R304). -/
  closing : List Chan
  bindings : List Binding
  xtab : Word
  xbase : Word
  xprev : Word
  comp : Composition
  oplsel : Word
  log : List OpEntry
  /-- Loads performed early and not yet taken by an instruction (R210). -/
  early : List EarlyLoad
  /-- The level that handles a cause 31, and how many traps are nested in its handler there; the next one waits for its return (R214). -/
  late : Option (Level × Nat)
  /-- Accesses of other threads of the core that an acquire of this one came after at core scope, by thread and moment of sending, with
  the moment of the acquire: engines read for later commands after them (R342, R346). -/
  behind : List (Key × Nat × Nat)
  /-- The v and m registers that storage is bound to (R155). -/
  bound : List BoundReg
  cpsel : Word
  copyHandle : Nat
  linkHandle : Nat
  msg : MsgRegs
  mailbox : List MailEntry
  overflow : List (BitVec 512)
  hold : Option HeldReply
  posted : List Posted
  sends : List Send
  msgHandle : Nat
  postHandle : Nat
  act : Option Activation
  events : List Event
  wdog : Wdog
  range : Range
  tt : TrapRegs
  td : TrapRegs
  tp : TrapRegs
  irqs : List IrqEvent
  ext : List ExtIrq
  asyncs : List AsyncExc
  pmc : Vector (BitVec 48) 16
  pmsel : Vector Word 16
  watch : Option Watch
  /-- A SEM.P that found no free waiter entry, until it tries again (R335). -/
  semWait : Bool
  resv : Option Resv
  pins : List PinEntry
  /-- Group arrivals not yet complete: group and generation (R334). -/
  arrived : List (Nat × Nat)
  halt : Option Halt
  /-- A save request: 1 boundary, 2 urgent (R372). -/
  saveReq : Option Nat
  /-- The pool bytes of a saved context by local-window offset (R374). -/
  savedPool : List Host.Cell
  deriving DecidableEq, Repr

/-! ## Invalidations and caches -/

/-- A TLB.INV that is not complete yet (R118, R119). -/
structure TlbInv where
  key : Key
  stages : List Nat
  leaf : Nat
  fl : Nat
  page : Option Nat
  deriving DecidableEq, Repr

/-- A first-level copy of a 128-byte line at a site (R209). -/
structure L1Line where
  h : Nat
  line : Nat
  bytes : BitVec 1024
  deriving DecidableEq, Repr

/-- A line that a second-level slice holds apart from memory (R124): its bytes are cells of `State.mem` under `slicePlace`, and
`dirty` marks those to write back. A line that no slice lists is held alike by memory and by its home. -/
structure SliceLine where
  home : Nat
  line : Nat
  /-- The cache way that holds it (R9, R125). -/
  way : Nat
  dirty : BitVec 128
  deriving DecidableEq, Repr

/-- A fetch block held by the instruction cache of a site (R129). -/
structure FetchBlock where
  h : Nat
  block : Nat
  bytes : BitVec 512
  deriving DecidableEq, Repr

/-- The scratch ways of a leaf (R125, R126): the value in force and, while BUSY, the value it changes to and the copies that
were accepted before. -/
structure Ways where
  leaf : Nat
  scrw : Nat
  target : Option Nat
  old : List (Key × Nat)
  deriving DecidableEq, Repr

/-! ## Partitions, queues, kernels, nodes -/

/-- The states of a partition block (R89, R91). -/
inductive PartState where
  | free | active | changing
  deriving DecidableEq, Repr

/-- A partition in force (R89, R90): what the last PCMD that passed applied. -/
structure Part where
  blk : Block
  st : PartState
  base : Nat
  len : Nat
  parent : Nat
  rights : BitVec 10
  qfirst : Nat
  qcnt : Nat
  reason : Nat
  deriving DecidableEq, Repr

/-- Quotas in force for a leaf (R310): REQ, RPY, PRD, STR. -/
structure Qos where
  leaf : Nat
  req : Nat
  rpy : Nat
  prd : Nat
  str : Nat
  reason : Nat
  deriving DecidableEq, Repr

/-- The states of a launch queue (R66). -/
inductive QState where
  | unreg | active | error
  deriving DecidableEq, Repr

/-- How far a consumed packet has come (R72, R75, R77); a completed one leaves its queue's list. -/
inductive PktState where
  /-- Consumed, not dispatched. -/
  | ready
  /-- A KERNEL that waits for a span (R95), or a GRAPH that waits for its arming walk (R319). -/
  | placing
  /-- Dispatched and running. -/
  | running
  deriving DecidableEq, Repr

/-- A group of a kernel (R99, R334). -/
structure Group where
  first : Nat
  count : Nat
  stride : Nat
  generation : Nat
  arrivals : Nat
  deriving DecidableEq, Repr

/-- What a checked KERNEL packet and its code object ask for (R36, R39, R71, R96, R99). -/
structure KernelPlan where
  cores : Nat
  /-- The effective watchdog; 0 under thread discipline (R73). -/
  wdog : Nat
  obj : Word
  args : Word
  sig : Word
  pword : BitVec 16
  mbox : Nat
  swin : Nat
  trigN : Nat
  acq : Nat
  rel : Nat
  entry : Nat
  thread : Bool
  scratch : Nat
  hndtab : Word
  xtab : Word
  groups : List Group
  deriving DecidableEq, Repr

/-- A consumed packet (R71). -/
structure Packet where
  idx : BitVec 32
  bytes : BitVec 512
  st : PktState
  kid : Option Nat
  plan : Option KernelPlan
  /-- GRAPH: a node finished FAILED (R319). -/
  bad : Bool
  /-- A stop was asked for (R77). -/
  stop : Bool
  deriving DecidableEq, Repr

/-- Who asked for a kernel: a packet of a queue, or a node. -/
inductive PlaceSource where
  | packet (q : Nat) (idx : BitVec 32)
  | node (addr : Nat)
  deriving DecidableEq, Repr

/-- A kernel that waits for its span, in dispatch order (R73, R95). -/
structure Placing where
  leaf : Nat
  src : PlaceSource
  lvl : Level
  plan : KernelPlan
  deriving DecidableEq, Repr

/-- A launch queue (R66 to R69): its indices, the values its registration took, and the packets it has consumed. -/
structure Queue where
  q : Nat
  st : QState
  reason : Nat
  ridx : BitVec 32
  widx : BitVec 32
  erridx : BitVec 32
  base : Word
  lsz : Nat
  lvl : Level
  ksub : Bool
  leaf : Nat
  fl : Nat
  /-- The Fralis function that registered it (R394): 0 P, 1 + i D, 17 + j T. -/
  fn : Nat
  /-- It has been fed through a Fralis function window (R69). -/
  fed : Bool
  /-- Packets cancelled before the walker consumed them (R77). -/
  cancelled : List (BitVec 32)
  packets : List Packet
  deriving DecidableEq, Repr

/-- A kernel instance (R95, R102, R391). -/
structure Kernel where
  kid : Nat
  leaf : Nat
  base : Nat
  len : Nat
  obj : Word
  sig : Word
  rel : Nat
  lvl : Level
  queue : Option (Nat × BitVec 32)
  /-- The index of the packet that launched it (R74), here or on the module that it came from. -/
  idx : BitVec 32
  node : Option Nat
  trigN : Nat
  trigs : Nat
  groups : List Group
  ended : Bool
  deriving DecidableEq, Repr

/-- The kinds of a node (R315). -/
inductive NodeKind where
  | copy | prod | range | kernel | signal | barrier | event
  deriving DecidableEq, Repr

/-- The states of a node (R316); a finished node leaves the live table. -/
inductive NodeState where
  | new | waiting | ready | running
  deriving DecidableEq, Repr

/-- A live node of a leaf (R316, R317). -/
structure Node where
  addr : Nat
  leaf : Nat
  kid : Nat
  lvl : Level
  kind : NodeKind
  prio : Nat
  acq : Bool
  rel : Bool
  scope : Nat
  st : NodeState
  stop : Bool
  /-- PRED of the record as it was registered. -/
  pred : Nat
  pend : Nat
  nsucc : Nat
  scap : Nat
  succ : Nat
  tile : Option Nat
  obj : Word
  arg : Word
  lo : Nat
  hi : Nat
  grain : Nat
  depth : Nat
  graph : Option (Nat × BitVec 32)
  /-- Part of the range was dropped (R323). -/
  dropped : Bool
  /-- The node's copy (agent and handle), or its LINK commands, once issued; of an EVENT, the thread whose NODE.DONE ended it, and when
  (R318). -/
  cmds : List (Key × Nat)
  /-- Result of the work: R316 code and DETAIL, once known. -/
  outcome : Option (Nat × Nat)
  /-- A RANGE node that ENQ spawned (R331, R391). -/
  spawned : Bool
  deriving DecidableEq, Repr

/-- An entry of a leaf's ready pool (R320): a packet, or a node with the interval of a RANGE entry. -/
structure ReadyEntry where
  leaf : Nat
  /-- The packet of an entry that is no node (R72). -/
  packet : Option (Nat × BitVec 32)
  node : Nat
  lo : Nat
  hi : Nat
  prio : Nat
  age : Nat
  waited : Nat
  depth : Nat
  /-- It holds the reserved slot of its depth (R326). -/
  reserved : Bool
  deriving DecidableEq, Repr

/-- A stolen half between victim and thief (R324): the victim's shadow, and where the half is. -/
inductive StealState where
  | half | acked | returned
  deriving DecidableEq, Repr

structure Steal where
  victim : Key
  thief : Key
  node : Nat
  lo : Nat
  hi : Nat
  st : StealState
  deriving DecidableEq, Repr

/-! ## Copies, engines, Aster slots -/

/-- The shape of a copy (R230). -/
inductive CopyKind where
  | d1 | d2 | tile | gath
  deriving DecidableEq, Repr

/-- The states of a copy (R228). -/
inductive CopyState where
  | queued | grant | running | faulted | done | aborted
  deriving DecidableEq, Repr

/-- A copy known to its engine (R227, R233, R240), live or ended. -/
structure Copy where
  h : Nat
  agent : Key
  handle : Nat
  kind : CopyKind
  desc : BitVec 512
  acq : Bool
  rel : Bool
  scope : Nat
  st : CopyState
  reason : Nat
  commit : Nat
  spec : Nat
  flags : BitVec 5
  /-- The level at which it was issued: its accesses are those of that level. -/
  lvl : Level
  acqDone : Bool
  /-- It has held a running place: a restart goes before any copy that has not (R227). -/
  started : Bool
  held : Bool
  aborting : Bool
  faultAddr : Word
  node : Option Nat
  /-- When it was issued. -/
  seq : Nat
  /-- Elements read from `commit` on and not written yet, with the flags of their conversions (R233). -/
  ahead : List (Nat × BitVec 5)
  /-- REMOVE took it out of its queue (R376): what its entry does not hold is kept for REBUILD. -/
  removed : Bool
  deriving DecidableEq, Repr

/-- The copy-queue CSRs of a site (R376). -/
structure CopyQueue where
  h : Nat
  sel : Word
  stage : Vector Word 12
  /-- Slots whose HOLD is in progress. -/
  busy : List Nat
  result : Nat
  deriving DecidableEq, Repr

/-- A link engine (R12, R253, R256, R257): spares in use, retirement, mode, and the two table slots of 512 bytes. -/
structure Engine where
  link : Link
  spares : Nat
  retired : Bool
  split : Bool
  table0 : BitVec 4096
  table1 : BitVec 4096
  deriving DecidableEq, Repr

/-- The states of a LINK command (R251). -/
inductive LinkState where
  | queued | opened | grant | running | delivering | ended
  deriving DecidableEq, Repr

/-- A product or a feed in a side command queue (R250), or among the ended ones of its context. -/
structure LinkCmd where
  owner : Key
  handle : Nat
  /-- The level at which it was issued: its accesses are those of that level. -/
  lvl : Level
  feed : Bool
  link : Link
  /-- The end of the link it was issued at: false W or S, true E or N. -/
  far : Bool
  half : Nat
  desc : BitVec 512
  /-- LX.FEEDT: the tile taken at commit (R249). -/
  tile : Option MReg
  acq : Bool
  rel : Bool
  scope : Nat
  st : LinkState
  result : Nat
  /-- K-steps committed: a feed's issued ones, a product's consumed ones (R266, R270). -/
  pos : Nat
  flags : BitVec 5
  iov : Bool
  /-- When it was issued. -/
  order : Nat
  arrived : Bool
  paused : Bool
  /-- Feed: its side is OFF (R267). -/
  off : Bool
  /-- Feed: what its port has read, step by step: the lanes, their block scales and the group scale (R247, R248). -/
  steps : List Nat
  /-- Feed: the bytes its port has read, by address: each is read once (R248). -/
  bytes : List (Nat × Byte)
  /-- Product: the feeds matched on side A and side B. -/
  feedA : Option (Key × Nat)
  feedB : Option (Key × Nat)
  /-- Product: the bias words read at opening. -/
  bias : BitVec 2048
  /-- Product: the activation table its slot held at opening (R263). -/
  table : BitVec 4096
  /-- Product in DELIVERING: result elements, row by row, not yet written to the window (R255). -/
  out : List Nat
  quiet : Bool
  node : Option Nat
  deriving DecidableEq, Repr

/-- An Aster slot of a core (R181): the opcode of a context, its image, and the order of its last load or use. -/
structure XSlot where
  h : Nat
  idx : Nat
  owner : Key
  opcode : Nat
  image : BitVec 15360
  age : Nat
  deriving DecidableEq, Repr

/-! ## Network, switch, migration, debug, platform -/

/-- What travels on STR between the ends of a stream (R300, R301, R304). -/
inductive StrPayload where
  | entry (e : StreamEntry)
  | flow (on : Bool)
  | ask
  | notYet
  | marker
  | closedNotice
  deriving DecidableEq, Repr

/-- A packet on STR: its sender's end and the site, kernel and route it goes to. -/
structure StrPacket where
  src : Key
  kid : Nat
  /-- The destination's Hilbert index. -/
  dest : Nat
  srcRel : Nat
  rtag : BitVec 16
  payload : StrPayload
  deriving DecidableEq, Repr

/-- An ask that waits in the 16-entry table of a site (R301). -/
structure HeldAsk where
  h : Nat
  kid : Nat
  peerRel : Nat
  rtag : BitVec 16
  deriving DecidableEq, Repr

/-- Flits stamped with a frame by a site for a leaf and a class 0 to 3 (R309). -/
structure Stamp where
  h : Nat
  leaf : Nat
  cls : Nat
  frame : Nat
  flits : Nat
  deriving DecidableEq, Repr

/-- A SEM.P that holds a waiter entry at a port (R335). -/
structure Waiter where
  key : Key
  place : Nat
  port : Nat
  deriving DecidableEq, Repr

/-- A word contributed to a reduction slot (R399). -/
structure SlotWord where
  contributor : Nat
  element : Nat
  value : BitVec 32
  deriving DecidableEq, Repr

/-- A reduction slot of the fabric switch (R398 to R400). Receivers are leaves of this module, with relative index and tag. -/
structure SwitchSlot where
  slot : Nat
  gen : Nat
  op : Nat
  els : Nat
  base : Nat
  mask : BitVec 64
  tmo : Nat
  receivers : List (Nat × Nat × BitVec 16)
  words : List SlotWord
  closed : Bool
  deriving DecidableEq, Repr

/-- The staged values of an allocation as SWCMD sent them (R398, R408), and whether the leaf held PEER_LAUNCH. -/
structure Allocation where
  slot : Nat
  gen : Nat
  op : Nat
  els : Nat
  base : Nat
  mask : BitVec 64
  tmo : Nat
  rel : Nat
  tag : BitVec 16
  granted : Bool
  deriving DecidableEq, Repr

/-- The switch block of a leaf (R408): its status and an allocation still unanswered. -/
structure SwitchBlock where
  leaf : Nat
  stat : Nat
  pending : Option Allocation
  deriving DecidableEq, Repr

/-- The states of a migration (R382). -/
inductive MigState where
  | idle | quiesce | check | transfer | done | refused
  deriving DecidableEq, Repr

/-- A migration block (R382): the staged command it runs and its status. -/
structure Mig where
  leaf : Nat
  kid : Nat
  dst : Word
  st : MigState
  reason : Nat
  kib : Nat
  capacity : BitVec 8
  deriving DecidableEq, Repr

/-- Lifecycle states (R405). -/
inductive Lifecycle where
  | production | rma | rmaWiped | manufacture
  deriving DecidableEq, Repr

/-- The debug levels of R405. -/
inductive DebugLevel where
  | none | tenant | reseller | platform | vendor
  deriving DecidableEq, Repr

/-- An attestation report (R403): `span` is the leaf's PSPAN and PRIGHTS. -/
structure Report where
  nonce : BitVec 256
  measured : List (BitVec 384)
  rollback : List Nat
  lifecycle : Lifecycle
  debugLevel : DebugLevel
  debugSessions : Nat
  capacity : BitVec 8
  span : Option (Nat × Nat × Nat × BitVec 10)
  hssIndex : Nat
  /-- The signatures with the two keys (R402, R403). -/
  ecdsa : BitVec 768
  hss : List Byte
  deriving DecidableEq, Repr

/-- How far boot has come (R401). -/
inductive BootState where
  | reset | halted (step : Nat) | done
  deriving DecidableEq, Repr

/-- How far a fabric-domain recovery has come on this module (R385). -/
inductive RecoveryPhase where
  | none | fence | quiesce | replace
  deriving DecidableEq, Repr

/-- Solstice: what it keeps for the module (R18, R384, R401 to R405). -/
structure Solstice where
  boot : BootState
  powered : Bool
  lifecycle : Lifecycle
  debugSessions : Nat
  /-- Next HSS leaf index, in non-volatile memory (R402). -/
  hssIndex : Nat
  exhausted : Bool
  reports : List Report
  retired : List RasUnit
  corrected : Nat
  kidNext : Nat
  recovery : RecoveryPhase
  /-- Kernels of the job here that a recovery quiesces and restores (R385). -/
  job : List Nat
  failedModules : List Nat
  removedPorts : List Nat
  deriving DecidableEq, Repr

/-! ## The machine -/

/-- A migration image as it comes to this module from another one (R376, R383, R385): the kernel and its span in the source leaf, its
contexts, copies, commands, nodes and pool entries, and what CHECK compares. `spare` marks the images of a failed module. -/
structure MigImage where
  leaf : Nat
  kernel : Kernel
  srcBase : Nat
  srcLen : Nat
  ctxs : List Ctx
  copies : List Copy
  links : List LinkCmd
  nodes : List Node
  ready : List ReadyEntry
  capacity : BitVec 8
  keyEqual : Bool
  spare : Bool
  deriving DecidableEq, Repr

/-- What the Solstice controllers of the domain have this module do in a recovery (R385): save the job's kernels urgently, restore an image
with a memory checkpoint, and rewrite access-control entries and let the contexts run. -/
inductive RecoveryAct where
  | quiesce (kids : List Nat)
  | replace (x : MigImage) (mem : List Host.Cell)
  | resume (acl : List (Nat × BitVec 128))
  deriving DecidableEq, Repr

/-- Whose write a post is (R339): a part of a thread's write to its own local window, which its next event follows; a part of a message
that lands in a posted receive or in the reply ring; or an element that a copy has sent. -/
inductive PostKind where
  | thread | landing | copy (handle : Nat)
  deriving DecidableEq, Repr

/-- A write on its way: `n` bytes of `val` at the place `pa` of a home, or with `add` its sum with what stands there, after every older
write of the same kind for its agent (R290, R291). -/
structure Post where
  kind : PostKind
  agent : Key
  src : Nat
  site : Nat
  pa : Nat
  n : Nat
  val : Nat
  add : Bool
  seq : Nat
  deriving DecidableEq, Repr

/-- A strong write of a core that was performed while accesses that its thread orders before it at core scope were not: the place of the
write, and those accesses (R210, R342, R346). -/
structure Mark where
  core : Nat
  site : Nat
  pa : Nat
  n : Nat
  before : List (Key × Nat)
  deriving DecidableEq, Repr

/-- What the next step does: give the core to a context, or take a step of another unit. -/
inductive Turn where
  /-- The context at `k` runs next. -/
  | run (k : Key)
  /-- A step of another unit: a row of the opcode table without a word. -/
  | event (i : Instr)
  /-- The running context performs a load of `n` bytes before the instructions that precede it, `skip` loads of the same bytes among
  them (R210, R342, R345). -/
  | loadEarly (va : Word) (n : Nat) (tc : Option (Nat × Nat)) (skip : Nat)
  /-- A site of the context at `k` takes a first-level copy of the line at an address: a load on a wrong path (R131, R198, R209). -/
  | cacheFill (k : Key) (va : Word) (tc : Option (Nat × Nat))
  /-- A first-level cache drops a copy (R209). -/
  | cacheDrop (h line : Nat)
  /-- A site of the context at `k` takes the fetch block at an address ahead of its use (R129, R131, R195). -/
  | fetchFill (k : Key) (va : Word)
  /-- An instruction cache drops a fetch block (R129). -/
  | fetchDrop (h block : Nat)
  /-- A TLB drops its entry `n` (R115). -/
  | tlbDrop (n : Nat)
  /-- An extent cache drops its entry `n` (R115). -/
  | extDrop (n : Nat)
  /-- A walker of a context's die starts on the page of an address (R115). -/
  | walkStart (k : Key) (va : Word)
  /-- Part `part` of a posted store of the context at `k` is written apart from the rest (R339). -/
  | storePart (k : Key) (idx part : Nat)
  /-- A second-level slice takes a line apart from memory, into one of its ways (R124). -/
  | sliceFill (home line way : Nat)
  /-- A slice writes back what it holds dirty of a line (R124). -/
  | sliceClean (home line : Nat)
  /-- A slice drops a line, written back (R124). -/
  | sliceEvict (home line : Nat)
  /-- The host writes its memory, or a peer its own: `n` bytes of `v`, by a store or an atomic of theirs (R338, R397). -/
  | outsideStore (pa n v : Nat)
  /-- A peer's read–modify–write on memory of this module: the operation of R205 and its operand (R338, R397). -/
  | peerRmw (srcMod srcLeaf pa op n data : Nat)
  /-- A peer's LACC operation on memory of this module, an add of one of the two forms or a clear (R223, R397). -/
  | peerLacc (srcMod srcLeaf pa : Nat) (kind : OpKind) (op : Nat) (data : Word)
  /-- A peer module sends an allocation to the fabric switch (R398). -/
  | peerAllocate (a : Allocation)
  /-- A migration image arrives with this module as its destination (R383, R385). -/
  | migArrival (x : MigImage)
  /-- A phase of a fabric-domain recovery on this module (R385). -/
  | recover (a : RecoveryAct)
  /-- An engine reads up to `n` further elements of a running copy (R230, R233). -/
  | copyRead (k : Key) (handle n : Nat)
  /-- An engine writes up to `n` of the elements it has read (R230, R233). -/
  | copyWrite (k : Key) (handle n : Nat)
  /-- An engine sends up to `n` of the elements it has read, as writes of a copy without REL that other sites see later (R232, R349). -/
  | copyPost (k : Key) (handle n : Nat)
  /-- The next write of several parts to the pool of its own site is performed in parts (R339). -/
  | apart
  /-- The write `n` of those on their way is performed (R339, R349). -/
  | land (n : Nat)
  /-- The port of a feed reads the byte at an address ahead of the step that takes it (R248). -/
  | feedRead (k : Key) (handle a : Nat)
  /-- The port of a feed issues up to `n` K-steps (R248, R267). -/
  | feedIssue (k : Key) (handle n : Nat)
  /-- Both sides of the open product of a half have staged a step (R252, R269). -/
  | productStaged (l : Link) (half : Nat)
  /-- The cells of a half consume up to `n` K-steps (R61, R267). -/
  | productSteps (l : Link) (half n : Nat)
  /-- Up to `n` result elements are written to the sink's window (R255). -/
  | deliverElems (l : Link) (half n : Nat)
  deriving DecidableEq, Repr

structure State where
  cx : Ctx
  others : List Ctx
  turns : List Turn
  /-- Memory by device physical address (R107): LPDDR, pools and scratch (site windows), CXL, host, peers. -/
  mem : List Host.Cell
  /-- NOW: cycles since package reset (R355). -/
  now : Word
  /-- MODEL'S OWN: advances with every free value taken (`Config`). -/
  tick : Nat
  /-- Root CSRs: stage 1 and 2 by leaf, stage 3 by first-level span (R104, R109). -/
  tatp : List (Nat × Word)
  datp : List (Nat × Word)
  patp : List (Nat × Word)
  /-- MODEL'S OWN: a running order for what the spec orders by time (arrival, age, posting). -/
  order : Nat
  tlb : List TlbEntry
  ext : List ExtEntry
  walks : List Walk
  invs : List TlbInv
  l1 : List L1Line
  slices : List SliceLine
  icache : List FetchBlock
  ways : List Ways
  /-- Registers of platform MMIO and of the function windows that hold what is written to them, by address (R152, R393). -/
  regs : List (Nat × Word)
  parts : List Part
  qos : List Qos
  queues : List Queue
  kernels : List Kernel
  nodes : List Node
  placing : List Placing
  ready : List ReadyEntry
  /-- Dispatch decisions taken, by leaf (R320). -/
  decisions : List (Nat × Nat)
  steals : List Steal
  copies : List Copy
  copyQueues : List CopyQueue
  engines : List Engine
  links : List LinkCmd
  slots : List XSlot
  str : List StrPacket
  asks : List HeldAsk
  stamps : List Stamp
  /-- CTL tokens missing from a full bucket of 16, by site (R312). -/
  tokens : List (Nat × Nat)
  waiters : List Waiter
  switchSlots : List SwitchSlot
  switchBlocks : List SwitchBlock
  migs : List Mig
  /-- Fralis functions whose debug block has an open session (R406). -/
  sessions : List Nat
  power : List (Nat × PowerState)
  sol : Solstice
  /-- Lines poisoned by an uncorrectable error (R214, R233, R395). -/
  poison : List Nat
  /-- Writes on their way (R232, R339). -/
  posts : List Post
  /-- MODEL'S OWN: the next write of several parts is performed in parts (R339). -/
  apart : Bool
  /-- Strong writes of core scope that came before what they follow (R342). -/
  marks : List Mark
  deriving DecidableEq, Repr

/-- Why the machine stops with a fault. No meaning of this model raises one: every failure the spec describes is a trap. -/
inductive Fault where
  /-- Reserved for an access outside the 52-bit device physical space, which translation never answers (safe). -/
  | noSuchPlace (pa : Nat)
  deriving DecidableEq, Repr

/-- Why a step is refused. -/
inductive Refusal where
  /-- The instruction has no meaning yet (safe: nothing can be proved about its effect). -/
  | notModelled (mnemonic : String)
  deriving DecidableEq, Repr

/-! ## Reset -/

/-- Trap CSRs of a level at reset (R353, R355). -/
def TrapRegs.reset : TrapRegs := ⟨0, 0, 0, 0, false, 0, 0, 0, 0, 0, 0, BitVec.allOnes 64⟩

/-- A v register tagged EMPTY (R31). -/
def VReg.empty : VReg := ⟨0, 0⟩

/-- An m register tagged EMPTY (R31). -/
def MReg.empty : MReg := ⟨0, 0, 0⟩

/-- A context slot that holds no context, every register at its reset value (R31, R56, R57, R133, R180, R204, R215, R285,
R323, R353). -/
def Ctx.blank (k : Key) : Ctx where
  key := k
  kid := 0
  status := .free
  level := .K
  pc := 0
  x := Vector.replicate 32 0
  dirty := 0
  hint := none
  first := none
  firsts := []
  waiting := false
  ident := ⟨0, 0, 0, 0, 0⟩
  banks := []
  regBanks := 0
  accBanks := 0
  obj := 0
  thread := false
  wsp := ⟨0, 0, 0, 0⟩
  vctl := 0
  vflags := 0
  v := Vector.replicate 32 VReg.empty
  m := Vector.replicate 8 MReg.empty
  p := Vector.replicate 8 0
  chans := []
  closing := []
  bindings := []
  xtab := 0
  xbase := 0
  xprev := 0
  comp := ⟨1, 0, 0, none⟩
  oplsel := 0
  log := []
  early := []
  late := none
  behind := []
  bound := []
  cpsel := 0
  copyHandle := 1
  linkHandle := 1
  msg := ⟨0, 0, 0, 0, 0, 0, 0⟩
  mailbox := []
  overflow := []
  hold := none
  posted := []
  sends := []
  msgHandle := 1
  postHandle := 1
  act := none
  events := []
  wdog := ⟨0, 0, 0⟩
  range := ⟨false, 0, 0, 0, 0⟩
  tt := TrapRegs.reset
  td := TrapRegs.reset
  tp := TrapRegs.reset
  irqs := []
  ext := []
  asyncs := []
  pmc := Vector.replicate 16 0
  pmsel := Vector.replicate 16 0
  watch := none
  semWait := false
  resv := none
  pins := []
  arrived := []
  halt := none
  saveReq := none
  savedPool := []

/-- Solstice before boot (R401). -/
def Solstice.reset : Solstice where
  boot := .reset
  powered := true
  lifecycle := .production
  debugSessions := 0
  hssIndex := 0
  exhausted := false
  reports := []
  retired := []
  corrected := 0
  kidNext := 1
  recovery := .none
  job := []
  failedModules := []
  removedPorts := []

/-- The module right after package reset: nothing booted, no partition, no kernel, no context, memory with nothing listed. -/
def State.reset : State where
  cx := Ctx.blank ⟨0, 0⟩
  others := []
  turns := []
  mem := []
  now := 0
  tick := 0
  tatp := []
  datp := []
  patp := []
  order := 0
  tlb := []
  ext := []
  walks := []
  invs := []
  l1 := []
  slices := []
  icache := []
  ways := []
  regs := []
  parts := []
  qos := []
  queues := []
  kernels := []
  nodes := []
  placing := []
  ready := []
  decisions := []
  steals := []
  copies := []
  copyQueues := []
  engines := []
  links := []
  slots := []
  str := []
  asks := []
  stamps := []
  tokens := []
  waiters := []
  switchSlots := []
  switchBlocks := []
  migs := []
  sessions := []
  power := []
  sol := Solstice.reset
  poison := []
  posts := []
  apart := false
  marks := []

end Sys2Proof.Machine
end

