-- ==== Sys2Proof/Machine/Ops.lean ====
section
/-! DEFINITION. The named operations over memory, contexts and registers, and the one way into a trap and out of it. -/

namespace Sys2Proof

/-! ## Levels -/

/-- The rank of a level, K lowest (R150, R356). -/
def Level.rank : Level → Nat
  | .K => 0
  | .T => 1
  | .D => 2
  | .P => 3

/-- The level of a rank; above 3 it is P. -/
def levelOf : Nat → Level
  | 0 => .K
  | 1 => .T
  | 2 => .D
  | _ => .P

/-- The more privileged of two levels. -/
def levelMax (a b : Level) : Level := if a.rank ≤ b.rank then b else a

end Sys2Proof

namespace Sys2Proof.Machine

/-- What a meaning answers. -/
abbrev Result := Host.Outcome State Fault Refusal

/-! ## Fields of words -/

/-- Bits hi..lo of a word, as a number (R2). -/
def fld {n : Nat} (w : BitVec n) (hi lo : Nat) : Nat := (w.toNat >>> lo) % 2 ^ (hi - lo + 1)

/-- The word with bits hi..lo replaced by `v`. -/
def putFld {n : Nat} (w : BitVec n) (hi lo v : Nat) : BitVec n :=
  let m := BitVec.ofNat n ((2 ^ (hi - lo + 1) - 1) <<< lo)
  (w &&& ~~~m) ||| (BitVec.ofNat n (v <<< lo) &&& m)

/-- The 64-bit word that holds a number. -/
def toWord (v : Nat) : Word := BitVec.ofNat 64 v

/-- A table keyed by numbers: the entry of `k`, or the default. -/
def tabGet {α : Type} (l : List (Nat × α)) (k : Nat) (d : α) : α :=
  match l with
  | [] => d
  | (j, v) :: r => if j = k then v else tabGet r k d

/-- A table with the entry of `k` set. -/
def tabPut {α : Type} (l : List (Nat × α)) (k : Nat) (v : α) : List (Nat × α) :=
  match l with
  | [] => [(k, v)]
  | (j, u) :: r => if j = k then (k, v) :: r else (j, u) :: tabPut r k v

/-! ## Memory

A list of cells in rising order of address; an address that is not listed reads as `memDefault`. -/

/-- What a byte that nothing has written reads as (a DESIGN CHOICE of this model: the spec gives no power-on contents). -/
def memDefault : Byte := 0

/-- One byte of memory. -/
def memGet (m : List Host.Cell) (a : Nat) : Byte :=
  match m with
  | [] => memDefault
  | (k, v) :: r => if k = a then v else memGet r a

/-- Memory with one byte written, in canonical form. -/
def memSet (m : List Host.Cell) (a : Nat) (b : Byte) : List Host.Cell :=
  match m with
  | [] => if b = memDefault then [] else [(a, b)]
  | (k, v) :: r =>
    if a < k then (if b = memDefault then (k, v) :: r else (a, b) :: (k, v) :: r)
    else if a = k then (if b = memDefault then r else (k, b) :: r)
    else (k, v) :: memSet r a b

/-- The `n` bytes from `a` up as a little-endian number (R3). -/
def memRead (m : List Host.Cell) (a : Nat) : Nat → Nat
  | 0 => 0
  | n + 1 => (memGet m a).toNat + 256 * memRead m (a + 1) n

/-- Memory with the low `n` bytes of `v` written from `a` up, little-endian (R3). -/
def memWrite (m : List Host.Cell) (a : Nat) : Nat → Nat → List Host.Cell
  | 0, _ => m
  | n + 1, v => memWrite (memSet m a (BitVec.ofNat 8 v)) (a + 1) n (v / 256)

/-- Every address from `lo` up listed once, in rising order, and none that reads the default. -/
def memSorted (lo : Nat) : List Host.Cell → Bool
  | [] => true
  | (k, v) :: r => decide (lo ≤ k) && decide (v ≠ memDefault) && memSorted (k + 1) r

/-- The canonical form of memory. -/
def Memory.wf (m : List Host.Cell) : Bool := memSorted 0 m

/-! ## Places -/

/-- First device physical address of the site windows (R107). -/
def siteBase : Nat := 0x300000000000

/-- First device physical address of platform MMIO (R107). -/
def mmioBase : Nat := 0x3F0000000000

/-- Device physical address of offset `o` in the window of site `h` (R107). -/
def siteAddr (h o : Nat) : Nat := siteBase + h * 0x400000 + o

/-- First place beyond the device physical space of 52 bits: there the copies that slices hold apart have their bytes (R124). -/
def sliceSpace : Nat := 2 ^ 52

/-- The place of a byte in the copy of its line that the slice of `home` holds apart (R124). -/
def slicePlace (home pa : Nat) : Nat := (home + 1) * sliceSpace + pa

/-- The device physical address of a place. -/
def physOf (a : Nat) : Nat := a % sliceSpace

/-- The 128-byte line of a place. -/
def lineOf (a : Nat) : Nat := physOf a / 128

/-- Offset of the platform reserve within a pool: the top 16 KiB of physical bank 15 (R98, R133). -/
def reserveBase : Nat := 15 * 0x10000 + 0xC000

/-! ## Contexts -/

/-- The context holds its slot and banks. -/
def Ctx.resident (c : Ctx) : Bool :=
  match c.status with
  | .free | .saved | .restoring => false
  | .running | .parked | .retiring | .saving | .failed => true

/-- A unit of the module is retired (R384). -/
def State.retireUnit (s : State) (u : RasUnit) : State :=
  if s.sol.retired.contains u then s else { s with sol := { s.sol with retired := s.sol.retired ++ [u] } }

/-- The site has failed and is out of service (R202, R384). -/
def State.siteLost (s : State) (h : Nat) : Bool := s.sol.retired.contains (.site h)

/-- The site's core runs: it is in S0 (R404). -/
def State.poweredSite (s : State) (h : Nat) : Bool := tabGet s.power h .S0 = .S0

/-- Every context of the machine. -/
def State.ctxs (s : State) : List Ctx := s.cx :: s.others

/-- The resident context at a key. -/
def State.ctx? (s : State) (k : Key) : Option Ctx := s.ctxs.find? fun c => c.key = k && c.resident

/-- The running context changed by `f`. -/
def State.mapCx (s : State) (f : Ctx → Ctx) : State := { s with cx := f s.cx }

/-- Every context changed by `f`. -/
def State.mapAll (s : State) (f : Ctx → Ctx) : State := { s with cx := f s.cx, others := s.others.map f }

/-- Every context that meets `p` changed by `f`. -/
def State.mapIf (s : State) (p : Ctx → Bool) (f : Ctx → Ctx) : State := s.mapAll fun c => if p c then f c else c

/-- The resident context at a key changed by `f`. -/
def State.mapCtx (s : State) (k : Key) (f : Ctx → Ctx) : State := s.mapIf (fun c => c.key = k && c.resident) f

/-- The context at a key changed by `f`, wherever it is: on its site, or in its image (R258). -/
def State.mapOwner (s : State) (k : Key) (f : Ctx → Ctx) : State := s.mapIf (fun c => c.key = k && c.status ≠ .free) f

/-- The context at a key, wherever it is. -/
def State.owner? (s : State) (k : Key) : Option Ctx := s.ctxs.find? fun c => c.key = k && c.status ≠ .free

/-- A context that leaves its core to another one loses its reservation (R144). -/
def Ctx.leaveCore (k : Key) (c : Ctx) : Ctx := if c.key.h = k.h then { c with resv := none } else c

/-- The context at a key becomes the running one, if it is resident. -/
def State.switchTo (s : State) (k : Key) : State :=
  if s.cx.key = k && s.cx.resident then s
  else
    match s.others.find? fun c => c.key = k && c.resident with
    | none => s
    | some c => { s with cx := c, others := Ctx.leaveCore k s.cx :: (s.others.erase c).map (Ctx.leaveCore k) }

/-- Resident contexts of a site. -/
def State.atSite (s : State) (h : Nat) : List Ctx := s.ctxs.filter fun c => c.key.h = h && c.resident

/-- The context of a kernel on a site (R98). -/
def State.ofKernel (s : State) (kid h : Nat) : Option Ctx :=
  s.ctxs.find? fun c => c.kid = kid && c.key.h = h && c.resident

/-- LEAF of ctxid (R102). -/
def Ctx.leaf (c : Ctx) : Nat := fld c.ident.ctxid 13 8

/-- FL of ctxid (R102). -/
def Ctx.fl (c : Ctx) : Nat := fld c.ident.ctxid 19 16

/-- Absolute base of the leaf (R102). -/
def Ctx.leafBase (c : Ctx) : Nat := fld c.ident.kspan 41 32

/-- Length of the leaf (R102). -/
def Ctx.leafLen (c : Ctx) : Nat := fld c.ident.kspan 52 42

/-- Base of the kernel span, a relative index (R102). -/
def Ctx.kbase (c : Ctx) : Nat := fld c.ident.kspan 9 0

/-- Length of the kernel span (R102). -/
def Ctx.klen (c : Ctx) : Nat := fld c.ident.kspan 20 10

/-- REL of hid (R88, R102). -/
def Ctx.rel (c : Ctx) : Nat := fld c.ident.hid 19 10

/-- The kernel position of the context's site (R88). -/
def Ctx.position (c : Ctx) : Nat := c.rel - c.kbase

/-! ## Writes at a place of performance -/

/-- A write to bytes [a, a + n) meets a line of 128 bytes. -/
def meetsLine (a n line : Nat) : Bool := decide (lineOf a ≤ line) && decide (line ≤ (physOf a + n - 1) / 128)

/-- Two ranges of bytes meet. -/
def meets (a n b m : Nat) : Bool := decide (a < b + m) && decide (b < a + n)

/-- A write of [a, a + n) marks the bytes of a line that a slice holds apart as dirty (R124). -/
def SliceLine.soil (a n : Nat) (l : SliceLine) : SliceLine :=
  let b := slicePlace l.home (l.line * 128)
  { l with
    dirty :=
      if meets a n b 128 then l.dirty ||| BitVec.ofNat 128 ((2 ^ (min (a + n) (b + 128) - b) - 1) / 2 ^ (a - b) * 2 ^ (a - b))
      else l.dirty }

/-- A write to the place [a, a + n) meets a line that a home watches over: one to the copy that another home's slice holds apart does
not (R124, R144, R336). -/
def meetsAt (a n line home : Nat) : Bool := meetsLine a n line && (decide (a < sliceSpace) || a / sliceSpace = home + 1)

/-- What a write of [a, a + n) does to the reservation and the watch of a context (R144, R336). -/
def touchCtx (a n : Nat) (c : Ctx) : Ctx :=
  { c with
    resv := c.resv.filter fun r => !meetsAt a n r.line r.home
    watch := c.watch.map fun w => if w.trig = none && meetsAt a n w.line w.home then { w with trig := some 1 } else w }

/-- A write of the low `n` bytes of `v`, performed at its place: memory, reservations and watches (R144, R206, R336). -/
def State.store (s : State) (a n v : Nat) : State :=
  { s with
    mem := memWrite s.mem a n v
    cx := touchCtx a n s.cx
    others := s.others.map (touchCtx a n)
    slices := s.slices.map (SliceLine.soil a n) }

/-- The place where the home of a line performs an access to `pa`: the copy that its slice holds apart, if it does (R124, R206). -/
def State.placeAt (s : State) (home pa : Nat) : Nat :=
  if s.slices.any fun l => l.home = home && l.line = pa / 128 then slicePlace home pa else pa

/-- The little-endian value of `n` bytes at a place. -/
def State.load (s : State) (a n : Nat) : Nat := memRead s.mem a n

/-- Bytes of CXL memory behind the ports below `p` (R107, R395). -/
def cxlBelow (p : Nat) : Nat := ((List.range p).map Config.cxlBytes).sum

/-- R395: the place belongs to a CXL device that was removed. -/
def State.removedAt (s : State) (pa : Nat) : Bool :=
  s.sol.removedPorts.any fun p =>
    decide (0x100000000000 + cxlBelow p ≤ pa) && decide (pa < 0x100000000000 + cxlBelow (p + 1))

/-- An access to the place [a, a + n) meets an uncorrectable error (R214, R395). -/
def State.broken (s : State) (a n : Nat) : Bool := (s.poison.any fun l => meetsLine a n l) || s.removedAt (physOf a)

/-- Lines that one way of a slice holds (R9). -/
def wayLines : Nat := 1024

/-- Lines that the slice of a home holds apart in a way. -/
def State.wayUsed (s : State) (home way : Nat) : Nat := (s.slices.filter fun l => l.home = home && l.way = way).length

/-- The slice of a home takes a clean copy of a line from memory into a way (R124). -/
def State.sliceFill (s : State) (home line way : Nat) : State :=
  if s.slices.any fun l => l.home = home && l.line = line then s
  else
    { s with
      mem := memWrite s.mem (slicePlace home (line * 128)) 128 (s.load (line * 128) 128)
      slices := s.slices ++ [⟨home, line, way, 0⟩] }

/-- The bytes that a slice holds dirty are written back to memory (R124). -/
def State.sliceClean (s : State) (home line : Nat) : State :=
  match s.slices.find? fun l => l.home = home && l.line = line with
  | none => s
  | some x =>
    { s with
      mem := (List.range 128).foldl (fun m i =>
        if x.dirty.getLsbD i then memSet m (line * 128 + i) (memGet s.mem (slicePlace home (line * 128 + i))) else m) s.mem
      slices := s.slices.map fun l => if l.home = home && l.line = line then { l with dirty := 0 } else l }

/-- The slice of a home writes back the dirty bytes of a line and drops its copy (R124). -/
def State.sliceEvict (s : State) (home line : Nat) : State :=
  if s.slices.any fun l => l.home = home && l.line = line then
    let t := s.sliceClean home line
    { t with
      mem := memWrite t.mem (slicePlace home (line * 128)) 128 0
      slices := t.slices.filter fun l => !(l.home = home && l.line = line) }
  else s

/-- Some context has the line pinned in the slice of a home (R224). -/
def State.pinnedAt (s : State) (home line : Nat) : Bool := s.ctxs.any fun c => c.pins.any fun p => p.site = home && p.line = line

/-- Some of the given ways of a slice gets room for a line: where they are full, a line that need not be kept leaves (R9, R124). -/
def State.roomIn (s : State) (home : Nat) (ways : List Nat) (keep : Nat → Bool) : Nat × State :=
  match ways.find? fun w => s.wayUsed home w < wayLines with
  | some w => (w, s)
  | none =>
    match s.slices.find? fun l => l.home = home && ways.contains l.way && !keep l.line && !s.pinnedAt home l.line with
    | some l => (l.way, s.sliceEvict home l.line)
    | none => (ways.headD 0, s)

/-- The slice of a home holds a line in some of the given ways (R124, R224). -/
def State.sliceHold (s : State) (home line : Nat) (ways : List Nat) (keep : Nat → Bool) : State :=
  let r := s.roomIn home ways fun l => l = line || keep l
  match s.slices.find? fun l => l.home = home && l.line = line with
  | none => r.2.sliceFill home line r.1
  | some x =>
    if ways.contains x.way then s
    else { r.2 with slices := r.2.slices.map fun l => if l.home = home && l.line = line then { l with way := r.1 } else l }

/-- A slice holds no line apart: what it held dirty is in memory (R91, R126, R404). -/
def State.sliceFlush (s : State) (homes : Nat → Bool) : State :=
  (s.slices.filter fun l => homes l.home).foldl (fun s l => s.sliceEvict l.home l.line) s

/-! ## x registers and workspaces -/

/-- x[r]; x0 reads zero (R31). -/
def Ctx.getX (c : Ctx) (r : BitVec 5) : Word := if r = 0 then 0 else c.x.get r.toFin

/-- x[d] ← v; a write to x0 is discarded (R31), any other leaves the cached copy dirty (R32). -/
def Ctx.setX (c : Ctx) (d : BitVec 5) (v : Word) : Ctx :=
  if d = 0 then c else { c with x := c.x.set d.toFin v, dirty := c.dirty ||| BitVec.twoPow 32 d.toNat }

/-- x[r] of the running context. -/
def State.getX (s : State) (r : BitVec 5) : Word := s.cx.getX r

/-- x[d] ← v in the running context. -/
def State.setX (s : State) (d : BitVec 5) (v : Word) : State := { s with cx := s.cx.setX d v }

/-- Offset within the site's pool of a byte of the local window (R97, R98); a bank the context lacks gives bank 0. -/
def Ctx.poolOff (c : Ctx) (o : Nat) : Nat := (c.banks.getD (o / 0x10000) 0) * 0x10000 + o % 0x10000

/-- The workspace pointer CSR of a level (R133). -/
def Ctx.wspOf (c : Ctx) : Level → Word
  | .K => c.wsp.k
  | .T => c.wsp.t
  | .D => c.wsp.d
  | .P => c.wsp.p

/-- The context with the workspace pointer of a level set. -/
def Ctx.setWsp (c : Ctx) (l : Level) (w : Word) : Ctx :=
  match l with
  | .K => { c with wsp := { c.wsp with k := w } }
  | .T => { c with wsp := { c.wsp with t := w } }
  | .D => { c with wsp := { c.wsp with d := w } }
  | .P => { c with wsp := { c.wsp with p := w } }

/-- Place of the workspace of a level (R133): K and T in the local window, D and P in the platform reserve. -/
def Ctx.workspace (c : Ctx) (l : Level) : Nat :=
  match l with
  | .K | .T => siteAddr c.key.h (c.poolOff (fld (c.wspOf l) 19 9 * 512))
  | .D | .P => siteAddr c.key.h (reserveBase + fld (c.wspOf l) 19 9 * 512)

/-- Write back register `i` of the running context if it is dirty (R32). -/
def writeBackOne (base : Nat) (s : State) (i : Nat) : State :=
  if s.cx.dirty.getLsbD i then s.store (base + 8 * i) 8 (s.cx.getX (BitVec.ofNat 5 i)).toNat else s

/-- Write back dirty x1 to x31 into the workspace of the running level (R32, R134). -/
def State.writeBack (s : State) : State :=
  let t := (List.range' 1 31).foldl (writeBackOne (s.cx.workspace s.cx.level)) s
  { t with cx := { t.cx with dirty := 0 } }

/-- x0 to x31 as a workspace holds them (R32): x0 is zero. -/
def readWorkspace (m : List Host.Cell) (base : Nat) : Vector Word 32 :=
  Vector.ofFn fun i => if i.val = 0 then 0 else toWord (memRead m (base + 8 * i.val) 8)

/-- Load x1 to x31 from the workspace of the running level (R361). -/
def State.loadX (s : State) : State :=
  { s with cx := { s.cx with x := readWorkspace s.mem (s.cx.workspace s.cx.level), dirty := 0 } }

/-- Leave the running level for `l`: its registers are written back, and those of `l` loaded (R361, R364). -/
def State.toLevel (s : State) (l : Level) : State :=
  if l = s.cx.level then s
  else
    let t := s.writeBack
    State.loadX { t with cx := { t.cx with level := l } }

/-! ## Counters and interrupt queues -/

/-- Queue an event interrupt: up to 8 entries for a code and floor, a further one merges into the newest (R359). -/
def pushIrq (q : List IrqEvent) (code : Nat) (floor : Level) (val : Word) : List IrqEvent :=
  let same := fun e : IrqEvent => e.code = code && e.floor = floor
  if (q.filter same).length < 8 then q ++ [⟨code, floor, val, false⟩]
  else
    match q.reverse.span fun e => !same e with
    | (a, e :: b) => (a ++ { e with merged := true } :: b).reverse
    | (_, []) => q

/-- Queue an event interrupt for a context (R359). -/
def Ctx.irq (c : Ctx) (code : Nat) (floor : Level) (val : Word) : Ctx :=
  { c with irqs := pushIrq c.irqs code floor val }

/-- Counter `i` of a context selects event `ev` (R379). -/
def Ctx.counts (c : Ctx) (ev : Nat) (i : Fin 16) : Bool := fld (c.pmsel.get i) 7 0 = ev && ev ≠ 0 && ev ≤ 12

/-- Count `n` events of code `ev` (R379, R380); a wrap of a counter whose IRQ is 1 raises interrupt 13. -/
def Ctx.count (c : Ctx) (ev n : Nat) : Ctx :=
  { c with
    pmc := Vector.ofFn fun i => if c.counts ev i then c.pmc.get i + BitVec.ofNat 48 n else c.pmc.get i
    irqs := (List.finRange 16).foldl (fun q i =>
      if c.counts ev i && fld (c.pmsel.get i) 53 53 = 1 && 2 ^ 48 ≤ (c.pmc.get i).toNat + n then
        pushIrq q 13 (levelOf (fld (c.pmsel.get i) 55 54)) (toWord i.val)
      else q) c.irqs }

/-! ## Committing -/

/-- One step under a debug halt has begun: an instruction commits, or a trap is taken (R406). -/
def Halt.move (h : Halt) : Halt := { h with moved := true }

/-- Instructions that commit with this one: a hint commits with its target (R28, R30). -/
def Ctx.committing (c : Ctx) : Nat := if c.hint.isSome then 2 else 1

/-- The instruction commits and the next word follows (R153): the pair, if any, is over, R362 no longer applies, and the
instructions are counted. -/
def Ctx.advance (c : Ctx) : Ctx :=
  ({ c with pc := c.pc + 4, hint := none, first := none, waiting := false, halt := c.halt.map Halt.move } : Ctx).count 2
    c.committing

/-- The running context commits its instruction. -/
def State.advance (s : State) : State := { s with cx := s.cx.advance }

/-- As `State.advance`, for the VR-format, TILE and XOP classes (R380 code 3). -/
def State.advanceV (s : State) : State := { s with cx := s.cx.advance.count 3 1 }

/-- The instruction commits and control goes to `t` (R132). -/
def State.jump (s : State) (t : Word) : State := { s with cx := { s.cx.advance with pc := t } }

/-- An instruction that writes one x register and commits. -/
def State.result (s : State) (d : BitVec 5) (v : Word) : State := (s.setX d v).advance

/-! ## Exceptions -/

/-- An exception an instruction raises: its code, value registers and floor (R358). -/
structure Exn where
  cause : Nat
  val : Word
  val2 : Word
  floor : Level
  deriving DecidableEq, Repr

/-- An exception with floor T and a zero second value (R358). -/
def exn (cause : Nat) (val : Word) : Exn := ⟨cause, val, 0, .T⟩

/-- Cause 2 with an instruction word (R27). -/
def exnIllegal (w : IWord) : Exn := exn 2 (w.setWidth 64)

/-- Cause 35 with the boundary code and owner of R357. -/
def exnBoundary (val : Word) (code : Nat) (owner : Level) : Exn := ⟨35, val, toWord code, owner⟩

/-- The access fault of an access kind (R105, R106). -/
def exnAccess (acc : Access) (va : Word) : Exn :=
  match acc with
  | .fetch => exn 1 va
  | .load => exn 5 va
  | .store | .amo => exn 7 va

/-- The misaligned cause of an access kind (R132, R140). -/
def exnMisaligned (acc : Access) (va : Word) : Exn :=
  match acc with
  | .fetch => exn 0 va
  | .load => exn 4 va
  | .store | .amo => exn 6 va

/-- The trap CSRs of a level; K has none, and its name stands for T's. -/
def Ctx.tr (c : Ctx) : Level → TrapRegs
  | .K | .T => c.tt
  | .D => c.td
  | .P => c.tp

/-- The context with the trap CSRs of a level set. -/
def Ctx.setTr (c : Ctx) (l : Level) (t : TrapRegs) : Ctx :=
  match l with
  | .K | .T => { c with tt := t }
  | .D => { c with td := t }
  | .P => { c with tp := t }

/-- Bit `c` of a delegation or enable register. -/
def hasBit (w : Word) (c : Nat) : Bool := w.getLsbD c

/-- R356: the level a trap goes to. `floor` is that of the cause, `run` the level at the precise point. -/
def routeFrom (c : Ctx) (code : Nat) (int : Bool) (floor run : Level) : Level :=
  let f := levelMax (levelMax floor run) .T
  let p := if int then c.tp.ideleg else c.tp.edeleg
  let d := if int then c.td.ideleg else c.td.edeleg
  if f = .P then .P
  else if hasBit p code then
    (if f = .D then .D else if hasBit d code then .T else .D)
  else .P

/-- R356 at the running level. -/
def Ctx.route (c : Ctx) (code : Nat) (int : Bool) (floor : Level) : Level := routeFrom c code int floor c.level

/-- The precise point: the hint of a pair, else the instruction (R30). -/
def Ctx.precise (c : Ctx) : Word :=
  match c.hint with
  | some h => h.addr
  | none => c.pc

/-- Sites of the composition that the context owns (R190). -/
def Ctx.members (c : Ctx) : List Nat := (List.range c.comp.n).map (c.key.h + ·)

/-- Drop the first-level copies of a site (R209). -/
def State.invalidate (s : State) (h : Nat) : State := { s with l1 := s.l1.filter fun e => e.h ≠ h }

/-- Drop the first-level copies of several sites (R192, R201). -/
def State.invalidateAll (s : State) (hs : List Nat) : State := { s with l1 := s.l1.filter fun e => !hs.contains e.h }

/-- x1 to x31 of the running context written into the workspace of its level (R200, R201). -/
def State.gatherX (s : State) : State :=
  let base := s.cx.workspace s.cx.level
  let t := (List.range' 1 31).foldl (fun s i => s.store (base + 8 * i) 8 (s.cx.getX (BitVec.ofNat 5 i)).toNat) s
  { t with cx := { t.cx with dirty := 0 } }

/-- Every posted access stands in the operand log of the context's own core (R201). -/
def Ctx.gatherLog (c : Ctx) : Ctx := { c with log := c.log.map fun e => { e with src := c.key.h } }

/-- R201, R202: the composition of the running context ends; posted accesses and registers are gathered by the owner. -/
def State.dissolve (s : State) (last : Nat) : State :=
  if s.cx.comp.n ≤ 1 then s
  else
    let t := s.gatherX.invalidateAll s.cx.members
    { t with cx := { t.cx.gatherLog with comp := { t.cx.comp with n := 1, last := last, due := none } } }

/-- Lstatus at trap entry (R361): PIE takes IE, IE falls, PL takes the interrupted level. -/
def entryStatus (st : Word) (run : Level) : Word :=
  putFld (putFld (putFld st 7 7 (fld st 3 3)) 3 3 0) 11 10 run.rank

/-- Lcause (R353). -/
def causeWord (code : Nat) (int : Bool) : Word := toWord ((if int then 2 ^ 63 else 0) + code)

/-- The trap CSRs of the level that takes a trap (R361). -/
def TrapRegs.enter (t : TrapRegs) (epc : Word) (code : Nat) (int : Bool) (val val2 : Word) (run : Level) : TrapRegs :=
  { t with epc := epc, cause := causeWord code int, val := val, val2 := val2, status := entryStatus t.status run }

/-- Handler address of Lvec (R353). -/
def vecAddr (v : Word) : Word := toWord (fld v 47 2 * 4)

/-- Levels whose handler is interrupted before its first instruction by a trap to `l` (R362). -/
def Ctx.interrupted (c : Ctx) (l : Level) : List Level := (c.first.toList ++ c.firsts).filter (· ≠ l)

/-- A trap to a level that handles a cause 31 is nested in that handler (R214). -/
def nestLate (l : Level) (late : Option (Level × Nat)) : Option (Level × Nat) :=
  late.map fun p => if p.1 = l then (l, p.2 + 1) else p

/-- A return from a level ends the trap nested last in its handling of a cause 31, or that handling (R214). -/
def unnestLate (l : Level) (late : Option (Level × Nat)) : Option (Level × Nat) :=
  late.bind fun p => if p.1 = l then (if p.2 = 0 then none else some (l, p.2 - 1)) else some p

/-- R361: take a trap to level `l`, the one way into every trap. -/
def State.takeTrap (s : State) (l : Level) (code : Nat) (int : Bool) (val val2 : Word) : State :=
  let t := s.dissolve 2
  let run := t.cx.level
  let epc := t.cx.precise
  let u := t.toLevel l
  { u with
    waiters := u.waiters.filter fun w => w.key ≠ u.cx.key
    cx := { u.cx.setTr l ((u.cx.tr l).enter epc code int val val2 run) with
      resv := none, hint := none, semWait := false, waiting := false, first := some l, firsts := u.cx.interrupted l,
      pc := vecAddr (u.cx.tr l).vec, halt := u.cx.halt.map Halt.move, late := nestLate l u.cx.late } }

/-- R356, R361, R362: the running context raises an exception. In the first handler instruction after an entry it goes one
level up, and at P the context stops and its site has failed. -/
def State.raise (s : State) (e : Exn) : State :=
  match s.cx.first with
  | none => s.takeTrap (s.cx.route e.cause false e.floor) e.cause false e.val e.val2
  | some .P => { s.retireUnit (.site s.cx.key.h) with cx := { s.cx with status := .failed } }
  | some l => s.takeTrap (levelOf (l.rank + 1)) e.cause false e.val e.val2

/-- A meaning's answer: the next state, or the trap it raises. -/
def State.orTrap (s : State) (r : Except Exn State) : Result :=
  match r with
  | .ok t => .next t
  | .error e => .next (s.raise e)

/-- Lstatus at a return (R364). -/
def returnStatus (st : Word) : Word := putFld (putFld (putFld st 3 3 (fld st 7 7)) 7 7 1) 11 10 0

/-- The running context's program counter set. -/
def State.setPc (s : State) (a : Word) : State := s.mapCx fun c => { c with pc := a }

/-- The running context at level `l`, with that level's registers loaded if it is another (R364). -/
def State.enterLevel (s : State) (l : Level) : State :=
  if s.cx.level = l then s else (s.mapCx fun c => { c with level := l }).loadX

/-- What a return from level `l` to level `r` ends: the handling of a cause 31 at `l` (R214), and the interruption of a handler of
`r` before its first instruction (R362). -/
def Ctx.returned (c : Ctx) (l r : Level) : Ctx :=
  { c with
    late := unnestLate l c.late
    first := if c.firsts.contains r then some r else none
    firsts := c.firsts.filter (· ≠ r) }

/-- R364: return from level `l`, which is running, to the level and address its entry saved. The dirty registers are written back
whichever level follows, and the registers of another level are loaded. -/
def State.trapReturn (s : State) (l : Level) : State :=
  let tr := s.cx.tr l
  let r := levelOf (fld tr.status 11 10)
  ((s.mapCx fun c => (c.advance.setTr l { tr with status := returnStatus tr.status }).returned l r).writeBack.enterLevel r).setPc
    tr.epc

/-! ## Interrupts -/

/-- A pending interrupt as a boundary sees it: code, floor, Lval, and bit 0 of Lval2. -/
structure Pending where
  code : Nat
  floor : Level
  val : Word
  merged : Bool
  deriving DecidableEq, Repr

/-- The interrupts pending in a context (R359): software, timers, external, and every queued event. -/
def Ctx.pending (c : Ctx) (now : Word) : List Pending :=
  let lev := fun (b : Bool) (code : Nat) (f : Level) => if b then [(⟨code, f, 0, false⟩ : Pending)] else []
  lev c.tt.swi 1 .T ++ lev c.td.swi 2 .D ++ lev c.tp.swi 3 .P ++
  lev (decide (c.tt.cmp ≤ now)) 5 .T ++ lev (decide (c.td.cmp ≤ now)) 6 .D ++ lev (decide (c.tp.cmp ≤ now)) 7 .P ++
  c.ext.map (fun e => ⟨8 + e.level.rank, e.level, toWord e.source, false⟩) ++
  c.irqs.map (fun e => ⟨e.code, e.floor, e.val, e.merged⟩)

/-- Lip of a level as read: the codes that route there (R353, R426), seen from level `run`. -/
def Ctx.pendingAt (c : Ctx) (now : Word) (run l : Level) : List Pending :=
  (c.pending now).filter fun p => routeFrom c p.code true p.floor run = l

/-- The order of codes within a level (R360). -/
def irqOrder : List Nat := [16, 17, 11, 10, 9, 3, 2, 1, 7, 6, 5, 19, 18, 20, 21, 13]

/-- Interrupts of level `l` are taken now (R360): a lower level runs, or `l` runs with IE set. -/
def Ctx.takes (c : Ctx) (l : Level) : Bool :=
  decide (c.level.rank < l.rank) || (c.level = l && fld (c.tr l).status 3 3 = 1)

/-- The first enabled interrupt that routes to `l`; of one code, the lowest floor first, then the oldest (R360, R426). -/
def Ctx.dueAt (c : Ctx) (now : Word) (l : Level) : Option Pending :=
  if c.takes l then
    let ps := c.pendingAt now c.level l
    (irqOrder.filter fun code => hasBit (c.tr l).ie code).findSome? fun code =>
      let q := ps.filter fun p => p.code = code
      (q.find? (·.floor = .T)).or ((q.find? (·.floor = .D)).or q.head?)
  else none

/-- A queue without its oldest event of a code and floor (R359). -/
def popIrq (q : List IrqEvent) (code : Nat) (floor : Level) : List IrqEvent :=
  match q with
  | [] => []
  | e :: r => if e.code = code && e.floor = floor then r else e :: popIrq r code floor

/-- Take an interrupt to level `l`: an event leaves its queue (R359, R361). -/
def State.takeIrq (s : State) (l : Level) (p : Pending) : State :=
  let t := s.takeTrap l p.code true p.val (if p.merged then 1 else 0)
  { t with cx := { t.cx with irqs := popIrq t.cx.irqs p.code p.floor } }

/-- The order of asynchronous exceptions (R360). Cause 34 is pending only where a member failed while the owner was parked
(R202). -/
def asyncOrder : List Nat := [34, 31, 33, 32, 29, 26]

/-- The first element of a list with the least measure. -/
def firstLeast {α : Type} (f : α → Nat) (l : List α) : Option α :=
  l.foldl (fun (acc : Option α) x => match acc with | some y => if f x < f y then some x else acc | none => some x) none

/-- The asynchronous exception due first: by code, then the oldest, for cause 31 by entry and for cause 33 by copy (R234, R360). A cause 31 waits for the return of the one before
(R214). -/
def Ctx.dueAsync (c : Ctx) : Option AsyncExc :=
  (asyncOrder.filter fun code => code ≠ 31 || c.late.isNone).findSome? fun code =>
    firstLeast AsyncExc.age (c.asyncs.filter (·.code = code))

/-- Take an asynchronous exception (R214, R360, R361). -/
def State.takeAsync (s : State) (a : AsyncExc) : State :=
  let l := s.cx.route a.code false a.floor
  let t := s.takeTrap l a.code false a.val a.val2
  { t with cx := { t.cx with asyncs := t.cx.asyncs.erase a, late := if a.code = 31 then some (l, 0) else t.cx.late } }

/-- What is taken at a boundary (R360). -/
inductive Due where
  | irq (l : Level) (p : Pending)
  | async (a : AsyncExc)
  deriving DecidableEq, Repr

/-- Interrupts routed to P come first (R360 item 1). -/
def Ctx.dueFirst (c : Ctx) (now : Word) : Option Due := (c.dueAt now .P).map (.irq .P)

/-- Asynchronous exceptions, then interrupts of D, then of T (R360 items 3 and 4). -/
def Ctx.dueLater (c : Ctx) (now : Word) : Option Due :=
  (c.dueAsync.map .async).or (((c.dueAt now .D).map (.irq .D)).or ((c.dueAt now .T).map (.irq .T)))

/-- Take what is due. -/
def State.takeDue (s : State) : Due → State
  | .irq l p => s.takeIrq l p
  | .async a => s.takeAsync a

/-- Post an asynchronous exception to a context, with the age of what raised it (R214, R234, R360). -/
def Ctx.asyncAged (c : Ctx) (code : Nat) (val val2 : Word) (floor : Level) (age : Nat) : Ctx :=
  { c with asyncs := c.asyncs ++ [⟨code, val, val2, floor, age⟩] }

/-- Post an asynchronous exception to a context; those of one code go in the order in which they come (R360). -/
def Ctx.async (c : Ctx) (code : Nat) (val val2 : Word) (floor : Level) : Ctx := c.asyncAged code val val2 floor 0

/-! ## Order and identity -/

/-- The running order advanced by one (the model's own clock for "older"). -/
def State.tickOrder (s : State) : State := { s with order := s.order + 1 }

/-- Requester of an access the running context makes (R429). -/
def Ctx.requester (c : Ctx) : Requester := ⟨c.level, c.leaf, c.fl⟩

/-- The context is at K, in an activation, under handler discipline: blocking forms raise cause 27 (R281). -/
def Ctx.handlerDiscipline (c : Ctx) : Bool := !c.thread

end Sys2Proof.Machine
end

