-- ==== Sys2Proof/Machine/Registers.lean ====
section
/-! DEFINITION. Platform MMIO as it reads: the register blocks, who reaches them, and what stands in force in them (R65, R66, R89,
R152, R310, R354, R372, R379, R382, R393, R396, R398, R406, R428, R429). -/

namespace Sys2Proof

/-- The number of a block. -/
def Block.num : Block → Nat
  | .leaf j => j
  | .first i => i

/-- The level a requester acts at: a context at K is a requester of its leaf at T (R429). -/
def Requester.acts (r : Requester) : Level :=
  match r.level with
  | .K => .T
  | l => l

/-- The requester is P. -/
def Requester.isP (r : Requester) : Bool := r.acts = .P

/-- The Fralis function of a requester (R393): 0 for P, 1 + i for D, 17 + j for T. -/
def Requester.fn (r : Requester) : Nat :=
  match r.acts with
  | .P => 0
  | .D => 1 + r.fl
  | _ => 17 + r.leaf

/-- The level of Fralis function `f` (R393): 0 P, 1 + i D, 17 + j T. -/
def fnLevel (f : Nat) : Level := if f = 0 then .P else if f < 17 then .D else .T

end Sys2Proof

namespace Sys2Proof.Machine

/-! ## Register blocks (R66, R89, R310, R354, R372, R379, R382, R396, R398, R406) -/

/-- The word whose set bits are given. -/
def maskOf (bits : List Nat) : Word := bits.foldl (fun w b => w ||| BitVec.twoPow 64 b) 0

/-- Exceptions whose floor can be T. -/
def tExceptions : List Nat := [0, 1, 2, 3, 4, 5, 6, 7, 8, 12, 13, 15, 24, 25, 26, 27, 28, 29, 30, 31, 32, 33, 34, 35, 36, 37, 40]

/-- Delegable exceptions of P: a floor below P (R358). -/
def pedelegMask : Word := maskOf (tExceptions ++ [9, 20, 21, 23])

/-- Delegable exceptions of D: a floor below D (R358). -/
def dedelegMask : Word := maskOf tExceptions

/-- Delegable interrupts of P (R359, R426). -/
def pidelegMask : Word := maskOf [1, 2, 5, 6, 9, 10, 13, 18, 19, 20, 21]

/-- Delegable interrupts of D (R359, R426). -/
def didelegMask : Word := maskOf [1, 5, 9, 13, 18, 19, 20, 21]

def firstBlock (i : Nat) : Nat := mmioBase + 0x1000 + 64 * i
def leafBlock (j : Nat) : Nat := mmioBase + 0x2000 + 64 * j
def qosBlock (j : Nat) : Nat := mmioBase + 0x3000 + 64 * j
def trapTemplate (j : Nat) : Nat := mmioBase + 0x4000 + 64 * j
def countTemplate (j : Nat) : Nat := mmioBase + 0x5000 + 128 * j
def migBlock (j : Nat) : Nat := mmioBase + 0x7000 + 64 * j
def aclEntry (i : Nat) : Nat := mmioBase + 0x8000 + 16 * i
def switchBlock (j : Nat) : Nat := mmioBase + 0x9000 + 64 * j
def debugBlock (f : Nat) : Nat := mmioBase + 0xB000 + 64 * f
def preemptBlock (h : Nat) : Nat := mmioBase + 0x20000 + 64 * h
def queueBlock (q : Nat) : Nat := mmioBase + 0x100000 + 64 * q

/-- A name for offset `o` of the window of Fralis function `f` (R393): beyond the device map, it is no address of a core. -/
def windowAddr (f o : Nat) : Nat := 0x1000000000000 + f * 0x100000 + o

/-- The block of a partition. -/
def blockAddr : Block → Nat
  | .first i => firstBlock i
  | .leaf j => leafBlock j

/-- The register at `a`, as reset leaves it: quotas of 32, templates that delegate everything (R310, R354); an interrupt
message entry is masked. -/
def regReset (a : Nat) : Word :=
  let o := a - mmioBase
  if 0x3000 ≤ o && o < 0x4000 then (if o % 64 < 0x20 then 32 else 0)
  else if 0x4000 ≤ o && o < 0x5000 then
    match o % 64 with
    | 0x10 => dedelegMask
    | 0x18 => didelegMask
    | 0x28 => pedelegMask
    | 0x30 => pidelegMask
    | _ => 0
  else if windowAddr 0 0 ≤ a && 0x40000 ≤ a % 0x100000 && a % 0x100000 < 0x40400 && a % 16 = 8 then BitVec.twoPow 64 32
  else 0

/-- A register that holds what was written to it. -/
def State.reg (s : State) (a : Nat) : Word := tabGet s.regs a (regReset a)

/-- The register at `a` set. -/
def State.setReg (s : State) (a : Nat) (v : Word) : State := { s with regs := tabPut s.regs a v }

/-! ## Partitions in force (R89, R90) -/

/-- A list with the record that `same` picks replaced, or the record added at the end. -/
def upsert {α : Type} (same : α → Bool) (x : α) (l : List α) : List α :=
  if l.any same then l.map fun y => if same y then x else y else l ++ [x]

/-- A partition block that is FREE. -/
def Part.none (b : Block) : Part := ⟨b, .free, 0, 0, 0, 0, 0, 0, 0⟩

/-- The partition of a block. -/
def State.part (s : State) (b : Block) : Part := (s.parts.find? fun p => p.blk = b).getD (Part.none b)

/-- The partition of a block set. -/
def State.setPart (s : State) (p : Part) : State := { s with parts := upsert (fun q => q.blk = p.blk) p s.parts }

/-- The leaves, and the first-level spans, that are ACTIVE. -/
def State.activeParts (s : State) (leaf : Bool) : List Part :=
  s.parts.filter fun p => p.st = .active && (match p.blk with | .leaf _ => leaf | .first _ => !leaf)

/-- Queue q lies in the range in force. -/
def Part.hasQueue (p : Part) (q : Nat) : Bool := decide (p.qfirst ≤ q) && decide (q < p.qfirst + p.qcnt)

/-- The queue's leaf (R428). A number above 4,095 stands for an earlier registration of its residue (R67). -/
def State.queueLeaf (s : State) (q : Nat) : Option Nat :=
  ((s.activeParts true).find? fun p => p.hasQueue (q % 4096)).map fun p => p.blk.num

/-- The first-level span whose PQRANGE holds the queue (R428). -/
def State.queueFirst (s : State) (q : Nat) : Option Nat :=
  ((s.activeParts false).find? fun p => p.hasQueue (q % 4096)).map fun p => p.blk.num

/-- Every right (R90). -/
def allRights : BitVec 10 := BitVec.allOnes 10

/-- The mask that an operation of the requester checks (R92): the leaf's, the first-level span's, or every right for P. -/
def State.rightsOf (s : State) (r : Requester) : BitVec 10 :=
  match r.level with
  | .P => allRights
  | .D => let p := s.part (.first r.fl); if p.st = .free then 0 else p.rights
  | .T | .K => let p := s.part (.leaf r.leaf); if p.st = .free then 0 else p.rights

def rightCreateSub : Nat := 0
def rightQos : Nat := 1
def rightDebug : Nat := 2
def rightCounters : Nat := 3
def rightQueues : Nat := 4
def rightCompose : Nat := 5
def rightXop : Nat := 6
def rightPeerLaunch : Nat := 7
def rightMigrate : Nat := 8

/-- The requester holds a right. -/
def State.holds (s : State) (r : Requester) (right : Nat) : Bool := (s.rightsOf r).getLsbD right

/-- Leaf `j` is the requester's: any for P, a leaf of its first-level span for D, its own for T. -/
def State.ownsLeaf (s : State) (r : Requester) (j : Nat) : Bool :=
  match r.acts with
  | .P => true
  | .D => (s.part (.leaf j)).st ≠ .free && (s.part (.leaf j)).parent = r.fl
  | _ => r.leaf = j

/-- R65: the requester reaches queue `q`. -/
def State.reachesQueue (s : State) (r : Requester) (q : Nat) : Bool :=
  decide (q < 4096) &&
  match r.acts with
  | .P => true
  | .D => let p := s.part (.first r.fl); p.st = .active && p.hasQueue q
  | _ => let p := s.part (.leaf r.leaf); p.st = .active && p.hasQueue q

/-- Contexts placed in a leaf or below a first-level span, resident or saved (R89, R95). -/
def State.nctx (s : State) (b : Block) : Nat :=
  (s.ctxs.filter fun c => c.status ≠ .free && (match b with | .leaf j => c.leaf = j | .first i => c.fl = i)).length

/-- Writes of a requester to a block take effect (R89). -/
def State.writesBlock (s : State) (b : Block) (r : Requester) : Bool :=
  match r.acts, b with
  | .P, _ => true
  | .D, .leaf j => (s.part b).st = .free || (s.part (.leaf j)).parent = r.fl
  | _, _ => false

/-- Reads of a requester of a block return its registers (R89). -/
def State.readsBlock (s : State) (b : Block) (r : Requester) : Bool :=
  match r.acts, b with
  | .P, _ => true
  | .D, .first i => i = r.fl
  | .D, .leaf _ => s.writesBlock b r
  | _, .leaf j => j = r.leaf
  | _, .first _ => false

/-- PSTAT (R89). Where boot has halted, STATE reads FREE everywhere and REASON the step that failed (R401): DESIGN CHOICE (127), the rule
does not say which field reports it. -/
def State.pstat (s : State) (b : Block) : Word :=
  match s.sol.boot with
  | .halted n => toWord (n * 2 ^ 36)
  | .reset | .done =>
    let p := s.part b
    let st := match p.st with | .free => 0 | .active => 1 | .changing => 2
    toWord (s.nctx b + st * 2 ^ 32 + p.reason * 2 ^ 36)

/-- The quotas in force of a leaf; 32 each at reset. -/
def State.quotas (s : State) (j : Nat) : Qos := (s.qos.find? fun q => q.leaf = j).getD ⟨j, 32, 32, 32, 32, 0⟩

/-- QOSSTAT (R310): REASON; the check and its outcome are one step, so STATE reads idle. -/
def Qos.stat (q : Qos) : Word := toWord (q.reason * 2 ^ 36)

/-- The quotas of a leaf set. -/
def State.setQuotas (s : State) (q : Qos) : State := { s with qos := upsert (fun x => x.leaf = q.leaf) q s.qos }

/-! ## Launch queues in force (R66, R67) -/

/-- An unregistered queue. -/
def Queue.none (q : Nat) : Queue := ⟨q, .unreg, 0, 0, 0, 0, 0, 0, .T, false, 0, 0, 0, false, [], []⟩

/-- Queue `q`. -/
def State.queue (s : State) (q : Nat) : Queue := (s.queues.find? fun x => x.q = q).getD (Queue.none q)

/-- Queue `x.q` set. -/
def State.setQueue (s : State) (x : Queue) : State := { s with queues := upsert (fun y => y.q = x.q) x s.queues }

/-- Size of a queue in packets. -/
def Queue.size (x : Queue) : Nat := 2 ^ x.lsz

/-- QSTAT (R66): bit 40 copies KSUB of QCFG as it stands. -/
def State.qstat (s : State) (q : Nat) : Word :=
  let x := s.queue q
  let st := match x.st with | .unreg => 0 | .active => 1 | .error => 2
  toWord (x.ridx.toNat + st * 2 ^ 32 + x.reason * 2 ^ 36 + fld (s.reg (queueBlock q + 8)) 5 5 * 2 ^ 40)

/-- The queue loses its registration (R67): packets not yet consumed are dropped. QWIDX reads RIDX afterwards: DESIGN CHOICE (87),
the spec does not say what it reads. -/
def Queue.unregister (x : Queue) : Queue := { x with st := .unreg, widx := x.ridx, cancelled := [] }

/-- First queue of a Fralis function (R393). -/
def State.functionFirst (s : State) (f : Nat) : Nat :=
  if f = 0 then 0
  else if f < 17 then (s.part (.first (f - 1))).qfirst
  else (s.part (.leaf (f - 17))).qfirst

/-! ## Migration, switch, access control, pre-emption and debug blocks (R372, R382, R396, R398, R406) -/

/-- The migration block of a leaf. -/
def State.mig (s : State) (leaf : Nat) : Mig := (s.migs.find? fun m => m.leaf = leaf).getD ⟨leaf, 0, 0, .idle, 0, 0, 0⟩

/-- A migration block set. -/
def State.setMig (s : State) (m : Mig) : State := { s with migs := upsert (fun x => x.leaf = m.leaf) m s.migs }

/-- The state code of MIGSTAT (R382). -/
def migCode : MigState → Nat
  | .idle => 0
  | .quiesce => 1
  | .check => 2
  | .transfer => 3
  | .done => 4
  | .refused => 5

/-- QUIESCE is over (R383 step 1): every context is in its image, and no product that the kernel only owns or feeds is left to be
delivered. -/
def State.quiescent (s : State) (kid : Nat) : Bool :=
  let mine := fun (k : Key) => (s.owner? k).any fun c => c.kid = kid
  (s.ctxs.all fun c => c.kid ≠ kid || c.status = .free || c.status = .saved) &&
    s.links.all fun x => !(!x.feed && x.st = .delivering &&
      (mine x.owner || (x.feedA.any fun p => mine p.1) || x.feedB.any fun p => mine p.1))

/-- The state of a migration that MIGSTAT shows: one whose QUIESCE is over is in CHECK (R382, R383). -/
def State.migState (s : State) (m : Mig) : MigState := if m.st = .quiesce && s.quiescent m.kid then .check else m.st

/-- MIGSTAT (R382). -/
def State.migstat (s : State) (leaf : Nat) : Word :=
  let m := s.mig leaf
  toWord (m.kib % 2 ^ 32 + migCode (s.migState m) * 2 ^ 32 + m.reason * 2 ^ 36)

/-- R382: writes of a requester to a migration block take effect. -/
def State.writesMig (s : State) (leaf : Nat) (r : Requester) : Bool :=
  r.isP || (s.ownsLeaf r leaf && s.holds r rightMigrate)

/-- The switch block of a leaf. -/
def State.swBlock (s : State) (leaf : Nat) : SwitchBlock := (s.switchBlocks.find? fun b => b.leaf = leaf).getD ⟨leaf, 0, none⟩

/-- A switch block set. -/
def State.setSwBlock (s : State) (b : SwitchBlock) : State :=
  { s with switchBlocks := upsert (fun x => x.leaf = b.leaf) b s.switchBlocks }

/-- R398: the requester reaches the switch block of a leaf. -/
def State.reachesSwitch (s : State) (leaf : Nat) (r : Requester) : Bool := s.ownsLeaf r leaf

/-- Entry `i` of the access-control table (R396). -/
def State.acl (s : State) (i : Nat) : BitVec 128 := s.reg (aclEntry i + 8) ++ s.reg (aclEntry i)

/-- SLOT and KIND of PRECTX. -/
def State.preSlot (s : State) (h : Nat) : Nat := fld (s.reg (preemptBlock h)) 2 0
def State.preKind (s : State) (h : Nat) : Nat := fld (s.reg (preemptBlock h)) 9 8

/-- The context saved from a slot of a site, in its image or on its way back. -/
def State.savedAt (s : State) (h slot : Nat) : Option Ctx :=
  let l := s.ctxs.filter fun c => c.key.h = h && c.key.slot % 8 = slot && (c.status = .saved || c.status = .restoring)
  (l.find? (·.status = .restoring)).or l.head?

/-- The context that PRECTX names at a slot of a site (R372, R378): one on its way back to the slot, else the resident one, else one saved
from it. -/
def State.slotCtx (s : State) (h slot : Nat) : Option Ctx :=
  ((s.savedAt h slot).filter (·.status = .restoring)).or ((s.ctx? ⟨h, slot⟩).or (s.savedAt h slot))

/-- The state of a context in PRESTAT (R372): 0 RESIDENT, 1 SAVING, 2 SAVED, 3 RESTORING. -/
def Ctx.preState (c : Ctx) : Nat :=
  match c.status with
  | .saved => 2
  | .restoring => 3
  | .saving => 1
  | _ => if c.saveReq.isSome then 1 else 0

/-- PRESTAT as read (R372, R374). -/
def State.prestat (s : State) (h : Nat) : Word :=
  s.reg (preemptBlock h + 0x10) ||| toWord (((s.slotCtx h (s.preSlot h)).map Ctx.preState).getD 0 * 2 ^ 32)

/-- The context is HALTED (R406). -/
def Ctx.haltedNow (c : Ctx) : Bool := c.halt.any (·.halted)

/-- The requester that a Fralis function is (R429). -/
def State.fnRequester (s : State) (f : Nat) : Requester :=
  match fnLevel f with
  | .P => ⟨.P, 0, 0⟩
  | .D => ⟨.D, 0, f - 1⟩
  | _ => ⟨.T, f - 17, (s.part (.leaf (f - 17))).parent⟩

/-- The span whose relative indices a requester uses: its leaf's, its first-level span's, or the whole mesh. -/
def State.spanFor (s : State) (r : Requester) : Nat × Nat :=
  match r.acts with
  | .P => (0, 1024)
  | .D => ((s.part (.first r.fl)).base, (s.part (.first r.fl)).len)
  | _ => ((s.part (.leaf r.leaf)).base, (s.part (.leaf r.leaf)).len)

/-- A context lies in a requester's reach. -/
def Ctx.inReach (c : Ctx) (r : Requester) : Bool :=
  match r.acts with
  | .P => true
  | .D => c.fl = r.fl
  | _ => c.leaf = r.leaf

/-- The resident context at a relative index and slot, if the requester reaches it. -/
def State.reached (s : State) (r : Requester) (rel slot : Nat) : Option Ctx :=
  (s.ctx? ⟨(s.spanFor r).1 + rel, slot⟩).filter fun c => c.inReach r

/-- SITE and SLOT of DBGSEL. -/
def State.debugRel (s : State) (f : Nat) : Nat := fld (s.reg (debugBlock f)) 9 0
def State.debugSlot (s : State) (f : Nat) : Nat := fld (s.reg (debugBlock f)) 18 16

/-- The selected context, if the function reaches it. -/
def State.debugCtx (s : State) (f : Nat) : Option Ctx := s.reached (s.fnRequester f) (s.debugRel f) (s.debugSlot f)

/-- The selected context when this session holds it HALTED. -/
def State.debugHeld (s : State) (f : Nat) : Option Ctx :=
  (s.debugCtx f).filter fun c => c.halt.any fun h => h.session = f && h.halted

/-- DBGSTAT (R406). -/
def State.dbgstat (s : State) (f : Nat) : Word :=
  let st :=
    if !s.sessions.contains f then 0
    else
      match (s.debugCtx f).bind (·.halt) with
      | none => 1
      | some h => if h.session ≠ f || (h.stepping && !h.halted) then 1 else if h.halted then 3 else 2
  s.reg (debugBlock f + 0x10) ||| toWord (st * 2 ^ 32)

/-- DBGPC as read (R406): meaningful while HALTED; otherwise it reads 0. -/
def State.dbgpc (s : State) (f : Nat) : Word :=
  match s.debugHeld f with
  | none => 0
  | some c => (c.halt.bind (·.pc)).getD c.pc

/-- DBGXVAL as read (R406): a register of the halted context; otherwise it reads 0. -/
def State.dbgxval (s : State) (f : Nat) : Word :=
  match s.debugHeld f with
  | none => 0
  | some c => c.getX (BitVec.ofNat 5 (fld (s.reg (debugBlock f + 0x20)) 4 0))

/-! ## Which register (R66, R89, R393) -/

/-- A register of platform MMIO or of a function window: its block, and the offset within the block. -/
inductive MmioReg where
  | part (b : Block) (o : Nat)
  | qos (j o : Nat)
  | trap (j o : Nat)
  | counter (j i : Nat)
  | mig (j o : Nat)
  | acl (i : Nat) (high : Bool)
  | switch (j o : Nat)
  | debug (f o : Nat)
  | preempt (h o : Nat)
  | queue (q o : Nat)
  /-- Interrupt message table of a function window. -/
  | message (f i : Nat) (high : Bool)
  /-- External-interrupt register of a function window. -/
  | xirq (f : Nat)
  /-- Inspection window: selector 0, index 8, value 16. -/
  | inspection (f o : Nat)
  | none
  deriving DecidableEq, Repr

/-- The register at offset `o` of platform MMIO, a multiple of 8; a switch block also has one at 0x0C. -/
def mmioReg (o : Nat) : MmioReg :=
  if o < 0x1000 then .none
  else if o < 0x1400 then .part (.first ((o - 0x1000) / 64)) (o % 64)
  else if o < 0x2000 then .none
  else if o < 0x3000 then .part (.leaf ((o - 0x2000) / 64)) (o % 64)
  else if o < 0x4000 then .qos ((o - 0x3000) / 64) (o % 64)
  else if o < 0x5000 then .trap ((o - 0x4000) / 64) (o % 64)
  else if o < 0x7000 then .counter ((o - 0x5000) / 128) (o % 128 / 8)
  else if o < 0x8000 then .mig ((o - 0x7000) / 64) (o % 64)
  else if o < 0x9000 then .acl ((o - 0x8000) / 16) (o % 16 = 8)
  else if o < 0xA000 then .switch ((o - 0x9000) / 64) (o % 64)
  else if o < 0xB000 then .none
  else if o < 0xC440 then .debug ((o - 0xB000) / 64) (o % 64)
  else if o < 0x20000 then .none
  else if o < 0x30000 then .preempt ((o - 0x20000) / 64) (o % 64)
  else if o < 0x100000 then .none
  else if o < 0x140000 then .queue ((o - 0x100000) / 64) (o % 64)
  else .none

/-- The register at offset `o` of the window of function `f` (R393). -/
def State.windowReg (s : State) (f o : Nat) : MmioReg :=
  if o < 0x40000 then .queue (s.functionFirst f + o / 64) (o % 64)
  else if o < 0x40400 then .message f ((o - 0x40000) / 16) (o % 16 = 8)
  else if o = 0x50000 then .xirq f
  else if 0x60000 ≤ o && o < 0x60040 then
    (if f = 0 then .none else if f < 17 then .part (.first (f - 1)) (o % 64) else .part (.leaf (f - 17)) (o % 64))
  else if 0x70000 ≤ o && o < 0x70018 then .inspection f (o % 64)
  else if 0x80000 ≤ o && o < 0x80040 then .debug f (o % 64)
  else .none

/-! ## Reads (R65, R429) -/

/-- The bits hi..lo set. -/
def span (hi lo : Nat) : Word := toWord (2 ^ (hi + 1) - 2 ^ lo)

/-- A write of D to an access-control entry is allowed: the entry is D's before and after, and its queues lie inside D's range
(R396). -/
def State.aclMine (s : State) (r : Requester) (e : BitVec 128) : Bool :=
  let p := s.part (.first r.fl)
  p.st ≠ .free && e.getLsbD 1 &&
    (fld e 69 57 = 0 || (decide (p.qfirst ≤ fld e 56 45) && decide (fld e 56 45 + fld e 69 57 ≤ p.qfirst + p.qcnt)))

/-- The requester reads the entry. -/
def State.aclReads (s : State) (r : Requester) (i : Nat) : Bool := r.isP || (r.acts = .D && s.aclMine r (s.acl i))

/-- A register of a queue block as it reads (R66). -/
def State.queueReg (s : State) (q o : Nat) : Word :=
  let x := s.queue q
  match o with
  | 0x00 => s.reg (queueBlock q)
  | 0x08 => s.reg (queueBlock q + 8)
  | 0x18 => s.qstat q
  | 0x20 => x.widx.setWidth 64
  | 0x28 => x.erridx.setWidth 64
  | _ => 0

/-- A register of a partition block as it reads (R89). PSPAN, PRIGHTS and PQRANGE read what is staged: DESIGN CHOICE (88), the spec
does not say whether they read that or what is in force. -/
def State.partReg (s : State) (b : Block) (o : Nat) : Word :=
  match o with
  | 0x00 | 0x08 | 0x10 => s.reg (blockAddr b + o)
  | 0x20 => s.pstat b
  | _ => 0

/-- A register of a debug block as it reads (R406). -/
def State.debugReg (s : State) (f o : Nat) : Word :=
  match o with
  | 0x00 | 0x20 => s.reg (debugBlock f + o)
  | 0x10 => s.dbgstat f
  | 0x18 => s.dbgpc f
  | 0x28 => s.dbgxval f
  | _ => 0

/-- What a read of a register returns to a requester; out of its reach, and of a write-only or reserved register, 0. `host`
says that the access comes through a function window. -/
def State.mmioRead (s : State) (r : Requester) (host : Bool) : MmioReg → Word
  | .part b o => if s.readsBlock b r then s.partReg b o else 0
  | .qos j o =>
    if !s.ownsLeaf r j then 0
    else if o < 0x20 then s.reg (qosBlock j + o)
    else if o = 0x28 then (s.quotas j).stat
    else 0
  | .trap j o => if s.ownsLeaf r j then s.reg (trapTemplate j + o) else 0
  | .counter j i => if s.ownsLeaf r j then s.reg (countTemplate j + 8 * i) else 0
  | .mig j o =>
    if !s.writesMig j r then 0
    else
      match o with
      | 0x00 | 0x08 => s.reg (migBlock j + o)
      | 0x18 => s.migstat j
      | _ => 0
  | .acl i high => if s.aclReads r i then s.reg (aclEntry i + (if high then 8 else 0)) else 0
  | .switch j o =>
    if !s.reachesSwitch j r then 0
    else if o = 0x38 then toWord (s.swBlock j).stat
    else if o = 0x30 then 0
    else s.reg (switchBlock j + o)
  | .debug f o => if host || r.isP then s.debugReg f o else 0
  | .preempt h o =>
    if !r.isP then 0
    else
      match o with
      | 0x00 => s.reg (preemptBlock h)
      | 0x10 => s.prestat h
      | _ => 0
  | .queue q o => if s.reachesQueue r q then s.queueReg q o else 0
  | .message f i high => if host then s.reg (windowAddr f (0x40000 + 16 * i + (if high then 8 else 0))) else 0
  | .inspection f o => if host && (o = 0 || o = 8) then s.reg (windowAddr f (0x70000 + o)) else 0
  | .xirq _ | .none => 0

/-- The register is one that only an access of its own width reaches (R408). -/
def MmioReg.isSwitch : MmioReg → Bool
  | .switch _ _ => true
  | _ => false

/-- A register of a switch block is four bytes wide (R408). -/
def MmioReg.bytes : MmioReg → Nat
  | .switch _ o => if o = 0x08 || o = 0x0C then 4 else 8
  | _ => 8

/-- The doubleword that holds an address, as registers answer it; a switch block is not reached so. -/
def State.mmioDouble (s : State) (r : Requester) (a : Nat) : Nat :=
  let g := mmioReg (a / 8 * 8 - mmioBase)
  if g.isSwitch then 0 else (s.mmioRead r false g).toNat

/-- A load of `n` bytes from platform MMIO: a register, a part of one, or several (R112, R408). -/
def State.mmioLoad (s : State) (r : Requester) (a n : Nat) : Nat :=
  let g := mmioReg (a - mmioBase)
  if g.isSwitch then (if n = g.bytes && a % n = 0 then (s.mmioRead r false g).toNat else 0)
  else
    let words := (List.range (n / 8 + 1)).foldr (fun i acc => s.mmioDouble r (a + 8 * i) + acc <<< 64) 0
    (words >>> (8 * (a % 8))) % 2 ^ (8 * n)

end Sys2Proof.Machine
end

