-- ==== Sys2Proof/Machine/Address.lean ====
section
/-! DEFINITION. Addresses: regions, windows, the three stages of translation, and homes (R104 to R124). -/

namespace Sys2Proof.Machine

/-! ## Regions (R105) -/

/-- The regions of the program address space (R105). -/
inductive Region where
  | global | siteWindow | localWindow | nowhere
  deriving DecidableEq, Repr

/-- First address of the site-window region (R105). -/
def siteWindowBase : Nat := 0xFFFFFF0000000000

/-- First address of the local window (R105). -/
def localWindowBase : Nat := 0xFFFFFFFFFFF00000

/-- The region of an address (R105). -/
def regionOf (va : Word) : Region :=
  let v := va.toNat
  if v < 0x1000000000000 then .global
  else if localWindowBase ≤ v then .localWindow
  else if siteWindowBase ≤ v && v < siteWindowBase + 0x100000000 then .siteWindow
  else .nowhere

/-! ## The device physical map (R107) -/

/-- The place lies in platform MMIO (R107). -/
def isMmio (pa : Nat) : Bool := decide (mmioBase ≤ pa) && decide (pa < 0x400000000000)

/-- The place lies in the site windows of the physical map (R107). -/
def isSiteWindow (pa : Nat) : Bool := decide (siteBase ≤ pa) && decide (pa < siteBase + 0x100000000)

/-- The place lies in the peer region (R107). -/
def isPeer (pa : Nat) : Bool := decide (0x800000000000 ≤ pa) && decide (pa < 0x1000000000000)

/-- The place belongs to the fabric switch, module 1,023 of the peer region (R398). -/
def isSwitch (pa : Nat) : Bool := isPeer pa && (pa >>> 37) % 1024 = 1023

/-- An address that a stage-3 output may name (R107): populated, and the site windows at P only. -/
def validPlace (lvl : Level) (pa : Nat) : Bool :=
  if pa < 0x14000000000 then true
  else if pa < 0x100000000000 then false
  else if pa < 0x200000000000 then decide (pa - 0x100000000000 < cxlBelow 4)
  else if pa < siteBase then false
  else if pa < siteBase + 0x100000000 then lvl = .P
  else if pa < mmioBase then false
  else if pa < 0x400000000000 then true
  else if pa < 0x800000000000 then decide (pa - 0x400000000000 < Config.hostBytes)
  else decide (pa < 0x1000000000000)

/-! ## Translation (R108 to R114) -/

/-- A stage whose root has E = 0 (R108). -/
def passThrough (input : Nat) : StageOut := ⟨input, 0x1000000000000, true, true, true, true, 0, none, false, false⟩

/-- Bits hi..lo of an entry. -/
def ebits (e hi lo : Nat) : Nat := (e >>> lo) % 2 ^ (hi - lo + 1)

/-- One bit of an entry. -/
def ebit (e i : Nat) : Bool := (e >>> i) % 2 = 1

/-- The permissions a request needs (R112). -/
def permits (acc : Access) (o : StageOut) : Bool :=
  match acc with
  | .fetch => o.x
  | .load => o.r
  | .store => o.w
  | .amo => o.r && o.w

/-- A part of a walk: its answer or its failure, and the stage-2 and stage-3 entries that the walk has used so far (R113, R115). -/
abbrev Walker := ExceptT WalkFail (StateM (List UsedEntry))

/-- A read of an entry table, through the stages below. -/
abbrev TableRead := Nat → Walker Nat

/-- The stage answers `o` further up in its page. -/
def StageOut.up (a : StageOut) (o : Nat) : StageOut := { a with out := a.out + o }

/-- The stage answers `o` further down in its page. -/
def StageOut.down (a : StageOut) (o : Nat) : StageOut := { a with out := a.out - o }

/-- A walk uses the entry of a stage and a span that translates an input; a stage that is off has none (R108). -/
def useEntry (stage span input : Nat) (o : StageOut) : Walker StageOut := do
  if o.entry then modify (· ++ [⟨stage, span, input / o.size * o.size, o.down (input % o.size)⟩])
  return o

/-- The checks that every extent entry shares (R110, R111): V, W without R, reserved bits, MT. -/
def extentOk (stage e : Nat) : Bool :=
  ebit e 0 && (ebit e 1 || !ebit e 2) && ebits e 63 52 = 0 && ebits e 15 9 = 0 && !ebit e 5 &&
  (stage = 3 || (!ebit e 8 && ebits e 51 48 = 0))

/-- The answer of a block or granule entry that maps `size` bytes (R111). -/
def extentLeaf (stage e size input : Nat) : Walker StageOut :=
  let out := ebits e 51 16 * 0x10000
  if ebits e 7 6 = 3 || out % size ≠ 0 then throw ⟨stage, input, false⟩
  else return ⟨out + input % size, size, ebit e 1, ebit e 2, ebit e 3, true, ebits e 7 6, none, ebit e 8, true⟩

/-- R111: an extent map of two levels. -/
def extentWalk (rd : TableRead) (stage : Nat) (root : Word) (input : Nat) : Walker StageOut := do
  if !hasBit root 63 then return passThrough input
  let d ← rd (fld root 51 17 * 0x20000 + 8 * ebits input 47 34)
  if !extentOk stage d then throw ⟨stage, input, false⟩
  if ebit d 4 then extentLeaf stage d 0x400000000 input
  else
    if ebits d 3 1 ≠ 0 || ebits d 8 6 ≠ 0 then throw ⟨stage, input, false⟩
    let e ← rd (ebits d 51 16 * 0x10000 + 8 * ebits input 33 21)
    if !extentOk stage e || ebit e 4 then throw ⟨stage, input, false⟩
    extentLeaf stage e 0x200000 input

/-- Who makes an access to memory: its level, leaf and first-level span, the interval that homes its lines, and the die whose
walkers serve it. -/
structure Client where
  lvl : Level
  leaf : Nat
  fl : Nat
  base : Nat
  len : Nat
  die : Nat
  deriving DecidableEq, Repr

/-- The die of a site (R8). -/
def dieOf (h : Nat) : Nat := h / 256

/-- The running level's accesses of a context (R108, R121). -/
def Ctx.client (c : Ctx) : Client := ⟨c.level, c.leaf, c.fl, c.leafBase, c.leafLen, dieOf c.key.h⟩

/-- f(g) of R122. -/
def homeHash (g : Nat) : Nat := ((g ^^^ (g >>> 17)) * 2654435761) % 0x100000000

/-- The site at a position of the home interval (R121): the whole package for a shared granule, else the client's leaf. -/
def homeAt (cl : Client) (shared : Bool) (pos : Nat) : Nat := if shared then pos % 1024 else cl.base + pos % cl.len

/-- The home of a line without tile coordinates (R122). -/
def plainHome (cl : Client) (shared : Bool) (pa : Nat) : Nat := homeAt cl shared (homeHash (pa / 0x1000))

/-- A doubleword of a translation table, read where it lies (R113): at the register that platform MMIO has there, at the device for device
type, else at the home of its line. An uncorrectable error there, or a device that was removed, ends the walk as stage 0 (R395). -/
def State.tableLoad (s : State) (cl : Client) (shared : Bool) (mt pa : Nat) : Walker Nat :=
  let place := if mt = 2 then pa else s.placeAt (plainHome cl shared pa) pa
  if isMmio pa then return s.mmioLoad ⟨cl.lvl, cl.leaf, cl.fl⟩ pa 8
  else if s.broken place 8 then throw ⟨0, pa, true⟩
  else return s.load place 8

/-- The entry of a stage that the extent cache of the client's die holds for an input (R115). -/
def State.extHit (s : State) (cl : Client) (stage span input : Nat) : Option StageOut :=
  (s.ext.find? fun e => e.die = cl.die && e.entry.stage = stage && e.entry.span = span &&
    e.entry.input = input / e.entry.out.size * e.entry.out.size).map fun e => e.entry.out.up (input % e.entry.out.size)

/-- An extent map as a die reads it: from its extent cache, else from the tables (R111, R115). -/
def State.extent (s : State) (cl : Client) (rd : TableRead) (stage span : Nat) (root : Word) (input : Nat) : Walker StageOut := do
  let o ← match s.extHit cl stage span input with
    | some o => pure o
    | none => extentWalk rd stage root input
  useEntry stage span input o

/-- Stage 3 (R107, R108, R111). -/
def State.stage3 (s : State) (cl : Client) (input : Nat) : Walker StageOut := do
  let o ← s.extent cl (s.tableLoad cl false 0) 3 cl.fl (tabGet s.patp cl.fl 0) input
  if validPlace cl.lvl o.out then return o
  throw ⟨3, input, false⟩

/-- A failure met on a table read of an earlier stage (R113, R114). -/
def onTable {α : Type} (r : Walker α) : Walker α := tryCatch r fun f => throw { f with table := true }

/-- A stage as a table read passes it: V and R (R113). -/
def readable (stage input : Nat) (r : Walker StageOut) : Walker StageOut := do
  let o ← onTable r
  if o.r then return o
  throw ⟨stage, input, true⟩

/-- A table read whose address is a stage-3 input, after a stage of memory type `mt` (R113). -/
def State.tableRead3 (s : State) (cl : Client) (mt : Nat) : TableRead := fun a => do
  let o ← readable 3 a (s.stage3 cl a)
  s.tableLoad cl o.shared (max mt o.mt) o.out

/-- Stage 2 (R108, R111). -/
def State.stage2 (s : State) (cl : Client) (input : Nat) : Walker StageOut :=
  s.extent cl (s.tableRead3 cl 0) 2 cl.leaf (putFld (tabGet s.datp cl.leaf 0) 51 48 0) input

/-- A table read whose address is a stage-2 input: its memory type is the largest of the stages that follow (R113). -/
def State.tableRead2 (s : State) (cl : Client) : TableRead := fun a => do
  let o ← readable 2 a (s.stage2 cl a)
  s.tableRead3 cl o.mt o.out

/-- The checks a stage-1 entry shares (R110): V, W without R, the reserved bits, OUT within the stage-2 input. -/
def radixOk (e : Nat) : Bool := ebit e 0 && (ebit e 1 || !ebit e 2) && ebits e 7 5 = 0 && ebits e 51 48 = 0

/-- The entry is a pointer: R = W = X = 0 (R110). -/
def radixPointer (e : Nat) : Bool := ebits e 3 1 = 0

/-- The answer of a leaf that maps `size` bytes (R110). -/
def radixLeaf (e size va : Nat) : Walker StageOut :=
  let out := ebits e 51 12 * 0x1000
  if ebits e 11 10 = 3 || out % size ≠ 0 then throw ⟨1, va, false⟩
  else return ⟨out + va % size, size, ebit e 1, ebit e 2, ebit e 3, ebit e 4, ebits e 11 10,
    if ebit e 9 then some (if ebits e 61 52 = 0 then 1024 else ebits e 61 52, ebits e 63 62) else none, false, true⟩

/-- A pointer whose TSH, TW, MT, TEN, S64 and K are zero, as they must be (R110). -/
def pointerOk (e : Nat) : Bool := ebits e 63 52 = 0 && ebits e 11 8 = 0 && !ebit e 4

/-- R110, level 3: where the entry at the aligned index is a leaf with S64 = 1 it decides the whole 64 KiB, and faults if it is invalid in
any way but V = 0; else entry i maps 4 KiB. -/
def radixLast (rd : TableRead) (table va : Nat) : Walker StageOut := do
  let i := ebits va 20 12
  let a ← rd (table + 8 * (i - i % 16))
  if ebit a 0 && !radixPointer a && ebit a 8 then
    if radixOk a then radixLeaf a 0x10000 va else throw ⟨1, va, false⟩
  else
    let e ← rd (table + 8 * i)
    if radixOk e && !radixPointer e && !ebit e 8 then radixLeaf e 0x1000 va
    else throw ⟨1, va, false⟩

/-- R110, levels 0 to 2; `n` counts the levels left above the last. -/
def radixWalk (rd : TableRead) (va : Nat) : Nat → Nat → Walker StageOut
  | 0, table => radixLast rd table va
  | n + 1, table => do
    let e ← rd (table + 8 * ebits va (20 + 9 * (n + 1)) (12 + 9 * (n + 1)))
    if !radixOk e then throw ⟨1, va, false⟩
    if radixPointer e then
      if pointerOk e then radixWalk rd va n (ebits e 51 12 * 0x1000) else throw ⟨1, va, false⟩
    else if n + 1 = 3 || ebit e 8 then throw ⟨1, va, false⟩
    else radixLeaf e (0x1000 * 512 ^ (n + 1)) va

/-- Stage 1 (R108, R110). -/
def State.stage1 (s : State) (cl : Client) (va : Nat) : Walker StageOut :=
  let root := tabGet s.tatp cl.leaf 0
  if hasBit root 63 then radixWalk (s.tableRead2 cl) va 3 (fld root 47 12 * 0x1000)
  else return passThrough va

/-- Two stages in a row (R112): permissions meet, the larger memory type holds, the tensor attribute is stage 1's. -/
def StageOut.join (a b : StageOut) : StageOut :=
  ⟨b.out, min a.size b.size, a.r && b.r, a.w && b.w, a.x && b.x, a.k && b.k, max a.mt b.mt, a.tensor, b.shared, a.entry || b.entry⟩

/-- What the stages grant together (R112). -/
def Xlat.perms (x : Xlat) : StageOut := (x.o1.join x.o2).join x.o3

/-- The place that a translation names. -/
def Xlat.pa (x : Xlat) : Nat := x.o3.out

/-- The smallest page that a translation met. -/
def Xlat.size (x : Xlat) : Nat := x.perms.size

/-- The answers of consecutive stages, from `stage` on, grant a request at a level (R112, R113): each is checked before the next. -/
def grantFrom (lvl : Level) (acc : Access) (stage input : Nat) : List StageOut → Except WalkFail Unit
  | [] => .ok ()
  | o :: r =>
    if permits acc o && (stage ≠ 1 || lvl ≠ .K || o.k) then grantFrom lvl acc (stage + 1) o.out r else .error ⟨stage, input, false⟩

/-- A whole translation checked stage by stage against a request at a level (R107, R112, R114). -/
def Xlat.grant (x : Xlat) (lvl : Level) (acc : Access) (va : Nat) : Except WalkFail Xlat := do
  grantFrom lvl acc 1 va [x.o1, x.o2, x.o3]
  if validPlace lvl x.pa then return x
  throw ⟨3, x.o2.out, false⟩

/-- The whole translation that a walk found, if it passed every stage. -/
def Found.xlat? (f : Found) : Option Xlat :=
  match f.outs with
  | [o1, o2, o3] => some ⟨o1, o2, o3, f.used⟩
  | _ => none

/-- What a walk found, checked against a request at a level: a stage that does not grant it fails before any later one (R112, R113). -/
def Found.grant (f : Found) (lvl : Level) (acc : Access) (va : Nat) : Except WalkFail Xlat :=
  match f.xlat? with
  | some x => x.grant lvl acc va
  | none => do
    grantFrom lvl acc 1 va f.outs
    throw (f.fail.getD ⟨1, va, false⟩)

/-- A stage as the level of the client passes it (R108). -/
def State.stage (s : State) (cl : Client) (n input : Nat) : Walker StageOut :=
  match n, cl.lvl with
  | 1, .K | 1, .T => s.stage1 cl input
  | 2, .K | 2, .T | 2, .D => s.stage2 cl input
  | 3, _ => s.stage3 cl input
  | _, _ => return passThrough input

/-- The stages of a walk in order, until one fails (R108, R113). -/
def walkStages (stage : Nat → Nat → Walker StageOut) : List Nat → Nat → List UsedEntry → Found
  | [], _, used => ⟨[], none, used⟩
  | n :: r, input, used =>
    match (stage n input).run.run used with
    | (.error f, u) => ⟨[], some f, u⟩
    | (.ok o, u) =>
      let rest := walkStages stage r o.out u
      { rest with outs := o :: rest.outs }

/-- R108, R113: what a walk for the level's accesses finds now, whatever the access is. -/
def State.walk (s : State) (cl : Client) (va : Nat) : Found := walkStages (s.stage cl) [1, 2, 3] va []

/-- The exception of a failed translation (R114). An uncorrectable error on a table read is one of the access itself: DESIGN CHOICE (122),
the spec names no report of its own for it. -/
def WalkFail.exn (f : WalkFail) (acc : Access) (va : Word) : Exn :=
  if f.stage = 0 then { exnAccess acc va with val2 := toWord 2 }
  else if f.stage = 1 then
    match acc with
    | .fetch => ⟨12, va, 0, .T⟩
    | .load => ⟨13, va, 0, .T⟩
    | .store | .amo => ⟨15, va, 0, .T⟩
  else
    let v2 := toWord (f.stage + (if f.table then 8 else 0) + ebits f.input 47 12 * 0x1000)
    let owner := if f.stage = 2 then Level.D else Level.P
    match acc with
    | .fetch => ⟨20, va, v2, owner⟩
    | .load => ⟨21, va, v2, owner⟩
    | .store | .amo => ⟨23, va, v2, owner⟩

/-! ## TLBs (R115, R116) -/

/-- K and T pass through the same stages, and share cached translations. -/
def cacheLevel (l : Level) : Level := if l = .K then .T else l

/-- The entry translates the address for the client at a place. -/
def TlbEntry.covers (e : TlbEntry) (p : TlbPlace) (cl : Client) (va : Nat) : Bool :=
  e.at_ = p && e.leaf = cl.leaf && e.fl = cl.fl && e.level = cacheLevel cl.lvl && e.va = va / e.x.size * e.x.size

/-- A whole translation `o` further up in its page. -/
def Xlat.up (x : Xlat) (o : Nat) : Xlat := ⟨x.o1.up o, x.o2.up o, x.o3.up o, x.used⟩

/-- A whole translation `o` further down in its page. -/
def Xlat.down (x : Xlat) (o : Nat) : Xlat := ⟨x.o1.down o, x.o2.down o, x.o3.down o, x.used⟩

/-- The entry that a TLB makes of the translation of an address (R115). -/
def Xlat.entry (x : Xlat) (p : TlbPlace) (cl : Client) (va : Nat) : TlbEntry :=
  ⟨p, cl.leaf, cl.fl, cacheLevel cl.lvl, va - va % x.size, x.down (va % x.size)⟩

/-- The translation of an address that a place caches. -/
def State.cached (s : State) (p : TlbPlace) (cl : Client) (va : Nat) : Option Xlat :=
  (s.tlb.find? fun e => e.covers p cl va).map fun e => e.x.up (va % e.x.size)

/-- A walk in flight serves the request (R115): it is for the same leaf, stages and page. -/
def Walk.serves (w : Walk) (cl : Client) (va : Nat) : Bool :=
  w.die = cl.die && w.leaf = cl.leaf && w.fl = cl.fl && cacheLevel w.level = cacheLevel cl.lvl && w.page = va / 0x1000

/-- What a walk for a page gives an address `o` further up in it. -/
def Found.up (f : Found) (o : Nat) : Found :=
  { f with
    outs := f.outs.map fun x => x.up o
    fail := f.fail.map fun e => if e.table then e else { e with input := e.input + o } }

/-- A translation on a TLB miss: it joins a walk in flight and takes its result, or walks (R115). -/
def State.missFound (s : State) (cl : Client) (va : Nat) : Found :=
  match s.walks.find? fun w => w.serves cl va with
  | some w => w.res.up (va % 0x1000)
  | none => s.walk cl va

/-- What an access that misses gets (R112 to R115). -/
def State.missWalk (s : State) (cl : Client) (acc : Access) (va : Nat) : Except WalkFail Xlat := (s.missFound cl va).grant cl.lvl acc va

/-- A translation as a unit of the client's die makes it: from the die's shared TLB, else on a miss there (R115, R116). -/
def State.translateUnit (s : State) (cl : Client) (acc : Access) (va : Nat) : Except WalkFail Xlat :=
  match s.cached (.die cl.die) cl va with
  | some x => x.grant cl.lvl acc va
  | none => s.missWalk cl acc va

/-- A translation as a core makes it: from its own TLB, else from its die (R115). A cached entry decides, whatever the tables say
by now (R116). -/
def State.translate (s : State) (h : Nat) (cl : Client) (acc : Access) (va : Nat) : Except WalkFail Xlat :=
  match s.cached (.core h) cl va with
  | some x => x.grant cl.lvl acc va
  | none => s.translateUnit cl acc va

/-! ## Homes (R121 to R124) -/

/-- The home site of a line (R121 to R123): `tc` are the tile coordinates, used on tensor pages alone. -/
def homeSite (cl : Client) (x : Xlat) (tc : Option (Nat × Nat)) : Nat :=
  homeAt cl x.perms.shared <|
    match x.perms.tensor, tc with
    | some (tw, _), some (r, c) => r * tw + c
    | _, _ => homeHash (x.pa / 0x1000)

/-! ## Windows (R98, R106, R125) -/

/-- R98: the first of `n` bytes of one bank of a context's logical layout, as an offset in its site's pool. Bytes past the end of
the bank are the access's own matter (R223). -/
def bankPlace (c : Ctx) (lvl : Level) (acc : Access) (va : Word) (o n : Nat) : Except Exn Nat :=
  match c.banks[o / 0x10000]? with
  | none => .error (if lvl = .P then exnAccess acc va else exnBoundary va 4 .T)
  | some b =>
    let p := b * 0x10000 + o % 0x10000
    if lvl = .P then .ok p
    else if o / 0x10000 < c.regBanks then .error (exnBoundary va 4 .T)
    else if b = 15 && reserveBase < p + n then .error (exnBoundary va 5 .P)
    else .ok p

/-- The translation by which the running context reads an address, if it is a global one (R105, R115). -/
def State.viaOf (s : State) (va : Word) : Option TlbEntry :=
  match regionOf va, s.translate s.cx.key.h s.cx.client .load va.toNat with
  | .global, .ok x => some (x.entry (.core s.cx.key.h) s.cx.client va.toNat)
  | _, _ => none

/-- Scratch bytes of a leaf that accesses reach now: ways being added or withdrawn serve none (R106, R126). -/
def State.scratchBytes (s : State) (leaf : Nat) : Nat :=
  match s.ways.find? fun w => w.leaf = leaf with
  | none => 0
  | some w => (match w.target with | none => w.scrw | some t => min w.scrw t) * 0x20000

/-- The leaf whose span holds a site (R89). -/
def State.leafOfSite (s : State) (h : Nat) : Option Nat :=
  s.parts.findSome? fun p =>
    match p.blk with
    | .leaf j => if p.st ≠ .free && p.base ≤ h && h < p.base + p.len then some j else none
    | .first _ => none

/-- The ways of the slice of a site that hold cached lines: those below its scratch (R9, R125, R126). -/
def State.cacheWays (s : State) (h : Nat) : List Nat :=
  List.range (16 - (((s.leafOfSite h).bind fun j => s.ways.find? fun w => w.leaf = j).map fun w => max w.scrw (w.target.getD 0)).getD 0)

/-! ## Places of performance (R208) -/

/-- What kind of place an access reaches (R208). -/
inductive PlaceKind where
  | localWin | siteWin | glob | device
  deriving DecidableEq, Repr

/-- Where an access is performed: its place, the site there, and the memory type in force. -/
structure Target where
  pa : Nat
  kind : PlaceKind
  site : Nat
  mt : Nat
  /-- The access waits: the target context is saved or being saved, and the site answers RETRY (R375), its pool waits for the wake of a
  gated site (R404), or a message that left the core earlier is still ahead of it (R14). -/
  retry : Bool
  deriving DecidableEq, Repr

/-- The kernel's context on a site is on its way to its image or back (R375). -/
def State.retries (s : State) (kid h : Nat) : Bool :=
  s.ctxs.any fun c => c.kid = kid && c.key.h = h && (c.status = .saving || c.status = .saved || c.status = .restoring)

/-- A site-window access (R98, R106): `kid` is the issuing kernel, the leaf is the client's. -/
def State.siteTarget (s : State) (kid : Nat) (cl : Client) (acc : Access) (va : Word) (n : Nat) : Except Exn Target :=
  let o := va.toNat - siteWindowBase
  let off := o % 0x400000
  let h := cl.base + o / 0x400000
  if cl.len ≤ o / 0x400000 then .error (exnBoundary va 1 .D)
  else if off < 0x100000 then
    if s.retries kid h then .ok ⟨siteAddr h 0, .siteWin, h, 0, true⟩
    else
      match s.ofKernel kid h with
      | none => .error (exnBoundary va 4 .T)
      | some t => (bankPlace t cl.lvl acc va off n).map fun p => ⟨siteAddr h p, .siteWin, h, 0, !s.poweredSite h⟩
  else if 0x200000 ≤ off && off - 0x200000 < s.scratchBytes cl.leaf then .ok ⟨siteAddr h off, .siteWin, h, 0, false⟩
  else .error (exnAccess acc va)

/-- A place of the physical site windows, reached at P (R107). -/
def State.physicalSite (s : State) (acc : Access) (va : Word) (pa : Nat) : Except Exn Target :=
  let h := (pa - siteBase) / 0x400000
  let off := (pa - siteBase) % 0x400000
  let scratch := match s.leafOfSite h with | some j => s.scratchBytes j | none => 0
  if off < 0x100000 || (0x200000 ≤ off && off - 0x200000 < scratch) then
    .ok ⟨pa, .siteWin, h, 0, decide (off < 0x100000) && !s.poweredSite h⟩
  else .error (exnAccess acc va)

/-- The target of a translated global address (R107, R112, R208). -/
def State.globalTarget (s : State) (cl : Client) (acc : Access) (va : Word) (x : Xlat) (tc : Option (Nat × Nat)) :
    Except Exn Target :=
  if isSiteWindow x.pa then s.physicalSite acc va x.pa
  else if isMmio x.pa || x.perms.mt = 2 then .ok ⟨x.pa, .device, homeSite cl x tc, 2, false⟩
  else .ok ⟨s.placeAt (homeSite cl x tc) x.pa, .glob, homeSite cl x tc, x.perms.mt, false⟩

/-- R105, R106, R114: the place that an access of `n` bytes at `va` reaches, made for the context `c`. -/
def State.placeFor (s : State) (c : Ctx) (cl : Client) (acc : Access) (va : Word) (n : Nat) (tc : Option (Nat × Nat)) :
    Except Exn Target :=
  if regionOf (va + toWord (n - 1)) ≠ regionOf va then .error (exnAccess acc va)
  else
    match regionOf va with
    | .nowhere => .error (exnAccess acc va)
    | .localWindow =>
      if acc = .fetch then .error (exnAccess acc va)
      else (bankPlace c cl.lvl acc va (va.toNat - localWindowBase) n).map fun p =>
        ⟨siteAddr c.key.h p, .localWin, c.key.h, 0, false⟩
    | .siteWindow => if acc = .fetch then .error (exnAccess acc va) else s.siteTarget c.kid cl acc va n
    | .global =>
      match s.translate c.key.h cl acc va.toNat with
      | .error f => .error (f.exn acc va)
      | .ok x => s.globalTarget cl acc va x tc

/-- A posted access of a core's log goes from a site to a site and is not performed yet. -/
def OpEntry.onPair (e : OpEntry) (src dst : Nat) : Bool := e.st = .sent && e.src = src && e.site = dst

/-- A message that is no reply is on its way on REQ from a site to a site (R14, R287). -/
def Send.onPair (x : Send) (c : Ctx) (src dst : Nat) : Bool :=
  c.key.h = src && c.leafBase + x.dest = dst && x.st = .sent && x.answer.isNone && !x.img.getLsbD 9

/-- A message is on its way on REQ from a site to another: a later request there comes after it (R14). -/
def State.behind (s : State) (src dst : Nat) : Bool := s.ctxs.any fun o => o.sends.any fun x => x.onPair o src dst

/-- The site from which a context's access to an address leaves: its core's, or the queue bank of a composed thread (R198). -/
def Ctx.bankSite (c : Ctx) (va : Word) : Nat := c.key.h + va.toNat / 128 % c.comp.n

/-- The place that an access reaches (R105, R106, R114), and whether it waits before it gets there (R14, R375). -/
def State.resolveFor (s : State) (c : Ctx) (cl : Client) (acc : Access) (va : Word) (n : Nat) (tc : Option (Nat × Nat)) :
    Except Exn Target :=
  (s.placeFor c cl acc va n tc).map fun t =>
    if t.kind = .localWin then t else { t with retry := t.retry || s.behind (c.bankSite va) t.site }

/-- The running context's access at its running level. -/
def State.resolve (s : State) (acc : Access) (va : Word) (n : Nat) (tc : Option (Nat × Nat)) : Except Exn Target :=
  s.resolveFor s.cx s.cx.client acc va n tc

/-- Two sites lie on one die (R8). -/
def sameDie (a b : Nat) : Bool := dieOf a = dieOf b

/-- The store count that tracks a posted access (R208). -/
def Target.countClass (t : Target) (h : Nat) : CountClass :=
  match t.kind with
  | .localWin | .device => .none
  | .siteWin => if sameDie h t.site then .scs else .scd
  | .glob => .scm

/-- R87: the coordinates of a site. -/
def hilbertXY (h : Nat) : Nat × Nat :=
  let go := fun (st : Nat × Nat × Nat) (i : Nat) =>
    let (x, y, t) := st
    let s := 2 ^ i
    let rx := (t / 2) % 2
    let ry := (t ^^^ rx) % 2
    let (x, y) := if ry = 0 then (if rx = 1 then (s - 1 - y, s - 1 - x) else (y, x)) else (x, y)
    (x + s * rx, y + s * ry, t / 4)
  let (x, y, _) := (List.range 5).foldl go (0, 0, h)
  (x, y)

/-- The site at coordinates, if they lie in the mesh (R8, R87). -/
def siteAt (x y : Nat) : Option Nat := (List.range 1024).find? fun h => hilbertXY h = (x, y)

end Sys2Proof.Machine
end

