-- ==== Sys2Proof/Machine/Flags.lean ====
section
/-! DEFINITION. Numbers and flags: the formats, one rounding step, conversions, exact arithmetic, QC4, the long accumulator
and the port operations (R43 to R63, R161, R205). -/

namespace Sys2Proof.Machine

/-- The sticky flags of vflags (R57): IO 32, NL 16, NV 8, OF 4, UF 2, NX 1. -/
abbrev VFlags := BitVec 6

def flagNX : VFlags := 1
def flagUF : VFlags := 2
def flagOF : VFlags := 4
def flagNV : VFlags := 8
def flagNL : VFlags := 16
def flagIO : VFlags := 32

/-- Sets sticky flags at commit; hardware never clears one (R57, R58). -/
def State.addFlags (s : State) (f : VFlags) : State :=
  { s with cx := { s.cx with vflags := s.cx.vflags ||| f.setWidth 64 } }

/-- vctl.RM (R56). -/
def Ctx.rm (c : Ctx) : Nat := fld c.vctl 1 0

/-- vctl.SAT (R56). -/
def Ctx.sat (c : Ctx) : Bool := hasBit c.vctl 2

/-- vctl.NLT (R56). -/
def Ctx.nlt (c : Ctx) : Bool := hasBit c.vctl 3

/-- vctl.ISAT (R56). -/
def Ctx.isat (c : Ctx) : Bool := hasBit c.vctl 4

/-! ## Formats (R44) -/

/-- A floating format: width, mantissa bits, exponents of the smallest normal and of the largest finite value, the integer
mantissa of the largest finite value, and whether the format has infinities. -/
structure Fmt where
  width : Nat
  man : Nat
  emin : Int
  emax : Int
  maxMan : Nat
  inf : Bool
  nan : Bool
  deriving DecidableEq, Repr

def fp32 : Fmt := ⟨32, 23, -126, 127, 0xFFFFFF, true, true⟩
def bf16 : Fmt := ⟨16, 7, -126, 127, 0xFF, true, true⟩
def fp16 : Fmt := ⟨16, 10, -14, 15, 0x7FF, true, true⟩
def e4m3 : Fmt := ⟨8, 3, -6, 8, 14, false, true⟩
def e5m2 : Fmt := ⟨8, 2, -14, 15, 7, true, true⟩
def e3m2 : Fmt := ⟨6, 2, -2, 4, 7, false, false⟩
def e2m3 : Fmt := ⟨6, 3, 0, 2, 15, false, false⟩
def e2m1 : Fmt := ⟨4, 1, 0, 2, 3, false, false⟩
/-- The FP64 target of LACC.RND (R54). -/
def fp64 : Fmt := ⟨64, 52, -1022, 1023, 2 ^ 53 - 1, true, true⟩

/-- The format of a floating tag (R34). -/
def fmtOf (t : Tag) : Option Fmt :=
  match t.toNat with
  | 6 => some fp32
  | 7 => some bf16
  | 8 => some fp16
  | 9 => some e4m3
  | 10 => some e5m2
  | 11 => some e3m2
  | 12 => some e2m3
  | 13 => some e2m1
  | _ => none

/-- The element width of an integer tag (R34). -/
def intWidth (t : Tag) : Option Nat :=
  match t.toNat with
  | 2 => some 8
  | 3 => some 16
  | 4 => some 32
  | 5 => some 64
  | _ => none

/-- A number before rounding: NaN (signalling, sign), infinity, or (−1)^neg × mag × 2^e; `tail` says that the true
magnitude lies strictly between mag and mag + 1 units. -/
inductive Num where
  | nan (sig neg : Bool)
  | inf (neg : Bool)
  | fin (neg : Bool) (mag : Nat) (e : Int) (tail : Bool)
  deriving DecidableEq, Repr

/-- An exact finite number. -/
def Num.exact (neg : Bool) (mag : Nat) (e : Int) : Num := .fin neg mag e false

/-- The exact number of an integer. -/
def Num.ofInt (v : Int) : Num := .exact (decide (v < 0)) v.natAbs 0

/-- The value of an encoding (R44, R45, R46). -/
def Fmt.decode (f : Fmt) (bits : Nat) : Num :=
  let neg := decide ((bits >>> (f.width - 1)) % 2 = 1)
  let m := bits % 2 ^ f.man
  let ex := (bits >>> f.man) % 2 ^ (f.width - 1 - f.man)
  let ones := 2 ^ (f.width - 1 - f.man) - 1
  if f.inf && ex = ones then
    (if m = 0 then .inf neg else .nan (decide (m < 2 ^ (f.man - 1))) neg)
  else if !f.inf && f.nan && ex = ones && m = 2 ^ f.man - 1 then .nan false neg
  else if ex = 0 then .exact neg m (f.emin - f.man)
  else .exact neg (m + 2 ^ f.man) (ex - 1 + f.emin - f.man)

/-- The sign bit of a format. -/
def Fmt.sign (f : Fmt) (neg : Bool) : Nat := if neg then 2 ^ (f.width - 1) else 0

/-- The encoding of an infinity (R44). -/
def Fmt.infBits (f : Fmt) (neg : Bool) : Nat := f.sign neg + (2 ^ (f.width - 1 - f.man) - 1) * 2 ^ f.man

/-- The canonical NaN (R46). -/
def Fmt.nanBits (f : Fmt) : Nat :=
  if f.inf then f.infBits false + 2 ^ (f.man - 1) else 2 ^ (f.width - 1) - 1

/-- The encoding of the largest finite magnitude. -/
def Fmt.maxBits (f : Fmt) (neg : Bool) : Nat := f.sign neg + (f.emax - f.emin).toNat * 2 ^ f.man + f.maxMan

/-- An encoding and the flags its making raised. -/
structure Rounded where
  bits : Nat
  flags : VFlags
  deriving DecidableEq, Repr

/-- Whether rounding goes to the next mantissa away from zero: `rem` of `unit` with a tail below (R56, R59). -/
def roundsUp (rm : Nat) (neg odd : Bool) (rem unit : Nat) (tail : Bool) : Bool :=
  let inexact := rem ≠ 0 || tail
  match rm with
  | 0 => decide (unit < 2 * rem) || (2 * rem = unit && (tail || odd))
  | 1 => false
  | 2 => inexact && !neg
  | _ => inexact && neg

/-- The result of a finite overflow (R59). -/
def Fmt.overflow (f : Fmt) (rm : Nat) (sat neg : Bool) : Nat :=
  if sat || !f.nan then f.maxBits neg
  else
    let toInf := match rm with
      | 0 => true
      | 1 => false
      | 2 => !neg
      | _ => neg
    if toInf then (if f.inf then f.infBits neg else f.nanBits) else f.maxBits neg

/-- R59: a nonzero finite magnitude rounded once to a format. -/
def Fmt.roundFin (f : Fmt) (rm : Nat) (sat neg : Bool) (mag : Nat) (e : Int) (tail : Bool) : Rounded :=
  let top := e + mag.log2
  let qe := max top f.emin - f.man
  let up := (e - qe).toNat
  let down := (qe - e).toNat
  let unit := 2 ^ down
  let m0 := (mag <<< up) / unit
  let rem := (mag <<< up) % unit
  let m := if roundsUp rm neg (decide (m0 % 2 = 1)) rem unit tail then m0 + 1 else m0
  let inexact := rem ≠ 0 || tail
  let fl := (if inexact then flagNX else 0) ||| (if inexact && top < f.emin then flagUF else 0)
  let qmax := f.emax - f.man
  if qmax < qe || (qe = qmax && f.maxMan < m) then ⟨f.overflow rm sat neg, fl ||| flagOF ||| flagNX⟩
  else ⟨f.sign neg + (qe - (f.emin - f.man)).toNat * 2 ^ f.man + m, fl⟩

/-- R59, R161: a number rounded once to a format. Infinities stand where the format has them. -/
def Fmt.round (f : Fmt) (rm : Nat) (sat : Bool) (x : Num) : Rounded :=
  match x with
  | .nan _ _ => ⟨f.nanBits, 0⟩
  | .inf neg => ⟨f.infBits neg, 0⟩
  | .fin neg mag e tail => if mag = 0 && !tail then ⟨f.sign neg, 0⟩ else f.roundFin rm sat neg mag e tail

/-- The result of an infinite source (R59). -/
def Fmt.fromInf (f : Fmt) (sat neg : Bool) : Rounded :=
  if f.inf then (if sat then ⟨f.maxBits neg, flagOF⟩ else ⟨f.infBits neg, 0⟩)
  else if f.nan then (if sat then ⟨f.maxBits neg, flagOF⟩ else ⟨f.nanBits, flagNV⟩)
  else ⟨f.maxBits neg, flagOF⟩

/-- R59 into a floating format. A NaN into a format without one gives the largest magnitude and NL. -/
def Fmt.convert (f : Fmt) (rm : Nat) (sat : Bool) (x : Num) : Rounded :=
  match x with
  | .nan sig neg =>
    let nv : VFlags := if sig then flagNV else 0
    if f.nan then ⟨f.nanBits, nv⟩ else ⟨f.maxBits neg, nv ||| flagNL⟩
  | .inf neg => f.fromInf sat neg
  | .fin _ _ _ _ => f.round rm sat x

/-- A number rounded to an integer by the mode (R60), with whether it was inexact. -/
def Num.toInteger (rm : Nat) (neg : Bool) (mag : Nat) (e : Int) (tail : Bool) : Int × Bool :=
  let m := mag <<< e.toNat
  let unit := 2 ^ (-e).toNat
  let rem := m % unit
  let q := if roundsUp rm neg (decide ((m / unit) % 2 = 1)) rem unit tail then m / unit + 1 else m / unit
  (if neg then -(q : Int) else q, rem ≠ 0 || tail)

/-- The least and the greatest value of an n-bit integer (R43). -/
def intRange (n : Nat) (uns : Bool) : Int × Int :=
  if uns then (0, 2 ^ n - 1) else (-(2 ^ (n - 1)), 2 ^ (n - 1) - 1)

/-- The n-bit pattern of an integer. -/
def intBits (n : Nat) (v : Int) : Nat := (v % (2 ^ n : Int)).toNat

/-- The integer that an n-bit pattern stands for (R43). -/
def bitsInt (n : Nat) (uns : Bool) (b : Nat) : Int :=
  let v := b % 2 ^ n
  if uns || v < 2 ^ (n - 1) then v else (v : Int) - 2 ^ n

/-- R60, float to integer: the nearest end of the range and NV outside it. -/
def toIntConvert (n : Nat) (uns : Bool) (rm : Nat) (x : Num) : Rounded :=
  let (lo, hi) := intRange n uns
  match x with
  | .nan sig _ => ⟨0, (if sig then flagNV else 0) ||| flagNV⟩
  | .inf neg => ⟨intBits n (if neg then lo else hi), flagNV⟩
  | .fin neg mag e tail =>
    let (v, inexact) := Num.toInteger rm neg mag (max e (-5000)) tail
    if v < lo then ⟨intBits n lo, flagNV⟩
    else if hi < v then ⟨intBits n hi, flagNV⟩
    else ⟨intBits n v, if inexact then flagNX else 0⟩

/-- R60, integer to integer: wrap or saturate, IO when the value changed. -/
def intConvert (n : Nat) (uns sat : Bool) (v : Int) : Rounded :=
  let (lo, hi) := intRange n uns
  let r := if sat then max lo (min hi v) else bitsInt n uns (intBits n v)
  ⟨intBits n r, if r = v then 0 else flagIO⟩

/-! ## Exact arithmetic with the special cases of IEEE 754 (R161) -/

/-- A number with the flags of the operation that made it. -/
structure NumF where
  num : Num
  flags : VFlags
  deriving DecidableEq, Repr

/-- Flags of a NaN operand: NV when it is signalling. -/
def sigFlag : Num → VFlags
  | .nan true _ => flagNV
  | _ => 0

/-- The number is a NaN. -/
def Num.isNan : Num → Bool
  | .nan _ _ => true
  | _ => false

/-- The quiet NaN that an operation answers. -/
def quietNan : Num := .nan false false

/-- The sign of a number. -/
def Num.neg : Num → Bool
  | .nan _ n => n
  | .inf n => n
  | .fin n _ _ _ => n

/-- The number is a zero. -/
def Num.isZero : Num → Bool
  | .fin _ m _ t => m = 0 && !t
  | _ => false

/-- The number with its sign inverted. -/
def Num.flip : Num → Num
  | .nan s n => .nan s !n
  | .inf n => .inf !n
  | .fin n m e t => .fin (!n) m e t

/-- The number with sign 0. -/
def Num.abs : Num → Num
  | .nan s _ => .nan s false
  | .inf _ => .inf false
  | .fin _ m e t => .fin false m e t

/-- The signed mantissa. -/
def signed (neg : Bool) (m : Nat) : Int := if neg then -(m : Int) else m

/-- The exact sum of two exact finite numbers, with the sign of a zero sum (R161). -/
def addFin (rm : Nat) (na : Bool) (ma : Nat) (ea : Int) (nb : Bool) (mb : Nat) (eb : Int) : Num :=
  let e := min ea eb
  let v := signed na (ma <<< (ea - e).toNat) + signed nb (mb <<< (eb - e).toNat)
  if v = 0 then .exact (if ma = 0 && mb = 0 && na = nb then na else decide (rm = 3)) 0 e
  else .exact (decide (v < 0)) v.natAbs e

/-- a + b before rounding (R161). -/
def numAdd (rm : Nat) (a b : Num) : NumF :=
  let fl := sigFlag a ||| sigFlag b
  match a, b with
  | .nan _ _, _ => ⟨quietNan, fl⟩
  | _, .nan _ _ => ⟨quietNan, fl⟩
  | .inf x, .inf y => if x = y then ⟨.inf x, 0⟩ else ⟨quietNan, flagNV⟩
  | .inf x, .fin _ _ _ _ => ⟨.inf x, 0⟩
  | .fin _ _ _ _, .inf y => ⟨.inf y, 0⟩
  | .fin na ma ea _, .fin nb mb eb _ => ⟨addFin rm na ma ea nb mb eb, 0⟩

/-- a × b before rounding (R161). -/
def numMul (a b : Num) : NumF :=
  let fl := sigFlag a ||| sigFlag b
  let n := xor a.neg b.neg
  match a, b with
  | .nan _ _, _ => ⟨quietNan, fl⟩
  | _, .nan _ _ => ⟨quietNan, fl⟩
  | .inf _, .inf _ => ⟨.inf n, 0⟩
  | .inf _, .fin _ _ _ _ => if b.isZero then ⟨quietNan, flagNV⟩ else ⟨.inf n, 0⟩
  | .fin _ _ _ _, .inf _ => if a.isZero then ⟨quietNan, flagNV⟩ else ⟨.inf n, 0⟩
  | .fin _ ma ea _, .fin _ mb eb _ => ⟨.exact n (ma * mb) (ea + eb), 0⟩

/-- a × b + c before its one rounding (R160, R161). -/
def numFma (rm : Nat) (a b c : Num) : NumF :=
  let p := numMul a b
  let r := numAdd rm p.num c
  ⟨r.num, p.flags ||| r.flags⟩

/-- Guard bits kept below a quotient or a root: the rounding of every format reads fewer. -/
def guard : Nat := 96

/-- a / b before rounding (R161). -/
def numDiv (a b : Num) : NumF :=
  let fl := sigFlag a ||| sigFlag b
  let n := xor a.neg b.neg
  match a, b with
  | .nan _ _, _ => ⟨quietNan, fl⟩
  | _, .nan _ _ => ⟨quietNan, fl⟩
  | .inf _, .inf _ => ⟨quietNan, flagNV⟩
  | .inf _, .fin _ _ _ _ => ⟨.inf n, 0⟩
  | .fin _ _ _ _, .inf _ => ⟨.exact n 0 0, 0⟩
  | .fin _ ma ea _, .fin _ mb eb _ =>
    if mb = 0 then (if ma = 0 then ⟨quietNan, flagNV⟩ else ⟨.inf n, flagOF⟩)
    else if ma = 0 then ⟨.exact n 0 0, 0⟩
    else
      let k := guard + mb.log2
      ⟨.fin n ((ma <<< k) / mb) (ea - eb - k) (decide ((ma <<< k) % mb ≠ 0)), 0⟩

/-- The integer square root, rounded down: bits of the root from the highest. -/
def isqrt (n : Nat) : Nat :=
  ((List.range (n.log2 / 2 + 1)).reverse).foldl (fun r i => if (r + 2 ^ i) * (r + 2 ^ i) ≤ n then r + 2 ^ i else r) 0

/-- 1 / √a before rounding (R161). -/
def numRsqrt (a : Num) : NumF :=
  match a with
  | .nan _ _ => ⟨quietNan, sigFlag a⟩
  | .inf true => ⟨quietNan, flagNV⟩
  | .inf false => ⟨.exact false 0 0, 0⟩
  | .fin neg m e _ =>
    if m = 0 then ⟨.inf neg, flagOF⟩
    else if neg then ⟨quietNan, flagNV⟩
    else
      -- 1/√(m 2^e) with e even: √(2^(2k) / m) 2^(−e/2 − k)
      let m := if e % 2 = 0 then m else 2 * m
      let e := if e % 2 = 0 then e else e - 1
      let k := guard + m.log2
      let q := 2 ^ (2 * k) / m
      let r := isqrt q
      ⟨.fin false r (-(e / 2) - k) (decide (r * r ≠ q) || decide (2 ^ (2 * k) % m ≠ 0)), 0⟩

/-- Fraction bits of the series below. -/
def seriesBits : Nat := 384

/-- ln 2 in units of 2^−384, rounded down. -/
def ln2 : Nat :=
  0xB17217F7D1CF79ABC9E3B39803F2F6AF40F343267298B62D8A0D175B8BAAFA2BE7B876206DEBAC98559552FB4AFA1B10

/-- Σ x^i / i! for i up to `n`, in units of 2^−384, by Horner's rule from the last term. -/
def expSeries (x : Nat) : Nat → Nat → Nat
  | 0, acc => acc
  | n + 1, acc => expSeries x n (2 ^ seriesBits + (acc * x / (n + 1)) / 2 ^ seriesBits)

/-- 2^f for a fraction f in units of 2^−384. -/
def exp2Frac (f : Nat) : Nat := expSeries (f * ln2 / 2 ^ seriesBits) 90 (2 ^ seriesBits)

/-- 2^a before rounding (R161): exact for an integer, else an approximation with error far below any format's rounding. -/
def numExp2 (a : Num) : NumF :=
  match a with
  | .nan _ _ => ⟨quietNan, sigFlag a⟩
  | .inf true => ⟨.exact false 0 0, 0⟩
  | .inf false => ⟨.inf false, 0⟩
  | .fin neg m e _ =>
    if m = 0 then ⟨.exact false 1 0, 0⟩
    else if 12 < e + m.log2 then ⟨.fin false 1 (if neg then -5000 else 5000) true, 0⟩
    else
      let scaled : Int := signed neg (if e < 0 then m <<< (seriesBits - (-e).toNat) else m <<< (seriesBits + e.toNat))
      let whole := scaled / (2 ^ seriesBits : Int)
      let frac := (scaled % (2 ^ seriesBits : Int)).toNat
      if frac = 0 then ⟨.exact false 1 whole, 0⟩
      else ⟨.fin false (exp2Frac frac / 2 ^ 64) (whole - (seriesBits - 64)) true, 0⟩

/-- Σ z^(2i) / (2i + 1) for i below `n`, `z2` = z², in units of 2^−384, by Horner's rule. -/
def atanhSeries (z2 : Nat) : Nat → Nat → Nat
  | 0, acc => acc
  | n + 1, acc => atanhSeries z2 n (2 ^ seriesBits / (2 * n + 1) + acc * z2 / 2 ^ seriesBits)

/-- log2(a) before rounding (R161): exact for a power of two, else an approximation as for `numExp2`. -/
def numLog2 (a : Num) : NumF :=
  match a with
  | .nan _ _ => ⟨quietNan, sigFlag a⟩
  | .inf true => ⟨quietNan, flagNV⟩
  | .inf false => ⟨.inf false, 0⟩
  | .fin neg m e _ =>
    if m = 0 then ⟨.inf true, flagOF⟩
    else if neg then ⟨quietNan, flagNV⟩
    else
      let k := m.log2
      -- a = u 2^p with u in [3/4, 3/2)
      let big := decide (3 * 2 ^ k ≤ 2 * m)
      let p : Int := e + k + (if big then 1 else 0)
      let one := 2 ^ (if big then k + 1 else k)
      if m = one then ⟨.exact (decide (p < 0)) p.natAbs 0, 0⟩
      else
        let zneg := decide (m < one)
        let z := ((if m < one then one - m else m - one) <<< seriesBits) / (m + one)
        let s := atanhSeries (z * z / 2 ^ seriesBits) 150 0
        let l := (2 * z * s) / ln2          -- |log2 u| in units of 2^−384
        let v : Int := p * 2 ^ seriesBits + signed zneg l
        ⟨.fin (decide (v < 0)) (v.natAbs / 2 ^ 64) (-(seriesBits - 64)) true, 0⟩

/-! ## Comparison and the members that choose an operand (R161) -/

/-- Compare magnitudes m × 2^e. -/
def cmpMag (ma : Nat) (ea : Int) (mb : Nat) (eb : Int) : Ordering :=
  let e := min ea eb
  compare (ma <<< (ea - e).toNat) (mb <<< (eb - e).toNat)

/-- A number as a sort key: the sign apart, magnitudes compared with infinity above all. −0 ranks below +0 (R161). -/
def numLess (a b : Num) : Bool :=
  let mag := fun (x y : Num) =>
    match x, y with
    | .fin _ ma ea _, .fin _ mb eb _ => cmpMag ma ea mb eb
    | .inf _, .inf _ => .eq
    | .inf _, _ => .gt
    | _, .inf _ => .lt
    | _, _ => .eq
  match a.neg, b.neg with
  | true, false => true
  | false, true => false
  | false, false => mag a b = .lt
  | true, true => mag b a = .lt

/-- Numeric order, in which −0 = +0 (VFCMP). -/
def numLt (a b : Num) : Bool := !(a.isZero && b.isZero) && numLess a b

/-- Numeric equality, in which −0 = +0 (VFCMP). -/
def numEq (a b : Num) : Bool := !numLt a b && !numLt b a

/-- Chooses an operand's bits: of exactly one NaN the other operand, of two the canonical NaN; NV for a signalling NaN. -/
def choose (f : Fmt) (a b : Nat) (pick : Num → Num → Bool) : Rounded :=
  let x := f.decode a
  let y := f.decode b
  let fl := sigFlag x ||| sigFlag y
  match x.isNan, y.isNan with
  | true, true => ⟨f.nanBits, fl⟩
  | true, false => ⟨b, fl⟩
  | false, true => ⟨a, fl⟩
  | false, false => ⟨if pick x y then a else b, fl⟩

/-- VFMIN (R161). -/
def fMin (f : Fmt) (a b : Nat) : Rounded := choose f a b fun x y => !numLess y x

/-- VFMAX (R161). -/
def fMax (f : Fmt) (a b : Nat) : Rounded := choose f a b fun x y => !numLess x y

/-- VFMAXABS (R161). -/
def fMaxAbs (f : Fmt) (a b : Nat) : Rounded := fMax f (a % 2 ^ (f.width - 1)) (b % 2 ^ (f.width - 1))

/-- A binary operation on encodings, rounded once (R161). -/
def fRound (f : Fmt) (rm : Nat) (r : NumF) : Rounded :=
  let x := f.round rm false r.num
  ⟨x.bits, r.flags ||| x.flags⟩

/-! ## QC4 (R48 to R51) -/

/-- The magnitude table (R48). -/
def qc4Level (i : Nat) : Nat := [12, 36, 62, 89, 118, 152, 194, 256].getD i 0

/-- The code value of a code (R48). -/
def qc4Value (c : Nat) : Num := .exact (decide ((c / 8) % 2 = 1)) (qc4Level (c % 8)) (-8)

/-- G × (b / 256) × (code value), exact before its rounding (R49). A zero scale byte gives +0. -/
def qc4Scaled (g : Num) (b c : Nat) : NumF :=
  if b = 0 then ⟨.exact false 0 0, 0⟩ else numMul g (.exact (qc4Value c).neg (qc4Level (c % 8) * b) (-16))

/-- The index of the level nearest to |x| / (G b / 256), a tie to the smaller (R51). `g` is m × 2^e. -/
def qc4Nearest (m : Nat) (e : Int) (b gm : Nat) (ge : Int) : Nat :=
  ((List.range 7).filter fun i =>
    cmpMag (m * 131072) e ((qc4Level i + qc4Level (i + 1)) * gm * b) ge = .gt).length

/-- R51: quantise a number under the block scale b and the group scale gm × 2^ge. A NaN or infinite source sets no NX: DESIGN CHOICE
(131), R59 gives it NL or OF, and R172 sets NX for a code that differs from its source without saying of which source. -/
def quantise (x : Num) (b gm : Nat) (ge : Int) : Rounded :=
  let sign := if x.neg then 8 else 0
  match x with
  | .nan sig _ => ⟨if b = 0 then 0 else sign + 7, (if sig then flagNV else 0) ||| flagNL⟩
  | .inf _ => ⟨if b = 0 then 0 else sign + 7, flagOF⟩
  | .fin _ m e _ =>
    if b = 0 then ⟨0, if m = 0 then 0 else flagNX⟩
    else
      let i := qc4Nearest m e b gm ge
      ⟨sign + i, if cmpMag (m * 65536) e (qc4Level i * gm * b) ge = .eq then 0 else flagNX⟩

/-! ## Conversion between tags (R59, R60) -/

/-- An element of a numeric tag as a number; integers are read signed or unsigned. -/
def elemNum (t : Tag) (uns : Bool) (bits : Nat) : Num :=
  match fmtOf t, intWidth t with
  | some f, _ => f.decode bits
  | none, some n => .ofInt (bitsInt n uns bits)
  | none, none => qc4Value bits

/-- R59, R60: one element converted. `sat` is the saturation choice in force for the kind of target. -/
def convertElem (src dst : Tag) (uns : Bool) (rm : Nat) (sat : Bool) (bits : Nat) : Rounded :=
  match fmtOf dst, intWidth dst, intWidth src with
  | some f, _, _ => f.convert rm sat (elemNum src uns bits)
  | none, some n, some k => intConvert n uns sat (bitsInt k uns bits)
  | none, some n, none => toIntConvert n uns rm (elemNum src uns bits)
  | none, none, _ => ⟨0, 0⟩

/-! ## The long accumulator (R52 to R54) -/

/-- The value of the nine words as a signed multiple of 2^−298 (R52). -/
def laccNum (v : Nat) : Num :=
  let s := bitsInt 576 false v
  .exact (decide (s < 0)) s.natAbs (-298)

/-- The nine words after an exact term is added, modulo 2^576 (R53); NaN and infinity add nothing. -/
def laccAdd (v : Nat) (t : Num) : Nat :=
  match t with
  | .fin neg m e _ => intBits 576 ((v : Int) + signed neg (m <<< (e + 298).toNat))
  | _ => v

/-- The term of an LACC.ADD: the FP32 value in the low word, or the exact product of the two words (R223). -/
def laccTerm (prod : Bool) (w : Word) : NumF :=
  let a := fp32.decode (fld w 31 0)
  if prod then numMul a (fp32.decode (fld w 63 32)) else ⟨a, 0⟩

/-! ## Port operations (R205) -/

/-- The new value of a location of `n` bytes under the port operation of a code (R205). -/
def portOp (code n old v : Nat) : Nat :=
  let w := 8 * n
  let o := old % 2 ^ w
  let v := v % 2 ^ w
  let so := bitsInt w false o
  let sv := bitsInt w false v
  match code with
  | 0 => (o + v) % 2 ^ w
  | 1 => o &&& v
  | 2 => o ||| v
  | 3 => o ^^^ v
  | 4 => if so ≤ sv then o else v
  | 5 => if so ≤ sv then v else o
  | 6 => min o v
  | 7 => max o v
  | 8 => (fRound fp32 0 (numAdd 0 (fp32.decode o) (fp32.decode v))).bits
  | 9 => (fMax fp32 o v).bits
  | 10 => (fMaxAbs fp32 o v).bits
  | _ => o

end Sys2Proof.Machine
end

