-- ==== Sys2Proof/Machine/Access.lean ====
section
/-! DEFINITION. Accesses: the operand log, what a posted access does at its place, weak and strong loads and stores, acquires
and releases (R205 to R215). -/

namespace Sys2Proof.Machine

/-! ## How an instruction ends -/

/-- An instruction that does not commit: it waits and is tried again, or it raises an exception. -/
inductive Stop where
  | wait
  | trap (e : Exn)
  /-- An access that met an uncorrectable error or a retired unit at its place: the trap comes with interrupt 17 at P (R208). -/
  | broken (e : Exn) (unit : Word)
  /-- The access comes after what is on its way from a site to another (R14): that goes first, and the instruction is tried again. -/
  | behind (src site : Nat)
  deriving DecidableEq, Repr

/-- What a part of an instruction answers. -/
abbrev Try := Except Stop

/-- An exception in a part of an instruction. -/
def raiseStop {α : Type} (e : Exn) : Try α := .error (.trap e)

/-- A wait in a part of an instruction. -/
def waitStop {α : Type} : Try α := .error .wait

/-- An uncorrectable error that a translation met on a table read (R395). -/
def Exn.onTable (e : Exn) : Bool := (e.cause = 1 || e.cause = 5 || e.cause = 7) && e.val2 = 2

/-- A part that may raise, within an instruction that may also wait. -/
def tryExn {α : Type} (r : Except Exn α) : Try α := r.mapError fun e => if e.onTable then .broken e e.val else .trap e

/-- Wait unless a condition holds. -/
def waitUntil (b : Bool) : Try Unit := if b then .ok () else .error .wait

/-- Raise unless a condition holds. -/
def check (b : Bool) (e : Exn) : Try Unit := if b then .ok () else .error (.trap e)

/-! ## Frames and quotas (R309, R310) -/

/-- A context counts events of its own, wherever it is. -/
def State.countFor (s : State) (k : Key) (ev n : Nat) : State := s.mapCtx k fun c => c.count ev n

/-- The current frame (R309). -/
def State.frame (s : State) : Nat := s.now.toNat / 4096

/-- Flits that a site has stamped with a frame for a leaf and a class (R309). -/
def State.stamped (s : State) (h leaf cls frame : Nat) : Nat :=
  ((s.stamps.filter fun x => x.h = h && x.leaf = leaf && x.cls = cls && x.frame = frame).map (·.flits)).sum

/-- The quota in force of a leaf and a class: REQ, RPY, PRD, STR (R310). -/
def State.quotaOf (s : State) (leaf cls : Nat) : Nat :=
  match s.qos.find? fun q => q.leaf = leaf with
  | none => 32
  | some q => [q.req, q.rpy, q.prd, q.str].getD cls 32

/-- The oldest frame, of the current one and the next three, in which the class is below its quota (R309). -/
def State.frameFor (s : State) (h leaf cls : Nat) : Option Nat :=
  ((List.range 4).map (s.frame + ·)).find? fun f => s.stamped h leaf cls f < s.quotaOf leaf cls

/-- A packet of the class finds a frame now; else it waits for the next one (R309). -/
def State.roomFor (s : State) (h leaf cls : Nat) : Bool := (s.frameFor h leaf cls).isSome

/-- A packet of `n` flits takes the stamp of a frame (R309). -/
def State.stamp (s : State) (h leaf cls frame n : Nat) : State := { s with stamps := s.stamps ++ [⟨h, leaf, cls, frame, n⟩] }

/-- A packet takes the oldest frame below its quota: one of the four, or, for a further packet of one instruction or one answer, that of
the frame boundary it waits for (R309). -/
def State.stampNext (s : State) (h leaf cls : Nat) : State :=
  let open_ := ((List.range (s.stamps.length + 5)).map (s.frame + ·)).find? fun f => s.stamped h leaf cls f < s.quotaOf leaf cls
  s.stamp h leaf cls (open_.getD s.frame) (Config.packetFlits s.tick)

/-- A request of a context leaves a site (R309, R380 code 5). -/
def State.request (s : State) (k : Key) (h leaf : Nat) : State := (s.stampNext h leaf 0).countFor k 5 (Config.packetFlits s.tick)

/-- A request of the running context from a site to another, and the reply to it (R309). -/
def State.trip (s : State) (src dst : Nat) : State := (s.request s.cx.key src s.cx.leaf).stampNext dst s.cx.leaf 1

/-- A site may inject a CTL packet now: its bucket of 16 tokens holds one (R312). -/
def State.ctlOpen (s : State) (h : Nat) : Bool := decide (tabGet s.tokens h 0 < 16)

/-- A CTL packet of one flit leaves a site for a leaf: it spends a token, and takes the current frame's stamp beside the four quotas (R312).
That each of these packets is one flit is a DESIGN CHOICE (97). -/
def State.ctl (s : State) (h leaf : Nat) : State :=
  ({ s with tokens := tabPut s.tokens h (tabGet s.tokens h 0 + 1) } : State).stamp h leaf 4 s.frame 1

/-! ## Store counts and the operand log -/

/-- The entry is sent and neither acknowledged nor failed. -/
def OpEntry.outstanding (e : OpEntry) : Bool :=
  match e.st with
  | .sent | .performed | .refused _ => true
  | .failed _ => false

/-- scs, scd or scm (R211). -/
def Ctx.storeCount (c : Ctx) (k : CountClass) : Nat := (c.log.filter fun e => e.count = k && e.outstanding).length

/-- scs, scd and scm are all zero. -/
def Ctx.drained (c : Ctx) : Bool := c.log.all fun e => e.count = .none || !e.outstanding

/-- A wait of the W field (R25): satisfied when the counts it selects are at most `n`. -/
def Ctx.waitMet (c : Ctx) (w : Nat) (n : Nat) : Bool :=
  match w with
  | 0 => true
  | 1 => decide (c.storeCount .scs ≤ n)
  | 2 => decide (c.storeCount .scm ≤ n)
  | _ => decide (c.storeCount .scs ≤ n) && decide (c.storeCount .scd ≤ n) && decide (c.storeCount .scm ≤ n)

/-- The entry stands in the operand log of the core at `src`, or would come to stand beside what the running context sends (R198,
R213). -/
def State.inLog (s : State) (src : Nat) (c : Ctx) (e : OpEntry) : Bool :=
  c.resident && (c.key = s.cx.key || e.src = src || e.src = s.cx.key.h)

/-- The lowest index that is free in the operand log of the core at `src`, for the running context (R213). -/
def State.freeIdx (s : State) (src : Nat) : Option Nat :=
  (List.range 32).find? fun i => s.ctxs.all fun c => c.log.all fun e => !(s.inLog src c e && e.idx = i)

/-- An entry of the running context enters the log of the core at `src`, if one is free (R213), and its packet takes its stamp (R309). -/
def State.post (s : State) (src : Nat) (f : Nat → OpEntry) : Try State :=
  match s.freeIdx src with
  | none => .error .wait
  | some i =>
    let e := { f i with lvl := s.cx.level, src := src, seq := s.order }
    .ok (({ s with cx := { s.cx with log := s.cx.log ++ [e] } } : State).request s.cx.key src s.cx.leaf).tickOrder

/-! ## Performing a posted access -/

/-- Counts a second-level access and the channel accesses it causes (R380 codes 6 and 7). -/
def State.countSlice (s : State) (k : Key) : State :=
  s.mapCtx k fun c => (c.count 6 1).count 7 (Config.channelAccesses s.tick)

/-- Writes of a store piece at a place: each byte of `cells` at its distance (R213, R217). -/
def State.storeCells (s : State) (pa : Nat) (cells : List Host.Cell) : State :=
  cells.foldl (fun s c => s.store (pa + c.1) 1 c.2.toNat) s

/-- A release of TRIG reaches the walker: the kernel's trigger count rises, up to TRIGN (R78). -/
def State.countTrigger (s : State) (kid : Nat) : State :=
  { s with kernels := s.kernels.map fun k => if k.kid = kid && k.trigs < k.trigN then { k with trigs := k.trigs + 1 } else k }

/-- The lines of one home that [pa, pa + n) meets, all held apart by its slice if one is: memory and the slice hold a clean line
alike (R124). -/
def State.together (s : State) (home pa n : Nat) : State :=
  let p := physOf pa
  let ls := [p / 128, (p + n - 1) / 128].eraseDups
  if ls.any fun l => s.slices.any fun x => x.home = home && x.line = l then
    ls.foldl (fun s l => s.sliceHold home l (s.cacheWays home) ls.contains) s
  else s

/-- The effect of an entry at its place (R205, R335, R223). -/
def State.applyEntry (s : State) (k : Key) (kid : Nat) (e : OpEntry) (pa : Nat) : State :=
  match e.kind with
  | .store => s.storeCells pa e.cells
  | .red => s.store pa e.len (portOp e.op e.len (s.load pa e.len) e.data.toNat)
  | .laccAdd => (s.store pa 72 (laccAdd (s.load pa 72) (laccTerm (e.op = 1) (e.data.setWidth 64)).num)).countFor k 11 1
  | .laccClr => (s.store pa 72 0).countFor k 11 1
  | .trig => s.countTrigger kid
  | .semV => s.store pa 8 (min (s.load pa 8 + 1) (2 ^ 64 - 1))

/-- Where an entry is performed now: a window address finds its target again (R214, R226, R375). -/
inductive Placed where
  | at (pa : Nat)
  | retry
  | rejected
  deriving DecidableEq, Repr

/-- The place of an entry (R208). A store of which part is written stays with the place that took it. A context that has gone or does not admit the access, or a withdrawn scratch way, rejects it (R98,
R214, R226). A RED at the fabric switch is answered by its slot (R399). -/
def State.placeEntry (s : State) (c : Ctx) (e : OpEntry) : Placed :=
  if e.begun then .at (s.placeAt e.site (physOf e.pa))
  else if regionOf e.addr = .siteWindow || isSiteWindow e.pa then
    match (if regionOf e.addr = .siteWindow then s.siteTarget c.kid { c.client with lvl := e.lvl } .store e.addr e.len
      else s.physicalSite .store e.addr e.pa) with
    | .error _ => .rejected
    | .ok t => if t.retry then .retry else .at t.pa
  else if isSwitch e.pa then (if e.kind = .red then .retry else .rejected)
  else .at (s.placeAt e.site (physOf e.pa))

/-- A RED on its way to the fabric switch (R399). -/
def OpEntry.toSwitch (e : OpEntry) : Bool := e.kind = .red && isSwitch e.pa && regionOf e.addr = .global

/-- The entry was answered RETRY at its place and is sent again later (R375); it holds nothing up. -/
def State.entryRetries (s : State) (c : Ctx) (e : OpEntry) : Bool :=
  match s.placeEntry c e with
  | .retry => true
  | _ => false

/-- An entry comes next at its place (R14, R78, R206, R210, R309): its answer finds a frame, nothing older of its pair on REQ is on its way, the thread's older writes
of the same bytes are performed, and the count of a TRIG follows every older write of its thread. -/
def State.mayPerform (s : State) (c : Ctx) (e : OpEntry) : Bool :=
  e.st = .sent &&
  if e.kind = .trig then c.log.all fun o => o.st ≠ .sent || decide (e.seq ≤ o.seq)
  else
    s.roomFor e.site c.leaf 1 &&
    (s.ctxs.all fun o => (o.log.all fun x => !(x.onPair e.src e.site && decide (x.seq < e.seq)) || s.entryRetries o x) &&
      o.sends.all fun x => !(x.onPair o e.src e.site && decide (x.order < e.seq))) &&
    c.log.all fun o => !(o.st = .sent && decide (o.seq < e.seq) && meets (physOf o.pa) o.len (physOf e.pa) e.len)

/-- The entry at an index of a context's log takes a new state. -/
def setEntry (log : List OpEntry) (i : Nat) (st : OpState) : List OpEntry :=
  log.map fun e => if e.idx = i then { e with st := st } else e

/-- R214: an entry fails late. Its count falls, the entry stays, in the owner's log for a composed thread (R198), cause 31 is
posted, and for POISON and RETIRED interrupt 17 is raised at P. -/
def Ctx.failLate (c : Ctx) (e : OpEntry) (why : LateReason) : Ctx :=
  let c1 := { c with log := c.log.map fun (x : OpEntry) => if x.idx = e.idx then { x with st := .failed why, src := c.key.h } else x }
  let c2 := c1.asyncAged 31 e.addr (toWord e.idx) .T e.seq
  match why with
  | .rejected => c2
  | .poison | .retired => c2.irq 17 .P (toWord (siteAddr e.site 0))

/-- A retired unit serves the place of a target (R208, R214): a bank of a pool, a slice with its lines and scratch, or a whole
site. The place of a peer is served by the peer (R397). -/
def unitServes (u : RasUnit) (t : Target) : Bool :=
  let pool := isSiteWindow t.pa && decide ((t.pa - siteBase) % 0x400000 < 0x100000)
  match u with
  | .bank h b => pool && t.pa / 0x10000 = siteAddr h (b * 0x10000) / 0x10000
  | .slice h => !pool && t.kind ≠ .device && !isPeer (physOf t.pa) && t.site = h
  | .site h => t.kind ≠ .device && !isPeer (physOf t.pa) && t.site = h
  | .channel _ | .engine _ => false

/-- The reason an access to a target is refused there, for accesses that are never posted (R208, R397, R399). -/
def State.refusedAt (s : State) (t : Target) (n : Nat) : Option LateReason :=
  if isSwitch t.pa then some .rejected
  else if s.sol.retired.any fun u => unitServes u t then some .retired
  else if s.broken t.pa n then some .poison
  else none

/-- What a peer answers to an access that is never posted, a free value (R208, R397). -/
def State.peerRefuses (s : State) (t : Target) : Option LateReason :=
  if isPeer (physOf t.pa) then
    match Config.peerAnswer s.tick with
    | 1 => some .rejected
    | 2 => some .poison
    | 3 => some .retired
    | _ => none
  else none

/-- The target of an entry that is performed at a place. -/
def OpEntry.target (e : OpEntry) (pa : Nat) : Target := ⟨pa, if isSiteWindow pa then .siteWin else .glob, e.site, 0, false⟩

/-- Why an entry fails at its place, if it does (R214); TRIG's count goes to no place, and a store of which part is written is taken. -/
def State.entryRefused (s : State) (e : OpEntry) (pa : Nat) : Option LateReason :=
  if e.kind = .trig || e.begun then none else s.refusedAt (e.target pa) e.len

/-- An entry's place has answered it, and the answer leaves for the core (R14, R214). -/
def State.answerEntry (s : State) (k : Key) (e : OpEntry) (st : OpState) : State :=
  let t := s.mapCtx k fun c =>
    { c with log := c.log.map fun (x : OpEntry) => if x.idx = e.idx then { x with st := st, done := s.order } else x }
  (t.stampNext e.site (((s.ctx? k).map (·.leaf)).getD 0) 1).tickOrder

/-- The entry is performed at its place, or refused there (R206, R214); an answer RETRY leaves it sent (R375). -/
def State.perform (s : State) (k : Key) (e : OpEntry) : State :=
  match s.ctx? k with
  | none => s
  | some c =>
    match s.placeEntry c e with
    | .retry => s
    | .rejected => s.answerEntry k e (.refused .rejected)
    | .at pa =>
      match s.entryRefused e pa with
      | some why => s.answerEntry k e (.refused why)
      | none =>
        let t := if e.kind = .laccAdd || e.kind = .laccClr then s.together e.site pa 72 else s
        let at_ := if isSiteWindow pa then pa else t.placeAt e.site (physOf pa)
        let u := (t.applyEntry k c.kid e at_).answerEntry k e .performed
        if e.count = .scm then u.countSlice k else u

/-- Sent entries that a request from `src` to a site comes after: those of the same source, and the thread's own (R14, R198). -/
def State.ahead (s : State) (src site : Nat) : List (Key × OpEntry) :=
  let all := s.ctxs.flatMap fun c => (c.log.filter fun e => e.st = .sent && e.site = site && c.resident &&
    (e.src = src || c.key = s.cx.key)).map fun e => (c.key, e)
  all.mergeSort fun a b => decide (a.2.seq ≤ b.2.seq)

/-- An entry of a context's log is performed if it may be by now. -/
def State.performDue (s : State) (k : Key) (e : OpEntry) : State :=
  match s.ctx? k with
  | none => s
  | some c => if c.log.contains e && s.mayPerform c e then s.perform k e else s

/-- Accesses of the context at a key that were issued before a moment of the running order and are not performed yet; the count of a
TRIG is none (R341). -/
def State.past (s : State) (k : Key) (order : Nat) : List OpEntry :=
  match s.owner? k with
  | none => []
  | some c => c.log.filter fun e => e.st = .sent && decide (e.seq < order) && e.kind ≠ .trig

/-- An engine's acquire or release for what the context at a key did before a moment (R341): every earlier access is performed; `none`
while one cannot be (R14, R375). -/
def State.engineOrder (s : State) (k : Key) (order : Nat) : Option State :=
  let t := (s.past k order).foldl (fun s e => s.performDue k e) s
  if (t.past k order).isEmpty then some t else none

/-- What comes before a request from `src` to a site is performed there, as far as it may be by now (R14). -/
def State.flush (s : State) (src site : Nat) : State := (s.ahead src site).foldl (fun s x => s.performDue x.1 x.2) s

/-! ## Writes on their way (R232, R290, R339) -/

/-- A write on its way is performed at its place. -/
def State.landPost (s : State) (p : Post) : State :=
  let a := s.placeAt p.site p.pa
  { s.store a p.n (if p.add then portOp 0 p.n (s.load a p.n) p.val else p.val) with posts := s.posts.erase p }

/-- The writes on their way that meet a condition are performed, in their order. -/
def State.landWhere (s : State) (f : Post → Bool) : State := (s.posts.filter f).foldl State.landPost s

/-- Every write on its way of the context at a key is performed. -/
def State.landOf (s : State) (k : Key) : State := s.landWhere fun p => p.agent = k

/-- A write on its way goes now: one of the same bytes that is older goes first (R345), and a sum comes after every older write of its kind
for its agent (R290). -/
def State.mayLand (s : State) (p : Post) : Bool :=
  s.posts.all fun o => !(decide (o.seq < p.seq) &&
    ((p.add && o.kind = p.kind && o.agent = p.agent) || (o.site = p.site && meets o.pa o.n p.pa p.n)))

/-- What a site has sent to bytes of a home and is on its way is performed, before an access of the same site to them (R206, R346). -/
def State.landAt (s : State) (src site pa n : Nat) : State :=
  s.landWhere fun p => p.src = src && p.site = site && meets p.pa p.n (physOf pa) n

/-- The write `n` of those on their way is performed, if it may be. -/
def State.landNth (s : State) (n : Nat) : State :=
  match s.posts[n]? with
  | some p => if s.mayLand p then s.landPost p else s
  | none => s

/-- Cells of a store in groups of one part, each with its first distance, its bytes and their value (R339). -/
def partsOf (cells : List Host.Cell) (unit : Nat) : List (Nat × Nat × Nat) :=
  ((cells.map fun c => c.1 / unit).eraseDups).map fun g =>
    let cs := cells.filter fun c => c.1 / unit = g
    ((cs.head?.map (·.1)).getD 0, cs.length, cs.foldr (fun c v => c.2.toNat + 256 * v) 0)

/-- A write at a site is on its way. -/
def State.addPost (s : State) (kind : PostKind) (agent : Key) (src site pa n v : Nat) (add : Bool) : State :=
  ({ s with posts := s.posts ++ [⟨kind, agent, src, site, physOf pa, n, v, add, s.order⟩] } : State).tickOrder

/-- A write of cells to the pool of its own site: at once, or, as the schedule has it, in parts that other agents see one by one (R339). -/
def State.writeParts (s : State) (kind : PostKind) (agent : Key) (pa : Nat) (cells : List Host.Cell) (unit : Nat) : State :=
  let ps := partsOf cells unit
  if s.apart && decide (1 < ps.length) then
    ps.foldl (fun s p => s.addPost kind agent agent.h agent.h (pa + p.1) p.2.1 p.2.2 false) { s with apart := false }
  else s.storeCells pa cells

/-- The bytes of a value as cells from distance 0. -/
def valueCells (n v : Nat) : List Host.Cell := (List.range n).map fun i => (i, BitVec.ofNat 8 (v >>> (8 * i)))

/-- A message image is written into a context's pool, in parts of a doubleword (R290, R291, R339). -/
def State.writeImage (s : State) (kind : PostKind) (k : Key) (pa : Nat) (img : BitVec 512) : State :=
  s.writeParts kind k pa (valueCells 64 img.toNat) 8

/-! ## What an access comes after (R14, R309) -/

/-- A message's image asks for RPY (R286). -/
def imgRpy (b : BitVec 512) : Bool := b.getLsbD 9

/-- The send is on its way: injected, and not yet at its destination. -/
def Send.inFlight (x : Send) : Bool := x.st = .sent && x.answer.isNone

/-- The reply is held in the slot of its destination (R291). -/
def State.isHeld (s : State) (k : Key) (h : Nat) : Bool :=
  s.ctxs.any fun c => c.hold.any fun r => r.src = k && r.handle = h

/-- The entry's place has answered it, and the answer is on its way. -/
def OpEntry.answering (e : OpEntry) : Bool :=
  match e.st with
  | .performed | .refused _ => true
  | .sent | .failed _ => false

/-- Something on RPY left site `src` for site `dst` before `at_` and has not arrived: the answer to a posted access or to a message,
or a reply (R14). -/
def State.replyAhead (s : State) (src dst at_ : Nat) : Bool :=
  s.ctxs.any fun c =>
    (c.log.any fun e => e.answering && e.site = src && e.src = dst && decide (e.done < at_)) ||
    c.sends.any fun x =>
      (c.key.h = dst && c.leafBase + x.dest = src && x.answer.isSome && decide (x.answered < at_)) ||
      (imgRpy x.img && x.inFlight && !s.isHeld c.key x.handle && c.key.h = src && c.leafBase + x.dest = dst && decide (x.order < at_))

/-- The answer of an entry arrives (R211, R213, R214): a performed one frees its entry, an error makes it fail late. -/
def Ctx.endEntry (c : Ctx) (e : OpEntry) : Ctx :=
  match e.st with
  | .performed => { c with log := c.log.filter (· ≠ e) }
  | .refused why => c.failLate e why
  | .sent | .failed _ => c

/-- The answers on their way from a site to another arrive in their order (R14). -/
def State.takeAnswers (s : State) (site src : Nat) : State :=
  let due := s.ctxs.flatMap fun c => (c.log.filter fun e => e.answering && e.site = site && e.src = src).map fun e => (c.key, e)
  (due.mergeSort fun a b => decide (a.2.done ≤ b.2.done)).foldl
    (fun s x => if s.replyAhead site src x.2.done then s else s.mapCtx x.1 fun c => c.endEntry x.2) s

/-- Nothing that a request of the running context from `src` to a site comes after is on its way, nor anything that its reply comes
after (R14), and both find a frame (R309). -/
def State.pathOpen (s : State) (src site : Nat) : Bool :=
  ((s.ahead src site).all fun x => (s.ctx? x.1).any fun c => s.entryRetries c x.2) && !s.behind src site &&
    (s.posts.all fun p => !(p.src = src && p.site = site)) && !s.replyAhead site src s.order &&
    s.roomFor src s.cx.leaf 0 && s.roomFor site s.cx.leaf 1

/-- What is on its way from a site to another goes first, as far as it may by now (R14). -/
def State.clearPath (s : State) (src site : Nat) : State :=
  ((s.flush src site).landWhere fun p => p.src = src && p.site = site).takeAnswers site src

/-- The core has sent nothing to bytes [a, a + n) of its own pool that is on its way (R206). -/
def State.localOpen (s : State) (a n : Nat) : Bool :=
  let h := s.cx.key.h
  ((s.ahead h h).all fun x => !meets (physOf x.2.pa) x.2.len a n) &&
    s.posts.all fun p => !(p.src = h && p.site = h && meets p.pa p.n a n)

/-- The core reads or writes bytes [a, a + n) of its own pool after what it has sent to them (R206). -/
def State.ownPool (s : State) (a n : Nat) : Try Unit :=
  if s.localOpen a n then .ok () else .error (.behind s.cx.key.h s.cx.key.h)

/-- A never-posted access of the running context may go to a target now. -/
def State.mayGo (s : State) (t : Target) (va : Word) (n : Nat) : Try Unit :=
  let src := if t.kind = .localWin then s.cx.key.h else s.cx.bankSite va
  if isMmio t.pa || (if t.kind = .localWin then s.localOpen t.pa n else s.pathOpen src t.site) then .ok () else .error (.behind src t.site)

/-- The answer of an instruction: its next state, the trap it raises, or the state as it stands while it waits. -/
def State.finish (s : State) (r : Try State) : Result :=
  match r with
  | .ok t => .next t
  | .error .wait => .next s
  | .error (.trap e) => .next (s.raise e)
  | .error (.broken e u) => .next ((s.mapCx fun c => c.irq 17 .P u).raise e)
  | .error (.behind src site) => .next (s.clearPath src site)

/-! ## First-level cache (R209) -/

/-- The copy of a line at a site. -/
def State.copyOf (s : State) (h line : Nat) : Option L1Line := s.l1.find? fun e => e.h = h && e.line = line

/-- The bytes [a, a + n) of a line's copy. -/
def L1Line.read (l : L1Line) (a n : Nat) : Nat := (l.bytes.toNat >>> (8 * (a % 128))) % 2 ^ (8 * n)

/-- A line's copy with one byte changed. -/
def L1Line.write (l : L1Line) (a : Nat) (b : Byte) : L1Line :=
  { l with bytes := putFld l.bytes (8 * (a % 128) + 7) (8 * (a % 128)) b.toNat }

/-- Lines that a first-level data cache of 512 KiB holds, and blocks that an instruction cache of 64 KiB holds (R9). -/
def l1Lines : Nat := 4096
def fetchBlocks : Nat := 1024

/-- A list with `x` at its end, and without its first element of the same kind where `cap` of them stand there already. -/
def addBounded {α : Type} (same : α → Bool) (cap : Nat) (x : α) : List α → List α
  | l => (if cap ≤ (l.filter same).length then l.eraseP same else l) ++ [x]

/-- The cache of a site takes the line of a place from its home; a full one drops the copy it took first (R9, R209). -/
def State.fillLine (s : State) (h place : Nat) : State :=
  match s.copyOf h (lineOf place) with
  | some _ => s
  | none =>
    let copy : L1Line := ⟨h, lineOf place, BitVec.ofNat 1024 (s.load (place / 128 * 128) 128)⟩
    { s with l1 := addBounded (fun l => decide (l.h = h)) l1Lines copy s.l1 }

/-- A store updates the copies that the thread's caches hold at issue (R198, R209). -/
def State.updateCopy (s : State) (pa : Nat) (cells : List Host.Cell) : State :=
  { s with l1 := s.l1.map fun l =>
      cells.foldl (fun l c =>
        if s.cx.members.contains l.h && l.line = lineOf (pa + c.1) then l.write (pa + c.1) c.2 else l) l }

/-- A read–modify–write drops the copies of the lines of [pa, pa + n) from the thread's caches at issue (R198, R209). -/
def State.dropCopy (s : State) (pa n : Nat) : State :=
  { s with l1 := s.l1.filter fun l => !(s.cx.members.contains l.h && meetsLine pa n l.line) }

/-! ## Loads performed early (R210, R342, R345)

A load may be performed before instructions that precede it, as long as no acquire, no fence before reads and no write to the local
window comes between, and it reads nothing that the thread itself wrote since. -/

/-- The load performed early is one of the bytes [a, a + n) at a home, its turn has come, and a load of that strength may take it (R345). -/
def EarlyLoad.fits (e : EarlyLoad) (strong : Bool) (site a n : Nat) : Bool :=
  e.site = site && e.skip = 0 && !(strong && e.weak) && decide (e.pa ≤ a) && decide (a + n ≤ e.pa + e.n)

/-- The bytes [a, a + n) of a home as a load performed early found them. -/
def Ctx.earlyValue (c : Ctx) (strong : Bool) (site a n : Nat) : Option Nat :=
  (c.early.find? fun e => e.fits strong site a n).map fun e => (e.val >>> (8 * (a - e.pa))) % 2 ^ (8 * n)

/-- Loads performed early that meet [a, a + n) are forgotten: the thread wrote there (R345). -/
def Ctx.forget (c : Ctx) (a n : Nat) : Ctx := { c with early := c.early.filter fun e => !meets e.pa e.n a n }

/-- A load of the thread of the bytes [a, a + n) has gone: a load performed early that it met was its own, or has one fewer before it. One
that was performed before what a strong load has read is none that a later strong load may take (R345). -/
def Ctx.passLoad (c : Ctx) (strong : Bool) (site a n : Nat) : Ctx :=
  let older := if strong then (c.early.findIdx? fun e => e.fits true site a n).getD c.early.length else 0
  { c with early := c.early.zipIdx.filterMap fun x =>
      let e := x.1
      if !meets e.pa e.n a n then some e
      else if e.skip = 0 then none
      else some { e with skip := e.skip - 1, weak := e.weak || decide (x.2 < older) } }

/-- No load performed early is left: an acquire, a fence or a write to the local window came (R342 cases 1, 4 and 6). -/
def Ctx.settleLoads (c : Ctx) : Ctx := { c with early := [] }

/-- A part of a load of the running context: the `n` bytes at a place of a home, as a load performed early found them, or as the place
holds them. -/
def State.seePart (s : State) (strong : Bool) (site a n : Nat) : Nat :=
  (s.cx.earlyValue strong site (physOf a) n).getD (s.load a n)

/-- What the running context's load of `n` bytes at a place of a home finds, in parts of `w` bytes that are single-copy atomic (R339). -/
def State.see (s : State) (strong : Bool) (site a n w : Nat) : Nat :=
  (List.range (n / w)).foldr (fun i acc => s.seePart strong site (a + w * i) w * 2 ^ (8 * (w * i)) + acc) 0

/-- Every part of a load was performed early. -/
def Ctx.seen (c : Ctx) (strong : Bool) (site a n w : Nat) : Bool :=
  (List.range (n / w)).all fun i => (c.earlyValue strong site (a + w * i) w).isSome

/-! ## Orders and scopes -/

/-- The order and strength in force for an access (R29, R142, R210). -/
structure Order where
  acq : Bool
  rel : Bool
  strong : Bool
  scope : Nat
  deriving DecidableEq, Repr

/-- A weak, relaxed access. -/
def Order.weak : Order := ⟨false, false, false, 0⟩

/-- A scalar load or store under a pending SCOPE hint (R29, R142). -/
def Ctx.scopeOf (c : Ctx) : Order :=
  match c.hint with
  | none => .weak
  | some h =>
    if h.kind = 2 then
      let o := fld h.payload 1 0
      ⟨o % 2 = 1, o / 2 = 1, o ≠ 0 || h.payload.getLsbD 4, fld h.payload 3 2⟩
    else .weak

/-- An AMO, LR or SC: its aq and rl bits at device scope, ORed with a SCOPE hint's order (R29, R142). -/
def Ctx.amoOrder (c : Ctx) (aq rl : Bool) : Order :=
  let o := c.scopeOf
  let own := aq || rl
  match c.hint with
  | some h =>
    if h.kind = 2 then ⟨o.acq || aq, o.rel || rl, o.strong || own, o.scope⟩ else ⟨aq, rl, own, 2⟩
  | none => ⟨aq, rl, own, 2⟩

/-- Tile coordinates of a pending TILECO hint (R29, R123). -/
def Ctx.tileco (c : Ctx) : Option (Nat × Nat) :=
  match c.hint with
  | some h => if h.kind = 8 then some (fld h.payload 19 10, fld h.payload 9 0) else none
  | none => none

/-- W of a pending WAIT hint (R29). -/
def Ctx.waitHint (c : Ctx) : Nat :=
  match c.hint with
  | some h => if h.kind = 3 then fld h.payload 1 0 else 0
  | none => 0

/-- The predicate that a pending PRED hint names (R29). -/
def Ctx.predHint (c : Ctx) : Option (Fin 8) :=
  match c.hint with
  | some h => if h.kind = 4 then some ⟨fld h.payload 2 0, Nat.mod_lt _ (by decide)⟩ else none
  | none => none

/-- A predicate register; p0 reads all ones (R31). -/
def Ctx.getP (c : Ctx) (i : Fin 8) : BitVec 128 := if i = 0 then BitVec.allOnes 128 else c.p.get i

/-- The strong entry holds back a strong write of a scope (R210, R342 case 3): the narrower of the two scopes is wider than its core, and
the entry is not acknowledged. The count of a TRIG is no store. -/
def OpEntry.holdsBack (e : OpEntry) (scope : Nat) : Bool :=
  e.strong && e.outstanding && e.kind ≠ .trig && decide (1 ≤ scope) && decide (1 ≤ e.scope.toNat)

/-- A release or a strong store leaves only when it may (R210, R342): scs, scd and scm zero for a release of span scope or wider,
and every earlier strong store acknowledged. At core scope neither is waited for: DESIGN CHOICE (19), R210 says the second of every
strong store, and R349 allows what only core scope without it can give. -/
def Ctx.mayLeave (c : Ctx) (o : Order) : Bool :=
  (!(o.rel && 1 ≤ o.scope) || c.drained) && (!(o.strong || o.rel) || c.log.all fun e => !e.holdsBack o.scope)

/-- A release point of a command (R84, R334): earlier writes performed and acknowledged, at span scope or wider. -/
def Ctx.released (c : Ctx) (scope : Nat) : Bool := scope = 0 || c.drained

/-- An access that a context has sent at a moment is not performed yet. -/
def State.stillSent (s : State) (x : Key × Nat) : Bool :=
  (s.ctx? x.1).any fun c => c.log.any fun e => e.seq = x.2 && e.st = .sent

/-- What the running context orders before a write at core scope and is not performed yet (R342): before a release everything, with what
its own acquires came after; before a strong write its strong writes. -/
def State.orderedBefore (s : State) (o : Order) : List (Key × Nat) :=
  let own := fun (p : OpEntry → Bool) => (s.cx.log.filter fun e => e.st = .sent && e.kind ≠ .trig && p e).map fun e => (s.cx.key, e.seq)
  if o.rel then own (fun _ => true) ++ (s.cx.behind.map fun b => (b.1, b.2.1)).filter s.stillSent
  else if o.strong then own (·.strong)
  else []

/-- A strong write of `n` bytes at a target leaves before what it follows at core scope (R342, R346). -/
def State.mark (s : State) (o : Order) (t : Target) (n : Nat) : State :=
  let b := s.orderedBefore o
  if b.isEmpty then s
  else { s with marks := (s.marks.filter fun m => m.before.any s.stillSent) ++ [⟨s.cx.key.h, t.site, physOf t.pa, n, b⟩] }

/-- An acquire has read `n` bytes at a target: what a strong write there of its own core left behind comes before the engines' reads for
later commands (R342 case 1, R343, R346). -/
def State.heed (s : State) (t : Target) (n : Nat) : State :=
  let ms := s.marks.filter fun m => m.core = s.cx.key.h && m.site = t.site && meets m.pa m.n (physOf t.pa) n
  s.mapCx fun c => { c with behind := c.behind ++ ((ms.flatMap (·.before)).filter s.stillSent).map fun b => (b.1, b.2, s.order) }

/-- What the acquires of the context at a key, made before a moment, came after at core scope is performed; `none` while it cannot be
(R342, R346). -/
def State.heeded (s : State) (k : Key) (order : Nat) : Option State :=
  match s.owner? k with
  | none => some s
  | some c =>
    let due := c.behind.filter fun b => decide (b.2.2 < order)
    let entry := fun (s : State) (b : Key × Nat × Nat) => (s.ctx? b.1).bind fun d => d.log.find? fun e => e.seq = b.2.1 && e.st = .sent
    let t := due.foldl (fun s b => match entry s b with | none => s | some e => s.performDue b.1 e) s
    if due.any fun b => t.stillSent (b.1, b.2.1) then none else some t

/-- An acquire: no load of the thread after it was performed before it, and at span scope or wider the thread's caches drop every
line (R209, R210). -/
def State.acquire (s : State) (scope : Nat) : State :=
  (if 1 ≤ scope then s.invalidateAll s.cx.members else s).mapCx Ctx.settleLoads

/-! ## Loads -/

/-- The number of a late reason (R214). -/
def lateCode : LateReason → Nat
  | .rejected => 1
  | .poison => 2
  | .retired => 3

/-- R208: a never-posted access that is refused, or meets an error, at its place traps there. -/
def State.checkPlace (s : State) (acc : Access) (t : Target) (va : Word) (n : Nat) : Try Unit :=
  let e := fun r => (⟨(exnAccess acc va).cause, va, toWord (lateCode r), .T⟩ : Exn)
  match (s.refusedAt t n).or (s.peerRefuses t) with
  | none => .ok ()
  | some .rejected => .error (.trap (e .rejected))
  | some r => .error (.broken (e r) (toWord (siteAddr t.site 0)))

/-- The load may be served by the first-level copy that a site holds (R209). -/
def State.hits (s : State) (h : Nat) (t : Target) : Bool :=
  t.kind = .glob && t.mt = 0 && !isPeer t.pa && (s.copyOf h (lineOf t.pa)).isSome

/-- A store of another context that a first-level copy shows already, and that is not performed yet (R209, R346). -/
def State.foreign (s : State) (a n : Nat) : Option OpEntry :=
  s.others.findSome? fun c => c.log.find? fun e => e.st = .sent && e.kind = .store && meets (physOf e.pa) e.len a n

/-- A load of the running context may be performed now: every part was performed early, its first-level copy serves a weak one, or nothing
that it comes after is on its way (R14, R209, R345, R346). -/
def State.mayLoad (s : State) (o : Order) (t : Target) (va : Word) (n w : Nat) : Try Unit :=
  let strong := o.acq || o.strong
  if s.cx.seen strong t.site (physOf t.pa) n w then .ok ()
  else if !strong && s.hits (s.cx.bankSite va) t then
    match s.foreign (physOf t.pa) n with
    | none => .ok ()
    | some e => .error (.behind e.src e.site)
  else s.mayGo t va n

/-- A weak load of `n` bytes at a target, queued at the bank of `va`, in atomic parts of `w` bytes (R198, R209, R339): as a load
performed early found it, from the first-level copy if there is one, else from the place, which fills the cache when the line is of
normal type. -/
def State.loadWeak (s : State) (t : Target) (va : Word) (n w : Nat) : Nat × State :=
  let h := s.cx.bankSite va
  let done := fun (u : State) => u.mapCx fun c => c.passLoad false t.site (physOf t.pa) n
  if t.kind = .localWin then (s.see false t.site t.pa n w, done s)
  else if t.kind = .glob && t.mt = 0 && !isPeer t.pa then
    match s.copyOf h (lineOf t.pa), s.cx.earlyValue false t.site (physOf t.pa) n with
    | some l, none => (l.read t.pa n, done s)
    | _, _ =>
      let u := (s.trip h t.site).countSlice s.cx.key
      (u.see false t.site t.pa n w, done (u.fillLine h t.pa))
  else
    let u := s.trip h t.site
    (u.see false t.site t.pa n w, done u)

/-- A strong load: at its place, never from the first-level cache (R210). -/
def State.loadStrong (s : State) (t : Target) (va : Word) (n : Nat) : Nat × State :=
  let u := if t.kind = .localWin then s else s.trip (s.cx.bankSite va) t.site
  (u.see true t.site t.pa n n, (if t.kind = .glob then u.countSlice s.cx.key else u).mapCx fun c => c.passLoad true t.site (physOf t.pa) n)

/-- A load under an order (R210): an acquire is strong and self-invalidates at span scope or wider. -/
def State.loadOrd (s : State) (o : Order) (t : Target) (va : Word) (n w : Nat) : Nat × State :=
  if o.acq || o.strong then
    let (v, u) := s.loadStrong t va n
    (v, if o.acq then (u.heed t n).acquire o.scope else u)
  else s.loadWeak t va n w

/-- The target of a never-posted access of the running context (R208): it waits while the target answers RETRY (R375), and a
refusal or an error at the place traps there. -/
def State.reach (s : State) (acc : Access) (va : Word) (n : Nat) : Try Target := do
  let t ← tryExn (s.resolve acc va n s.cx.tileco)
  waitUntil (!t.retry)
  s.checkPlace acc t va n
  return t

/-- A load of `n` bytes under an order by the running context; the value and the state after it. -/
def State.readMem (s : State) (o : Order) (va : Word) (n : Nat) : Try (Nat × State) := do
  let t ← s.reach .load va n
  s.mayLoad o t va n n
  return s.loadOrd o t va n n

/-! ## Stores -/

/-- A write to the local window comes after what the core has sent to the same bytes of its own pool, and before every later access
of the thread (R206, R342 case 6, R345). -/
def State.beforeLocal (s : State) (a n : Nat) : Try State :=
  (s.ownPool a n).map fun _ => s.mapCx Ctx.settleLoads

/-- A posted store of cells at one target, queued at `bank` (R198, R208, R213), in parts of `unit` bytes, with the thread's copies
updated at issue (R209); a local-window store is performed at once, or in parts before the thread's next event (R339, R342). -/
def State.storeAt (s : State) (o : Order) (bank : Nat) (t : Target) (va : Word) (len : Nat) (data : BitVec 1024)
    (cells : List Host.Cell) (unit : Nat) : Try State :=
  match t.kind with
  | .localWin => (s.beforeLocal t.pa len).map fun u => (u.mark o t len).writeParts .thread s.cx.key t.pa cells unit
  | .device => (s.beforeLocal t.pa len).map fun u => u.storeCells t.pa cells
  | .siteWin | .glob => do
    let cls := t.countClass s.cx.key.h
    let u ← (s.mark o t len).post bank fun i => ⟨i, va, .store, 0, len, BitVec.ofNat 2 (if o.strong || o.rel then o.scope else 0),
      o.strong || o.rel, data, cells, unit, t.pa, t.site, cls, .sent, s.cx.level, bank, 0, 0, o.rel, false⟩
    return (if t.kind = .glob then u.updateCopy t.pa cells else u).mapCx fun c => c.forget (physOf t.pa) len

/-- A posted read–modify–write that returns nothing (R208, R221, R223, R335); at a local window it is performed at once. -/
def State.postRmw (s : State) (kind : OpKind) (op : Nat) (o : Order) (t : Target) (va : Word) (len : Nat)
    (data : BitVec 1024) : Try State :=
  let e := fun i => (⟨i, va, kind, op, len, BitVec.ofNat 2 o.scope, o.strong, data, [], len, t.pa, t.site,
    t.countClass s.cx.key.h, .sent, s.cx.level, s.cx.key.h, 0, 0, o.rel, false⟩ : OpEntry)
  match t.kind with
  | .localWin | .device => (s.beforeLocal t.pa len).map fun u => u.applyEntry s.cx.key s.cx.kid (e 0) t.pa
  | .siteWin | .glob => do
    let u ← s.post (s.cx.bankSite va) e
    return (if t.kind = .glob then u.dropCopy t.pa len else u).mapCx fun c => c.forget (physOf t.pa) len

end Sys2Proof.Machine
end

