-- ==== Sys2Proof/Machine/Bound.lean ====
section
/-! DEFINITION. The storage that v and m registers are bound to: the REG banks, the spill reserve of a core, and the save area of a
context (R155). -/

namespace Sys2Proof.Machine

/-- v[r] among the registers that storage is bound to. -/
def vr (r : BitVec 5) : Nat := r.toNat

/-- m[r] among them. -/
def mr (r : BitVec 3) : Nat := 32 + r.toNat

/-- Operand b of a form that names a v register (R157). -/
def vrB (f : BitVec 2) (b : BitVec 5) : List Nat := if f = 0 then [vr b] else []

/-- The v and m registers that an instruction reads or writes. -/
def regsOf : Instr → List Nat
  | .vadd _ b a f d | .vsub _ b a f d | .vmul _ b a f d | .vand _ b a f d | .vor _ b a f d | .vxor _ b a f d
  | .vsll _ b a f d | .vsrl _ b a f d | .vsra _ b a f d | .vsel _ b a f d | .vfadd _ b a f d | .vfsub _ b a f d
  | .vfmul _ b a f d | .vfma _ b a f d | .vfmin _ b a f d | .vfmax _ b a f d | .vfmaxabs _ b a f d | .vfdiv _ b a f d =>
    vr a :: vrB f b ++ [vr d]
  | .vmulh _ b a _ f d | .vmin _ b a _ f d | .vmax _ b a _ f d | .vsadd _ b a _ f d => vr a :: vrB f b ++ [vr d]
  | .vcmp _ b a f _ | .vfcmp _ b a f _ => vr a :: vrB f b
  | .vabs _ a d | .vfabs _ a d | .vfneg _ a d | .vfclass _ a d | .vfrcp _ a d | .vfrsq _ a d | .vfexp2 _ a d | .vflog2 _ a d =>
    [vr a, vr d]
  | .vcvt _ _ _ a _ _ d => [vr a, vr d]
  | .vpack a _ d | .vunpack _ a _ d => [vr a, vr d]
  | .vdq _ _ a _ d => [vr a, vr d]
  | .vredsum _ a _ d | .vredmax _ a _ d | .vredmin _ a _ d => [vr a, vr d]
  | .vperm _ b a d | .vlut _ b a _ d => [vr a, vr b, vr d]
  | .vslide _ _ a _ d => [vr a, vr d]
  | .vbcast _ _ _ d | .vmvVx _ _ d => [vr d]
  | .vmvXv _ a _ _ => [vr a]
  | .vsettag f a d => if f = 0 then [vr d] else [vr a, vr d]
  | .xop _ b a _ d => [vr a, vr b, vr d]
  | .tzero _ d | .ttagSet _ d | .tld _ _ d | .tst _ _ d => [mr d]
  | .tmov a d | .ttrans a d | .tcvt _ a _ d | .tcvtSat _ a _ d | .tcvtNosat _ a _ d | .tqset a d => [mr a, mr d]
  | .tpick _ a _ d => [mr a, vr d]
  | .tplace _ a _ d => [vr a, mr d]
  | .lxFeedt _ _ _ a _ _ => [mr a]
  | .vld _ _ _ _ d | .vlds _ _ _ _ d | .vst _ _ _ d | .vsts _ _ _ d => [vr d]
  | .vldx _ _ b _ d | .vstx _ b _ d => [vr b, vr d]
  | .chPush _ a | .chPushT _ a _ => [vr a]
  | .chPop _ d => [vr d]
  | .chPopT b _ _ => [vr b]
  | _ => []

/-- Bytes that a register takes: 128, or 8,448 for a tile with its side band. -/
def regBytes (r : Nat) : Nat := if r < 32 then 128 else 8448

/-- The register is tagged EMPTY. -/
def Ctx.emptyReg (c : Ctx) (r : Nat) : Bool :=
  if r < 32 then ((c.v[r]?).map (·.tag)).getD 0 = 0 else ((c.m[r - 32]?).map (·.tag)).getD 0 = 0

/-- Bytes of a context's registers that lie in one home. -/
def Ctx.bytesIn (c : Ctx) (home : RegHome) : Nat := ((c.bound.filter fun b => b.home = home).map fun b => regBytes b.reg).sum

/-- Bytes taken of the spill reserve of a core, by every context there. -/
def State.reserveTaken (s : State) (h : Nat) : Nat := ((s.atSite h).map fun c => c.bytesIn .reserve).sum

/-- A register moves to another home: a spill or a refill, which its context counts (R155, R380 code 4). -/
def State.moveReg (s : State) (k : Key) (r : Nat) (home : RegHome) : State :=
  s.mapCtx k fun c => Ctx.count { c with bound := c.bound.map fun b => if b.reg = r then { b with home := home } else b } 4 1

/-- The least recently used entry of the spill reserve of a core, of any context. -/
def State.oldestSpilled (s : State) (h : Nat) : Option (Key × BoundReg) :=
  firstLeast (fun p => p.2.use) ((s.atSite h).flatMap fun c => (c.bound.filter fun b => b.home = .reserve).map fun b => (c.key, b))

/-- The spill reserve of a core gets `n` bytes free: its least recently used entries go to the save areas. -/
def State.freeReserve (s : State) (h n : Nat) : Nat → State
  | 0 => s
  | f + 1 =>
    if s.reserveTaken h + n ≤ 0x18000 then s
    else
      match s.oldestSpilled h with
      | none => s
      | some p => (s.moveReg p.1 p.2.reg .saveArea).freeReserve h n f

/-- The REG banks of the running context get `n` bytes free: its least recently used registers go to the reserve. -/
def State.freeBankBytes (s : State) (n : Nat) : Nat → State
  | 0 => s
  | f + 1 =>
    if s.cx.bytesIn .banks + n ≤ s.cx.regBanks * 0x10000 then s
    else
      match firstLeast (·.use) (s.cx.bound.filter fun b => b.home = .banks) with
      | none => s
      | some b => ((s.freeReserve s.cx.key.h (regBytes b.reg) 320).moveReg s.cx.key b.reg .reserve).freeBankBytes n f

/-- Storage of the REG banks is bound to a register of the running context. -/
def State.bindReg (s : State) (r : Nat) : State :=
  let t := s.freeBankBytes (regBytes r) 40
  (t.mapCx fun c => { c with bound := c.bound ++ [⟨r, .banks, t.order⟩] }).tickOrder

/-- What is bound follows the tags of the running context: a register written since it was EMPTY takes storage, and one that is EMPTY
again gives it back. -/
def State.settleRegs (s : State) : State :=
  let t := s.mapCx fun c => { c with bound := c.bound.filter fun b => !c.emptyReg b.reg }
  ((List.range 40).filter fun r => !t.cx.emptyReg r && t.cx.bound.all fun b => b.reg ≠ r).foldl State.bindReg t

/-- A bound register is used: one that was spilled is read back, and its last use is now. -/
def State.useReg (s : State) (r : Nat) : State :=
  match s.cx.bound.find? fun b => b.reg = r with
  | none => s
  | some b =>
    let t := if b.home = .banks then s else (s.freeBankBytes (regBytes r) 40).moveReg s.cx.key r .banks
    (t.mapCx fun c => { c with bound := c.bound.map fun x => if x.reg = r then { x with use := t.order } else x }).tickOrder

/-- Storage as an instruction of the running context finds and leaves it (R155): nothing but the event count shows it. -/
def State.useRegs (s : State) (i : Instr) : State := (regsOf i).foldl State.useReg s.settleRegs

end Sys2Proof.Machine
end

