-- ==== Sys2Proof/Machine/Operands.lean ====
section
/-! DEFINITION. Operands: immediates, vector and tile registers, predicates, streams, and the operand forms of R23 and R157. -/

namespace Sys2Proof.Machine

/-! ## Immediates (R23, R29) -/

/-- The payload of a pending WIDE hint. -/
def Ctx.wide (c : Ctx) : Option (BitVec 20) :=
  match c.hint with
  | some h => if h.kind = 1 then some h.payload else none
  | none => none

/-- A 12-bit immediate: sign-extended, or the raw low bits under a WIDE hint (R23, R29). -/
def State.imm (s : State) (i : BitVec 12) : Word :=
  match s.cx.wide with
  | some u => (u ++ i).signExtend 64
  | none => i.signExtend 64

/-- A branch or jump offset: its bits above bit 0, sign-extended (R23). -/
def offset {n : Nat} (o : BitVec n) : Word := (o ++ (0 : BitVec 1)).signExtend 64

/-! ## Tags (R34) -/

/-- Bits of an element of a v register (R34); EMPTY has none. -/
def tagWidth (t : Tag) : Nat :=
  match t.toNat with
  | 0 => 0
  | 1 => 1
  | 3 | 7 | 8 => 16
  | 4 | 6 => 32
  | 5 | 15 => 64
  | _ => 8

/-- Elements of a v register (R34). -/
def tagElems (t : Tag) : Nat := if t = 0 then 0 else 1024 / tagWidth t

/-- INT8, INT16, INT32 or INT64. -/
def isInt (t : Tag) : Bool := (intWidth t).isSome

/-- FP32, BF16 or FP16: the tags of VFLT (R160). -/
def isVflt (t : Tag) : Bool := t = 6 || t = 7 || t = 8

/-- A tag that a tile may hold (R34). -/
def isTileTag (t : Tag) : Bool := t = 2 || t = 3 || (7 ≤ t.toNat && t.toNat ≤ 14)

/-- Bits of the format within a lane: FP6 six, FP4 and QC4 four (R34). -/
def laneBits (t : Tag) : Nat :=
  match t.toNat with
  | 11 | 12 => 6
  | 13 | 14 => 4
  | _ => tagWidth t

/-- An element with the bits above its format cleared (R34). -/
def trimLane (t : Tag) (v : Nat) : Nat := v % 2 ^ laneBits t

/-- Cause 24 (R33): file 0 v, 1 m, 2 q; `expected` is the one tag required, else 0; `any` says that any tag but EMPTY
would do, and `part` that only the part number is wrong. -/
def exnTag (file reg : Nat) (found expected : Tag) (any part : Bool) : Exn :=
  exn 24 (toWord (reg + file * 32 + found.toNat * 256 + expected.toNat * 4096 + (if any then 65536 else 0) +
    (if part then 131072 else 0)))

/-- Cause 24 where the card accepts a set of two or more tags (R33). -/
def exnTagSet (file reg : Nat) (found : Tag) : Exn := exnTag file reg found 0 false false

/-- Cause 24 where the card accepts any tag but EMPTY (R33). -/
def exnTagAny (file reg : Nat) : Exn := exnTag file reg 0 0 true false

/-- Cause 24 where the card requires one tag (R33). -/
def exnTagOne (file reg : Nat) (found expected : Tag) : Exn := exnTag file reg found expected false false

/-! ## Elements of v registers (R31, R34, R156) -/

/-- Element i of width w. -/
def elemOf (w : Nat) (bits : BitVec 1024) (i : Nat) : Nat := (bits.toNat >>> (w * i)) % 2 ^ w

/-- Element i of a register under its tag. -/
def VReg.elem (r : VReg) (i : Nat) : Nat := elemOf (tagWidth r.tag) r.bits i

/-- The number whose elements of width w, from 0 to n − 1, are given. -/
def packElems (w : Nat) (f : Nat → Nat) : Nat → Nat
  | 0 => 0
  | n + 1 => packElems w f n + (f n % 2 ^ w) <<< (w * n)

/-- R156: a register written under a predicate. A disabled element keeps its value when the register already held the tag,
and is zero otherwise. -/
def mergeV (old : VReg) (t : Tag) (en : Nat → Bool) (res : Nat → Nat) : VReg :=
  let w := tagWidth t
  ⟨t, BitVec.ofNat 1024 (packElems w (fun i => if en i then res i else if old.tag = t then elemOf w old.bits i else 0)
    (tagElems t))⟩

/-- Whether an element is enabled by a predicate (R156): bits 128 and up of a BITS register always are. -/
def enabledBy (p : BitVec 128) (i : Nat) : Bool := 128 ≤ i || p.getLsbD i

/-- v[r]. -/
def State.getV (s : State) (r : BitVec 5) : VReg := s.cx.v.get r.toFin

/-- v[d] ← r. -/
def State.setV (s : State) (d : BitVec 5) (r : VReg) : State := { s with cx := { s.cx with v := s.cx.v.set d.toFin r } }

/-- m[r]. -/
def State.getM (s : State) (r : BitVec 3) : MReg := s.cx.m.get r.toFin

/-- m[d] ← r. -/
def State.setM (s : State) (d : BitVec 3) (r : MReg) : State := { s with cx := { s.cx with m := s.cx.m.set d.toFin r } }

/-- p[r]; p0 reads all ones (R31). -/
def State.getP (s : State) (r : BitVec 3) : BitVec 128 := s.cx.getP r.toFin

/-- p[d] ← b; a write to p0 is discarded (R31). -/
def State.setP (s : State) (d : BitVec 3) (b : BitVec 128) : State :=
  if d = 0 then s else { s with cx := { s.cx with p := s.cx.p.set d.toFin b } }

/-- The 16-bit cell of row r and column c of a tile. Under a tag of 8-bit elements its high byte is no element, and holds the bits that
TTAG has kept (R171). -/
def MReg.cell (m : MReg) (r c : Nat) : Nat := (m.elems.toNat >>> (16 * (64 * r + c))) % 65536

/-- Element of row r and column c of a tile (R170). -/
def MReg.elem (m : MReg) (r c : Nat) : Nat := m.cell r c % (if tagWidth m.tag = 8 then 256 else 65536)

/-- The elements of a tile from a function of row and column. -/
def packTile (f : Nat → Nat → Nat) : BitVec 65536 := BitVec.ofNat 65536 (packElems 16 (fun i => f (i / 64) (i % 64)) 4096)

/-- Side-band byte i of a tile (R31). -/
def MReg.sideByte (m : MReg) (i : Nat) : Nat := (m.side.toNat >>> (8 * i)) % 256

/-- The FP32 group scale of a tile: side-band bytes 64 to 67 (R31). -/
def MReg.group (m : MReg) : Nat := (m.side.toNat >>> 512) % 2 ^ 32

/-- A source tile whose tag a card accepts (R33). -/
def State.tileSource (s : State) (a : BitVec 3) : Try MReg :=
  let m := s.getM a
  if isTileTag m.tag then .ok m else raiseStop (exnTagSet 1 a.toNat m.tag)

/-- A source register whose tag meets `ok` (R33); the card accepts more than one tag. -/
def State.vSource (s : State) (a : BitVec 5) (ok : Tag → Bool) : Try VReg :=
  let r := s.getV a
  if r.tag ≠ 0 && ok r.tag then .ok r else raiseStop (exnTagSet 0 a.toNat r.tag)

/-- A source register of any tag but EMPTY (R33). -/
def State.vAny (s : State) (a : BitVec 5) : Try VReg :=
  let r := s.getV a
  if r.tag ≠ 0 then .ok r else raiseStop (exnTagAny 0 a.toNat)

/-- A source register that must carry one tag (R33). -/
def State.vExact (s : State) (a : BitVec 5) (t : Tag) : Try VReg :=
  let r := s.getV a
  if r.tag = t then .ok r else raiseStop (exnTagOne 0 a.toNat r.tag t)

/-! ## q registers as sources (R154, R301, R305) -/

/-- The open channel of a q register. -/
def Ctx.chan? (c : Ctx) (q : Nat) : Option Chan := c.chans.find? fun ch => ch.q = q

/-- The channels with that of a q register changed. -/
def Ctx.setChan (c : Ctx) (ch : Chan) : Ctx := { c with chans := c.chans.map fun x => if x.q = ch.q then ch else x }

/-- Cause 30 with the q number and a reason (R303). -/
def exnChan (q reason : Nat) : Exn := exn 30 (toWord (q + reason * 256))

/-- A packet enters STR with its stamp (R309). -/
def State.onStr (s : State) (p : StrPacket) : State :=
  let leaf := ((s.kernels.find? fun k => k.kid = p.kid).map (·.leaf)).getD 0
  ({ s with str := s.str ++ [p] } : State).stampNext p.src.h leaf 3

/-- The place of slot `i` of a receive end's buffer, in the context's SCR area (R300). -/
def Ctx.slotPlace (c : Ctx) (ch : Chan) (i : Nat) : Nat := siteAddr c.key.h (c.poolOff (ch.buf + 128 * (i % ch.depth)))

/-- The head entry of a receive end of the running context: its tag, and its bytes where the buffer holds them (R300). -/
def State.headEntry (s : State) (ch : Chan) (e : StreamEntry) : StreamEntry :=
  { e with bits := BitVec.ofNat 1024 (s.load (s.cx.slotPlace ch ch.head) 128) }

/-- A packet on STR from an end of the running context to the other end (R300). -/
def Ctx.strPacket (c : Ctx) (ch : Chan) (p : StrPayload) : StrPacket := ⟨c.key, c.kid, c.leafBase + ch.peer, c.rel, ch.rtag, p⟩

/-- The head entry leaves a receive end; ON is sent when the occupancy falls to the threshold (R301, R305). -/
def State.popChan (s : State) (ch : Chan) (rest : List StreamEntry) : State :=
  let on := ch.off && rest.length = ch.onAt
  let t := { s with cx := s.cx.setChan { ch with entries := rest, head := (ch.head + 1) % ch.depth, off := ch.off && !on } }
  if on then t.onStr (s.cx.strPacket ch (.flow true)) else t

/-- The receive end is closed: the marker has come and no entry is held (R304). -/
def Chan.ended (ch : Chan) : Bool := ch.closed || (ch.marker && ch.entries.isEmpty)

/-- A pop by an instruction that names q as a source (R154, R305): the entry and the state after it left. -/
def State.popSource (s : State) (q : Nat) : Try (StreamEntry × State) :=
  match s.cx.chan? q with
  | none => raiseStop (exnChan q 0)
  | some ch =>
    if ch.sendEnd then raiseStop (exnChan q 0)
    else
      match ch.entries with
      | e :: rest => .ok (s.headEntry ch e, s.popChan ch rest)
      | [] =>
        if ch.ended then raiseStop (exnChan q 3)
        else if s.cx.thread then waitStop
        else raiseStop (exnChan q 1)

/-! ## Operand forms (R157) -/

/-- The immediate form: sign-extended for integer tags, the integer converted exactly for float tags (R157). Where a float
format does not hold the integer exactly, or the tag is neither, the element is a free value. -/
def immElem (t : Tag) (imm : BitVec 5) : Nat :=
  match fmtOf t, intWidth t with
  | some f, _ =>
    let r := f.round 0 false (.ofInt imm.toInt)
    if r.flags = 0 then r.bits else Config.immediateFill t imm % 2 ^ f.width
  | none, some w => intBits w imm.toInt
  | none, none => Config.immediateFill t imm % 2 ^ (if t = 14 then 4 else tagWidth t)

/-- Operand b by f3[1:0] (R157): its elements, and the state after a pop. `t` is a's tag. -/
def State.operandB (s : State) (f : BitVec 2) (t : Tag) (b : BitVec 5) : Try ((Nat → Nat) × State) :=
  if f = 0 then do
    let r ← s.vExact b t
    return (fun i => r.elem i, s)
  else if f = 1 then .ok (fun _ => (s.getX b).toNat % 2 ^ tagWidth t, s)
  else if f = 2 then .ok (fun _ => immElem t b, s)
  else do
    let (e, u) ← s.popSource b.toNat
    if e.tag = t then return (fun i => e.elem i, u) else raiseStop (exnTagOne 2 b.toNat e.tag t)

end Sys2Proof.Machine
end

