-- ==== Sys2Proof/Machine/Units.lean ====
section
/-! DEFINITION. What the units beside the cores share: register blocks and who reaches them, partitions and queues in force,
and the walker's reads and writes (R19, R67, R74, R316, R320, R430). -/

namespace Sys2Proof.Machine

/-- Queue an interrupt event for every context that meets `p`. -/
def State.irqWhere (s : State) (p : Ctx → Bool) (code : Nat) (floor : Level) (val : Word) : State :=
  s.mapIf (fun c => c.status ≠ .free && p c) fun c => c.irq code floor val

/-! ## Links and engines (R11, R12, R242, R253) -/

/-- The site one step east or north of a site, if the mesh has one (R8). -/
def neighbour (h : Nat) (d : LinkDir) : Option Nat :=
  let (x, y) := hilbertXY h
  match d with
  | .E => siteAt (x + 1) y
  | .N => siteAt x (y + 1)

/-- The link that DIR names from a site, with whether the site is its far end, and the site at the other end (R242). -/
def linkFrom (h dir : Nat) : Option (Link × Bool × Nat) :=
  let (x, y) := hilbertXY h
  let back := fun (o : Option Nat) (d : LinkDir) => o.map fun g => ((⟨g, d⟩ : Link), true, g)
  match dir % 4 with
  | 0 => (neighbour h .E).map fun g => (⟨h, .E⟩, false, g)
  | 1 => (neighbour h .N).map fun g => (⟨h, .N⟩, false, g)
  | 2 => if x = 0 then none else back (siteAt (x - 1) y) .E
  | _ => if y = 0 then none else back (siteAt x (y - 1)) .N

/-- The two ends of a link: W or S, then E or N. -/
def linkEnds (l : Link) : Nat × Nat := (l.h, (neighbour l.h l.dir).getD l.h)

/-- The link lies on one die and so has an engine (R11). -/
def linkOnDie (l : Link) : Bool := (neighbour l.h l.dir).isSome && sameDie (linkEnds l).1 (linkEnds l).2

/-- The table that passes every value unchanged: a = 1.0 and c = −0 in every segment (R253). -/
def identityTable : BitVec 4096 :=
  BitVec.ofNat 4096 ((List.range 64).foldl (fun acc i => acc + 0x800000003F800000 * 2 ^ (64 * i)) 0)

/-- The engine of a link. -/
def State.engine (s : State) (l : Link) : Engine :=
  (s.engines.find? fun e => e.link = l).getD ⟨l, 0, false, false, identityTable, identityTable⟩

/-- The engine of a link set. -/
def State.setEngine (s : State) (e : Engine) : State := { s with engines := upsert (fun x => x.link = e.link) e s.engines }

/-- A site holds a context, resident or in its image. -/
def State.siteHolds (s : State) (h : Nat) (p : Ctx → Bool) : Bool :=
  s.ctxs.any fun c => c.key.h = h && c.status ≠ .free && p c

/-- Engines with no context at either end hold the identity in both slots (R253). -/
def State.resetTables (s : State) : State :=
  { s with engines := s.engines.map fun e =>
      if s.siteHolds (linkEnds e.link).1 (fun _ => true) || s.siteHolds (linkEnds e.link).2 (fun _ => true) then e
      else { e with table0 := identityTable, table1 := identityTable } }

/-! ## The walker's accesses (R19, R67, R113) -/

/-- The client as which a unit accesses memory for a level, a leaf and a first-level span; lines are homed in the leaf. -/
def State.clientFor (s : State) (lvl : Level) (leaf fl : Nat) : Client :=
  let p := s.part (.leaf leaf)
  if p.st = .free then ⟨lvl, leaf, fl, 0, 1024, 0⟩ else ⟨lvl, leaf, fl, p.base, p.len, dieOf p.base⟩

/-- The client of a registered queue (R67). -/
def State.queueClient (s : State) (x : Queue) : Client := s.clientFor x.lvl x.leaf x.fl

/-- Bytes [va, va + n) cut at 4 KiB boundaries: the address and length of each piece. -/
def pagePieces (va : Nat) : Nat → Nat → List (Nat × Nat)
  | 0, _ => []
  | _, 0 => []
  | fuel + 1, n =>
    let k := min n (4096 - va % 4096)
    (va, k) :: pagePieces (va + k) fuel (n - k)

/-- The pieces of an access of at most 64 KiB. -/
def pieces (va n : Nat) : List (Nat × Nat) := pagePieces va 18 n

/-- The place of one piece, reached by a unit of the client; through a site window, for the kernel `kid` (R105, R106). A unit has
no local window. -/
def State.unitTarget (s : State) (cl : Client) (kid : Nat) (acc : Access) (va n : Nat) : Except WalkFail Target :=
  if 2 ^ 64 < va + n || regionOf (toWord (va + n - 1)) ≠ regionOf (toWord va) then .error ⟨1, va, false⟩
  else
    match regionOf (toWord va) with
    | .nowhere | .localWindow => .error ⟨1, va, false⟩
    | .siteWindow => (s.siteTarget kid cl acc (toWord va) n).mapError fun _ => ⟨1, va, false⟩
    | .global =>
      match s.translateUnit cl acc va with
      | .error f => .error f
      | .ok x => (s.globalTarget cl acc (toWord va) x none).mapError fun _ => ⟨3, va, false⟩

/-- The place of one piece, for no kernel. -/
def State.unitPlace (s : State) (cl : Client) (acc : Access) (va n : Nat) : Except WalkFail Target := s.unitTarget cl 0 acc va n

/-- The place of one piece that a unit reads or writes, where nothing refuses it: an uncorrectable error, a retired unit or a refusal there
fails the access as stage 0 (R208, R395). -/
def State.unitAt (s : State) (cl : Client) (kid : Nat) (acc : Access) (va n : Nat) : Except WalkFail Target := do
  let t ← s.unitTarget cl kid acc va n
  match s.refusedAt t n with
  | none => return t
  | some _ => throw ⟨0, va, false⟩

/-- The `n` bytes at a target, as a unit of the client reads them: a register that platform MMIO has there, else memory. -/
def State.unitLoad (s : State) (cl : Client) (t : Target) (n : Nat) : Nat :=
  if isMmio t.pa then s.mmioLoad ⟨cl.lvl, cl.leaf, cl.fl⟩ t.pa n else s.load t.pa n

/-- The `n` bytes at `va` as a unit of the client reads them for a kernel. -/
def State.unitReadFor (s : State) (cl : Client) (kid va n : Nat) : Except WalkFail Nat :=
  (pieces va n).foldrM (fun (p : Nat × Nat) (acc : Nat) =>
    (s.unitAt cl kid .load p.1 p.2).map fun t => s.unitLoad cl t p.2 + acc <<< (8 * p.2)) 0

/-- The `n` bytes at `va` as a unit of the client reads them, for no kernel. -/
def State.unitRead (s : State) (cl : Client) (va n : Nat) : Except WalkFail Nat := s.unitReadFor cl 0 va n

/-- A write of the low `n` bytes of `v` at `va` by a unit of the client, placed whole before any byte is written. -/
def State.unitWrite (s : State) (cl : Client) (va n v : Nat) : Except WalkFail State := do
  let ts ← (pieces va n).mapM fun p => (s.unitAt cl 0 .store p.1 p.2).map fun t => (p.1 - va, p.2, t.pa)
  return ts.foldl (fun s t => s.store t.2.2 t.2.1 (v >>> (8 * t.1))) s

/-! ## The walker's strong stores (R74, R317, R430) -/

/-- What a store of the walker met (R430). -/
inductive StoreFailure where
  /-- Its translation, a window check or the memory type. -/
  | address
  | poison
  | refused
  | retired
  deriving DecidableEq, Repr

/-- DETAIL of a SIGNAL node (R430). -/
def StoreFailure.code : StoreFailure → Nat
  | .address => 1
  | .poison => 2
  | .refused | .retired => 3

/-- The failure raises interrupt 17 at P (R430). -/
def StoreFailure.reported : StoreFailure → Bool
  | .poison | .retired => true
  | .address | .refused => false

/-- A strong store of `n` bytes of one line by the walker for a kernel, or why it writes nothing (R430). -/
def State.walkerBytes (s : State) (cl : Client) (kid va n v : Nat) : Except StoreFailure State :=
  match s.unitTarget cl kid .store va n with
  | .error _ => .error .address
  | .ok t =>
    if t.kind = .device then .error .address
    else
      match s.refusedAt t n with
      | some .poison => .error .poison
      | some .retired => .error .retired
      | some .rejected => .error .refused
      | none => .ok (s.store t.pa n v)

/-- A strong doubleword store of the walker (R430). -/
def State.walkerStore (s : State) (cl : Client) (kid va : Nat) (v : Word) : Except StoreFailure State :=
  s.walkerBytes cl kid va 8 v.toNat

/-- The target of an access of a unit answers RETRY (R375): the access is made later. -/
def State.unitRetry (s : State) (cl : Client) (kid : Nat) (acc : Access) (va n : Nat) : Bool :=
  match s.unitTarget cl kid acc va n with
  | .ok t => t.retry
  | .error _ => false

/-- The target of a doubleword store of the walker answers RETRY (R375): the store is made later. -/
def State.walkerRetry (s : State) (cl : Client) (kid va : Nat) : Bool := s.unitRetry cl kid .store va 8

/-- Interrupt 17 at P for every context of a leaf: a failure that no context's instruction met (R317, R392, R430). Which contexts hold it is
a DESIGN CHOICE (125): the spec names its level alone. -/
def State.walkerRas (s : State) (leaf : Nat) (unit : Word) : State := s.irqWhere (fun c => c.leaf = leaf) 17 .P unit

/-- An access of a unit that failed at its place, and not on a translation, is reported at P (R395). -/
def State.unitRas (s : State) (leaf : Nat) (f : WalkFail) : State := if f.stage = 0 then s.walkerRas leaf (toWord f.input) else s

/-- The store of a completion signal or a record: one that fails is dropped and reported (R317, R392). -/
def State.walkerReport (s : State) (cl : Client) (va : Nat) (v : Word) : State :=
  match s.walkerStore cl 0 va v with
  | .ok t => t
  | .error _ => s.walkerRas cl.leaf (toWord va)

/-- R74: a completion signal. SIG = 0, or a misaligned one, writes nothing (R73, R74). -/
def State.signal (s : State) (cl : Client) (sig : Word) (status : Nat) (idx : BitVec 32) : State :=
  if sig = 0 || sig.toNat % 8 ≠ 0 then s else s.walkerReport cl sig.toNat (toWord (status + idx.toNat * 2 ^ 32))

/-! ## Nodes (R316) -/

/-- A node's name: the address of its record, and its leaf above bit 48. -/
def Node.id (n : Node) : Nat := n.leaf * 2 ^ 48 + n.addr

/-- The live node of a name. -/
def State.node? (s : State) (id : Nat) : Option Node := s.nodes.find? fun n => n.id = id

/-- A live node changed by `f`. -/
def State.mapNode (s : State) (id : Nat) (f : Node → Node) : State :=
  { s with nodes := s.nodes.map fun n => if n.id = id then f n else n }

/-- The pool of a graph whose queue lies in no leaf: it stands beside the pools of the 64 leaves, and none of their walkers serves it
(R428). -/
def orphanPool (q : Nat) : Nat := 64 + q % 4096

/-- The client of a node's accesses: for a graph, that of the queue that carried it (R319, R428). -/
def State.nodeClient (s : State) (n : Node) : Client :=
  match n.graph with
  | some (q, _) => if 64 ≤ n.leaf then s.queueClient (s.queue q) else s.clientFor n.lvl n.leaf (s.part (.leaf n.leaf)).parent
  | none => s.clientFor n.lvl n.leaf (s.part (.leaf n.leaf)).parent

/-- The leaf whose contexts hold what a node's failed store reports: of a graph whose queue lies in no leaf, that of the queue's registrant
(R428, R430; DESIGN CHOICE 125). -/
def State.rasLeaf (s : State) (n : Node) : Nat :=
  match n.graph with
  | some (q, _) => if 64 ≤ n.leaf then (s.queue q).leaf else n.leaf
  | none => n.leaf

/-- The kernel of a KID. -/
def State.kernel? (s : State) (kid : Nat) : Option Kernel := s.kernels.find? fun k => k.kid = kid

/-- A kernel changed by `f`. -/
def State.mapKernel (s : State) (kid : Nat) (f : Kernel → Kernel) : State :=
  { s with kernels := s.kernels.map fun k => if k.kid = kid then f k else k }

/-! ## Ready pools (R320, R321) -/

/-- Decisions taken in a leaf. -/
def State.decision (s : State) (leaf : Nat) : Nat := tabGet s.decisions leaf 0

/-- An entry enters the pool of its leaf, with its age (R320). -/
def State.addReady (s : State) (e : ReadyEntry) : State := { s with ready := s.ready ++ [{ e with age := s.decision e.leaf, waited := 0 }] }

/-- The entry of a node's interval. -/
def Node.entry (n : Node) (lo hi : Nat) : ReadyEntry := ⟨n.leaf, none, n.id, lo, hi, n.prio, 0, 0, n.depth, false⟩

/-- A context that can take a task now: parked, with no waiting event (R321). -/
def Ctx.idle (c : Ctx) : Bool := c.status = .parked && c.events.isEmpty && c.saveReq.isNone

/-- The site for a RANGE entry (R321): TILE's when it qualifies, else the lowest relative index that does. -/
def State.rangeSite (s : State) (n : Node) : Option Key :=
  let base := (s.part (.leaf n.leaf)).base
  let here := s.ctxs.filter fun c => c.kid = n.kid && c.idle && c.key.h ≥ base
  let best := fun (cs : List Ctx) =>
    cs.foldl (fun (acc : Option Key) c =>
      match acc with
      | none => some c.key
      | some k => if c.key.h < k.h then some c.key else acc) none
  match n.tile with
  | some rel => ((here.find? fun c => c.key.h = base + rel).map (·.key)).or (best here)
  | none => best here

/-- The packet kind (R71). -/
def pktKind (b : BitVec 512) : Nat := fld b 3 0

/-- A kernel's packet is satisfied: enough TRIGs are counted (R75). -/
def State.triggered (s : State) (p : Packet) : Bool :=
  match p.kid.bind s.kernel? with
  | some k => k.trigN ≠ 0 && decide (k.trigN ≤ k.trigs)
  | none => false

/-- R75: the packet after `before` may be dispatched. -/
def State.mayDispatch (s : State) (before : List Packet) (p : Packet) : Bool :=
  p.st = .ready && before.all (fun e => e.st = .running) && (pktKind p.bytes ≠ 3 || before.isEmpty) &&
    (fld p.bytes 4 4 = 0 || before.all s.triggered)

/-- A SIGNAL packet whose target answers RETRY is dispatched later (R375). -/
def State.packetWaits (s : State) (x : Queue) (p : Packet) : Bool :=
  pktKind p.bytes = 4 && s.walkerRetry (s.queueClient x) 0 (fld p.bytes 127 64)

/-- The packet of a queue that R75 lets go next. -/
def State.nextPacket (s : State) (x : Queue) : Option Packet :=
  let before := x.packets.takeWhile fun p => p.st = .running
  match x.packets.drop before.length with
  | p :: _ => if s.mayDispatch before p && !s.packetWaits x p then some p else none
  | [] => none

/-- The die whose walker serves a queue that lies in no leaf (R428). -/
def State.walkerDie (s : State) (q : Nat) : Nat :=
  match s.queueFirst q with
  | some i => dieOf (s.part (.first i)).base
  | none => 0

/-- Another queue in no leaf, of the same walker, has a packet of a higher priority to dispatch (R428). -/
def State.leaflessAhead (s : State) (q : Nat) (p : Packet) : Bool :=
  s.queues.any fun x => (s.queueLeaf x.q).isNone && s.walkerDie x.q = s.walkerDie q &&
    (s.nextPacket x).any fun o => decide (fld p.bytes 6 5 < fld o.bytes 6 5)

/-! ## Copies of an engine, as the pools see them (R227, R228, R236, R321) -/

/-- The copy has ended. -/
def Copy.ended (x : Copy) : Bool := x.st = .done || x.st = .aborted

/-- Entries of a site's copy queue: copies that have not ended and that REMOVE has not taken out (R227, R376). -/
def State.engineQueue (s : State) (h : Nat) : List Copy := s.copies.filter fun x => x.h = h && !x.ended && !x.removed

/-- R227, R238: room for one more copy of an agent at a site. -/
def State.copyRoom (s : State) (k : Key) : Bool :=
  decide ((s.engineQueue k.h).length < 16) && decide (((s.engineQueue k.h).filter fun x => x.agent = k).length < 8)

/-- A context put into a list that rises by Hilbert index. -/
def insertByIndex (c : Ctx) : List Ctx → List Ctx
  | [] => [c]
  | d :: r => if c.key.h ≤ d.key.h then c :: d :: r else d :: insertByIndex c r

/-- Contexts that a node's copy may run for, lowest relative index first. -/
def State.kernelCtxs (s : State) (kid : Nat) : List Ctx :=
  (s.ctxs.filter fun c => c.kid = kid && c.resident).foldr insertByIndex []

/-- R321: the agent context of a COPY node: TILE's, else the one with the fewest queued copies, lowest relative index. -/
def State.copyAgent (s : State) (n : Node) : Option Ctx :=
  let cs := s.kernelCtxs n.kid
  let named := n.tile.bind fun rel => cs.find? fun c => c.rel = rel
  let load := fun (c : Ctx) => (s.engineQueue c.key.h).length
  named.or (cs.foldl (fun (acc : Option Ctx) c =>
    match acc with
    | none => some c
    | some b => if load c < load b then some c else acc) none)

/-- A COPY node whose engine has no room stays in the pool, and the decision passes to the next entry: DESIGN CHOICE (89), the spec
says what a full queue does to a PROD node alone (R315). -/
def State.copyWaits (s : State) (n : Node) : Bool :=
  n.kind = .copy && (s.copyAgent n).any fun c => !s.copyRoom c.key

/-- A node whose OBJ lies in a pool that answers RETRY stays in the ready pool until it does not (R375). -/
def State.objWaits (s : State) (n : Node) : Bool :=
  match n.kind with
  | .signal => s.walkerRetry (s.nodeClient n) n.kid n.obj.toNat
  | .copy | .kernel => s.unitRetry (s.nodeClient n) n.kid .load n.obj.toNat 64
  | .prod | .range | .barrier | .event => false

/-- The entry can be dispatched now (R75, R321). -/
def State.dispatchable (s : State) (e : ReadyEntry) : Bool :=
  match e.packet with
  | some (q, i) => (s.nextPacket (s.queue q)).any fun p => p.idx = i
  | none =>
    match s.node? e.node with
    | none => false
    | some n => (n.kind ≠ .range || (s.rangeSite n).isSome) && !s.copyWaits n && !s.objWaits n

/-- The oldest entry of a list. -/
def oldest (l : List ReadyEntry) : Option ReadyEntry :=
  l.foldl (fun (acc : Option ReadyEntry) e =>
    match acc with
    | none => some e
    | some x => if e.age < x.age then some e else acc) none

/-- R320: the entry that the next decision of a leaf takes. -/
def State.pick (s : State) (leaf : Nat) : Option ReadyEntry :=
  let pool := s.ready.filter fun e => e.leaf = leaf && s.dispatchable e
  let at0 := fun p => oldest (pool.filter fun e => e.prio = p)
  if (s.decision leaf + 1) % 256 = 0 then [0, 1, 2, 3].findSome? at0 else [3, 2, 1, 0].findSome? at0

/-- An entry as a decision that did not take it leaves it: after 1,024 it moves up (R320). -/
def ReadyEntry.waits (e : ReadyEntry) : ReadyEntry :=
  if e.waited + 1 = 1024 && e.prio < 3 then { e with prio := e.prio + 1, waited := 0 } else { e with waited := e.waited + 1 }

/-- A decision takes an entry out of its leaf's pool (R320). -/
def State.takeEntry (s : State) (e : ReadyEntry) : State :=
  { s with
    decisions := tabPut s.decisions e.leaf (s.decision e.leaf + 1)
    ready := (s.ready.erase e).map fun x => if x.leaf = e.leaf then x.waits else x }

end Sys2Proof.Machine
end

