-- ==== Sys2Proof/Machine/Messages.lean ====
section
/-! DEFINITION. Messages, posted receives, replies and the frame discipline (R281 to R299, R308 to R312). -/

namespace Sys2Proof.Machine

/-! ## Parts of a context that messages use -/

/-- The place of a byte of a context's local window. -/
def Ctx.localPlace (c : Ctx) (o : Nat) : Nat := siteAddr c.key.h (c.poolOff o)

/-- First offset of the SCR area, and the first beyond it (R98). -/
def Ctx.scrBase (c : Ctx) : Nat := (c.regBanks + c.accBanks) * 0x10000
def Ctx.scrEnd (c : Ctx) : Nat := c.banks.length * 0x10000

/-- The offset lies in the platform reserve (R98). -/
def Ctx.reserved (c : Ctx) (o : Nat) : Bool := decide (reserveBase ≤ c.poolOff o)

/-- R98: `n` bytes at a local-window address that lie in the context's SCR area, as an offset, or cause 35. -/
def Ctx.scrOperand (c : Ctx) (va : Word) (n : Nat) : Except Exn Nat :=
  let o := va.toNat - localWindowBase
  if regionOf va ≠ .localWindow || o < c.scrBase || c.scrEnd < o + n then .error (exnBoundary va 4 .T)
  else if c.level ≠ .P && (c.reserved o || c.reserved (o + n - 1)) then .error (exnBoundary va 5 .P)
  else .ok o

/-- Offsets [o, o + n) lie inside the SCR area (R285). -/
def Ctx.inScr (c : Ctx) (o n : Nat) : Bool :=
  decide (c.scrBase ≤ o) && decide (o + n ≤ c.scrEnd) && !c.reserved o && !c.reserved (o + n - 1)

/-- A counter of msgcnt raised by `n`, saturating (R285). `f` is its first bit. -/
def countMsg (w : Word) (f n : Nat) : Word := putFld w (f + 15) f (min 0xFFFF (fld w (f + 15) f + n))

/-- REFD, REFG and SPILLED raised (R285). -/
def Ctx.addRefd (c : Ctx) : Ctx := { c with msg := { c.msg with msgcnt := countMsg c.msg.msgcnt 0 1 } }
def Ctx.addRefg (c : Ctx) : Ctx := { c with msg := { c.msg with msgcnt := countMsg c.msg.msgcnt 16 1 } }
def Ctx.addSpilled (c : Ctx) (n : Nat) : Ctx := { c with msg := { c.msg with msgcnt := countMsg c.msg.msgcnt 32 n } }

/-- The offset of the landing slot (R285). -/
def Ctx.landing (c : Ctx) : Nat := fld c.msg.msgland 19 6 * 64

/-- R38: the address of handler `n` of a context, if its entry names one; the table is read at K. -/
def State.handler? (s : State) (c : Ctx) (n : Nat) : Option Word :=
  if fld c.msg.hndtab 63 55 ≤ n then none
  else
    match s.resolveFor c { c.client with lvl := .K } .load (toWord (fld c.msg.hndtab 47 3 * 8 + 8 * n)) 8 none with
    | .error _ => none
    | .ok t =>
      let e := s.load t.pa 8
      if (e >>> 32) % 2 = 1 then some (c.obj + toWord (e % 2 ^ 32)) else none

/-! ## Message images (R286) -/

def imgHnd (b : BitVec 512) : Nat := fld b 7 0
def imgPas (b : BitVec 512) : Bool := b.getLsbD 8
def imgTag (b : BitVec 512) : Nat := fld b 31 16
def imgSrc (b : BitVec 512) : Nat := fld b 41 32

/-- The image that the interface completes: PAS, VN and SRC are written (R286). -/
def imgComplete (b : BitVec 512) (pas rpy : Bool) (src : Nat) : BitVec 512 :=
  putFld (putFld b 9 8 ((if pas then 1 else 0) + (if rpy then 2 else 0))) 41 32 src

/-- LEN is at most 56, and the reserved header bits are zero (R295). -/
def imgOk (b : BitVec 512) : Bool := decide (fld b 15 10 ≤ 56) && fld b 63 42 = 0

/-! ## Sending (R288, R295) -/

/-- The send has ended (R288). -/
def Send.ended (x : Send) : Bool := x.st = .accepted || x.st = .refused || x.st = .rejected

/-- SQ: send entries that a context holds (R285, R288). -/
def Ctx.sq (c : Ctx) : Nat := (c.sends.filter fun x => !x.ended).length

/-- Send entries in use at a site's core (R288). -/
def State.sendQueue (s : State) (h : Nat) : Nat := ((s.atSite h).map (·.sq)).sum

/-- The next value of a handle counter: modulo 2^32, skipping 0 (R288). -/
def nextCount (n : Nat) : Nat := if (n + 1) % 2 ^ 32 = 0 then 1 else (n + 1) % 2 ^ 32

/-- A handle in the status of an accepted command: bit 0, and the handle from bit 32 up. -/
def accepted (h : Nat) : Word := toWord (1 + h * 2 ^ 32)

/-- A refusal's status: the reason from bit 1 up. -/
def refusal (reason : Nat) : Word := toWord (2 * reason)

/-- R295: the body of the five sending members. -/
def sending (s : State) (passive reply twin : Bool) (b a d : BitVec 5) : Try State := do
  if !reply && !twin && s.cx.handlerDiscipline then raiseStop (exn 27 0)
  let addr := s.getX a
  if addr.toNat % 64 ≠ 0 then raiseStop (exn 4 addr)
  let o ← tryExn (s.cx.scrOperand addr 64)
  let dest := s.getX b
  if s.cx.leafLen ≤ dest.toNat then raiseStop (exnBoundary dest 1 .D)
  let t : Target := ⟨s.cx.localPlace o, .localWin, s.cx.key.h, 0, false⟩
  s.mayLoad .weak t addr 64 8
  let (v, s) := s.loadWeak t addr 64 8
  let img := BitVec.ofNat 512 v
  if !imgOk img then return s.result d (refusal 2)
  if s.cx.sq = s.cx.msg.swin || 16 ≤ s.sendQueue s.cx.key.h then
    if reply then raiseStop (exn 28 (toWord s.cx.sq))
    else if twin then return s.result d (refusal 1)
    else waitStop
  else do
    waitUntil (s.cx.released 1)
    let h := s.cx.msgHandle
    let x : Send := ⟨h, dest.toNat, imgComplete img passive reply s.cx.rel, !reply && !twin, .queued, 0, 0, 0, 0, none, 0⟩
    let t := s.mapCx fun c => { c with sends := c.sends ++ [x], msgHandle := nextCount h }
    return t.result d (accepted h)

/-- MSG.SEND (R295). -/
def execMsgSend (b : BitVec 5) (a : BitVec 5) (d : BitVec 5) (s : State) : Result := s.finish (sending s false false false b a d)

/-- MSG.SEND.T (R295). -/
def execMsgSendT (b : BitVec 5) (a : BitVec 5) (d : BitVec 5) (s : State) : Result := s.finish (sending s false false true b a d)

/-- MSG.PUT (R295). -/
def execMsgPut (b : BitVec 5) (a : BitVec 5) (d : BitVec 5) (s : State) : Result := s.finish (sending s true false false b a d)

/-- MSG.PUT.T (R295). -/
def execMsgPutT (b : BitVec 5) (a : BitVec 5) (d : BitVec 5) (s : State) : Result := s.finish (sending s true false true b a d)

/-- MSG.REPLY (R291, R292, R295). -/
def execMsgReply (b : BitVec 5) (a : BitVec 5) (d : BitVec 5) (s : State) : Result := s.finish (sending s false true false b a d)

/-! ## Posted receives (R290, R296) -/

/-- The `n` most recent of a list of records that `old` picks stay; every other record stays too. -/
def keepRecent {α : Type} (n : Nat) (old : α → Bool) (l : List α) : List α :=
  let extra := (l.filter old).length - n
  (l.foldl (fun (acc : List α × Nat) x => if old x && acc.2 ≠ 0 then (acc.1, acc.2 - 1) else (acc.1 ++ [x], acc.2)) ([], extra)).1

/-- The match word meets a passive message or a reply (R290). -/
def matchWord (w : Word) (img : BitVec 512) : Bool :=
  (w.getLsbD 31 || fld w 15 0 = imgTag img) && (w.getLsbD 30 || fld w 25 16 = imgSrc img) &&
    w.getLsbD (if imgRpy img then 33 else 32)

/-- A match word without a reserved bit, whose NET is not 0 (R290, R296). -/
def matchOk (w : Word) : Bool := fld w 63 34 = 0 && fld w 29 26 = 0 && fld w 33 32 ≠ 0

/-- A message lands in a buffer: its 64 bytes, which others may see part by part, then 1 added to the count (R290, R339). -/
def State.landPosted (s : State) (c : Ctx) (buf : Nat) (img : BitVec 512) : State :=
  let p := c.localPlace buf
  let t := s.writeImage .landing c.key p img
  if t.posts.length ≠ s.posts.length then t.addPost .landing c.key c.key.h c.key.h (p + 64) 8 1 true
  else t.store (p + 64) 8 (portOp 0 8 (t.load (p + 64) 8) 1)

/-- The oldest posted receive that a message matches (R290). -/
def Ctx.postFor (c : Ctx) (img : BitVec 512) : Option Posted := c.posted.find? fun p => p.st = .posted && matchWord p.want img

/-- A posted receive reaches a state; ended ones are remembered 16 deep (R288, R296). -/
def Ctx.setPost (c : Ctx) (h : Nat) (st : PostState) : Ctx :=
  let moved := (c.posted.filter fun p => p.handle = h).map fun p => { p with st := st }
  { c with posted := keepRecent 16 (fun p => p.st ≠ .posted) ((c.posted.filter fun p => p.handle ≠ h) ++ moved) }

/-- A message lands in the posted receive it matches (R290). -/
def State.matchPost (s : State) (c : Ctx) (p : Posted) (img : BitVec 512) : State :=
  (s.landPosted c p.buf img).mapCtx c.key fun c => c.setPost p.handle .matched

/-- MSG.POST (R296). -/
def execMsgPost (b : BitVec 5) (a : BitVec 5) (d : BitVec 5) (s : State) : Result :=
  s.finish do
    let va := s.getX a
    if va.toNat % 128 ≠ 0 then raiseStop (exn 4 va)
    let o ← tryExn (s.cx.scrOperand va 128)
    let w := s.getX b
    if !matchOk w then return s.result d (refusal 2)
    let h := s.cx.postHandle
    let enter := fun (t : State) (st : PostState) => t.mapCx fun c =>
      { c with posted := keepRecent 16 (fun p => p.st ≠ .posted) (c.posted ++ [⟨h, o, w, st⟩]), postHandle := nextCount h }
    match s.cx.overflow.find? fun img => matchWord w img with
    | some img =>
      let t := (s.landPosted s.cx o img).mapCx fun c => { c with overflow := c.overflow.erase img }
      return (enter t .matched).result d (accepted h)
    | none =>
      if 32 ≤ (s.cx.posted.filter fun p => p.st = .posted).length then return s.result d (refusal 1)
      return (enter s .posted).result d (accepted h)

/-- MSG.UNPOST (R296). -/
def execMsgUnpost (a : BitVec 5) (d : BitVec 5) (s : State) : Result :=
  let h := fld (s.getX a) 31 0
  if s.cx.posted.any fun p => p.handle = h && p.st = .posted then .next ((s.mapCx fun c => c.setPost h .unposted).result d 1)
  else .next (s.result d (refusal 1))

/-! ## MSG.POLL and MSG.SPILL (R297, R298) -/

/-- A status word of R297: T, or PENDING. -/
def msgStatus (ended : Bool) (st rej retries : Nat) : Word :=
  toWord ((if ended then 1 else 2) + st * 256 + rej * 4096 + min 0xFFFF retries * 2 ^ 48)

/-- The state code of a send (R288). -/
def sendCode : SendState → Nat
  | .queued => 1
  | .sent => 2
  | .backoff => 3
  | .accepted => 4
  | .refused => 5
  | .rejected => 6

/-- The status word of a send (R297). -/
def Ctx.sendStatus (c : Ctx) (h : Nat) : Word :=
  match c.sends.find? fun x => x.handle = h with
  | none => msgStatus true 0 0 0
  | some x => msgStatus x.ended (sendCode x.st) x.rej x.retries

/-- The status word of a posted receive (R297). -/
def Ctx.postStatus (c : Ctx) (h : Nat) : Word :=
  match c.posted.find? fun p => p.handle = h with
  | none => msgStatus true 0 0 0
  | some p =>
    match p.st with
    | .posted => msgStatus false 1 0 0
    | .matched => msgStatus true 2 0 0
    | .unposted => msgStatus true 3 0 0

/-- MSG.POLL of a send or of a posted receive (R297). -/
def execMsgPoll (a : BitVec 5) (f : BitVec 1) (d : BitVec 5) (s : State) : Result :=
  let h := fld (s.getX a) 31 0
  .next (s.result d (if f = 0 then s.cx.sendStatus h else s.cx.postStatus h))

/-- The mailbox messages whose activations have not started, oldest first. -/
def Ctx.waitingMail (c : Ctx) : List (BitVec 512) := (c.mailbox.filter fun e => !e.started).map (·.img)

/-- The event is a message. -/
def Event.isMessage : Event → Bool
  | .message _ => true
  | _ => false

/-- A list without its first `n` elements that `p` picks. -/
def dropFirst {α : Type} (p : α → Bool) : Nat → List α → List α
  | 0, l => l
  | _, [] => []
  | n + 1, x :: r => if p x then dropFirst p n r else x :: dropFirst p (n + 1) r

/-- The `n` oldest waiting messages leave the mailbox, and their events with them (R287, R297). -/
def Ctx.takeMail (c : Ctx) (n : Nat) : Ctx :=
  { c with mailbox := dropFirst (fun e => !e.started) n c.mailbox, events := dropFirst Event.isMessage n c.events }

/-- MSG.POLL take: the oldest waiting message into the landing slot (R297). -/
def execMsgPollTake (d : BitVec 5) (s : State) : Result :=
  match s.cx.waitingMail with
  | [] => .next (s.result d 0)
  | img :: _ =>
    let t := (s.writeImage .thread s.cx.key (s.cx.localPlace s.cx.landing) img).mapCx fun c => c.takeMail 1
    .next ((t.acquire 1).result d (toWord (fld img 62 0 + 2 ^ 63)))

/-! ## Network steps (R287 to R291, R309, R312) -/

/-- The live send of a context with a handle. -/
def Ctx.send? (c : Ctx) (h : Nat) : Option Send := c.sends.find? fun x => x.handle = h && !x.ended

/-- A live send of a context changed by `f`; ended ones are remembered 16 deep (R288). -/
def Ctx.mapSend (c : Ctx) (h : Nat) (f : Send → Send) : Ctx :=
  let moved := (c.sends.filter fun x => x.handle = h).map f
  let rest := c.sends.filter fun x => x.handle ≠ h
  if moved.any (·.ended) then { c with sends := keepRecent 16 (·.ended) (rest ++ moved) }
  else { c with sends := c.sends.map fun x => if x.handle = h then f x else x }

/-- A packet of `n` flits that a context injects takes its stamp, and the context counts its flits (R309, R380 code 5). -/
def State.stampFor (s : State) (c : Ctx) (cls frame n : Nat) : State :=
  (s.stamp c.key.h c.leaf cls frame n).countFor c.key 5 n

/-- An older send of the context to the same destination and network has never been injected: it goes first (R288, R347). -/
def Ctx.sendsFirst (c : Ctx) (x : Send) : Bool :=
  (c.sends.takeWhile fun y => y.handle ≠ x.handle).all fun y =>
    !(y.st = .queued && y.answered = 0 && y.dest = x.dest && imgRpy y.img = imgRpy x.img)

/-- A queued send is injected under its quota, after older ones of its context to the same place (R288, R309, R347). -/
def State.injectSend (s : State) (c : Ctx) (x : Send) : State :=
  let cls := if imgRpy x.img then 1 else 0
  match s.frameFor c.key.h c.leaf cls with
  | none => s
  | some f =>
    if !c.sendsFirst x then s
    else
      ((s.stampFor c cls f (Config.packetFlits s.tick)).mapCtx c.key fun c =>
        c.mapSend x.handle fun x => { x with st := .sent, order := s.order, answer := none }).tickOrder

/-- A posted access of a site's core left for a site before `at_` and has not arrived (R14). -/
def State.requestAhead (s : State) (src dst at_ : Nat) : Bool :=
  s.ctxs.any fun c => c.log.any fun e => e.onPair src dst && decide (e.seq < at_) && !s.entryRetries c e

/-- Nothing older of the message's pair is on its way (R14): of the same source site, destination site and network. A reply in a hold slot
has arrived (R291). -/
def State.firstOfPair (s : State) (c : Ctx) (x : Send) : Bool :=
  let dst := c.leafBase + x.dest
  ((s.atSite c.key.h).all fun o => o.sends.all fun y =>
    !(y.inFlight && !s.isHeld o.key y.handle && o.leafBase + y.dest = dst && imgRpy y.img = imgRpy x.img && y.order < x.order)) &&
    (if imgRpy x.img then !s.replyAhead c.key.h dst x.order else !s.requestAhead c.key.h dst x.order)

/-- The answer to a send starts on its way back (R287), with its stamp (R309). -/
def State.answerSend (s : State) (k : Key) (h : Nat) (a : SendAnswer) : State :=
  let c := (s.ctx? k).getD s.cx
  let dst := c.leafBase + ((c.send? h).map (·.dest)).getD 0
  ((s.mapCtx k fun c => c.mapSend h fun x => { x with answer := some a, answered := s.order + 1 }).stampNext dst c.leaf 1).tickOrder

/-- A context's events gain one, under handler discipline (R282, R284). -/
def Ctx.register (c : Ctx) (e : Event) : Ctx := if c.thread then c else { c with events := c.events ++ [e] }

/-- Lval of cause 29 (R290, R291). -/
def overflowWord (reason : Nat) (img : BitVec 512) : Word := toWord (reason + imgSrc img * 2 ^ 32)

/-- A reply lands now: in a posted receive, or in the ring (R291 steps 1 and 2). -/
def State.landReply (s : State) (c : Ctx) (img : BitVec 512) : Option State :=
  let lsz := fld c.msg.rring 27 24
  let tail := fld c.msg.rrhead 31 16
  match c.postFor img with
  | some p => some (s.matchPost c p img)
  | none =>
    if lsz ≠ 0 && (tail + 0x10000 - fld c.msg.rrhead 15 0) % 0x10000 < 2 ^ lsz then
      let o := fld c.msg.rring 19 6 * 64 + 64 * (tail % 2 ^ lsz)
      some ((s.writeImage .thread c.key (c.localPlace o) img).mapCtx c.key fun c =>
        { c with msg := { c.msg with rrhead := putFld c.msg.rrhead 31 16 ((tail + 1) % 0x10000) } })
    else none

/-- A reply arrives (R291): it lands, or waits in the hold slot; with the slot taken it stays in the network. -/
def State.replyArrival (s : State) (k : Key) (x : Send) (c : Ctx) : State :=
  if c.hold.isSome then s
  else
    match s.landReply c x.img with
    | some t => t.answerSend k x.handle .accept
    | none => s.mapCtx c.key fun c => ({ c with hold := some ⟨k, x.handle, x.img⟩ } : Ctx).async 29 (overflowWord 2 x.img) 0 .T

/-- A passive message arrives (R290): a posted receive, the overflow queue, or a refusal. -/
def State.passiveArrival (s : State) (k : Key) (x : Send) (c : Ctx) : State :=
  match c.postFor x.img with
  | some p => (s.matchPost c p x.img).answerSend k x.handle .accept
  | none =>
    if c.overflow.length < 16 then
      (s.mapCtx c.key fun c => { c with overflow := c.overflow ++ [x.img] }).answerSend k x.handle .accept
    else (s.mapCtx c.key fun c => c.addRefg.async 29 (overflowWord 1 x.img) 0 .T).answerSend k x.handle .refuse

/-- A message arrives for a context (R287). -/
def State.mailArrival (s : State) (k : Key) (x : Send) (c : Ctx) : State :=
  if (s.handler? c (imgHnd x.img)).isNone then s.answerSend k x.handle (.reject 2)
  else if c.mailbox.length = c.msg.mbox then (s.mapCtx c.key fun c => c.addRefg).answerSend k x.handle .refuse
  else
    (s.mapCtx c.key fun c =>
      ({ c with mailbox := c.mailbox ++ [⟨x.img, false⟩] } : Ctx).register (.message x.img)).answerSend k x.handle .accept

/-- MESSAGE_ARRIVAL: the oldest message of its pair reaches its destination (R287, R290, R291); one that lands in a pool waits for the wake of
a gated site (R404). -/
def execMessageArrival (k : Key) (handle : Nat) (s : State) : Result :=
  match s.ctx? k with
  | none => .next s
  | some c =>
    match c.send? handle with
    | none => .next s
    | some x =>
      if !(x.inFlight && s.firstOfPair c x) || s.isHeld k handle then .next s
      else
        let h := c.leafBase + x.dest
        if s.retries c.kid h then .next (s.answerSend k handle .retry)
        else
          match s.ofKernel c.kid h with
          | none => .next (s.answerSend k handle (.reject 1))
          | some t =>
            if !s.poweredSite h && (imgRpy x.img || (imgPas x.img && (t.postFor x.img).isSome)) then .next s
            else if imgRpy x.img then .next (s.replyArrival k x t)
            else if imgPas x.img then .next (s.passiveArrival k x t)
            else .next (s.mailArrival k x t)

/-- REPLY_HOLD_RELEASE: the held reply lands once it can (R291). -/
def execReplyHoldRelease (k : Key) (s : State) : Result :=
  match s.ctx? k with
  | none => .next s
  | some c =>
    match c.hold with
    | none => .next s
    | some r =>
      match s.landReply c r.img with
      | none => .next s
      | some t => .next ((t.mapCtx k fun c => { c with hold := none }).answerSend r.src r.handle .accept)

/-- An answer of a send comes next on its pair of RPY (R14). -/
def State.answerArrives (s : State) (c : Ctx) (x : Send) : Bool := !s.replyAhead (c.leafBase + x.dest) c.key.h x.answered

/-- MESSAGE_ANSWER: an answer reaches the sender (R288, R289), in the order of its pair (R14). A RETRY is answered by
MESSAGE_RETRY_RESEND. -/
def execMessageAnswer (k : Key) (handle : Nat) (s : State) : Result :=
  match (s.ctx? k).bind fun c => (c.send? handle).filter fun x => s.answerArrives c x with
  | none => .next s
  | some x =>
    let put := fun (f : Send → Send) => s.mapCtx k fun c => c.mapSend handle f
    match x.answer with
    | none | some .retry => .next s
    | some .accept => .next (put fun x => { x with st := .accepted, answer := none })
    | some (.reject r) => .next (put fun x => { x with st := .rejected, rej := r, answer := none })
    | some .refuse =>
      let t := put fun x => { x with st := if x.retry then .backoff else .refused, answer := none }
      .next (t.mapCtx k fun c => c.addRefd)

/-- SEND_BACKOFF_EXPIRY: a refused send waits for its injection again (R289). -/
def execSendBackoffExpiry (k : Key) (handle : Nat) (s : State) : Result :=
  match (s.ctx? k).bind fun c => c.send? handle with
  | none => .next s
  | some x =>
    if x.st = .backoff then
      .next (s.mapCtx k fun c => c.mapSend handle fun x => { x with st := .queued, n := x.n + 1, retries := x.retries + 1 })
    else .next s

/-- MESSAGE_RETRY_RESEND: a message that met RETRY waits for its injection again (R287). -/
def execMessageRetryResend (k : Key) (handle : Nat) (s : State) : Result :=
  match (s.ctx? k).bind fun c => c.send? handle with
  | none => .next s
  | some x =>
    if x.answer = some .retry then
      .next (s.mapCtx k fun c => c.mapSend handle fun x => { x with st := .queued, answer := none })
    else .next s

/-- The context holds the core. -/
def Ctx.holdsCore (c : Ctx) : Bool := c.status = .running && c.halt.all fun h => !h.halted

/-- `n` cycles pass for a context (R283, R380 codes 1 and 10): the watchdog counts only at K, and not under thread discipline (R185,
R361). `wait` is its contention time. -/
def Ctx.pass (c : Ctx) (n wait : Nat) : Ctx :=
  let c := if c.resident then c.count 10 (min n wait) else c
  if c.holdsCore && c.level = .K then
    let c := c.count 1 n
    if c.thread then c else { c with wdog := { c.wdog with count := c.wdog.count + n } }
  else c

/-- `n` cycles pass (R355). -/
def State.pass (s : State) (n : Nat) : State :=
  { s with now := s.now + toWord n }.mapAll fun c => c.pass n (Config.contention s.tick)

/-- FRAME_BOUNDARY: NOW reaches the next frame; stamps of frames past are forgotten (R309). -/
def execFrameBoundary (s : State) : Result :=
  let t := s.pass (4096 - s.now.toNat % 4096)
  .next { t with stamps := t.stamps.filter fun x => t.frame ≤ x.frame }

/-- TIMER_COMPARE: cycles pass, up to where a compare value is reached (R355). -/
def execTimerCompare (cycles : Nat) (s : State) : Result := .next (s.pass cycles)

/-- WATCHDOG_EXPIRY: the limit in force is reached, and cause 26 is due once (R283). -/
def execWatchdogExpiry (k : Key) (s : State) : Result :=
  match s.ctx? k with
  | none => .next s
  | some c =>
    if c.thread || c.wdog.limit = 0 || c.wdog.count < c.wdog.limit || !c.holdsCore then .next s
    else .next (s.mapCtx k fun c => ({ c with wdog := { c.wdog with limit := 0 } } : Ctx).async 26 (toWord c.wdog.limit) 0 .T)

/-- CTL_TOKEN_GAIN: a site's CTL bucket gains a token, up to 16 (R312). -/
def execCtlTokenGain (h : Nat) (s : State) : Result :=
  .next { s with tokens := tabPut s.tokens h (tabGet s.tokens h 0 - 1) }

end Sys2Proof.Machine
end

