-- ==== Sys2Proof/Machine/Channels.lean ====
section
/-! DEFINITION. Configured streams: the two ends of a channel, what travels between them, and the CHAN instructions (R300 to
R307). -/

namespace Sys2Proof.Machine

/-! ## The channel word (R300) -/

def cwDepth (w : Word) : Nat := fld w 8 0
def cwOff (w : Word) : Nat := fld w 17 9
def cwOn (w : Word) : Nat := fld w 26 18
def cwSend (w : Word) : Bool := w.getLsbD 27
def cwPeer (w : Word) : Nat := fld w 41 32
def cwTag (w : Word) : BitVec 16 := BitVec.ofNat 16 (fld w 63 48)

/-- Mesh hops between two sites under X-then-Y routing (R300). -/
def hops (g h : Nat) : Nat :=
  let (x, y) := hilbertXY g
  let (u, v) := hilbertXY h
  (x - u) + (u - x) + ((y - v) + (v - y))

/-- No reserved bit is set, and the thresholds meet R300 for ends `n` hops apart. -/
def cwOk (w : Word) (n : Nat) : Bool :=
  fld w 31 28 = 0 && fld w 47 42 = 0 &&
  (if cwSend w then cwDepth w = 0 && cwOff w = 0 && cwOn w = 0
   else decide (8 ≤ cwDepth w) && decide (cwDepth w ≤ 256) && decide (cwOn w < cwOff w) &&
    decide (cwOff w + 2 * n + 4 ≤ cwDepth w))

/-- Cause 30 of a CH.OPEN refusal (R303). -/
def exnOpen (q reason : Nat) : Exn := exn 30 (toWord (q + reason * 4096))

/-- The end of a channel word at its opening: a send end opens OFF (R301). -/
def Chan.opened (q : Nat) (w : Word) (buf : Nat) : Chan :=
  ⟨q, cwSend w, cwPeer w, cwTag w, cwDepth w, cwOff w, cwOn w, buf, 0, [], cwSend w, false, false, false⟩

/-! ## Packets on STR (R300, R301, R304) -/

/-- The first packet of a list that is wanted and has none of its source site and destination before it (R14). -/
def firstOnStr (want : StrPacket → Bool) : List StrPacket → List (Nat × Nat) → Option StrPacket
  | [], _ => none
  | p :: r, seen =>
    if !seen.contains (p.src.h, p.dest) && want p then some p else firstOnStr want r ((p.src.h, p.dest) :: seen)

/-- The packet comes from the other end of a channel (R300). -/
def Chan.routes (ch : Chan) (p : StrPacket) : Bool := ch.rtag = p.rtag && ch.peer = p.srcRel

/-- The ends that packets reach: the open ones, and send ends that are closed but not drained (R304). -/
def Ctx.ends (c : Ctx) : List Chan := c.chans ++ c.closing

/-- The end at q that a packet reaches. -/
def Ctx.endFor (c : Ctx) (q : Nat) (send : Bool) (p : StrPacket) : Option Chan :=
  c.ends.find? fun ch => ch.q = q && ch.sendEnd = send && ch.routes p && c.kid = p.kid

/-- The context has an end that the packet reaches. -/
def Ctx.anyEnd (c : Ctx) (send : Bool) (p : StrPacket) : Bool :=
  c.ends.any fun ch => ch.sendEnd = send && ch.routes p && c.kid = p.kid

/-- The packet that an arrival at end q of the context at `k` takes: one for that end, or one that finds no end at all (R304,
R375). -/
def State.strArrival (s : State) (k : Key) (q : Nat) (send : Bool) (kind : StrPayload → Bool) : Option StrPacket :=
  firstOnStr (fun p => p.dest = k.h && kind p.payload && !s.retries p.kid k.h &&
    (match s.ofKernel p.kid k.h with
     | none => true
     | some c => (c.endFor q send p).isSome || !c.anyEnd send p)) s.str []

/-- A packet leaves STR. -/
def State.offStr (s : State) (p : StrPacket) : State := { s with str := s.str.erase p }

/-! ## Events of bound channels (R282, R306) -/

/-- The handler bound to a route. -/
def Ctx.boundTo (c : Ctx) (src : BindSource) : Option Nat := (c.bindings.find? fun b => b.src = src).map (·.hnd)

/-- A waiting event of channel q. -/
def Event.ofChan (q : Nat) : Event → Bool
  | .channel p _ => p = q
  | _ => false

/-- A bound receive end that holds entries is one event, unless an activation of it runs or waits (R282). -/
def Ctx.channelEvent (c : Ctx) (q : Nat) : Ctx :=
  match c.chan? q with
  | none => c
  | some ch =>
    match c.boundTo (.route ch.rtag) with
    | none => c
    | some h =>
      if ch.sendEnd || ch.entries.isEmpty || c.events.any (Event.ofChan q) || (c.act.any fun a => a.q = some q) then c
      else c.register (.channel q h)

/-! ## What arrives (R300, R301, R304) -/

/-- An entry comes into the next slot of a receive end's buffer; the end sends OFF when its occupancy reaches the threshold (R300,
R301). -/
def State.enterEntry (s : State) (c : Ctx) (ch : Chan) (e : StreamEntry) : State :=
  let full := ch.entries.length + 1 = ch.offAt
  let t := (s.store (c.slotPlace ch (ch.head + ch.entries.length)) 128 e.bits.toNat).mapCtx c.key fun c =>
    (c.setChan { ch with entries := ch.entries ++ [e], off := ch.off || full }).channelEvent ch.q
  if full then t.onStr (c.strPacket ch (.flow false)) else t

/-- CHANNEL_ENTRY_ARRIVAL: the oldest entry of its pair reaches its receive end, or is dropped (R300, R304); a gated site's pool takes it
after the wake (R404). -/
def execChannelEntryArrival (k : Key) (q : Nat) (s : State) : Result :=
  match (s.strArrival k q false fun | .entry _ => true | _ => false).filter fun _ => s.poweredSite k.h with
  | none => .next s
  | some p =>
    let t := s.offStr p
    match p.payload, t.ofKernel p.kid k.h with
    | .entry e, some c =>
      match c.endFor q false p with
      | some ch => .next (t.enterEntry c ch e)
      | none => .next (t.mapCtx c.key Ctx.addRefg)
    | _, _ => .next t

/-- A change of a send end, open or closing, that a packet reaches. -/
def Ctx.atSendEnd (c : Ctx) (q : Nat) (p : StrPacket) (f : Chan → Chan) : Ctx :=
  let g := fun ch : Chan => if ch.q = q && ch.sendEnd && ch.routes p && c.kid = p.kid then f ch else ch
  { c with chans := c.chans.map g, closing := c.closing.map g }

/-- What a flow signal does to a send end (R301). -/
def Chan.signalled (ch : Chan) : StrPayload → Chan
  | .flow on => { ch with off := !on }
  | .notYet => { ch with askDue := true }
  | _ => ch

/-- CHANNEL_FLOW_SIGNAL: ON, OFF or NOTYET reaches the send end (R301). -/
def execChannelFlowSignal (k : Key) (q : Nat) (s : State) : Result :=
  match s.strArrival k q true fun | .flow _ => true | .notYet => true | _ => false with
  | none => .next s
  | some p =>
    match s.ofKernel p.kid k.h with
    | none => .next (s.offStr p)
    | some c => .next ((s.offStr p).mapCtx c.key fun c => c.atSendEnd q p fun ch => ch.signalled p.payload)

/-- CHANNEL_CLOSED_NOTICE: the send end is told CLOSED, and its unsent entries are discarded (R304). -/
def execChannelClosedNotice (k : Key) (q : Nat) (s : State) : Result :=
  match s.strArrival k q true fun | .closedNotice => true | _ => false with
  | none => .next s
  | some p =>
    match s.ofKernel p.kid k.h with
    | none => .next (s.offStr p)
    | some c =>
      .next ((s.offStr p).mapCtx c.key fun c =>
        let d := c.atSendEnd q p fun ch => { ch with closed := true, entries := [] }
        { d with closing := d.closing.filter fun ch => !ch.closed })

/-- CHANNEL_CLOSE_MARKER: the marker reaches the receive end, which is closed once it holds no entry (R304). -/
def execChannelCloseMarker (k : Key) (q : Nat) (s : State) : Result :=
  match s.strArrival k q false fun | .marker => true | _ => false with
  | none => .next s
  | some p =>
    match s.ofKernel p.kid k.h with
    | none => .next (s.offStr p)
    | some c =>
      match c.endFor q false p with
      | none => .next (s.offStr p)
      | some ch => .next ((s.offStr p).mapCtx c.key fun c => c.setChan { ch with marker := true })

/-- The answer to an ask, sent back to the end that asked (R301). -/
def answerAsk (s : State) (p : StrPacket) (rel : Nat) (r : StrPayload) : State :=
  s.onStr ⟨⟨p.dest, 0⟩, p.kid, p.src.h, rel, p.rtag, r⟩

/-- A receive end answers an ask: ON at an occupancy of at most ON, else ON follows when it falls there (R301). -/
def State.answerOpen (s : State) (c : Ctx) (ch : Chan) : State :=
  if ch.entries.length ≤ ch.onAt then
    (s.mapCtx c.key fun c => c.setChan { ch with off := false }).onStr (c.strPacket ch (.flow true))
  else s.mapCtx c.key fun c => c.setChan { ch with off := true }

/-- Asks held at a site (R301). -/
def State.heldAsks (s : State) (h : Nat) : Nat := (s.asks.filter fun a => a.h = h).length

/-- The send end at q of a context, open or closing. -/
def Ctx.sendEnd? (c : Ctx) (q : Nat) : Option Chan := c.ends.find? fun ch => ch.q = q && ch.sendEnd

/-- CHANNEL_ASK: an ask of the send end reaches its peer, which answers it, holds it, or answers NOTYET (R301). -/
def execChannelAsk (k : Key) (q : Nat) (s : State) : Result :=
  let mine := fun p : StrPacket =>
    match (s.ctx? k).bind fun c => c.sendEnd? q with
    | none => true
    | some ch => ch.rtag = p.rtag
  match firstOnStr (fun p => p.payload = .ask && p.src = k && mine p && !s.retries p.kid p.dest) s.str [] with
  | none => .next s
  | some p =>
    let t := s.offStr p
    let open? := (t.ofKernel p.kid p.dest).bind fun c =>
      (c.chans.find? fun ch => !ch.sendEnd && ch.routes p).map fun ch => (c, ch)
    match open? with
    | some (c, ch) => .next (t.answerOpen c ch)
    | none =>
      if t.heldAsks p.dest < 16 then .next { t with asks := t.asks ++ [⟨p.dest, p.kid, p.srcRel, p.rtag⟩] }
      else .next (answerAsk t p (p.srcRel + p.dest - p.src.h) .notYet)

/-- An end of a context, open or closing, asks no more. -/
def Ctx.asked (c : Ctx) (ch : Chan) : Ctx :=
  let g := fun x : Chan => if x = ch then { ch with askDue := false } else x
  { c with chans := c.chans.map g, closing := c.closing.map g }

/-- CHANNEL_ASK_RETRY: a send end that was told NOTYET, open or closing, asks again (R301). -/
def execChannelAskRetry (k : Key) (q : Nat) (s : State) : Result :=
  match (s.ctx? k).bind fun c => (c.ends.find? fun ch => ch.q = q && ch.sendEnd && ch.askDue).map fun ch => (c, ch) with
  | none => .next s
  | some (c, ch) => .next ((s.mapCtx k fun c => c.asked ch).onStr (c.strPacket ch .ask))

/-! ## Injection (R288, R301, R309) -/

/-- The oldest unsent entry of a send end is injected while it is ON; the marker of a closing end follows its last entry. -/
def State.injectEntry (s : State) (c : Ctx) (ch : Chan) (closing : Bool) : State :=
  match ch.entries with
  | [] => s
  | e :: rest =>
    if ch.off then s
    else
      match s.frameFor c.key.h c.leaf 3 with
      | none => s
      | some f =>
        let u := s.stampFor c 3 f 2
        let t := { u with str := u.str ++ [c.strPacket ch (.entry e)] }
        if closing then
          if rest.isEmpty then
            (t.mapCtx c.key fun c => { c with closing := c.closing.erase ch }).onStr (c.strPacket ch .marker)
          else t.mapCtx c.key fun c => { c with closing := c.closing.map fun x => if x = ch then { ch with entries := rest } else x }
        else t.mapCtx c.key fun c => c.setChan { ch with entries := rest }

/-- A send end of the same stream is still closing: its entries and its marker go first (R304, R347). -/
def Ctx.closingRoute (c : Ctx) (ch : Chan) : Bool := c.closing.any fun x => x.peer = ch.peer && x.rtag = ch.rtag

/-- PACKET_INJECTION: a queued send, or with 2^32 + q the oldest unsent entry of a send end, is injected (R288, R301, R309). A closing end that is OFF holds up no
other stream of its q. -/
def execPacketInjection (k : Key) (handle : Nat) (s : State) : Result :=
  match s.ctx? k with
  | none => .next s
  | some c =>
    if handle < 2 ^ 32 then
      match c.send? handle with
      | none => .next s
      | some x => if x.st = .queued then .next (s.injectSend c x) else .next s
    else
      let q := handle - 2 ^ 32
      match c.closing.find? fun ch => ch.q = q && !ch.off with
      | some ch => .next (s.injectEntry c ch true)
      | none =>
        match c.chan? q with
        | some ch => if ch.sendEnd && !c.closingRoute ch then .next (s.injectEntry c ch false) else .next s
        | none => .next s

/-! ## The CHAN instructions (R302 to R307) -/

/-- Why CH.OPEN refuses a channel word, once q is known to be free (R300, R304): 1 reserved or thresholds, 4 peer. -/
def Ctx.openWord (c : Ctx) (w : Word) : Option Nat :=
  if !cwOk w (hops c.key.h (c.leafBase + cwPeer w)) then some 1
  else if c.leafLen ≤ cwPeer w then some 4
  else none

/-- The buffer of a receive end: aligned and in SCR (R300, R304). -/
def Ctx.openBuffer (c : Ctx) (w va : Word) : Option Nat :=
  if va.toNat % 128 ≠ 0 then none
  else
    match c.scrOperand va (128 * cwDepth w) with
    | .ok o => some o
    | .error _ => none

/-- The route of an open receive end of the context (R300). -/
def Ctx.routeTaken (c : Ctx) (w : Word) : Bool :=
  c.chans.any fun ch => !ch.sendEnd && ch.rtag = cwTag w && ch.peer = cwPeer w

/-- A new receive end answers an ask that waits for it (R301). -/
def State.answerHeld (s : State) (ch : Chan) : State :=
  let c := s.cx
  match s.asks.find? fun a => a.h = c.key.h && a.kid = c.kid && a.peerRel = ch.peer && a.rtag = ch.rtag with
  | none => s
  | some a => ({ s with asks := s.asks.erase a } : State).onStr (c.strPacket ch (.flow true))

/-- CH.OPEN (R300, R301, R304). -/
def execChOpen (b : BitVec 5) (a : BitVec 5) (d : BitVec 3) (s : State) : Result :=
  s.finish do
    let q := d.toNat
    let w := s.getX a
    check (s.cx.chan? q).isNone (exnOpen q 2)
    match s.cx.openWord w with
    | some r => raiseStop (exnOpen q r)
    | none =>
      let enter := fun (buf : Nat) => s.mapCx fun c => { c with chans := c.chans ++ [Chan.opened q w buf] }
      if cwSend w then return ((enter 0).onStr (s.cx.strPacket (Chan.opened q w 0) .ask)).advance
      else
        match s.cx.openBuffer w (s.getX b) with
        | none => raiseStop (exnOpen q 3)
        | some buf =>
          check (!s.cx.routeTaken w) (exnOpen q 5)
          return ((enter buf).answerHeld (Chan.opened q w buf)).advance

/-- CH.CLOSE (R304). -/
def execChClose (a : BitVec 3) (s : State) : Result :=
  s.finish
    (match s.cx.chan? a.toNat with
     | none => raiseStop (exnChan a.toNat 0)
     | some ch =>
       let t := s.mapCx fun c => { c with chans := c.chans.filter fun x => x.q ≠ ch.q }
       if ch.sendEnd then
         if ch.entries.isEmpty then .ok (t.onStr (s.cx.strPacket ch .marker)).advance
         else .ok (t.mapCx fun c => { c with closing := c.closing ++ [ch] }).advance
       else
         let u := t.mapCx fun c => { c with bindings := c.bindings.filter fun x => x.src ≠ .route ch.rtag }
         .ok (u.onStr (s.cx.strPacket ch .closedNotice)).advance)

/-- An end of one kind, or cause 30 with reason 0. -/
def State.openEnd (s : State) (q : Nat) (send : Bool) : Try Chan :=
  match s.cx.chan? q with
  | none => raiseStop (exnChan q 0)
  | some ch => if ch.sendEnd = send then .ok ch else raiseStop (exnChan q 0)

/-- R305: the body of CH.PUSH and CH.PUSH.T. Cause 27 comes before any look at q: DESIGN CHOICE (123), R305 gives it in prose alone. -/
def pushing (s : State) (twin : Bool) (b : BitVec 3) (a d : BitVec 5) : Try State := do
  if !twin && s.cx.handlerDiscipline then raiseStop (exn 27 0)
  let ch ← s.openEnd b.toNat true
  let e ← s.vAny a
  if ch.closed then
    if twin then return s.result d (refusal 2) else raiseStop (exnChan b.toNat 3)
  else if 4 ≤ ch.entries.length then
    if twin then return s.result d (refusal 1) else waitStop
  else
    let t := s.mapCx fun c => c.setChan { ch with entries := ch.entries ++ [e] }
    return if twin then t.result d 1 else t.advance

/-- CH.PUSH (R305). -/
def execChPush (b : BitVec 3) (a : BitVec 5) (s : State) : Result := s.finish (pushing s false b a 0)

/-- CH.PUSH.T (R305). -/
def execChPushT (b : BitVec 3) (a : BitVec 5) (d : BitVec 5) (s : State) : Result := s.finish (pushing s true b a d)

/-- R305: the body of CH.POP and CH.POP.T, into v[r]. Cause 27 comes before any look at q: DESIGN CHOICE (123), as for CH.PUSH. -/
def popping (s : State) (twin : Bool) (a : BitVec 3) (r d : BitVec 5) : Try State := do
  if !twin && s.cx.handlerDiscipline then raiseStop (exn 27 0)
  let ch ← s.openEnd a.toNat false
  match ch.entries with
  | e :: rest =>
    let t := (s.popChan ch rest).setV r (s.headEntry ch e)
    return if twin then t.result d 1 else t.advance
  | [] =>
    if ch.ended then
      if twin then return s.result d (refusal 2) else raiseStop (exnChan a.toNat 3)
    else if twin then return s.result d (refusal 1)
    else waitStop

/-- CH.POP (R305). -/
def execChPop (a : BitVec 3) (d : BitVec 5) (s : State) : Result := s.finish (popping s false a d 0)

/-- CH.POP.T (R305). -/
def execChPopT (b : BitVec 5) (a : BitVec 3) (d : BitVec 5) (s : State) : Result := s.finish (popping s true a b d)

/-- The source that CH.BIND names (R306), if there is one: an open receive end, or a window in ACC. -/
def Ctx.bindSource (c : Ctx) (window : Bool) (w : Word) : Option BindSource :=
  if window then
    let o := w.toNat - localWindowBase
    if regionOf w = .localWindow && o % 128 = 0 && decide (c.regBanks * 0x10000 ≤ o) && decide (o + 128 ≤ c.scrBase) then
      some (.window o)
    else none
  else
    let t := BitVec.ofNat 16 (fld w 15 0)
    if c.chans.any fun ch => !ch.sendEnd && ch.rtag = t then some (.route t) else none

/-- A binding of a source replaced or added. -/
def Ctx.bind (c : Ctx) (src : BindSource) (h : Nat) : Ctx :=
  { c with bindings := upsert (fun x => x.src = src) ⟨src, h⟩ c.bindings }

/-- The receive ends of a route become events if they hold entries (R282). -/
def Ctx.routeEvents (c : Ctx) : BindSource → Ctx
  | .window _ => c
  | .route t => (c.chans.filter fun ch => !ch.sendEnd && ch.rtag = t).foldl (fun c ch => c.channelEvent ch.q) c

/-- CH.BIND (R306). -/
def execChBind (b : BitVec 5) (a : BitVec 5) (f : BitVec 1) (d : BitVec 5) (s : State) : Result :=
  let w := s.getX b
  let h := fld w 7 0
  match s.cx.bindSource (f = 1) (s.getX a) with
  | none => .next (s.result d (refusal 1))
  | some src =>
    let has := (s.cx.boundTo src).isSome
    if !w.getLsbD 8 then
      if has then .next ((s.mapCx fun c => { c with bindings := c.bindings.filter fun x => x.src ≠ src }).result d 1)
      else .next (s.result d (refusal 1))
    else if (s.handler? s.cx h).isNone then .next (s.result d (refusal 2))
    else if !has && 8 ≤ s.cx.bindings.length then .next (s.result d (refusal 3))
    else .next ((s.mapCx fun c => (c.bind src h).routeEvents src).result d 1)

/-- The state word of a channel (R307). -/
def Chan.stat (ch : Chan) : Word :=
  let bit := fun (b : Bool) (n : Nat) => if b then 2 ^ n else 0
  toWord (2 ^ 63 + bit ch.sendEnd 62 + bit (if ch.sendEnd then ch.closed else ch.ended) 61 + bit ch.off 60 +
    ch.peer * 2 ^ 48 + ch.rtag.toNat * 2 ^ 32 + ch.depth * 2 ^ 16 + ch.entries.length)

/-- CH.STAT (R307). -/
def execChStat (a : BitVec 3) (d : BitVec 5) (s : State) : Result :=
  .next (s.result d (match s.cx.chan? a.toNat with | none => 0 | some ch => ch.stat))

end Sys2Proof.Machine
end

