-- ==== Sys2Proof/Machine/Compose.lean ====
section
/-! DEFINITION. BIND: composing cores into one thread (R190 to R204). -/

namespace Sys2Proof.Machine

/-- The leaf in which the running context runs grants a right (R92). -/
def State.leafGrants (s : State) (right : Nat) : Bool :=
  let p := s.part (.leaf s.cx.leaf)
  p.st ≠ .free && p.rights.getLsbD right

/-- The context belongs to another composition's sites: it is held (R194). -/
def State.heldBy (s : State) (c : Ctx) : Bool :=
  s.ctxs.any fun o => o.resident && o.key ≠ c.key && decide (2 ≤ o.comp.n) && o.members.contains c.key.h

/-- No composition but one of `own` holds the site. -/
def State.unclaimed (s : State) (own : Key) (h : Nat) : Bool :=
  s.ctxs.all fun o => !(o.resident && o.key ≠ own && decide (2 ≤ o.comp.n) && o.members.contains h)

/-- R193: no context of the site but `own` has an instruction in flight, and the site is awake, in service, unclaimed and not
held. -/
def State.available (s : State) (own : Key) (h : Nat) : Bool :=
  (s.atSite h).all (fun c => c.key = own || ((c.status = .parked || c.status = .retiring) && c.halt.isNone)) && s.unclaimed own h &&
    !s.siteLost h && tabGet s.power h .S0 ≠ .S2 && tabGet s.power h .S0 ≠ .S3

/-- Dirty registers of a context written into the workspace of its level (R192, R200). -/
def State.writeBackCtx (s : State) (c : Ctx) : State :=
  (List.range' 1 31).foldl (fun s i =>
    if c.dirty.getLsbD i then s.store (c.workspace c.level + 8 * i) 8 (c.getX (BitVec.ofNat 5 i)).toNat else s) s

/-- Every resident context of a set of sites writes its dirty registers back (R192). -/
def State.writeBackSites (s : State) (hs : List Nat) : State :=
  let cs := s.ctxs.filter fun c => c.resident && hs.contains c.key.h
  (cs.foldl (fun s c => s.writeBackCtx c) s).mapIf (fun c => c.resident && hs.contains c.key.h) fun c => { c with dirty := 0 }

/-- The status word of COMPOSE and RELEASE: bit 0 for an effect, else the reason from bit 1 up (R192). -/
def bindStatus (reason : Nat) : Word := toWord (if reason = 0 then 1 else 2 * reason)

/-- Why COMPOSE takes no effect: 3 NESTED, 2 ALIGN, 1 BUSY, 0 none (R192). -/
def State.composeReason (s : State) (n : Nat) : Nat :=
  let o := s.cx.key.h
  if 2 ≤ s.cx.comp.n then 3
  else if o % n ≠ 0 || s.cx.kbase + s.cx.klen < s.cx.rel + n || s.cx.rel < s.cx.kbase then 2
  else if (List.range n).all fun j => s.available s.cx.key (o + j) then 0
  else 1

/-- COMPOSE: the claim, the write back and the start of the composed thread (R192). -/
def execCompose (b : BitVec 2) (d : BitVec 5) (s : State) : Result :=
  s.finish (
    let n := 2 ^ b.toNat
    if !s.leafGrants rightCompose then raiseStop (exnBoundary 0 3 .D)
    else
      let why := s.composeReason n
      if why ≠ 0 then .ok (s.result d (bindStatus why))
      else
        let sites := (List.range n).map (s.cx.key.h + ·)
        let t := (((s.result d 1).writeBackSites sites).invalidateAll sites).loadX
        .ok { t with cx := { t.cx with comp := { t.cx.comp with n := n, oh := t.cx.rel, due := none } } })

/-- RELEASE: the composition ends (R201), and the workspace holds the registers, x[d] among them (R200). -/
def execRelease (d : BitVec 5) (s : State) : Result :=
  .next (if s.cx.comp.n < 2 then s.result d (bindStatus 4) else ((s.setX d 1).dissolve 1).advance)

/-- CSTAT: the composition state of the context (R204). -/
def execCstat (d : BitVec 5) (s : State) : Result :=
  let c := s.cx.comp
  .next (s.result d (toWord (c.n + c.oh * 2 ^ 10 + c.last * 2 ^ 24 + (if 2 ≤ c.n then 2 ^ 63 else 0))))

end Sys2Proof.Machine
end

