-- ==== Sys2Proof/Machine/Activation.lean ====
section
/-! DEFINITION. Activations: what starts one, what HDONE ends, and when a context parks or begins to retire (R281, R282, R299,
R322, R390). -/

namespace Sys2Proof.Machine

/-- The event word of an activation (R281). -/
def eventWord (kind hnd tag src : Nat) : Word := toWord (kind + hnd % 256 * 2 ^ 8 + tag % 2 ^ 16 * 2 ^ 16 + src % 1024 * 2 ^ 32)

/-- The handler number of an event (R281). -/
def Event.hnd : Event → Nat
  | .message img => imgHnd img
  | .channel _ h => h
  | .task _ h _ _ _ _ => h % 256
  | .window _ _ h => h

/-- The local-window address of an offset (R105). -/
def localAddr (o : Nat) : Word := toWord (localWindowBase + o)

/-- x10 and x11 of an activation (R281, R322). -/
def Ctx.startWords (c : Ctx) : Event → Word × Word
  | .message img => (eventWord 1 (imgHnd img) (imgTag img) (imgSrc img), localAddr c.landing)
  | .channel q h =>
    match c.chan? q with
    | some ch => (eventWord 2 h ch.rtag.toNat ch.peer, toWord ch.entries.length)
    | none => (eventWord 2 h 0 0, 0)
  | .task n h _ _ _ _ => (eventWord 3 h 0 0, toWord (n % 2 ^ 48))
  | .window o tag h => (eventWord 4 h tag.toNat 0, localAddr o)

/-- What the activation of an event is and holds (R281, R323, R326). -/
def Event.activation : Event → Activation
  | .message _ => ⟨1, true, none, 0, none⟩
  | .channel q _ => ⟨2, false, none, 0, some q⟩
  | .task n _ _ _ _ depth => ⟨3, false, some n, depth, none⟩
  | .window _ _ _ => ⟨4, false, none, 0, none⟩

/-- The range register that an activation starts with (R322, R323). -/
def Event.range (e : Event) (r : Range) : Range :=
  match e with
  | .task n _ lo hi grain _ => ⟨true, lo, hi, grain, n⟩
  | _ => r

/-- The oldest mailbox entry that has not started holds the running activation now (R287). -/
def startMail : List MailEntry → List MailEntry
  | [] => []
  | e :: r => if e.started then e :: startMail r else { e with started := true } :: r

/-- The mailbox entry of the activation that ends is freed (R287, R299). -/
def freeMail (l : List MailEntry) : List MailEntry := l.filter fun e => !e.started

/-- A context as an activation of event `e` at address `pc` starts (R281): the watchdog counts from 0 to the LIMIT last
written, and only x10 and x11 change. -/
def Ctx.activate (c : Ctx) (e : Event) (pc : Word) : Ctx :=
  let w := c.startWords e
  { ((c.setX 10 w.1).setX 11 w.2) with
    status := .running
    pc := pc
    hint := none
    act := some e.activation
    events := c.events.tail
    mailbox := if e.isMessage then startMail c.mailbox else c.mailbox
    wdog := { c.wdog with limit := c.wdog.reg.toNat, count := 0 }
    range := e.range c.range }

/-- R299: the context parks with nothing that could start another activation. -/
def State.spent (s : State) (c : Ctx) : Bool :=
  c.events.isEmpty && c.bindings.isEmpty && c.chans.isEmpty && (c.posted.all fun p => p.st ≠ .posted) && c.mailbox.isEmpty &&
    (List.range (fld c.msg.hndtab 63 55)).all fun n => (s.handler? c n).isNone

/-- A parked context that R299 lets retire begins its retirement (R390). -/
def State.testRetire (s : State) (k : Key) : State :=
  s.mapCtx k fun c => if c.status = .parked && s.spent c then { c with status := .retiring } else c

/-- The event has nothing to start any more: its channel holds no entry (R282). -/
def Ctx.stale (c : Ctx) : Event → Bool
  | .channel q _ =>
    match c.chan? q with
    | some ch => ch.sendEnd || ch.entries.isEmpty
    | none => true
  | _ => false

/-- R281: an event whose handler entry is not valid is discarded and counted in REFG; a task's interval is dropped with it. -/
def State.dropEvent (s : State) (c : Ctx) (e : Event) : State :=
  let t := s.mapCtx c.key fun c =>
    let d := if c.stale e then c else c.addRefg
    { d with
      events := c.events.tail
      mailbox := if e.isMessage then dropFirst (fun m => !m.started) 1 c.mailbox else c.mailbox }
  let u := match e with
    | .task n _ _ _ _ _ => t.mapNode n fun x => { x with dropped := true }
    | _ => t
  u.testRetire c.key

/-- R281: the activation of an event starts: its acquire, its message in the landing slot, and its registers. -/
def State.startEvent (s : State) (c : Ctx) (e : Event) (pc : Word) : State :=
  let t := match e with
    | .message img => s.writeImage .thread c.key (c.localPlace c.landing) img
    | _ => s
  (t.invalidateAll c.members).mapCtx c.key fun c => c.settleLoads.activate e pc

/-- A parked context may start an activation now (R194, R282, R372, R404, R406). -/
def State.mayStart (s : State) (c : Ctx) : Bool :=
  c.status = .parked && !s.heldBy c && c.saveReq.isNone && s.poweredSite c.key.h

/-- ACTIVATION_START: the oldest waiting event of a parked context starts its activation, or is discarded (R281, R282). -/
def execActivationStart (k : Key) (s : State) : Result :=
  match s.ctx? k with
  | none => .next s
  | some c =>
    match c.events with
    | [] => .next s
    | e :: _ =>
      if !s.mayStart c then .next s
      else if c.stale e then .next (s.dropEvent c e)
      else
        match s.handler? c e.hnd with
        | none => .next (s.dropEvent c e)
        | some pc => .next (s.startEvent c e pc)

/-- The unclaimed rest of an interval returns to its leaf's pool (R323). -/
def State.returnRange (s : State) : State :=
  let r := s.cx.range
  let t := s.mapCx fun c => { c with range := { r with v := false } }
  if r.v && decide (r.lo < r.hi) then
    match s.node? r.node with
    | none => t
    | some n => t.addReady (n.entry r.lo r.hi)
  else t

/-- The running activation ends (R299): its mailbox entry is freed, the range returns, and a channel that still holds entries is
an event again (R282). -/
def State.endActivation (s : State) : State :=
  let holds := s.cx.act.any (·.holdsMail)
  let q := s.cx.act.bind (·.q)
  s.returnRange.mapCx fun c =>
    let d := { c with act := none, mailbox := if holds then freeMail c.mailbox else c.mailbox }
    match q with
    | none => d
    | some q => d.channelEvent q

/-- HDONE: the activation ends; the context goes on to its next event, parks, or begins to retire (R299, R390), and it leaves its core
(R144). The program counter stays, since a FAILED entry is reported at the HDONE. -/
def execHdone (s : State) : Result :=
  let pc := s.cx.pc
  let t := (s.advance.endActivation).toLevel .K
  let u := { t with cx := { t.cx with pc := pc, resv := none, status := if t.cx.thread then .retiring else .parked } }
  .next { u with cx := if u.cx.status = .parked && u.spent u.cx then { u.cx with status := .retiring } else u.cx }

end Sys2Proof.Machine
end

