-- ==== Sys2Proof/Machine/Aster.lean ====
section
/-! DEFINITION. The Aster array: configuration images, their checks, the resident slots, XOP and XCFG (R174 to R188). -/

namespace Sys2Proof.Machine

/-- A configuration image: up to 1,920 bytes, byte 0 lowest (R176). -/
abbrev XImage := BitVec 15360

/-- `n` bytes of an image from offset `o`. -/
def xBytes (img : XImage) (o n : Nat) : Nat := fld img (8 * (o + n) - 1) (8 * o)

def xNsrc (img : XImage) : Nat := xBytes img 8 1
def xNdst (img : XImage) : Nat := xBytes img 9 1
def xLat (img : XImage) : Nat := xBytes img 10 1
def xLw (img : XImage) : Nat := xBytes img 11 1
def xItag (img : XImage) (j : Nat) : Nat := xBytes img (12 + j) 1
def xOtag (img : XImage) : Nat := xBytes img 15 1
def xNtab (img : XImage) : Nat := xBytes img 16 1
def xSize (img : XImage) : Nat := xBytes img 20 2
def xOut (img : XImage) : Nat := xBytes img 320 2 % 16
def xUse (img : XImage) : Nat := xBytes img 322 2

/-- Lane width in bits, and lanes (R174). -/
def xWidth (img : XImage) : Nat := if xLw img = 0 then 32 else 64
def xLanes (img : XImage) : Nat := 1024 / xWidth img

/-! ## Cell words (R177) -/

/-- A bit field of the word of cell `i`. -/
def cellFld (img : XImage) (i hi lo : Nat) : Nat := fld img (8 * (64 + 16 * i) + hi) (8 * (64 + 16 * i) + lo)

def cellOp (img : XImage) (i : Nat) : Nat := cellFld img i 5 0
def cellTab (img : XImage) (i : Nat) : Nat := cellFld img i 34 32
def cellImm (img : XImage) (i : Nat) : Nat := cellFld img i 127 64

/-- Selector A, B or C of a cell. -/
def cellSel (img : XImage) (i k : Nat) : Nat := cellFld img i (12 + 8 * k) (8 + 8 * k)

/-- Operands that an operation takes (R175). -/
def opArity (op : Nat) : Nat := if op = 0 then 0 else if op = 13 || op = 20 then 3 else if op = 23 then 1 else 2

/-- The operation is a floating one (R175). -/
def opFloat (op : Nat) : Bool := decide (18 ≤ op) && decide (op ≤ 22)

/-- Latency of an operation (R175). -/
def opLatency (op : Nat) : Nat :=
  if op = 0 then 0 else if op = 9 || op = 18 || op = 19 then 3 else if op = 20 then 4 else if op = 23 then 2 else 1

/-- Every reserved bit of a cell word is zero (R177). -/
def cellReserved (img : XImage) (i : Nat) : Bool :=
  cellFld img i 63 35 = 0 && cellFld img i 31 29 = 0 && cellFld img i 23 21 = 0 && cellFld img i 15 13 = 0 &&
    cellFld img i 7 6 = 0

/-! ## The checks of R179 -/

/-- Every reserved field of the header is zero (R176). -/
def headerReserved (img : XImage) : Bool := xBytes img 6 2 = 0 && xBytes img 17 3 = 0 && xBytes img 22 42 = 0

/-- Every reserved field of the routing block is zero (R178). -/
def routingReserved (img : XImage) : Bool :=
  fld img (8 * 320 + 15) (8 * 320 + 4) = 0 && xBytes img 324 4 = 0 && xBytes img 328 56 = 0

/-- A tag that a lane width allows (R176). -/
def laneTag (lw t : Nat) : Bool := if lw = 0 then t = 1 || t = 4 || t = 6 else t = 1 || t = 5

/-- A selector in order for cell `i` (R177, R179 reason 8). -/
def selOk (img : XImage) (i sel : Nat) : Bool :=
  if sel = 0 || sel = 20 then true
  else if sel ≤ 16 then decide (sel ≤ i) && cellOp img (sel - 1) ≠ 0
  else if sel ≤ 19 then decide (sel - 17 < xNsrc img)
  else false

/-- The selectors of a cell: each one taken is in order, and every other is 0. -/
def cellSelOk (img : XImage) (i : Nat) : Bool :=
  (List.range 3).all fun k => if k < opArity (cellOp img i) then selOk img i (cellSel img i k) else cellSel img i k = 0

/-- Depths of cells 0 to n − 1 (R179). -/
def depths (img : XImage) (n : Nat) : List Nat :=
  (List.range n).foldl (fun ds i =>
    let d := fun k => let sel := cellSel img i k; if 1 ≤ sel && sel ≤ 16 then ds.getD (sel - 1) 0 else 0
    ds ++ [opLatency (cellOp img i) + max (d 0) (max (d 1) (d 2))]) []

/-- The needed latency: the depth of OUT plus 1 (R179). -/
def neededLatency (img : XImage) : Nat := (depths img 16).getD (xOut img) 0 + 1

/-- The first cell that fails a check, as a reason with that cell. -/
def cellFail (reason : Nat) (ok : Nat → Bool) : Option (Nat × Nat) :=
  ((List.range 16).find? fun i => !ok i).map fun i => (reason, i)

/-- A check of no cell. -/
def plainFail (reason : Nat) (ok : Bool) : Option (Nat × Nat) := if ok then none else some (reason, 0)

/-- USE agrees with the OP of a cell (R178). -/
def useOk (img : XImage) (i : Nat) : Bool := (xUse img).testBit i = decide (cellOp img i ≠ 0)

/-- R179: the first check from 3 to 11 that an image fails, with the cell concerned. -/
def imageFail (img : XImage) : Option (Nat × Nat) :=
  [ plainFail 3 (xBytes img 0 4 = 0x52545341 && xBytes img 4 2 = 1),
    plainFail 4 (headerReserved img),
    cellFail 4 (cellReserved img),
    plainFail 4 (routingReserved img),
    plainFail 5 (xNsrc img ≤ 3 && xNdst img = 1 && xLw img ≤ 1 && xNtab img ≤ 6 && xSize img = 384 + 256 * xNtab img),
    plainFail 6 ((List.range 3).all (fun j =>
      if j < xNsrc img then laneTag (xLw img) (xItag img j) else xItag img j = 0) && laneTag (xLw img) (xOtag img)),
    cellFail 7 (fun i => decide (cellOp img i ≤ 23) && !(xLw img = 1 && opFloat (cellOp img i))),
    cellFail 8 (cellSelOk img),
    cellFail 9 (useOk img),
    (if cellOp img (xOut img) = 0 then some (9, xOut img) else none),
    cellFail 10 (fun i => cellOp img i ≠ 23 || decide (cellTab img i < xNtab img)),
    plainFail 11 (2 ≤ xLat img && xLat img ≤ 40 && neededLatency img ≤ xLat img) ].findSome? id

/-- Cause 37 (R179). Of an opcode number of 64 or more it reports the low six bits: DESIGN CHOICE (134), the field has six. -/
def exnAster (reason cell opcode : Nat) : Exn := exn 37 (toWord (reason + cell * 256 + opcode % 64 * 65536))

/-! ## The graph (R175) -/

/-- All ones of a lane when a compare holds. -/
def laneBool (w : Nat) (b : Bool) : Nat := if b then 2 ^ w - 1 else 0

/-- A rounded FP32 result with its flags. -/
def laneFloat (rm : Nat) (r : NumF) : Nat × VFlags := let x := fRound fp32 rm r; (x.bits, x.flags)

/-- A result that sets no flag, wrapped to the lane. -/
def laneInt (w : Nat) (v : Int) : Nat × VFlags := (intBits w v, 0)

/-- The operation of a cell on a lane (R175). `lut` reads its table. -/
def cellResult (w rm op a b c : Nat) (lut : Nat → Nat) : Nat × VFlags :=
  let sa := bitsInt w false a
  let sb := bitsInt w false b
  let dec := fp32.decode
  match op with
  | 1 => laneInt w (a + b)
  | 2 => laneInt w ((a : Int) - b)
  | 3 => (a &&& b, 0)
  | 4 => (a ||| b, 0)
  | 5 => (a ^^^ b, 0)
  | 6 => laneInt w (a * 2 ^ (b % w))
  | 7 => (a / 2 ^ (b % w), 0)
  | 8 => laneInt w (sa / 2 ^ (b % w))
  | 9 => laneInt w (a * b)
  | 10 => (laneBool w (a = b), 0)
  | 11 => (laneBool w (decide (sa < sb)), 0)
  | 12 => (laneBool w (decide (a < b)), 0)
  | 13 => (if c ≠ 0 then a else b, 0)
  | 14 => (if sa ≤ sb then a else b, 0)
  | 15 => (if sa ≤ sb then b else a, 0)
  | 16 => (min a b, 0)
  | 17 => (max a b, 0)
  | 18 => laneFloat rm (numAdd rm (dec a) (dec b))
  | 19 => laneFloat rm (numMul (dec a) (dec b))
  | 20 => laneFloat rm (numFma rm (dec a) (dec b) (dec c))
  | 21 => let r := fMin fp32 a b; (r.bits, r.flags)
  | 22 => let r := fMax fp32 a b; (r.bits, r.flags)
  | 23 => (lut (a % 256), 0)
  | _ => (0, 0)

/-- What a selector gives a cell: the outputs of lower cells, the sources, IMM (R177). -/
def selected (img : XImage) (i sel : Nat) (outs : List Nat) (src : Nat → Nat) : Nat :=
  if sel = 0 then 0
  else if sel ≤ 16 then outs.getD (sel - 1) 0
  else if sel ≤ 19 then src (sel - 17)
  else cellImm img i % 2 ^ xWidth img

/-- The graph on one lane: the output of OUT, and the flags of every cell (R175). -/
def graph (img : XImage) (rm : Nat) (src : Nat → Nat) : Nat × VFlags :=
  let r := (List.range 16).foldl (fun (st : List Nat × VFlags) i =>
    let v := fun k => selected img i (cellSel img i k) st.1 src
    let x := cellResult (xWidth img) rm (cellOp img i) (v 0) (v 1) (v 2) fun k => xBytes img (384 + 256 * cellTab img i + k) 1
    (st.1 ++ [x.1], st.2 ||| x.2)) ([], 0)
  (r.1.getD (xOut img) 0, r.2)

/-! ## Slots (R181) -/

/-- The slot that holds an opcode of a context. -/
def State.xslot? (s : State) (k : Key) (op : Nat) : Option XSlot := s.slots.find? fun x => x.owner = k && x.opcode = op

/-- RES of a context (R180). -/
def State.xres (s : State) (k : Key) : Word :=
  maskOf ((s.slots.filter fun x => x.owner = k).map (·.opcode))

/-- The slot that a load fills at a site: the lowest empty one, else the oldest, the lower number first (R181). -/
def State.xvictim (s : State) (h : Nat) : Nat :=
  let here := s.slots.filter fun x => x.h = h
  match (List.range 8).find? fun i => here.all fun x => x.idx ≠ i with
  | some i => i
  | none =>
    match here.foldl (fun (acc : Option XSlot) x =>
      match acc with
      | none => some x
      | some y => if x.age < y.age || (x.age = y.age && x.idx < y.idx) then some x else acc) none with
    | some x => x.idx
    | none => 0

/-- A slot of a site filled. -/
def State.putSlot (s : State) (x : XSlot) : State :=
  { s with slots := upsert (fun y => y.h = x.h && y.idx = x.idx) x s.slots }

/-- The tag check of source `j` of an image, in v[r] (R33, R185). -/
def State.xSource (s : State) (img : XImage) (j : Nat) (r : BitVec 5) : Try VReg :=
  if j < xNsrc img then s.vExact r (BitVec.ofNat 4 (xItag img j)) else .ok VReg.empty

/-- The word of an XOP (R184). -/
def xopWord (op : BitVec 6) (b a : BitVec 5) (pg : BitVec 3) (d : BitVec 5) : IWord :=
  op ++ (0 : BitVec 1) ++ b ++ a ++ pg ++ d ++ (0x77 : BitVec 7)

/-- A register of lanes written under a predicate (R156, R185): lanes have the image's width, whatever the tag. -/
def laneWrite (old : VReg) (t : Tag) (w n : Nat) (en : Nat → Bool) (res : Nat → Nat) : VReg :=
  ⟨t, BitVec.ofNat 1024 (packElems w (fun i => if en i then res i else if old.tag = t then elemOf w old.bits i else 0) n)⟩

/-- XOP (R185). -/
def execXop (op : BitVec 6) (b : BitVec 5) (a : BitVec 5) (pg : BitVec 3) (d : BitVec 5) (s : State) : Result :=
  s.finish do
    match s.xslot? s.cx.key op.toNat with
    | none => raiseStop (exn 25 (op.setWidth 64))
    | some x =>
      let img := x.image
      check (!(decide (xNsrc img < 2) && b ≠ 0) && !(decide (xNsrc img < 1) && a ≠ 0)) (exnIllegal (xopWord op b a pg d))
      let s0 ← s.xSource img 0 a
      let s1 ← s.xSource img 1 b
      let s2 ← s.xSource img 2 d
      let w := xWidth img
      let en := fun i => enabledBy (s.getP pg) i
      let res := fun i => graph img s.cx.rm fun j => elemOf w ([s0, s1, s2].getD j VReg.empty).bits i
      let fl := (List.range (xLanes img)).foldl (fun acc i => if en i then acc ||| (res i).2 else acc) 0
      let v := laneWrite (s.getV d) (BitVec.ofNat 4 (xOtag img)) w (xLanes img) en fun i => (res i).1
      return (((s.putSlot { x with age := s.order }).setV d v).addFlags fl).tickOrder.advanceV

/-- `n` doublewords from an address up, as weak loads at the running level. -/
def State.readWords (s : State) (va : Word) : Nat → Try (Nat × State)
  | 0 => .ok (0, s)
  | n + 1 => do
    let (v, t) ← s.readMem .weak va 8
    let (w, u) ← t.readWords (va + 8) n
    return (v + w <<< 64, u)

/-- NENT and TADDR of xtab, and BASE of xbase (R180). -/
def Ctx.xEntries (c : Ctx) : Nat := fld c.xtab 63 57
def Ctx.xTable (c : Ctx) : Word := toWord (fld c.xtab 47 3 * 8)
def Ctx.xBase (c : Ctx) : Word := toWord (fld c.xbase 47 12 * 4096)

/-- The image of an opcode as XCFG.LOAD reads it (R186): 384 bytes, then the tables it announces; of an image that announces more than 6
the 384 bytes alone: DESIGN CHOICE (135), R179 refuses such an image and no rule says how much of it is read. -/
def State.readImage (s : State) (va : Word) : Try (XImage × State) := do
  let (v, t) ← s.readWords va 48
  let img := BitVec.ofNat 15360 v
  if xNtab img ≤ 6 then do
    let (w, u) ← t.readWords (va + 384) (32 * xNtab img)
    return (BitVec.ofNat 15360 (v + w <<< 3072), u)
  else return (img, t)

/-- XCFG.LOAD (R179, R181, R186): both reads come first and fault as loads, then the checks of R179 in their order.
Lval is 0 where the XOP right is missing: DESIGN CHOICE (133), R186 names no value. -/
def execXcfgLoad (a : BitVec 5) (d : BitVec 5) (s : State) : Result :=
  s.finish do
    check (s.leafGrants rightXop) (exnBoundary 0 3 .D)
    let op := (s.getX a).toNat
    let (e, t) ← s.readMem .weak (s.cx.xTable + toWord (8 * op)) 8
    let va := s.cx.xBase + toWord (e % 2 ^ 48)
    let (img, u) ← t.readImage va
    check (op < 64 && op < s.cx.xEntries && 2 ^ 63 ≤ e) (exnAster 1 0 op)
    check (va.toNat % 64 = 0) (exnAster 2 0 op)
    match imageFail img with
    | some (r, c) => raiseStop (exnAster r c op)
    | none =>
      let h := s.cx.key.h
      let i := match u.xslot? s.cx.key op with | some x => x.idx | none => u.xvictim h
      return ((u.putSlot ⟨h, i, s.cx.key, op, img, u.order⟩).tickOrder.result d (toWord i)).mapCx (·.count 3 1)

/-- XCFG.DROP (R187). -/
def execXcfgDrop (a : BitVec 5) (s : State) : Result :=
  let op := (s.getX a).toNat
  .next { s with slots := s.slots.filter fun x => !(x.owner = s.cx.key && x.opcode = op) }.advanceV

/-- The description of a resident opcode (R187). -/
def XSlot.describe (x : XSlot) : Word :=
  let img := x.image
  toWord (2 ^ 63 + xItag img 2 * 2 ^ 28 + xItag img 1 * 2 ^ 24 + xItag img 0 * 2 ^ 20 + xOtag img * 2 ^ 16 + x.idx * 2 ^ 12 +
    xLw img * 2 ^ 10 + xNsrc img * 2 ^ 8 + xLat img)

/-- XCFG.QUERY (R187). -/
def execXcfgQuery (a : BitVec 5) (d : BitVec 5) (s : State) : Result :=
  let v := match s.xslot? s.cx.key (s.getX a).toNat with | none => 0 | some x => x.describe
  .next ((s.result d v).mapCx (·.count 3 1))

end Sys2Proof.Machine
end

