-- ==== Sys2Proof/Machine/Partition.lean ====
section
/-! DEFINITION. Partition blocks and quotas: the commands, their checks, and the narrowing of rights (R89 to R94, R310). -/

namespace Sys2Proof.Machine

/-! ## Staged values (R89) -/

/-- PSPAN, PRIGHTS and PQRANGE as staged. -/
structure Staged where
  base : Nat
  len : Nat
  parent : Nat
  rights : BitVec 10
  qfirst : Nat
  qcnt : Nat
  deriving DecidableEq, Repr

/-- The staged values of a block, as a command of the requester takes them: create by D stores D's own number (R89). -/
def State.staged (s : State) (b : Block) (r : Requester) : Staged :=
  let w := s.reg (blockAddr b)
  let q := s.reg (blockAddr b + 0x10)
  let par := match b with
    | .first _ => 0
    | .leaf _ => if r.acts = .D then r.fl else fld w 31 28
  ⟨fld w 9 0, fld w 20 10, par, (s.reg (blockAddr b + 8)).setWidth 10, fld q 11 0, fld q 28 16⟩

/-! ## The checks (R90) -/

/-- Intervals [a, a + n) and [b, b + m) meet. -/
def intervalsMeet (a n b m : Nat) : Bool := n ≠ 0 && m ≠ 0 && decide (a < b + m) && decide (b < a + n)

/-- Blocks of one level. -/
def sameLevel : Block → Block → Bool
  | .leaf _, .leaf _ => true
  | .first _, .first _ => true
  | _, _ => false

/-- Another span of the level, or one of either level that is CHANGING, overlaps in sites or in queues (R90, R91). -/
def State.overlaps (s : State) (b : Block) (g : Staged) : Bool :=
  s.parts.any fun p => p.blk ≠ b && (p.st = .changing || (sameLevel p.blk b && p.st ≠ .free)) &&
    (intervalsMeet p.base p.len g.base g.len || intervalsMeet p.qfirst p.qcnt g.qfirst g.qcnt)

/-- A leaf lies inside its parent, sites and queues (R90). -/
def State.insideParent (s : State) (b : Block) (g : Staged) : Bool :=
  match b with
  | .first _ => true
  | .leaf _ =>
    let p := s.part (.first g.parent)
    p.st = .active && decide (p.base ≤ g.base) && decide (g.base + g.len ≤ p.base + p.len) &&
      (g.qcnt = 0 || (decide (p.qfirst ≤ g.qfirst) && decide (g.qfirst + g.qcnt ≤ p.qfirst + p.qcnt)))

/-- A leaf's mask is within its parent's (R90); P's own mask holds every right. -/
def State.withinRights (s : State) (b : Block) (g : Staged) : Bool :=
  match b with
  | .first _ => true
  | .leaf _ => g.rights &&& ~~~(s.part (.first g.parent)).rights = 0

/-- LEN, BASE and the queue range in range (R90). -/
def Staged.inRange (g : Staged) : Bool :=
  decide (1 ≤ g.len) && decide (g.len ≤ 1024) && decide (g.base + g.len ≤ 1024) && decide (g.qfirst + g.qcnt ≤ 4096)

/-- The span's contexts, and the leaves of a first-level span (R90). -/
def State.busyBlock (s : State) (b : Block) : Bool :=
  s.nctx b ≠ 0 || (match b with
    | .leaf _ => false
    | .first i => (s.activeParts true).any fun p => p.parent = i)

/-- The first failing check of a command: its REASON, 0 for none (R90). -/
def State.pcmdReason (s : State) (b : Block) (r : Requester) (cmd : Nat) : Nat :=
  let g := s.staged b r
  let p := s.part b
  let isLeaf := match b with | .leaf _ => true | .first _ => false
  if r.acts = .D && isLeaf && !s.holds r rightCreateSub then 6
  else if cmd ≠ 2 && !g.inRange then 1
  else if cmd = 1 && !s.insideParent b g then 3
  else if cmd = 1 && s.overlaps b g then 2
  else if cmd ≠ 2 && !s.withinRights b g then 4
  else if cmd = 3 && (g.base ≠ p.base || g.len ≠ p.len || (isLeaf && g.parent ≠ p.parent)) then 1
  else if cmd = 2 && s.busyBlock b then 5
  else 0

/-! ## The commands (R90, R91, R93, R94) -/

/-- A halted context runs on from DBGPC (R406). -/
def Ctx.resume (c : Ctx) : Ctx :=
  match c.halt with
  | none => c
  | some h => { c with halt := none, pc := if h.halted then h.pc.getD c.pc else c.pc }

/-- A debug session ends: its halted contexts resume (R94, R406). -/
def State.endSession (s : State) (f : Nat) : State :=
  ({ s with sessions := s.sessions.filter fun x => x ≠ f } : State).mapIf
    (fun c => (c.halt.map fun h => h.session) = some f) Ctx.resume

/-- The new mask of a leaf takes effect: interrupt 19 at T when it lost a right, and its debug session ends with DEBUG
(R93, R94). -/
def State.narrowLeaf (s : State) (j : Nat) (m : BitVec 10) : State :=
  let p := s.part (.leaf j)
  let t := s.setPart { p with rights := m }
  let t := if p.rights &&& ~~~m ≠ 0 then t.irqWhere (fun c => c.leaf = j) 19 .T (m.setWidth 64) else t
  if m.getLsbD rightDebug then t else t.endSession (17 + j)

/-- The queues of a leaf lose their registrations (R93). -/
def State.unregisterRange (s : State) (p : Part) : State :=
  { s with queues := s.queues.map fun x => if p.hasQueue x.q then x.unregister else x }

/-- Leaves below a first-level span. -/
def State.leavesOf (s : State) (i : Nat) : List Part :=
  s.parts.filter fun p => (match p.blk with | .leaf _ => true | .first _ => false) && p.st ≠ .free && p.parent = i

/-- Command 3 on a first-level span narrows every leaf below it in the same step (R93). -/
def State.narrowBelow (s : State) (i : Nat) : State :=
  let up := s.part (.first i)
  (s.leavesOf i).foldl (fun s p =>
    let t := s.narrowLeaf p.blk.num (p.rights &&& up.rights)
    if p.qcnt = 0 || (up.qfirst ≤ p.qfirst && p.qfirst + p.qcnt ≤ up.qfirst + up.qcnt) then t
    else t.unregisterRange p) s

/-- Command 1 passed (R90, R91). -/
def State.createSpan (s : State) (b : Block) (r : Requester) : State :=
  let g := s.staged b r
  let t := s.setPart ⟨b, .active, g.base, g.len, g.parent, g.rights, g.qfirst, g.qcnt, 0⟩
  t.setReg (blockAddr b) (putFld (s.reg (blockAddr b)) 31 28 g.parent)

/-- Command 3 passed (R90, R93). -/
def State.applySpan (s : State) (b : Block) (r : Requester) : State :=
  let g := s.staged b r
  let p := s.part b
  let t := s.setPart { p with qfirst := g.qfirst, qcnt := g.qcnt, reason := 0 }
  match b with
  | .leaf j => t.narrowLeaf j g.rights
  | .first i =>
    let u := t.setPart { t.part b with rights := g.rights }
    let u := if p.rights &&& ~~~g.rights ≠ 0 then u.irqWhere (fun c => c.fl = i) 19 .D (g.rights.setWidth 64) else u
    (if g.rights.getLsbD rightDebug then u else u.endSession (1 + i)).narrowBelow i

/-- A write of `cmd` to PCMD by a requester (R90): discarded out of reach, ignored in the wrong state and before boot has opened the P
function (R401). -/
def State.pcmd (s : State) (b : Block) (r : Requester) (cmd : Nat) : State :=
  let p := s.part b
  let ready := match cmd with | 1 => p.st = .free | 2 => p.st = .active | 3 => p.st = .active | _ => false
  if !(s.sol.boot = .done && s.writesBlock b r && ready) then s
  else
    let why := s.pcmdReason b r cmd
    if why ≠ 0 then s.setPart { p with reason := why }
    else
      match cmd with
      | 1 => s.createSpan b r
      | 2 => s.setPart { p with st := .changing, reason := 0 }
      | _ => s.applySpan b r

/-- PCMD_CREATE: 1 is written to PCMD (R90). -/
def execPcmdCreate (blk : Block) (r : Requester) (s : State) : Result := .next (s.pcmd blk r 1)

/-- PCMD_DESTROY: 2 is written to PCMD (R91). -/
def execPcmdDestroy (blk : Block) (r : Requester) (s : State) : Result := .next (s.pcmd blk r 2)

/-- PCMD_APPLY: 3 is written to PCMD (R93). -/
def execPcmdApply (blk : Block) (r : Requester) (s : State) : Result := .next (s.pcmd blk r 3)

/-- A place lies in the scratch of a site of the interval (R106, R125). -/
def inScratch (base len a : Nat) : Bool :=
  let h := (a - siteBase) / 0x400000
  let o := (a - siteBase) % 0x400000
  isSiteWindow a && decide (0x200000 ≤ o) && decide (base ≤ h) && decide (h < base + len)

/-- Memory with the cells that `p` picks back to what an unwritten byte reads. -/
def State.discard (s : State) (p : Nat → Bool) : State := { s with mem := s.mem.filter fun c => !p c.1 }

/-- What a span's slices hold at its destroy: dirty lines are written back, then every line and scratch way is discarded (R91). -/
def State.clearSpan (s : State) (p : Part) : State :=
  (s.sliceFlush fun h => decide (p.base ≤ h) && decide (h < p.base + p.len)).discard (inScratch p.base p.len)

/-- SPAN_DESTROY_COMPLETE: the slices have written back and discarded; the span is FREE (R91). A first-level span waits for the
leaves below it that are CHANGING. -/
def execSpanDestroyComplete (blk : Block) (s : State) : Result :=
  let p := s.part blk
  if p.st ≠ .changing then .next s
  else
    let t := (s.clearSpan p).setPart { p with st := .free }
    match blk with
    | .first i => .next (if (s.leavesOf i).isEmpty then t else s)
    | .leaf j => .next { t with ways := t.ways.filter fun w => w.leaf ≠ j }

/-! ## Quotas (R310) -/

/-- The staged quotas of a leaf: REQ, RPY, PRD, STR. -/
def State.stagedQuotas (s : State) (j : Nat) : List Nat := (List.range 4).map fun i => fld (s.reg (qosBlock j + 8 * i)) 12 0

/-- Quotas in force of every other leaf, with its span, and the staged ones of leaf `j`. -/
def State.allQuotas (s : State) (j : Nat) : List (Nat × Nat × List Nat) :=
  ((s.part (.leaf j)).base, (s.part (.leaf j)).len, s.stagedQuotas j) ::
    ((s.activeParts true).filter fun p => p.blk ≠ .leaf j).map fun p =>
      let q := s.quotas p.blk.num
      (p.base, p.len, [q.req, q.rpy, q.prd, q.str])

/-- 1 is written to QOSCMD by a requester (R310): P, or D for a leaf of its own under QOS. -/
def State.qosCommand (s : State) (j : Nat) (r : Requester) : State :=
  let q := s.quotas j
  let v := s.stagedQuotas j
  if !(s.ownsLeaf r j && (r.acts = .P || r.acts = .D)) then s
  else if !s.holds r rightQos then s.setQuotas { q with reason := 3 }
  else if v.any fun x => x < 32 || 4096 < x then s.setQuotas { q with reason := 1 }
  else if Config.overcommitted (s.allQuotas j) then s.setQuotas { q with reason := 2 }
  else s.setQuotas ⟨j, v.getD 0 32, v.getD 1 32, v.getD 2 32, v.getD 3 32, 0⟩

/-- QOSCMD_APPLY: 1 is written to QOSCMD (R310). -/
def execQoscmdApply (leaf : Nat) (r : Requester) (s : State) : Result := .next (s.qosCommand leaf r)

end Sys2Proof.Machine
end

