-- ==== Sys2Proof/Machine/Launch.lean ====
section
/-! DEFINITION. Launch queues, packets, code objects and the placing of kernels (R36 to R39, R65 to R78, R95 to R102, R390,
R391, R428, R430). -/

namespace Sys2Proof.Machine

/-! ## Registration and the doorbell (R67 to R69) -/

/-- Every page of a ring translates for reading (R67). -/
def State.ringMapped (s : State) (cl : Client) (base bytes : Nat) : Bool :=
  (List.range (bytes / 4096)).all fun i =>
    match s.unitPlace cl .load (base + 4096 * i) 4096 with
    | .ok _ => true
    | .error _ => false

/-- The queue that a registration makes of QBASE and QCFG (R67, R428). -/
def State.registration (s : State) (q : Nat) (r : Requester) : Queue :=
  let cfg := s.reg (queueBlock q + 8)
  let leaf := (s.queueLeaf q).getD r.leaf
  let fl := match s.queueLeaf q with
    | some j => (s.part (.leaf j)).parent
    | none => (s.queueFirst q).getD r.fl
  { Queue.none q with
    st := .active
    base := s.reg (queueBlock q)
    lsz := fld cfg 4 0
    lvl := levelOf (fld cfg 7 6)
    ksub := fld cfg 5 5 = 1
    leaf := leaf
    fl := fl
    fn := r.fn }

/-- The first failing check of a registration: its REASON, 0 for none (R67, R92). -/
def State.registerReason (s : State) (q : Nat) (r : Requester) : Nat :=
  let x := s.registration q r
  let lvl := fld (s.reg (queueBlock q + 8)) 7 6
  if x.base.toNat % 4096 ≠ 0 then 1
  else if x.lsz < 6 || 16 < x.lsz then 3
  else if lvl = 0 || r.acts.rank < lvl || !s.holds r rightQueues then 4
  else if !s.ringMapped (s.queueClient x) x.base.toNat (64 * x.size) then 2
  else 0

/-- A number above 4,095, of the residue `q`, that no queue record holds. -/
def State.spareQueue (s : State) (q : Nat) : Nat :=
  (((List.range (s.queues.length + 1)).map fun i => q + 4096 * (i + 1)).find? fun n => s.queues.all fun y => y.q ≠ n).getD (q + 4096)

/-- The packets that an earlier registration consumed run on under a number of their own, whose indices the new registration
cannot meet (R67). -/
def State.detach (s : State) (q : Nat) : State :=
  if (s.queue q).packets.isEmpty then s
  else
    let n := s.spareQueue q
    let ref := fun (p : Nat × BitVec 32) => if p.1 = q then (n, p.2) else p
    { s with
      queues := s.queues.map fun y => if y.q = q then { y.unregister with q := n } else y
      ready := s.ready.map fun e => { e with packet := e.packet.map ref }
      placing := s.placing.map fun e => match e.src with
        | .packet a i => { e with src := .packet (if a = q then n else a) i }
        | .node _ => e
      kernels := s.kernels.map fun k => { k with queue := k.queue.map ref }
      nodes := s.nodes.map fun m => { m with graph := m.graph.map ref } }

/-- 1 or 2 is written to QCMD (R65, R67); packets already consumed run on. -/
def State.queueCommand (s : State) (q : Nat) (r : Requester) (cmd : Nat) : State :=
  let x := s.queue q
  if !s.reachesQueue r q then s
  else if cmd = 1 then
    let why := s.registerReason q r
    if why = 0 then (s.detach q).setQueue (s.registration q r)
    else s.setQueue { x.unregister with reason := why }
  else if cmd = 2 then s.setQueue x.unregister
  else s

/-- QCMD_REGISTER: 1 is written to QCMD (R67). -/
def execQcmdRegister (q : Nat) (r : Requester) (s : State) : Result := .next (s.queueCommand q r 1)

/-- QCMD_UNREGISTER: 2 is written to QCMD (R67). -/
def execQcmdUnregister (q : Nat) (r : Requester) (s : State) : Result := .next (s.queueCommand q r 2)

/-- R394: entry `i` of a function's interrupt message table sends its host write, unless masked. -/
def State.interruptMessage (s : State) (f i : Nat) : State :=
  let e := windowAddr f (0x40000 + 16 * i)
  let a := (s.reg e).toNat
  let d := s.reg (e + 8)
  if d.getLsbD 32 || 2 ^ 46 ≤ a then s else s.store (0x400000000000 + a) 4 (fld d 31 0)

/-- R69: a queue enters ERROR, with interrupt 20 for its leaf's or its first-level span's contexts, and the window's message where
it is fed through a window. -/
def State.queueError (s : State) (x : Queue) (reason : Nat) (idx : BitVec 32) : State :=
  let t := s.setQueue { x with st := .error, reason := reason, erridx := idx }
  let u := match s.queueLeaf x.q, s.queueFirst x.q with
    | some j, _ => t.irqWhere (fun c => c.leaf = j) 20 x.lvl (toWord x.q)
    | none, some i => t.irqWhere (fun c => c.fl = i) 20 x.lvl (toWord x.q)
    | none, none => t
  if x.fed then u.interruptMessage x.fn ((x.q - s.functionFirst x.fn) % 64) else u

/-- A doorbell of a queue comes through a function window (R69). -/
def State.feed (s : State) (q : Nat) : State :=
  if (s.queue q).st = .unreg then s else s.setQueue { s.queue q with fed := true }

/-- R68: `n` is written to QWIDX. -/
def State.doorbell (s : State) (q : Nat) (n : BitVec 32) : State :=
  let x := s.queue q
  if x.st ≠ .active || n = x.widx then s
  else if x.size < (n - x.widx).toNat || x.size < (n - x.ridx).toNat then s.queueError x 5 n
  else s.setQueue { x with widx := n }

/-- QWIDX_WRITE: a doorbell from outside, of a requester that reaches the queue (R65, R68). It comes through a function window and feeds
the queue by it (R69, R394): DESIGN CHOICE (137), a context's doorbell is a store and a peer's a row of its own. -/
def execQwidxWrite (q : Nat) (n : BitVec 32) (r : Requester) (s : State) : Result :=
  .next (if s.reachesQueue r q then (s.feed q).doorbell q n else s)

/-! ## Completion and cancel (R74, R77) -/

/-- The completion signal and REL of a packet. -/
def pktSig (b : BitVec 512) : Word := toWord (fld b 383 320)

/-- A packet completes: it leaves its queue, and its signal is written (R74, R75). -/
def State.completePacket (s : State) (q : Nat) (p : Packet) (status : Nat) : State :=
  let x := s.queue q
  (s.setQueue { x with packets := x.packets.filter fun e => e.idx ≠ p.idx }).signal (s.queueClient x) (pktSig p.bytes) status p.idx

/-- A packet of a queue changed by `f`. -/
def State.mapPacket (s : State) (q : Nat) (i : BitVec 32) (f : Packet → Packet) : State :=
  let x := s.queue q
  s.setQueue { x with packets := x.packets.map fun p => if p.idx = i then f p else p }

/-- The packet is dispatched: a GRAPH that waits for its arming walk is, and a KERNEL that waits for its span is not (R72, R73). -/
def Packet.dispatched (p : Packet) : Bool := p.st = .running || (p.st = .placing && pktKind p.bytes = 2)

/-- A stop is asked of a dispatched packet, and of the running nodes of a graph (R77, R327). -/
def State.stopPacket (s : State) (q : Nat) (n : BitVec 32) : State :=
  ({ s with nodes := s.nodes.map fun m => if m.graph = some (q, n) then { m with stop := true } else m } : State).mapPacket q n
    fun p => { p with stop := true }

/-- R77: a packet of the ring that is not consumed yet is cancelled: its signal reads CANCELLED now, and the fetch passes over it. -/
def State.cancelAhead (s : State) (x : Queue) (n : BitVec 32) : State :=
  let t := s.setQueue { x with cancelled := n :: x.cancelled }
  match s.unitRead (s.queueClient x) (x.base.toNat + 64 * (n.toNat % x.size)) 64 with
  | .ok v => t.signal (s.queueClient x) (pktSig (BitVec.ofNat 512 v)) 1 n
  | .error f => t.unitRas x.leaf f

/-- R77: the index of a packet is written to QCANCEL. -/
def State.cancelPacket (s : State) (q : Nat) (n : BitVec 32) : State :=
  let x := s.queue q
  match x.packets.find? fun p => p.idx = n with
  | some p =>
    if p.dispatched then s.stopPacket q n
    else
      ({ s with
        ready := s.ready.filter fun e => e.packet ≠ some (q, n)
        placing := s.placing.filter fun e => e.src ≠ .packet q n } : State).completePacket q p 1
  | none =>
    if x.st ≠ .unreg && (n - x.ridx).toNat < (x.widx - x.ridx).toNat && !x.cancelled.contains n then s.cancelAhead x n
    else s

/-- QCANCEL_WRITE (R77). -/
def execQcancelWrite (q : Nat) (n : BitVec 32) (r : Requester) (s : State) : Result :=
  .next (if s.reachesQueue r q then s.cancelPacket q n else s)

/-! ## Checking a packet (R71, R73) -/

/-- A little-endian field of an image: `n` bytes at offset `o`. -/
def bytesAt (v o n : Nat) : Nat := (v >>> (8 * o)) % 2 ^ (8 * n)

/-- What a KERNEL packet alone is checked for (R71, R73): `true` when it is in order. -/
def kernelPacketOk (b : BitVec 512) : Bool :=
  let v := b.toNat
  decide (1 ≤ fld b 26 16) && decide (fld b 26 16 ≤ 1024) && decide (bytesAt v 4 4 ≤ 2 ^ 24) &&
    decide (4 ≤ bytesAt v 34 1) && decide (bytesAt v 34 1 ≤ 64) && decide (4 ≤ bytesAt v 35 1) && decide (bytesAt v 35 1 ≤ 16)

/-- The fields of KERNEL alone are zero (R71). -/
def kernelFieldsZero (b : BitVec 512) : Bool :=
  let v := b.toNat
  fld b 26 16 = 0 && bytesAt v 4 4 = 0 && bytesAt v 24 8 = 0 && bytesAt v 32 2 = 0 && bytesAt v 34 2 = 0 && bytesAt v 36 2 = 0

/-- R73, first row: KIND, the reserved and unused fields, the ranges and the alignment of SIG and of a target. -/
def packetOk (b : BitVec 512) : Bool :=
  let v := b.toNat
  let reserved := fld b 7 7 = 0 && fld b 15 12 = 0 && fld b 31 27 = 0 && bytesAt v 14 2 = 0 && bytesAt v 38 2 = 0 &&
    bytesAt v 48 16 = 0 && bytesAt v 40 8 % 8 = 0
  reserved &&
  match pktKind b with
  | 1 => kernelPacketOk b
  | 2 => kernelFieldsZero b && bytesAt v 16 8 = 0
  | 3 => kernelFieldsZero b && bytesAt v 8 8 = 0 && bytesAt v 16 8 = 0
  | 4 => kernelFieldsZero b && bytesAt v 8 8 % 8 = 0
  | _ => false

/-! ## Code objects (R36 to R39) -/

/-- Why a kernel cannot be placed: a read failed, or a status of R74. -/
inductive PlanFail where
  | fetch (f : WalkFail)
  | status (code : Nat)
  deriving DecidableEq, Repr

/-- A read of the walker while it checks a packet: a failed translation is a failed packet fetch (R39, R69, R100). The spec says so
of the descriptor and of the group table; that the section table and the handler table count with the descriptor they belong to is
a DESIGN CHOICE (90). -/
def State.planRead (s : State) (cl : Client) (va n : Nat) : Except PlanFail Nat :=
  (s.unitRead cl va n).mapError .fetch

/-- R36, R39: the descriptor's own fields. -/
def descriptorOk (d : Nat) : Bool :=
  bytesAt d 0 4 = 0x4B4C4E4D && bytesAt d 4 2 = 1 && bytesAt d 6 2 ≤ 1 && bytesAt d 22 2 = 0 && bytesAt d 47 1 = 0 &&
    bytesAt d 88 40 = 0 && 1 ≤ bytesAt d 20 2 && bytesAt d 20 2 ≤ 16 && bytesAt d 36 2 ≤ 256 && bytesAt d 38 2 ≤ 64 &&
    1 ≤ bytesAt d 45 1 && 1 ≤ bytesAt d 46 1 && bytesAt d 46 1 ≤ 8

/-- A section (R37). -/
structure Section where
  offset : Nat
  fsize : Nat
  msize : Nat
  kind : Nat
  ok : Bool
  deriving DecidableEq, Repr

/-- Entry `i` of a section table image (R37), within an object of `size` bytes. -/
def sectionAt (tab i size : Nat) : Section :=
  let e := bytesAt tab (32 * i) 32
  let o := bytesAt e 16 4
  let m := bytesAt e 24 4
  ⟨o, bytesAt e 20 4, m, bytesAt e 28 1,
    o % 4096 = 0 && bytesAt e 20 4 ≤ m && o + m ≤ size && bytesAt e 28 1 ≤ 2 && 2 ≤ bytesAt e 29 1 && bytesAt e 29 1 ≤ 12 &&
      bytesAt e 30 2 = 0⟩

/-- No two sections of a list overlap (R37). -/
def disjointSections : List Section → Bool
  | [] => true
  | a :: r => (r.all fun b => a.msize = 0 || b.msize = 0 || a.offset + a.msize ≤ b.offset || b.offset + b.msize ≤ a.offset) &&
      disjointSections r

/-- An offset that is 4-aligned and inside a text section (R36, R38). -/
def inText (ss : List Section) (o : Nat) : Bool :=
  o % 4 = 0 && ss.any fun a => a.kind = 0 && a.offset ≤ o && o < a.offset + a.msize

/-- Every valid handler's offset lies in text (R38, R39). -/
def handlersOk (ss : List Section) (tab n : Nat) : Bool :=
  (List.range n).all fun i => bytesAt tab (8 * i + 4) 1 % 2 = 0 || inText ss (bytesAt tab (8 * i) 4)

/-- R39: the descriptor of a code object that passes its check. What a failed translation of its tables does is log entry 90. -/
def State.checkObject (s : State) (cl : Client) (obj : Nat) : Except PlanFail Nat := do
  if obj % 4096 ≠ 0 then throw (.status 2)
  let d ← s.planRead cl obj 128
  if !descriptorOk d then throw (.status 2)
  let nsect := bytesAt d 20 2
  let tab ← s.planRead cl (obj + bytesAt d 24 4) (32 * nsect)
  let ss := (List.range nsect).map fun i => sectionAt tab i (bytesAt d 8 8)
  if !(ss.all (·.ok) && disjointSections ss && inText ss (bytesAt d 16 4)) then throw (.status 2)
  let nhnd := bytesAt d 36 2
  if nhnd = 0 || bytesAt d 32 4 = 0 then return d
  let hnd ← s.planRead cl (obj + bytesAt d 32 4) (8 * nhnd)
  if handlersOk ss hnd nhnd then return d
  throw (.status 2)

/-! ## Partition word and groups (R96, R99, R100) -/

/-- REG, ACC and SCR of a partition word (R96). -/
def regBanksOf (w : BitVec 16) : Nat := fld w 3 0
def accBanksOf (w : BitVec 16) : Nat := fld w 7 4
def scrBanksOf (w : BitVec 16) : Nat :=
  if fld w 11 8 = 0 then 16 - regBanksOf w - accBanksOf w else fld w 11 8

/-- T of R96. -/
def banksOf (w : BitVec 16) : Nat := regBanksOf w + accBanksOf w + scrBanksOf w

/-- R96: the word keeps its limits and the descriptor's minima. -/
def pwordOk (w : BitVec 16) (d : Nat) : Bool :=
  decide (1 ≤ regBanksOf w) && decide (regBanksOf w ≤ 8) && decide (accBanksOf w ≤ 12) && decide (banksOf w ≤ 16) &&
    decide (1 ≤ scrBanksOf w) && decide (bytesAt d 46 1 ≤ regBanksOf w) && decide (bytesAt d 44 1 ≤ accBanksOf w) &&
    decide (bytesAt d 45 1 ≤ scrBanksOf w)

/-- The word with SCR resolved (R102); 16 banks of SCR cannot occur, since REG is at least 1. -/
def resolvedPword (w : BitVec 16) : BitVec 16 := putFld w 11 8 (scrBanksOf w)

/-- A group entry in order for a kernel of `cores` (R99, R100). A nonzero entry with V = 0 breaks R99 and ends no table: DESIGN
CHOICE (91), the field table says that V = 0 ends the table and the text that an all-zero entry does. -/
def groupOk (w cores : Nat) : Option Group :=
  let g : Group := ⟨w % 1024, (w >>> 10) % 2048, (w >>> 21) % 1024, 0, 0⟩
  if (w >>> 31) % 2 = 1 && 1 ≤ g.count && g.count ≤ 1024 && (g.stride ≠ 0 || g.count = 1) &&
      g.first + (g.count - 1) * g.stride < cores then some g
  else none

/-- R99, R100: the group table from entry `i` on; `fuel` counts the entries left, the 257th among them. That the 257th word is read,
so that it ends the table where it is zero, is a DESIGN CHOICE (92): R99 ends the table after 256 entries, and R100 fails a 257th
that is reached without a terminator. -/
def State.readGroups (s : State) (cl : Client) (addr cores : Nat) : Nat → Nat → Except PlanFail (List Group)
  | 0, _ => .error (.status 3)
  | fuel + 1, i => do
    let w ← s.planRead cl (addr + 4 * i) 4
    if w = 0 then return []
    if fuel = 0 then throw (.status 3)
    match groupOk w cores with
    | none => throw (.status 3)
    | some g => do
      let rest ← s.readGroups cl addr cores fuel (i + 1)
      return g :: rest

/-- Position `n` is a member of a group (R99). -/
def Group.hasMember (g : Group) (n : Nat) : Bool :=
  if g.stride = 0 then n = g.first else g.first ≤ n && (n - g.first) % g.stride = 0 && (n - g.first) / g.stride < g.count

/-- The numbers of the groups that a position belongs to. -/
def groupsOf (gs : List Group) (n : Nat) : List Nat := (List.range gs.length).filter fun i => (gs[i]?).any fun g => g.hasMember n

/-- R71, R73, R96, R99, R100: what a KERNEL packet asks for, for the leaf it is placed in, or why it fails. -/
def State.plan (s : State) (cl : Client) (leaf : Nat) (b : BitVec 512) : Except PlanFail KernelPlan := do
  let v := b.toNat
  let cores := fld b 26 16
  if (s.part (.leaf leaf)).len < cores then throw (.status 3)
  let obj := bytesAt v 8 8
  let d ← s.checkObject cl obj
  let thread := bytesAt d 6 2 % 2 = 1
  let wdog := if bytesAt d 52 4 ≠ 0 then bytesAt d 52 4 else bytesAt v 4 4
  if wdog = 0 && !thread then throw (.status 3)
  let pw := BitVec.ofNat 16 (bytesAt v 32 2)
  if !pwordOk pw d then throw (.status 3)
  let gaddr := bytesAt v 24 8
  if gaddr % 64 ≠ 0 then throw (.status 3)
  let gs ← if gaddr = 0 then pure [] else s.readGroups cl gaddr cores 257 0
  if (List.range cores).any fun n => 4 < (groupsOf gs n).length then throw (.status 3)
  let table := fun (off n shift : Nat) => if off = 0 then (0 : Word) else toWord ((obj + off) / 8 * 8 + n * 2 ^ shift)
  return { cores := cores, wdog := if thread then 0 else wdog, obj := toWord obj, args := toWord (bytesAt v 16 8),
           sig := pktSig b, pword := pw, mbox := bytesAt v 34 1, swin := bytesAt v 35 1, trigN := bytesAt v 36 2,
           acq := fld b 9 8, rel := fld b 11 10, entry := bytesAt d 16 4, thread := thread, scratch := bytesAt d 48 4,
           hndtab := table (bytesAt d 32 4) (bytesAt d 36 2) 55, xtab := table (bytesAt d 40 4) (bytesAt d 38 2) 57,
           groups := gs }

/-! ## Fetching a packet (R69 to R73) -/

/-- The packet at the head counts as consumed. -/
def State.passHead (s : State) (x : Queue) : State :=
  s.setQueue { x with ridx := x.ridx + 1, cancelled := x.cancelled.filter fun i => i ≠ x.ridx }

/-- A packet fetched from its slot fails with a status: it counts as consumed and its signal is written (R73). -/
def State.finishAtHead (s : State) (x : Queue) (b : BitVec 512) (status : Nat) : State :=
  (s.passHead x).signal (s.queueClient x) (pktSig b) status x.ridx

/-- The fetch of a packet fails: the queue enters ERROR (R69); an error at the place is reported too (R395). -/
def State.fetchFails (s : State) (x : Queue) (f : WalkFail) : State := (s.unitRas x.leaf f).queueError x 6 x.ridx

/-- A packet passes its checks: it is consumed, and enters the ready pool of its leaf (R72, R428). -/
def State.consume (s : State) (x : Queue) (b : BitVec 512) (plan : Option KernelPlan) : State :=
  let t := s.setQueue { x with ridx := x.ridx + 1, packets := x.packets ++ [⟨x.ridx, b, .ready, none, plan, false, false⟩] }
  match s.queueLeaf x.q with
  | none => t
  | some j => t.addReady ⟨j, some (x.q, x.ridx), 0, 0, 0, fld b 6 5, 0, 0, 0, false⟩

/-- PACKET_FETCH: the walker reads and checks the packet at the head (R39, R70 to R73), and passes over one that is cancelled (R77). -/
def execPacketFetch (q : Nat) (s : State) : Result :=
  let x := s.queue q
  if x.st ≠ .active || x.ridx = x.widx then .next s
  else if x.cancelled.contains x.ridx then .next (s.passHead x)
  else
    let cl := s.queueClient x
    match s.unitRead cl (x.base.toNat + 64 * (x.ridx.toNat % x.size)) 64 with
    | .error f => .next (s.fetchFails x f)
    | .ok v =>
      let b := BitVec.ofNat 512 v
      if !packetOk b then .next (s.finishAtHead x b 3)
      else if pktKind b ≠ 1 then .next (s.consume x b none)
      else
        match s.queueLeaf q with
        | none => .next (s.finishAtHead x b 3)
        | some j =>
          match s.plan cl j b with
          | .error (.fetch f) => .next (s.fetchFails x f)
          | .error (.status n) => .next (s.finishAtHead x b n)
          | .ok p => .next (s.consume x b (some p))

/-! ## Dispatch (R72, R75, R430) -/

/-- The action of a packet at its dispatch (R72): a KERNEL waits for its span and a GRAPH for its arming walk; a BARRIER
completes; a SIGNAL stores, and completes DONE or FAULTED (R430). -/
def State.dispatchPacket (s : State) (q : Nat) (p : Packet) : State :=
  let x := s.queue q
  match pktKind p.bytes, p.plan with
  | 1, some plan =>
    let t := s.mapPacket q p.idx fun p => { p with st := .placing }
    { t with placing := t.placing ++ [⟨(s.queueLeaf q).getD x.leaf, .packet q p.idx, x.lvl, plan⟩] }
  | 3, _ => s.completePacket q p 0
  | 4, _ =>
    let a := bytesAt p.bytes.toNat 8 8
    match s.walkerStore (s.queueClient x) 0 a (toWord (bytesAt p.bytes.toNat 16 8)) with
    | .ok t => t.completePacket q p 0
    | .error why => (if why.reported then s.walkerRas x.leaf (toWord a) else s).completePacket q p 4
  | _, _ => s.mapPacket q p.idx fun p => { p with st := .placing }

/-- PACKET_DISPATCH: the queue's next packet, when it is the entry that its leaf's next decision takes (R72, R75, R320);
a queue without a leaf has no pool, and the queues of one walker go by their packets' priority (R428). -/
def execPacketDispatch (q : Nat) (s : State) : Result :=
  match s.nextPacket (s.queue q) with
  | none => .next s
  | some p =>
    match s.queueLeaf q with
    | none => .next (if s.leaflessAhead q p then s else s.dispatchPacket q p)
    | some j =>
      match s.pick j with
      | none => .next s
      | some e => if e.packet = some (q, p.idx) then .next ((s.takeEntry e).dispatchPacket q p) else .next s

/-! ## Spans and banks (R95, R97) -/

/-- The bank is in use at a site, or retired (R97, R384). -/
def State.bankTaken (s : State) (h b : Nat) : Bool :=
  (s.atSite h).any (fun c => c.banks.contains b) || s.sol.retired.contains (.bank h b)

/-- Free pool banks of a site, lowest first. -/
def State.freeBanks (s : State) (h : Nat) : List Nat := (List.range 16).filter fun b => !s.bankTaken h b

/-- R97: the physical banks of T logical banks, in order; physical bank 15, while free, is always the last one. -/
def State.takeBanks (s : State) (h t : Nat) : List Nat :=
  let free := s.freeBanks h
  if free.contains 15 then (free.filter (· ≠ 15)).take (t - 1) ++ [15] else free.take t

/-- The lowest free context slot of a site. -/
def State.freeSlot (s : State) (h : Nat) : Option Nat := (List.range 8).find? fun i => (s.ctx? ⟨h, i⟩).isNone

/-- A site has a slot and T banks for one more context (R95). That a retired bank is not free and a retired site has no room is a
DESIGN CHOICE (93): R95 names a free slot and free banks alone. -/
def State.hasRoom (s : State) (h t : Nat) : Bool :=
  (s.freeSlot h).isSome && decide (t ≤ (s.freeBanks h).length) && !s.siteLost h

/-- R95: the lowest base that fits, as a Hilbert index. A kernel whose leaf is not ACTIVE any more waits on, and is placed in the
span that the leaf is given next: DESIGN CHOICE (94), the spec does not say what becomes of it. -/
def State.firstFit (s : State) (leaf cores t : Nat) : Option Nat :=
  let p := s.part (.leaf leaf)
  if p.st ≠ .active then none
  else ((List.range (p.len + 1 - cores)).map (p.base + ·)).find? fun b => (List.range cores).all fun i => s.hasRoom (b + i) t

/-! ## Starting a context (R31, R76, R99, R102, R133, R180, R285, R354, R379) -/

/-- The identity CSRs of a context at its place (R102). -/
def identOf (h rel kbase klen lbase llen kid fl leaf slot : Nat) (pw : BitVec 16) (gs : List Nat) : Ident :=
  let (x, y) := hilbertXY h
  { hid := toWord (h + rel * 2 ^ 10 + h / 256 * 2 ^ 20 + x * 2 ^ 24 + y * 2 ^ 32)
    kspan := toWord (kbase + klen * 2 ^ 10 + lbase * 2 ^ 32 + llen * 2 ^ 42)
    pword := (resolvedPword pw).setWidth 64
    ctxid := toWord (slot + leaf * 2 ^ 8 + fl * 2 ^ 16 + kid * 2 ^ 32)
    gset := toWord ((List.range 4).foldl (fun acc i => acc + (gs[i]?).getD 0 * 2 ^ (8 * i)) 0 + gs.length * 2 ^ 32) }

/-- The trap CSRs of a context at its start, from the template of its leaf (R354). -/
def State.trapStart (s : State) (leaf : Nat) (l : Level) : TrapRegs :=
  let r := fun o => s.reg (trapTemplate leaf + o)
  match l with
  | .K | .T => { TrapRegs.reset with vec := r 0 }
  | .D => { TrapRegs.reset with vec := r 8, edeleg := r 0x10, ideleg := r 0x18 }
  | .P => { TrapRegs.reset with vec := r 0x20, edeleg := r 0x28, ideleg := r 0x30 }

/-- Workspace pointer values at context start (R76, R133). -/
def wspStart (regBanks accBanks scratch slot : Nat) : WspRegs :=
  let k := ((regBanks + accBanks) * 0x10000 + (scratch + 511) / 512 * 512) / 512
  ⟨toWord (k * 512), toWord ((k + 1) * 512), toWord (2 * slot * 512), toWord ((2 * slot + 1) * 512)⟩

/-- x10 to x13 at launch (R76); every other register is zero. -/
def launchRegs (p : KernelPlan) (pos : Nat) : Vector Word 32 :=
  Vector.ofFn fun i => match i.val with
    | 10 => p.args
    | 11 => toWord pos
    | 12 => toWord p.cores
    | 13 => p.sig
    | _ => 0

/-- The context of position `pos` as it starts. -/
def State.newContext (s : State) (kid leaf base pos slot : Nat) (p : KernelPlan) : Ctx :=
  let l := s.part (.leaf leaf)
  let h := base + pos
  let reg := regBanksOf p.pword
  let acc := accBanksOf p.pword
  let w := wspStart reg acc p.scratch slot
  { Ctx.blank ⟨h, slot⟩ with
    kid := kid
    status := .running
    pc := p.obj + toWord p.entry
    x := launchRegs p pos
    ident := identOf h (h - l.base) (base - l.base) p.cores l.base l.len kid l.parent leaf slot p.pword (groupsOf p.groups pos)
    banks := s.takeBanks h (banksOf p.pword)
    regBanks := reg
    accBanks := acc
    obj := p.obj
    thread := p.thread
    wsp := w
    xtab := p.xtab
    xbase := p.obj
    msg := ⟨p.hndtab, toWord ((fld w.k 19 9 * 8 + 6) * 64), 0, 0, 0, p.mbox, p.swin⟩
    act := some ⟨0, false, none, 0, none⟩
    wdog := ⟨toWord p.wdog, p.wdog, 0⟩
    tt := s.trapStart leaf .T
    td := s.trapStart leaf .D
    tp := s.trapStart leaf .P
    pmsel := Vector.ofFn fun i => s.reg (countTemplate leaf + 8 * i.val) }

/-- The bytes of a K workspace at launch: x1 to x31, and zeros above them (R32, R76). -/
def writeLaunchWorkspace (s : State) (c : Ctx) : State :=
  let base := c.workspace .K
  let t := ((List.range 32).drop 1).foldl (fun s i => s.store (base + 8 * i) 8 (c.getX (BitVec.ofNat 5 i)).toNat) s
  t.store (base + 256) 256 0

/-- A context enters the machine, in place of a free slot's record. -/
def State.addContext (s : State) (c : Ctx) : State :=
  { s with others := (s.others.filter fun o => o.key ≠ c.key || o.status ≠ .free) ++ [c] }

/-- The place lies in an ACC bank of the context. -/
def Ctx.inAcc (c : Ctx) (a : Nat) : Bool :=
  let o := a - siteAddr c.key.h 0
  decide (siteAddr c.key.h 0 ≤ a) && decide (o < 0x100000) &&
    ((c.banks.drop c.regBanks).take c.accBanks).contains (o / 0x10000)

/-- One position of a kernel starts (R76): its ACC banks read zero (R255), its workspace and registers hold what R76 says, and it
acquires. -/
def State.startContext (s : State) (kid leaf base : Nat) (p : KernelPlan) (pos : Nat) : State :=
  let h := base + pos
  let c := s.newContext kid leaf base pos ((s.freeSlot h).getD 0) p
  let t := writeLaunchWorkspace ((s.discard c.inAcc).addContext c) c
  if 1 ≤ p.acq then t.invalidate h else t

/-- Tenants run: not before boot has come to its end, nor in lifecycle state MANUFACTURE (R401, R405). -/
def State.tenantsRun (s : State) : Bool := s.sol.boot = .done && s.sol.lifecycle ≠ .manufacture

/-- A span can take its contexts: tenants run, and its sites are awake (R404). -/
def State.spanReady (s : State) (base cores : Nat) : Bool :=
  s.tenantsRun && (List.range cores).all fun i => s.poweredSite (base + i)

/-- KERNEL_PLACEMENT: the first kernel that waits in a leaf, once a span is free and ready (R95, R404, R405). -/
def execKernelPlacement (leaf : Nat) (s : State) : Result :=
  match s.placing.find? fun e => e.leaf = leaf with
  | none => .next s
  | some e =>
    let p := e.plan
    match (s.firstFit leaf p.cores (banksOf p.pword)).filter (s.spanReady · p.cores) with
    | none => .next s
    | some base =>
      let kid := s.sol.kidNext
      let q := match e.src with | .packet q i => some (q, i) | .node _ => none
      let n := match e.src with | .packet _ _ => none | .node a => some a
      let k : Kernel := ⟨kid, leaf, base, p.cores, p.obj, p.sig, p.rel, e.lvl, q, (q.map (·.2)).getD 0, n, if n.isSome then 0 else p.trigN, 0,
        p.groups, false⟩
      let t := { s with placing := s.placing.erase e, kernels := s.kernels ++ [k],
                        sol := { s.sol with kidNext := kid % (2 ^ 32 - 1) + 1 } }
      let u := match e.src with
        | .packet q i => t.mapPacket q i fun p => { p with st := .running, kid := some kid }
        | .node _ => t
      .next ((List.range p.cores).foldl (fun s pos => s.startContext kid leaf base p pos) u)

/-! ## Ending (R390, R391) -/

/-- The context has ended everything it started (R390 step 1). -/
def State.quiesced (s : State) (c : Ctx) : Bool :=
  (s.copies.all fun x => x.agent ≠ c.key || x.st = .done || x.st = .aborted) &&
    (s.links.all fun x => x.owner ≠ c.key || x.st = .ended) &&
    (c.sends.all fun x => x.st = .accepted || x.st = .refused || x.st = .rejected) && c.log.isEmpty

/-- R390 steps 2 and 3: pins, XOP slots, watch and reservation end; the ACC banks are cleared; the slot and banks are free. -/
def State.retire (s : State) (c : Ctx) : State :=
  let t := { (s.landOf c.key).discard c.inAcc with
    slots := s.slots.filter fun x => x.owner ≠ c.key
    copies := s.copies.filter fun x => x.agent ≠ c.key
    links := s.links.filter fun x => x.owner ≠ c.key
    waiters := s.waiters.filter fun x => x.key ≠ c.key }
  (t.mapCtx c.key fun c => Ctx.blank c.key).resetTables

/-- CONTEXT_RETIRE: a retiring context that has ended everything retires (R390). -/
def execContextRetire (k : Key) (s : State) : Result :=
  match s.ctx? k with
  | none => .next s
  | some c => if c.status = .retiring && s.quiesced c then .next (s.retire c) else .next s

/-- R391: every context has retired, every range node it spawned has finished, and every steal half is settled. -/
def State.kernelOver (s : State) (kid : Nat) : Bool :=
  (s.ctxs.all fun c => c.status = .free || c.kid ≠ kid) &&
    (s.nodes.all fun n => !(n.kid = kid && n.kind = .range && n.spawned)) &&
    (s.steals.all fun x => (s.node? x.node).all fun n => n.kid ≠ kid)

/-- A running migration of the kernel is refused, CANCELLED (R386). -/
def State.cancelFor (s : State) (kid : Nat) : State :=
  { s with migs := s.migs.map fun m =>
      if m.kid = kid && (m.st = .quiesce || m.st = .check || m.st = .transfer) then { m with st := .refused, reason := 5 } else m }

/-- KERNEL_COMPLETE: the release of R76, the signal, and what waits for the kernel (R391). -/
def execKernelComplete (kid : Nat) (s : State) : Result :=
  match s.kernel? kid with
  | none => .next s
  | some k =>
    if !s.kernelOver kid then .next s
    else
      let status := if k.ended then 4 else 0
      let t := ({ s with kernels := s.kernels.filter fun x => x.kid ≠ kid, asks := s.asks.filter fun a => a.kid ≠ kid } : State).cancelFor kid
      let cl := s.clientFor k.lvl k.leaf (s.part (.leaf k.leaf)).parent
      match k.queue, k.node with
      | some (q, i), _ =>
        match (s.queue q).packets.find? fun p => p.idx = i with
        | some p => .next (t.completePacket q p status)
        | none => .next t
      | none, some n =>
        .next ((t.signal cl k.sig status 0).mapNode n fun m =>
          { m with outcome := some (if k.ended then 2 else 0, status) })
      | none, none => .next (t.signal cl k.sig status k.idx)

end Sys2Proof.Machine
end

