-- ==== Sys2Proof/Machine/VectorInt.lean ====
section
/-! DEFINITION. VINT: integer vector instructions (R156 to R159). -/

namespace Sys2Proof.Machine

/-- The tags VAND, VOR and VXOR accept (R158). -/
def intOrBits (t : Tag) : Bool := isInt t || t = 1

/-- The body of VINT (R158): every enabled element combined with operand b, IO when one set it. -/
def vint (s : State) (ok : Tag → Bool) (pg : BitVec 3) (b a : BitVec 5) (f : BitVec 2) (d : BitVec 5)
    (op : Nat → Nat → Nat → Nat × Bool) : Try State := do
  let x ← s.vSource a ok
  let (y, u) ← s.operandB f x.tag b
  let en := enabledBy (s.getP pg)
  let res := fun i => op (tagWidth x.tag) (x.elem i) (y i)
  let io := (List.range (tagElems x.tag)).any fun i => en i && (res i).2
  return ((u.setV d (mergeV (s.getV d) x.tag en fun i => (res i).1)).addFlags (if io then flagIO else 0)).advanceV

/-- The body of the comparisons (R159, R161): bit i of p[d] for each element, no predicate, the other bits 0. -/
def vcompare (s : State) (ok : Tag → Bool) (b a : BitVec 5) (f : BitVec 2) (d : BitVec 5)
    (cond : Tag → Nat → Nat → Bool × VFlags) : Try State := do
  let x ← s.vSource a ok
  let (y, u) ← s.operandB f x.tag b
  let n := tagElems x.tag
  let res := fun i => cond x.tag (x.elem i) (y i)
  let bits := packElems 1 (fun i => if (res i).1 then 1 else 0) n
  let fl := (List.range n).foldl (fun acc i => acc ||| (res i).2) 0
  return ((u.setP (d.setWidth 3) (BitVec.ofNat 128 bits)).addFlags fl).advanceV

/-- The conditions of VCMP (R159). -/
def intCond (w cond x y : Nat) : Bool :=
  let sx := bitsInt w false x
  let sy := bitsInt w false y
  match cond with
  | 0 => x = y
  | 1 => x ≠ y
  | 2 => sx < sy
  | 3 => sy ≤ sx
  | 4 => x < y
  | 5 => y ≤ x
  | 6 => sy < sx
  | _ => y < x

/-- a + b held within the range of the reading, and whether it was (R158). -/
def satAdd (w : Nat) (uns : Bool) (x y : Nat) : Nat × Bool :=
  let v := bitsInt w uns x + bitsInt w uns y
  let (lo, hi) := intRange w uns
  let r := max lo (min hi v)
  (intBits w r, r ≠ v)

/-- VADD: wrap(a + b) (R158). -/
def execVadd (pg : BitVec 3) (b : BitVec 5) (a : BitVec 5) (f : BitVec 2) (d : BitVec 5) (s : State) : Result :=
  s.finish (vint s isInt pg b a f d fun _ x y => (x + y, false))

/-- VSUB: wrap(a − b) (R158). -/
def execVsub (pg : BitVec 3) (b : BitVec 5) (a : BitVec 5) (f : BitVec 2) (d : BitVec 5) (s : State) : Result :=
  s.finish (vint s isInt pg b a f d fun w x y => (x + (2 ^ w - y), false))

/-- VMUL: the low bits of the product (R158). -/
def execVmul (pg : BitVec 3) (b : BitVec 5) (a : BitVec 5) (f : BitVec 2) (d : BitVec 5) (s : State) : Result :=
  s.finish (vint s isInt pg b a f d fun _ x y => (x * y, false))

/-- VMULH: the high bits of the product; s = 1 reads unsigned (R158). -/
def execVmulh (pg : BitVec 3) (b : BitVec 5) (a : BitVec 5) (s : BitVec 1) (f : BitVec 2) (d : BitVec 5) (st : State) : Result :=
  st.finish (vint st isInt pg b a f d fun w x y => (intBits w (bitsInt w (s = 1) x * bitsInt w (s = 1) y / 2 ^ w), false))

/-- VMIN: the smaller; s = 1 reads unsigned (R158). -/
def execVmin (pg : BitVec 3) (b : BitVec 5) (a : BitVec 5) (s : BitVec 1) (f : BitVec 2) (d : BitVec 5) (st : State) : Result :=
  st.finish (vint st isInt pg b a f d fun w x y => (if bitsInt w (s = 1) x ≤ bitsInt w (s = 1) y then x else y, false))

/-- VMAX: the larger; s = 1 reads unsigned (R158). -/
def execVmax (pg : BitVec 3) (b : BitVec 5) (a : BitVec 5) (s : BitVec 1) (f : BitVec 2) (d : BitVec 5) (st : State) : Result :=
  st.finish (vint st isInt pg b a f d fun w x y => (if bitsInt w (s = 1) x ≤ bitsInt w (s = 1) y then y else x, false))

/-- VABS: wrap(|a|); the most negative value stays and sets IO (R158). -/
def execVabs (pg : BitVec 3) (a : BitVec 5) (d : BitVec 5) (s : State) : Result :=
  s.finish (vint s isInt pg 0 a 2 d fun w x _ => (intBits w (bitsInt w false x).natAbs, x = 2 ^ (w - 1)))

/-- VAND: and, of INT and BITS registers (R158). -/
def execVand (pg : BitVec 3) (b : BitVec 5) (a : BitVec 5) (f : BitVec 2) (d : BitVec 5) (s : State) : Result :=
  s.finish (vint s intOrBits pg b a f d fun _ x y => (x &&& y, false))

/-- VOR: or, of INT and BITS registers (R158). -/
def execVor (pg : BitVec 3) (b : BitVec 5) (a : BitVec 5) (f : BitVec 2) (d : BitVec 5) (s : State) : Result :=
  s.finish (vint s intOrBits pg b a f d fun _ x y => (x ||| y, false))

/-- VXOR: exclusive or, of INT and BITS registers (R158). -/
def execVxor (pg : BitVec 3) (b : BitVec 5) (a : BitVec 5) (f : BitVec 2) (d : BitVec 5) (s : State) : Result :=
  s.finish (vint s intOrBits pg b a f d fun _ x y => (x ^^^ y, false))

/-- VSLL: shifted left by b mod w (R158). -/
def execVsll (pg : BitVec 3) (b : BitVec 5) (a : BitVec 5) (f : BitVec 2) (d : BitVec 5) (s : State) : Result :=
  s.finish (vint s isInt pg b a f d fun w x y => (x <<< (y % w), false))

/-- VSRL: shifted right by b mod w, zeros in (R158). -/
def execVsrl (pg : BitVec 3) (b : BitVec 5) (a : BitVec 5) (f : BitVec 2) (d : BitVec 5) (s : State) : Result :=
  s.finish (vint s isInt pg b a f d fun w x y => (x >>> (y % w), false))

/-- VSRA: shifted right by b mod w, sign in (R158). -/
def execVsra (pg : BitVec 3) (b : BitVec 5) (a : BitVec 5) (f : BitVec 2) (d : BitVec 5) (s : State) : Result :=
  s.finish (vint s isInt pg b a f d fun w x y => (intBits w (bitsInt w false x / 2 ^ (y % w)), false))

/-- VCMP: a predicate of a condition (R159). -/
def execVcmp (c : BitVec 3) (b : BitVec 5) (a : BitVec 5) (f : BitVec 2) (d : BitVec 5) (s : State) : Result :=
  s.finish (vcompare s isInt b a f d fun t x y => (intCond (tagWidth t) c.toNat x y, 0))

/-- VSEL: a where the selector bit is 1, else b; bits 128 and up of BITS from a, and lanes of narrow formats without the bits above
them (R34, R159). -/
def execVsel (c : BitVec 3) (b : BitVec 5) (a : BitVec 5) (f : BitVec 2) (d : BitVec 5) (s : State) : Result :=
  s.finish do
    let x ← s.vAny a
    let (y, u) ← s.operandB f x.tag b
    return (u.setV d (mergeV (s.getV d) x.tag (fun _ => true) fun i =>
      if enabledBy (s.getP c) i then x.elem i else trimLane x.tag (y i))).advanceV

/-- VSADD: a + b saturated, IO when it did; s = 1 reads unsigned (R158). -/
def execVsadd (pg : BitVec 3) (b : BitVec 5) (a : BitVec 5) (s : BitVec 1) (f : BitVec 2) (d : BitVec 5) (st : State) : Result :=
  st.finish (vint st isInt pg b a f d fun w x y => satAdd w (s = 1) x y)

end Sys2Proof.Machine
end

