-- ==== Sys2Proof/Machine/VectorFloat.lean ====
section
/-! DEFINITION. VFLT: floating vector instructions (R160, R161). -/

namespace Sys2Proof.Machine

/-- The format of one of the three VFLT tags (R160). -/
def vfltFmt (t : Tag) : Fmt := if t = 6 then fp32 else if t = 7 then bf16 else fp16

/-- Writes v[d] under a predicate and sets the flags its enabled elements raised (R58, R156). `u` is the state to write in. -/
def vfltWrite (s u : State) (pg : BitVec 3) (t : Tag) (d : BitVec 5) (op : Fmt → Nat → Nat → Rounded) : State :=
  let en := enabledBy (s.getP pg)
  let res := op (vfltFmt t) s.cx.rm
  let fl := (List.range (tagElems t)).foldl (fun acc i => if en i then acc ||| (res i).flags else acc) 0
  ((u.setV d (mergeV (s.getV d) t en fun i => (res i).bits)).addFlags fl).advanceV

/-- The body of a VFLT member of two operands (R160). -/
def vflt (s : State) (pg : BitVec 3) (b a : BitVec 5) (f : BitVec 2) (d : BitVec 5)
    (op : Fmt → Nat → Nat → Nat → Rounded) : Try State := do
  let x ← s.vSource a isVflt
  let (y, u) ← s.operandB f x.tag b
  return vfltWrite s u pg x.tag d fun t rm i => op t rm (x.elem i) (y i)

/-- The body of a VFLT member of one operand (R160). -/
def vfltUnary (s : State) (pg : BitVec 3) (a d : BitVec 5) (op : Fmt → Nat → Nat → Rounded) : Try State := do
  let x ← s.vSource a isVflt
  return vfltWrite s s pg x.tag d fun t rm i => op t rm (x.elem i)

/-- The conditions of VFCMP and when they set NV (R161). -/
def floatCond (tag : Tag) (cond x y : Nat) : Bool × VFlags :=
  let a := (vfltFmt tag).decode x
  let b := (vfltFmt tag).decode y
  let unord := a.isNan || b.isNan
  let sig := sigFlag a ||| sigFlag b
  let quiet := fun (v : Bool) => (v, sig)
  let strict := fun (v : Bool) => (!unord && v, if unord then flagNV else 0)
  match cond with
  | 0 => quiet (!unord && numEq a b)
  | 1 => quiet (unord || !numEq a b)
  | 2 => strict (numLt a b)
  | 3 => strict (!numLt b a)
  | 4 => strict (numLt b a)
  | 5 => strict (!numLt a b)
  | 6 => quiet unord
  | _ => quiet !unord

/-- The one bit of VFCLASS (R161). -/
def classMask (tag : Tag) (x : Nat) : Nat :=
  let t := vfltFmt tag
  match t.decode x with
  | .inf neg => if neg then 1 else 128
  | .nan sig _ => if sig then 256 else 512
  | .fin neg m _ _ =>
    if m = 0 then (if neg then 8 else 16)
    else if m < 2 ^ t.man then (if neg then 4 else 32)
    else (if neg then 2 else 64)

/-- VFADD: a + b (R160, R161). -/
def execVfadd (pg : BitVec 3) (b : BitVec 5) (a : BitVec 5) (f : BitVec 2) (d : BitVec 5) (s : State) : Result :=
  s.finish (vflt s pg b a f d fun t rm x y => fRound t rm (numAdd rm (t.decode x) (t.decode y)))

/-- VFSUB: a − b (R160, R161). -/
def execVfsub (pg : BitVec 3) (b : BitVec 5) (a : BitVec 5) (f : BitVec 2) (d : BitVec 5) (s : State) : Result :=
  s.finish (vflt s pg b a f d fun t rm x y => fRound t rm (numAdd rm (t.decode x) (t.decode y).flip))

/-- VFMUL: a × b (R160, R161). -/
def execVfmul (pg : BitVec 3) (b : BitVec 5) (a : BitVec 5) (f : BitVec 2) (d : BitVec 5) (s : State) : Result :=
  s.finish (vflt s pg b a f d fun t rm x y => fRound t rm (numMul (t.decode x) (t.decode y)))

/-- VFMA: a × b + d with one rounding; d has a's tag (R160, R161). -/
def execVfma (pg : BitVec 3) (b : BitVec 5) (a : BitVec 5) (f : BitVec 2) (d : BitVec 5) (s : State) : Result :=
  s.finish do
    let x ← s.vSource a isVflt
    let (y, u) ← s.operandB f x.tag b
    let z ← s.vExact d x.tag
    return vfltWrite s u pg x.tag d fun t rm i =>
      fRound t rm (numFma rm (t.decode (x.elem i)) (t.decode (y i)) (t.decode (z.elem i)))

/-- VFMIN: the smaller; −0 below +0, of one NaN the other operand (R160, R161). -/
def execVfmin (pg : BitVec 3) (b : BitVec 5) (a : BitVec 5) (f : BitVec 2) (d : BitVec 5) (s : State) : Result :=
  s.finish (vflt s pg b a f d fun t _ x y => fMin t x y)

/-- VFMAX: the larger; −0 below +0, of one NaN the other operand (R160, R161). -/
def execVfmax (pg : BitVec 3) (b : BitVec 5) (a : BitVec 5) (f : BitVec 2) (d : BitVec 5) (s : State) : Result :=
  s.finish (vflt s pg b a f d fun t _ x y => fMax t x y)

/-- VFMAXABS: the larger of |a| and |b| (R160, R161). -/
def execVfmaxabs (pg : BitVec 3) (b : BitVec 5) (a : BitVec 5) (f : BitVec 2) (d : BitVec 5) (s : State) : Result :=
  s.finish (vflt s pg b a f d fun t _ x y => fMaxAbs t x y)

/-- VFABS: a with sign 0, even of a NaN (R160, R161). -/
def execVfabs (pg : BitVec 3) (a : BitVec 5) (d : BitVec 5) (s : State) : Result :=
  s.finish (vfltUnary s pg a d fun t _ x => ⟨x % 2 ^ (t.width - 1), 0⟩)

/-- VFNEG: a with sign inverted, even of a NaN (R160, R161). -/
def execVfneg (pg : BitVec 3) (a : BitVec 5) (d : BitVec 5) (s : State) : Result :=
  s.finish (vfltUnary s pg a d fun t _ x => ⟨x ^^^ 2 ^ (t.width - 1), 0⟩)

/-- VFCMP: a predicate of a condition (R161). -/
def execVfcmp (c : BitVec 3) (b : BitVec 5) (a : BitVec 5) (f : BitVec 2) (d : BitVec 5) (s : State) : Result :=
  s.finish (vcompare s isVflt b a f d fun t x y => floatCond t c.toNat x y)

/-- VFCLASS: the class mask, INT16 or INT32 (R161). -/
def execVfclass (pg : BitVec 3) (a : BitVec 5) (d : BitVec 5) (s : State) : Result :=
  s.finish do
    let x ← s.vSource a isVflt
    let t : Tag := if x.tag = 6 then 4 else 3
    return (s.setV d (mergeV (s.getV d) t (enabledBy (s.getP pg)) fun i => classMask x.tag (x.elem i))).advanceV

/-- VFRCP: 1 / a, correctly rounded (R160, R161). -/
def execVfrcp (pg : BitVec 3) (a : BitVec 5) (d : BitVec 5) (s : State) : Result :=
  s.finish (vfltUnary s pg a d fun t rm x => fRound t rm (numDiv (.exact false 1 0) (t.decode x)))

/-- VFRSQ: 1 / √a, correctly rounded (R160, R161). -/
def execVfrsq (pg : BitVec 3) (a : BitVec 5) (d : BitVec 5) (s : State) : Result :=
  s.finish (vfltUnary s pg a d fun t rm x => fRound t rm (numRsqrt (t.decode x)))

/-- VFEXP2: 2^a, correctly rounded (R160, R161). -/
def execVfexp2 (pg : BitVec 3) (a : BitVec 5) (d : BitVec 5) (s : State) : Result :=
  s.finish (vfltUnary s pg a d fun t rm x => fRound t rm (numExp2 (t.decode x)))

/-- VFLOG2: log2(a), correctly rounded (R160, R161). -/
def execVflog2 (pg : BitVec 3) (a : BitVec 5) (d : BitVec 5) (s : State) : Result :=
  s.finish (vfltUnary s pg a d fun t rm x => fRound t rm (numLog2 (t.decode x)))

/-- VFDIV: a / b, correctly rounded (R160, R161). -/
def execVfdiv (pg : BitVec 3) (b : BitVec 5) (a : BitVec 5) (f : BitVec 2) (d : BitVec 5) (s : State) : Result :=
  s.finish (vflt s pg b a f d fun t rm x y => fRound t rm (numDiv (t.decode x) (t.decode y)))

end Sys2Proof.Machine
end

