-- ==== Sys2Proof/Machine/VectorMisc.lean ====
section
/-! DEFINITION. VMISC: conversion, packing, reduction, movement, tags and predicates (R162 to R169). -/

namespace Sys2Proof.Machine

/-! ## VCVT (R163) -/

/-- A numeric tag: every one but EMPTY, BITS and LACC-slice (R59, R163). -/
def isNumeric (t : Tag) : Bool := t ≠ 0 && t ≠ 1 && t ≠ 15

/-- The source element that destination element `i` takes, if any (R163). -/
def cvtSource (es ed j i : Nat) : Option Nat :=
  if ed ≤ es then some ((j * ed) % es + i)
  else
    let base := (j * es) % ed
    if base ≤ i && i < base + es then some (i - base) else none

/-- Formats without a NaN: E3M2, E2M3, E2M1 and QC4 (R59). -/
def lacksNan (t : Tag) : Bool := decide (11 ≤ t.toNat) && decide (t.toNat ≤ 14)

/-- A NaN that a target would lose while vctl.NLT is 1 (R59). -/
def nanLost (c : Ctx) (src dst : Tag) (bits : Nat) : Bool := c.nlt && lacksNan dst && (elemNum src false bits).isNan

/-- Cause 40 (R59): `at` is the element index, or the column with the row at bit 16. -/
def exnNan (place : Nat) (src dst : Tag) : Exn := exn 40 (toWord (place + dst.toNat * 256 + src.toNat * 4096))

/-- Saturation in force for a target (R56, R163). -/
def Ctx.satFor (c : Ctx) (dst : Tag) (force : Bool) : Bool := force || (if isInt dst then c.isat else c.sat)

/-- VCVT: every element converted under vctl (R59, R60, R163). -/
def execVcvt (pg : BitVec 3) (t : BitVec 1) (f : BitVec 4) (a : BitVec 5) (u : BitVec 1) (j : BitVec 2) (d : BitVec 5)
    (s : State) : Result :=
  s.finish do
    let x ← s.vSource a isNumeric
    let ed := tagElems f
    let src := cvtSource (tagElems x.tag) ed j.toNat
    let on := fun i => enabledBy (s.getP pg) i && (src i).isSome
    let cvt := fun i => convertElem x.tag f (u = 1) s.cx.rm (s.cx.satFor f (t = 1)) (x.elem ((src i).getD 0))
    match (List.range ed).find? fun i => on i && nanLost s.cx x.tag f (x.elem ((src i).getD 0)) with
    | some i => raiseStop (exnNan ((src i).getD 0) x.tag f)
    | none =>
      let fl := (List.range ed).foldl (fun acc i => if on i then acc ||| (cvt i).flags else acc) 0
      return ((s.setV d (mergeV (s.getV d) f on fun i => (cvt i).bits)).addFlags fl).advanceV

/-! ## VPACK, VUNPACK and VDQ (R164, R165) -/

/-- The packed width of an element (R47). -/
def packedBits (t : Tag) : Nat := laneBits t

/-- The place of a packed image of 128 elements in a register: its first bit and its length in bits (R164). -/
def packPlace (t : Tag) (j : Nat) : Nat × Nat := if packedBits t = 6 then (0, 768) else (512 * j, 512)

/-- VPACK: the packed image of a into d, tagged BITS (R47, R164). -/
def execVpack (a : BitVec 5) (j : BitVec 1) (d : BitVec 5) (s : State) : Result :=
  s.finish do
    let x ← s.vSource a lacksNan
    if packedBits x.tag = 6 && j = 1 then raiseStop (exnTag 0 a.toNat x.tag 0 false true)
    else
      let (at0, len) := packPlace x.tag j.toNat
      let img := packElems (packedBits x.tag) x.elem 128
      return (s.setV d (mergeV (s.getV d) 1 (fun i => at0 ≤ i && i < at0 + len)
        fun i => (img >>> (i - at0)) % 2)).advanceV

/-- VUNPACK: the lanes of a packed image (R47, R164). -/
def execVunpack (f : BitVec 4) (a : BitVec 5) (j : BitVec 1) (d : BitVec 5) (s : State) : Result :=
  s.finish do
    let x ← s.vExact a 1
    let (at0, _) := packPlace f j.toNat
    let w := packedBits f
    return (s.setV d (mergeV (s.getV d) f (fun _ => true) fun i => (x.bits.toNat >>> (at0 + w * i)) % 2 ^ w)).advanceV

/-- VDQ: QC4 codes times their scales, into FP32 (R49, R165). -/
def execVdq (pg : BitVec 3) (b : BitVec 5) (a : BitVec 5) (j : BitVec 2) (d : BitVec 5) (s : State) : Result :=
  s.finish do
    let x ← s.vExact a 14
    let w := s.getX b
    let g := fp32.decode (fld w 63 32)
    let res := fun rm i =>
      let k := 32 * j.toNat + i
      fRound fp32 rm (qc4Scaled g (if k < 64 then fld w 7 0 else fld w 15 8) (x.elem k))
    return vfltWrite s s pg 6 d fun _ rm i => res rm i

/-! ## Reductions (R166) -/

/-- A node of the tree: the two children combined, or the one present (R166). -/
def joinNodes (f : Nat → Nat → Rounded) (x y : Option Nat × VFlags) : Option Nat × VFlags :=
  match x.1, y.1 with
  | some a, some b => (some (f a b).bits, x.2 ||| y.2 ||| (f a b).flags)
  | some a, none => (some a, x.2 ||| y.2)
  | none, r => (r, x.2 ||| y.2)

/-- Node `i` of the level that is `k` levels above the elements (R166). -/
def reduceTree (f : Nat → Nat → Rounded) (leaf : Nat → Option Nat) : Nat → Nat → Option Nat × VFlags
  | 0, i => (leaf i, 0)
  | k + 1, i => joinNodes f (reduceTree f leaf k (2 * i)) (reduceTree f leaf k (2 * i + 1))

/-- The body of the reductions: element 0 takes the tree's result, or `none` of a reduction with nothing enabled (R166). -/
def vreduce (s : State) (pg : BitVec 3) (a : BitVec 5) (uns : Bool) (d : BitVec 5) (fint : Nat → Bool → Nat → Nat → Nat)
    (ffloat : Fmt → Nat → Nat → Nat → Rounded) (eint : Nat → Bool → Nat) (efloat : Fmt → Nat) : Try State := do
  let x ← s.vSource a fun t => isInt t || isVflt t
  let w := tagWidth x.tag
  let leaf := fun i => if enabledBy (s.getP pg) i then some (x.elem i) else none
  let f := if isInt x.tag then fun p q => ⟨fint w uns p q, 0⟩ else ffloat (vfltFmt x.tag) s.cx.rm
  let empty := if isInt x.tag then eint w uns else efloat (vfltFmt x.tag)
  let (r, fl) := reduceTree f leaf (tagElems x.tag).log2 0
  return ((s.setV d (mergeV (s.getV d) x.tag (fun _ => true) fun i => if i = 0 then r.getD empty else 0)).addFlags fl).advanceV

/-- VREDSUM: the sum of the enabled elements (R166). -/
def execVredsum (pg : BitVec 3) (a : BitVec 5) (s : BitVec 1) (d : BitVec 5) (st : State) : Result :=
  st.finish (vreduce st pg a (s = 1) d (fun w _ x y => (x + y) % 2 ^ w)
    (fun f rm x y => fRound f rm (numAdd rm (f.decode x) (f.decode y))) (fun _ _ => 0) (fun _ => 0))

/-- VREDMAX: the largest enabled element (R166). -/
def execVredmax (pg : BitVec 3) (a : BitVec 5) (s : BitVec 1) (d : BitVec 5) (st : State) : Result :=
  st.finish (vreduce st pg a (s = 1) d (fun w u x y => if bitsInt w u y ≤ bitsInt w u x then x else y)
    (fun f _ x y => fMax f x y) (fun w u => intBits w (intRange w u).1) (fun f => f.infBits true))

/-- VREDMIN: the smallest enabled element (R166). -/
def execVredmin (pg : BitVec 3) (a : BitVec 5) (s : BitVec 1) (d : BitVec 5) (st : State) : Result :=
  st.finish (vreduce st pg a (s = 1) d (fun w u x y => if bitsInt w u x ≤ bitsInt w u y then x else y)
    (fun f _ x y => fMin f x y) (fun w u => intBits w (intRange w u).2) (fun f => f.infBits false))

/-! ## Movers (R167) -/

/-- The integer tag whose element count is that of a tag; EMPTY when there is none (R34, R167). -/
def indexTag (t : Tag) : Tag :=
  match tagWidth t with
  | 8 => 2
  | 16 => 3
  | 32 => 4
  | 64 => 5
  | _ => 0

/-- VPERM: d[i] takes a[b[i] mod n] (R167). -/
def execVperm (pg : BitVec 3) (b : BitVec 5) (a : BitVec 5) (d : BitVec 5) (s : State) : Result :=
  s.finish do
    let x ← s.vAny a
    let y := s.getV b
    if y.tag = 0 || y.tag ≠ indexTag x.tag then raiseStop (exnTagOne 0 b.toNat y.tag (indexTag x.tag))
    else
      return (s.setV d (mergeV (s.getV d) x.tag (enabledBy (s.getP pg)) fun i => x.elem (y.elem i % tagElems x.tag))).advanceV

/-- VSLIDE: d[i] takes a[i − s], zero outside (R167). -/
def execVslide (pg : BitVec 3) (b : BitVec 5) (a : BitVec 5) (f : BitVec 2) (d : BitVec 5) (s : State) : Result :=
  s.finish do
    let x ← s.vAny a
    let by0 : Int := if f = 1 then (s.getX b).toInt else b.toInt
    let res := fun (i : Nat) =>
      let k := (i : Int) - by0
      if 0 ≤ k && k < tagElems x.tag then x.elem k.toNat else 0
    return (s.setV d (mergeV (s.getV d) x.tag (enabledBy (s.getP pg)) res)).advanceV

/-- VBCAST: the low bits of x[a] in every enabled element (R34, R167). -/
def execVbcast (pg : BitVec 3) (f : BitVec 4) (a : BitVec 5) (d : BitVec 5) (s : State) : Result :=
  .next (s.setV d (mergeV (s.getV d) f (enabledBy (s.getP pg)) fun _ => trimLane f (s.getX a).toNat)).advanceV

/-- VMV.XV: x[d] takes one element, sign-extended for an INT tag read signed (R167). -/
def execVmvXv (b : BitVec 5) (a : BitVec 5) (u : BitVec 1) (d : BitVec 5) (s : State) : Result :=
  s.finish do
    let x ← s.vAny a
    let e := x.elem ((s.getX b).toNat % tagElems x.tag)
    let v := if isInt x.tag && u = 0 then BitVec.ofInt 64 (bitsInt (tagWidth x.tag) false e) else toWord e
    return (s.setX d v).advanceV

/-- VMV.VX: one element of v[d] takes the low bits of x[a] (R34, R167). -/
def execVmvVx (b : BitVec 5) (a : BitVec 5) (d : BitVec 5) (s : State) : Result :=
  s.finish do
    let x ← s.vAny d
    let k := (s.getX b).toNat % tagElems x.tag
    return (s.setV d (mergeV x x.tag (fun i => i = k) fun _ => trimLane x.tag (s.getX a).toNat)).advanceV

/-- The tags of VLUT's indices: INT8, FP4 and QC4 (R167). -/
def isLutIndex (t : Tag) : Bool := t = 2 || t = 13 || t = 14

/-- VLUT: d[i] takes the entry of b that the low four bits of an element of a select (R167). -/
def execVlut (pg : BitVec 3) (b : BitVec 5) (a : BitVec 5) (j : BitVec 2) (d : BitVec 5) (s : State) : Result :=
  s.finish do
    let x ← s.vSource a isLutIndex
    let y ← s.vSource b fun t => t ≠ 1
    let o := j.toNat * tagElems y.tag % 128
    return (s.setV d (mergeV (s.getV d) y.tag (enabledBy (s.getP pg)) fun i => y.elem (x.elem (o + i) % 16))).advanceV

/-! ## Tags (R168) -/

/-- The bits of a register under a new tag: lanes of narrow formats lose their high bits (R168). -/
def retag (t : Tag) (bits : BitVec 1024) : VReg :=
  ⟨t, BitVec.ofNat 1024 (packElems (tagWidth t) (fun i => trimLane t (elemOf (tagWidth t) bits i)) (tagElems t))⟩

/-- VSETTAG: the bits of a under another tag, no conversion; EMPTY releases d (R155, R168), whatever register a
names: DESIGN CHOICE (132), R168 gives that form a = 0 and R162 lists a as a v register, or 0. -/
def execVsettag (f : BitVec 4) (a : BitVec 5) (d : BitVec 5) (s : State) : Result :=
  s.finish (if f = 0 then .ok (s.setV d VReg.empty).advanceV
    else do
      let x ← s.vAny a
      return (s.setV d (retag f x.bits)).advanceV)

/-- VTAG: x[d] takes the tag of a; never faults (R168). -/
def execVtag (a : BitVec 5) (d : BitVec 5) (s : State) : Result :=
  .next (s.setX d ((s.getV a).tag.setWidth 64)).advanceV

/-! ## Predicates (R169) -/

/-- PAND (R169). -/
def execPand (b : BitVec 3) (a : BitVec 3) (d : BitVec 3) (s : State) : Result :=
  .next (s.setP d (s.getP a &&& s.getP b)).advanceV

/-- POR (R169). -/
def execPor (b : BitVec 3) (a : BitVec 3) (d : BitVec 3) (s : State) : Result :=
  .next (s.setP d (s.getP a ||| s.getP b)).advanceV

/-- PXOR (R169). -/
def execPxor (b : BitVec 3) (a : BitVec 3) (d : BitVec 3) (s : State) : Result :=
  .next (s.setP d (s.getP a ^^^ s.getP b)).advanceV

/-- PNOT (R169). -/
def execPnot (a : BitVec 3) (d : BitVec 3) (s : State) : Result :=
  .next (s.setP d (~~~(s.getP a))).advanceV

/-- Ones of a predicate. -/
def countOnes (p : BitVec 128) : Nat := ((List.range 128).filter fun i => p.getLsbD i).length

/-- The lowest one of a predicate, or 128 (R169). -/
def firstOne (p : BitVec 128) : Nat := ((List.range 128).find? fun i => p.getLsbD i).getD 128

/-- PCNT: ones of p[a] (R169). -/
def execPcnt (a : BitVec 3) (d : BitVec 5) (s : State) : Result :=
  .next (s.setX d (toWord (countOnes (s.getP a)))).advanceV

/-- PFIRST: the lowest one of p[a], 128 when there is none (R169). -/
def execPfirst (a : BitVec 3) (d : BitVec 5) (s : State) : Result :=
  .next (s.setX d (toWord (firstOne (s.getP a)))).advanceV

end Sys2Proof.Machine
end

