-- ==== Sys2Proof/Machine/Tile.lean ====
section
/-! DEFINITION. TILE: tile registers, their conversion and their quantisation (R170 to R172). -/

namespace Sys2Proof.Machine

/-- A tile from a function of row and column, each element within its tag's width. -/
def tileOf (t : Tag) (f : Nat → Nat → Nat) : BitVec 65536 := packTile fun r c => trimLane t (f r c)

/-- TZERO: zeros under a tag (R171). -/
def execTzero (f : BitVec 4) (d : BitVec 3) (s : State) : Result :=
  .next (s.setM d ⟨f, 0, 0⟩).advanceV

/-- TMOV: elements, side band and tag (R171). -/
def execTmov (a : BitVec 3) (d : BitVec 3) (s : State) : Result :=
  s.finish do
    let x ← s.tileSource a
    return (s.setM d x).advanceV

/-- TTRANS: d[r][c] takes a[c][r]; a QC4 tile has no transpose (R171). -/
def execTtrans (a : BitVec 3) (d : BitVec 3) (s : State) : Result :=
  s.finish do
    let x ← s.tileSource a
    if x.tag = 14 then raiseStop (exnTagSet 1 a.toNat x.tag)
    else return (s.setM d ⟨x.tag, packTile fun r c => x.elem c r, 0⟩).advanceV

/-! ## TCVT (R170, R171) -/

/-- The rounding mode that f3 names (R170). -/
def tcvtMode (c : Ctx) (rl : BitVec 3) : Nat := if rl = 0 then c.rm else rl.toNat - 4

/-- The value of a tile element and the flags of finding it: a QC4 code carries its scales (R49, R171). -/
def MReg.value (m : MReg) (r c : Nat) : NumF :=
  if m.tag = 14 then qc4Scaled (fp32.decode m.group) (m.sideByte r) (m.elem r c % 16)
  else ⟨elemNum m.tag false (m.elem r c), 0⟩

/-- One element converted into a tag (R59, R60). Integers are read and written as two's complement: DESIGN CHOICE (130), TCVT's card names
no reading of INT8 and INT16 elements (R43, R171). -/
def tileConvert (m : MReg) (f : Tag) (rm : Nat) (sat : Bool) (r c : Nat) : Rounded :=
  if m.tag = 14 then
    let x := m.value r c
    let y := match fmtOf f, intWidth f with
      | some t, _ => t.convert rm sat x.num
      | none, some n => toIntConvert n false rm x.num
      | none, none => ⟨0, 0⟩
    ⟨y.bits, x.flags ||| y.flags⟩
  else convertElem m.tag f false rm sat (m.elem r c)

/-- Cause 40 at a tile element (R59). -/
def exnTileNan (i : Nat) (src dst : Tag) : Exn := exnNan (i % 64 + i / 64 * 65536) src dst

/-- The body of TCVT: every element converted, one rounding each, the side band zeroed (R171). -/
def tcvt (s : State) (f : Tag) (a : BitVec 3) (rl : BitVec 3) (d : BitVec 3) (sat : Bool) : Try State := do
  let x ← s.tileSource a
  let res := fun r c => tileConvert x f (tcvtMode s.cx rl) sat r c
  match (List.range 4096).find? fun i => s.cx.nlt && lacksNan f && (x.value (i / 64) (i % 64)).num.isNan with
  | some i => raiseStop (exnTileNan i x.tag f)
  | none =>
    let fl := (List.range 4096).foldl (fun acc i => acc ||| (res (i / 64) (i % 64)).flags) 0
    return ((s.setM d ⟨f, packTile fun r c => (res r c).bits, 0⟩).addFlags fl).advanceV

/-- TCVT: saturation from vctl (R170). -/
def execTcvt (f : BitVec 4) (a : BitVec 3) (rl : BitVec 3) (d : BitVec 3) (s : State) : Result :=
  s.finish (tcvt s f a rl d (s.cx.satFor f false))

/-- TCVT under sat (R170). -/
def execTcvtSat (f : BitVec 4) (a : BitVec 3) (rl : BitVec 3) (d : BitVec 3) (s : State) : Result :=
  s.finish (tcvt s f a rl d true)

/-- TCVT under nosat (R170). -/
def execTcvtNosat (f : BitVec 4) (a : BitVec 3) (rl : BitVec 3) (d : BitVec 3) (s : State) : Result :=
  s.finish (tcvt s f a rl d false)

/-! ## TQSET (R172) -/

/-- The tags TQSET quantises: BF16, FP16, E4M3 and E5M2. -/
def isQuantSource (t : Tag) : Bool := t = 7 || t = 8 || t = 9 || t = 10

/-- A magnitude m × 2^e that is the larger of two. -/
def maxMag (x y : Nat × Int) : Nat × Int := if cmpMag x.1 x.2 y.1 y.2 = .lt then y else x

/-- The magnitude of a finite number, zero of any other. -/
def finiteMag : Num → Nat × Int
  | .fin _ m e _ => (m, e)
  | _ => (0, 0)

/-- The largest finite magnitude of row `r`. -/
def rowMag (x : MReg) (r : Nat) : Nat × Int :=
  (List.range 64).foldl (fun acc c => maxMag acc (finiteMag (x.value r c).num)) (0, 0)

/-- br of R172: ⌈256 mr / M⌉, at most 255. -/
def blockScale (mr m : Nat × Int) : Nat :=
  if m.1 = 0 || mr.1 = 0 then 0
  else
    let e := min mr.2 m.2
    let num := 256 * (mr.1 <<< (mr.2 - e).toNat)
    let den := m.1 <<< (m.2 - e).toNat
    min 255 ((num + den - 1) / den)

/-- The QC4 tile and flags of R172. -/
def quantiseTile (x : MReg) : MReg × VFlags :=
  let m := (List.range 64).foldl (fun acc r => maxMag acc (rowMag x r)) (0, 0)
  let g := (fp32.round 0 false (.exact false m.1 m.2)).bits
  let scales := (List.range 64).map fun r => blockScale (rowMag x r) m
  let code := fun r c => quantise (x.value r c).num (scales.getD r 0) m.1 m.2
  let fl := (List.range 4096).foldl (fun acc i => acc ||| (code (i / 64) (i % 64)).flags) 0
  (⟨14, packTile fun r c => (code r c).bits,
    BitVec.ofNat 2048 (packElems 8 (fun r => scales.getD r 0) 64 + g * 2 ^ 512)⟩, fl)

/-- TQSET: a tile quantised into QC4 with scales of its own (R172). -/
def execTqset (a : BitVec 3) (d : BitVec 3) (s : State) : Result :=
  s.finish do
    let x := s.getM a
    if !isQuantSource x.tag then raiseStop (exnTagSet 1 a.toNat x.tag)
    else
      match (List.range 4096).find? fun i => s.cx.nlt && (x.value (i / 64) (i % 64)).num.isNan with
      | some i => raiseStop (exnTileNan i x.tag 14)
      | none =>
        let (q, fl) := quantiseTile x
        return ((s.setM d q).addFlags fl).advanceV

/-! ## Rows, columns and tags (R171) -/

/-- TPICK: a row or a column into elements 0 to 63 of a vector, the rest zero (R171). -/
def execTpick (b : BitVec 5) (a : BitVec 3) (c : BitVec 1) (d : BitVec 5) (s : State) : Result :=
  s.finish do
    let x ← s.tileSource a
    let k := (s.getX b).toNat % 64
    let res := fun i => if i < 64 then (if c = 0 then x.elem k i else x.elem i k) else 0
    return (s.setV d (mergeV (s.getV d) x.tag (fun _ => true) res)).advanceV

/-- TPLACE: elements 0 to 63 of a vector into a row or a column; the rest of m[d] stays when it holds the vector's tag, and is
zero otherwise (R171). -/
def execTplace (b : BitVec 5) (a : BitVec 5) (c : BitVec 1) (d : BitVec 3) (s : State) : Result :=
  s.finish do
    let x ← s.vSource a isTileTag
    let k := (s.getX b).toNat % 64
    let old := s.getM d
    let keep := decide (old.tag = x.tag)
    let res := fun r q =>
      if (if c = 0 then r else q) = k then x.elem (if c = 0 then q else r)
      else if keep then old.cell r q else 0
    return (s.setM d ⟨x.tag, packTile res, if keep then old.side else 0⟩).advanceV

/-- The bits of a value in another order: bit `i` of the result is bit `p i` of the value. -/
def permuteBits (p : Equiv.Perm (Fin 65536)) (v : BitVec 65536) : BitVec 65536 := BitVec.ofFnLE fun i => v.getLsbD (p i)

/-- The cells of a tile under a tag of the same or another element width, every bit kept (R171). -/
def MReg.cellsFor (m : MReg) (f : Tag) : BitVec 65536 :=
  if tagWidth f = tagWidth m.tag then m.elems
  else if tagWidth f = 8 then permuteBits Config.tileLayout m.elems
  else permuteBits Config.tileLayout.symm m.elems

/-- A cell with the bits cleared that lie above the format of its element (R168, R171). -/
def trimCell (f : Tag) (v : Nat) : Nat := if tagWidth f = 8 then v / 256 * 256 + trimLane f (v % 256) else v

/-- A tile under another tag, without conversion (R171). -/
def MReg.retag (m : MReg) (f : Tag) : MReg :=
  ⟨f, packTile fun r c => trimCell f ((⟨f, m.cellsFor f, m.side⟩ : MReg).cell r c), m.side⟩

/-- TTAG, set form: retags m[d] without conversion; EMPTY releases it (R155, R171). -/
def execTtagSet (f : BitVec 4) (d : BitVec 3) (s : State) : Result :=
  s.finish (
    let x := s.getM d
    if f = 0 then .ok (s.setM d MReg.empty).advanceV
    else if x.tag = 0 then raiseStop (exnTagAny 1 d.toNat)
    else .ok (s.setM d (x.retag f)).advanceV)

/-- TTAG, read form: x[d] takes the tag of m[a]; never faults (R171). -/
def execTtagRead (a : BitVec 3) (d : BitVec 5) (s : State) : Result :=
  .next (s.setX d ((s.getM a).tag.setWidth 64)).advanceV

end Sys2Proof.Machine
end

