-- ==== Sys2Proof/Machine/Copy.lean ====
section
/-! DEFINITION. Copy engines: descriptors, what a copy reads and writes, and its life (R227 to R236, R240, R376). -/

namespace Sys2Proof.Machine

/-! ## Descriptors (R229, R230) -/

/-- A little-endian field of a descriptor, sign-extended to a word. -/
def sfield (b : BitVec 512) (o n : Nat) : Word := BitVec.ofInt 64 (bitsInt (8 * n) false (bytesAt b.toNat o n))

def cdSrc (b : BitVec 512) : Word := toWord (bytesAt b.toNat 0 8)
def cdDst (b : BitVec 512) : Word := toWord (bytesAt b.toNat 8 8)
def cdElems (b : BitVec 512) : Nat := bytesAt b.toNat 16 4
def cdRows (b : BitVec 512) : Nat := bytesAt b.toNat 20 4
def cdSStride (b : BitVec 512) : Word := sfield b 24 4
def cdDStride (b : BitVec 512) : Word := sfield b 28 4
def cdSTag (b : BitVec 512) : Tag := BitVec.ofNat 4 (bytesAt b.toNat 32 1)
def cdDTag (b : BitVec 512) : Tag := BitVec.ofNat 4 (bytesAt b.toNat 33 1)
def cdFlags (b : BitVec 512) : Nat := bytesAt b.toNat 34 2
def cdIdx (b : BitVec 512) : Word := toWord (bytesAt b.toNat 48 8)
def cdSig (b : BitVec 512) : Word := toWord (bytesAt b.toNat 56 8)
def cdRm (b : BitVec 512) : Nat := cdFlags b % 4
def cdSat (b : BitVec 512) : Bool := (cdFlags b).testBit 2
def cdNlt (b : BitVec 512) : Bool := (cdFlags b).testBit 3
def cdIdx64 (b : BitVec 512) : Bool := (cdFlags b).testBit 6
def cdUns (b : BitVec 512) : Bool := (cdFlags b).testBit 7

/-- Bits of an element in a row image in memory: packed formats take their own width (R47, R229). -/
def imageBits (t : Tag) : Nat := laneBits t

/-- Bytes of a row image. -/
def rowBytes (t : Tag) (elems : Nat) : Nat := (imageBits t * elems + 7) / 8

/-- Element alignment of a tag in memory: one byte for packed tags (R229). -/
def elemAlign (t : Tag) : Nat := if imageBits t < 8 then 1 else imageBits t / 8

/-- The destination size of a copy (R229). -/
def copySize (b : BitVec 512) : Nat := cdRows b * rowBytes (cdDTag b) (cdElems b)

/-- A row's element count suits a packed tag (R229). -/
def elemsSuit (t : Tag) (n : Nat) : Bool := n % (match imageBits t with | 4 => 2 | 6 => 4 | _ => 1) = 0

/-- A tag byte names a tag that a copy moves (R229). -/
def copyTag (v : Nat) : Bool := decide (2 ≤ v) && decide (v ≤ 14)

/-- R229, R231: the descriptor is in order for its shape. -/
def copyDescOk (kind : CopyKind) (b : BitVec 512) : Bool :=
  let v := b.toNat
  let st := cdSTag b
  let dt := cdDTag b
  let multiple := fun (w : Word) (t : Tag) => w.toNat % elemAlign t = 0
  copyTag (bytesAt v 32 1) && copyTag (bytesAt v 33 1) && 1 ≤ cdElems b && cdElems b ≤ 2 ^ 24 && 1 ≤ cdRows b &&
    cdRows b ≤ 65536 && cdFlags b < 256 && bytesAt v 36 2 ≤ 1023 && bytesAt v 38 2 ≤ 1023 && bytesAt v 40 2 ≤ 1023 &&
    bytesAt v 42 2 ≤ 1023 && bytesAt v 44 4 = 0 && ((st ≠ 14 && dt ≠ 14) || st = dt) &&
    elemsSuit st (cdElems b) && elemsSuit dt (cdElems b) && multiple (cdSrc b) st && multiple (cdSStride b) st &&
    multiple (cdDst b) dt && multiple (cdDStride b) dt && (cdSig b).toNat % 8 = 0 &&
    (if kind = .gath then (cdIdx b).toNat % (if cdIdx64 b then 8 else 4) = 0 else cdIdx b = 0)

/-- The descriptor that XCOPY.1D builds (R238). -/
def copyDesc1D (src dst : Word) (count : Nat) : BitVec 512 :=
  BitVec.ofNat 512 (src.toNat + dst.toNat * 2 ^ 64 + count % 2 ^ 32 * 2 ^ 128 + 2 ^ 160 + 2 * 2 ^ 256 + 2 * 2 ^ 264)

/-! ## Accesses of a copy (R230 to R233) -/

/-- Where a copy stopped (R233, R234): reason, side, the element's first byte, the stage and input fields of Lval2, and the
floor of its trap; `unit` when an uncorrectable error or a retired unit was met. -/
structure CopyStop where
  reason : Nat
  side : Nat
  addr : Word
  info : Nat
  floor : Level
  unit : Option Word
  deriving DecidableEq, Repr

/-- Why a copy does not get past an access: it stops, or the target answers RETRY (R375). -/
inductive CopyBar where
  | stop (w : CopyStop)
  | retry
  deriving DecidableEq, Repr

/-- The stop that an access exception makes of a copy (R114, R233, R234): XLATE by its stage, else WINDOW, at the floor of that exception
(R234 says so, and R358's table T: DEDUCED, 121). -/
def copyStopOf (e : Exn) (side : Nat) (va : Word) : CopyStop :=
  if e.onTable then ⟨2, side, va, 0, .P, some e.val⟩
  else if e.cause = 13 || e.cause = 15 then ⟨1, side, va, 1 + fld e.val 47 12 * 4096, .T, none⟩
  else if e.cause = 21 || e.cause = 23 then ⟨1, side, va, e.val2.toNat, e.floor, none⟩
  else ⟨3, side, va, 0, e.floor, none⟩

/-- The place of `n` bytes that the copy's agent reaches, or what bars the copy (R232, R233). -/
def State.copyPlace (s : State) (c : Ctx) (lvl : Level) (acc : Access) (side : Nat) (elem va : Word) (n : Nat)
    (tc : Option (Nat × Nat)) : Except CopyBar Target :=
  match s.resolveFor c { c.client with lvl := lvl } acc va n tc with
  | .error e => .error (.stop (copyStopOf e side elem))
  | .ok t =>
    if t.retry then .error .retry
    else
      match (s.refusedAt t n).or (s.peerRefuses t) with
      | none => .ok t
      | some .poison => .error (.stop ⟨2, side, elem, 0, .P, some (toWord (siteAddr t.site 0))⟩)
      | some .retired => .error (.stop ⟨5, side, elem, 0, .T, some (toWord (siteAddr t.site 0))⟩)
      | some .rejected => .error (.stop ⟨5, side, elem, 0, .T, none⟩)

/-- The tile shape, rows and bytes, that TSH names (R110). -/
def tileShape (tsh : Nat) : Nat × Nat := (64 / 2 ^ tsh, 64 * 2 ^ tsh)

/-- The shape of the page of a side's first byte (R230). -/
def State.sideShape (s : State) (c : Ctx) (lvl : Level) (acc : Access) (va : Word) : Nat × Nat :=
  match regionOf va, s.translate c.key.h { c.client with lvl := lvl } acc va.toNat with
  | .global, .ok x => tileShape ((x.perms.tensor.map Prod.snd).getD 0)
  | _, _ => (64, 64)

/-- The tile coordinates of byte `j` of row `r` on a side (R230). -/
def sideCoords (kind : CopyKind) (on : Bool) (row col : Nat) (shape : Nat × Nat) (r j : Nat) : Option (Nat × Nat) :=
  if !on || kind = .d1 then none
  else if kind = .tile then some (row + r / shape.1, col + j / shape.2)
  else some (row, col)

/-- Element `i` of a row: its first byte within the row, the bit it begins at there, and the bytes it touches. -/
def elemSpan (t : Tag) (i : Nat) : Nat × Nat × Nat :=
  let b := imageBits t * i
  (b / 8, b % 8, (b % 8 + imageBits t + 7) / 8)

/-- Elements of a copy. -/
def copyCount (b : BitVec 512) : Nat := cdRows b * cdElems b

/-! ## The queue (R227, R228) -/

/-- The copy of an agent with a handle. -/
def State.copy? (s : State) (k : Key) (handle : Nat) : Option Copy :=
  s.copies.find? fun x => x.agent = k && x.handle = handle && !x.removed

/-- A copy changed by `f`. -/
def State.mapCopy (s : State) (k : Key) (handle : Nat) (f : Copy → Copy) : State :=
  { s with copies := s.copies.map fun x => if x.agent = k && x.handle = handle && !x.removed then f x else x }

/-- The last `n` of a list. -/
def lastN {α : Type} (n : Nat) (l : List α) : List α := l.drop (l.length - n)

/-- A copy ends: it is remembered while it is among the 16 most recently ended of its agent (R228). -/
def State.endCopy (s : State) (x : Copy) : State :=
  let rest := s.copies.filter fun y => !(y.agent = x.agent && y.handle = x.handle)
  let mine := lastN 15 (rest.filter fun y => y.agent = x.agent && y.ended)
  { s with copies := (rest.filter fun y => !(y.agent = x.agent && y.ended)) ++ mine ++ [x] }

/-- The copy holds one of the engine's four running places (R227); one in GRANT has not started (R235). -/
def Copy.holdsPlace (x : Copy) : Bool := !x.held && x.st = .running

/-- A running place is free at a site. -/
def State.placeFree (s : State) (h : Nat) : Bool := decide (((s.engineQueue h).filter (·.holdsPlace)).length < 4)

/-- The next handle after `n` (R227, R288): modulo 2^32, skipping 0. -/
def nextHandle (n : Nat) : Nat := if (n + 1) % 2 ^ 32 = 0 then 1 else (n + 1) % 2 ^ 32

/-- A copy enters the queue of its agent's site and takes a handle (R227, R238). -/
def State.enqueueCopy (s : State) (c : Ctx) (lvl : Level) (kind : CopyKind) (b : BitVec 512) (acq rel : Bool) (scope : Nat)
    (node : Option Nat) : State :=
  let x : Copy := ⟨c.key.h, c.key, c.copyHandle, kind, b, acq, rel, scope, .queued, 0, 0, 0, 0, lvl, false, false, false, false, 0, node, s.order, [], false⟩
  ({ s with copies := s.copies ++ [x] } : State).tickOrder.mapCtx c.key fun c => { c with copyHandle := nextHandle c.copyHandle }

/-- The state code of R228. -/
def copyStateCode : CopyState → Nat
  | .queued => 1
  | .grant => 2
  | .running => 3
  | .faulted => 4
  | .done => 5
  | .aborted => 6

/-- The status word of R240, with T or the twin's reason in its low byte. -/
def copyStatus (x : Option Copy) (low : Nat) : Word :=
  match x with
  | none => toWord low
  | some x =>
    toWord (low + copyStateCode x.st * 256 + (if x.st = .faulted then x.reason else 0) * 4096 + x.flags.toNat * 65536 +
      x.commit * 2 ^ 32)

/-! ## The events of an engine -/

/-- A copy that has run before and waits for a place again: it goes before any that has not started (R227). -/
def State.againCopy (s : State) (h : Nat) : Option Copy :=
  (s.engineQueue h).find? fun x => x.st = .queued && x.started && !x.held

/-- The oldest copy of a site that has not started; those issued after it start later (R227). -/
def State.oldestCopy (s : State) (h : Nat) : Option Copy :=
  firstLeast (·.seq) ((s.engineQueue h).filter fun x => !x.started && !x.held && (x.st = .queued || x.st = .grant))

/-- The copy that takes a free place next (R227); one in GRANT waits for its leave (R235). -/
def State.nextCopy (s : State) (h : Nat) : Option Copy :=
  (s.againCopy h).or ((s.oldestCopy h).filter fun x => x.st = .queued)

/-- COPY_START: a queued copy takes a running place, or waits for its grant above 64 KiB, before it starts (R227, R235). -/
def execCopyStart (h : Nat) (s : State) : Result :=
  match s.nextCopy h with
  | none => .next s
  | some x =>
    if !s.placeFree h || (s.ctx? x.agent).isNone then .next s
    else
      .next (s.mapCopy x.agent x.handle fun x =>
        if 65536 < copySize x.desc && !x.started then { x with st := .grant } else { x with st := .running, started := true })

/-- COPY_GRANT: Solstice grants a copy's leave, and the copy starts in a free place (R227, R235). -/
def execCopyGrant (k : Key) (handle : Nat) (s : State) : Result :=
  match s.copy? k handle with
  | none => .next s
  | some x =>
    if x.st = .grant && !x.held && s.oldestCopy x.h = some x && (s.againCopy x.h).isNone && s.placeFree x.h then
      .next (s.mapCopy k handle fun x => { x with st := .running, started := true })
    else .next s

/-- The node of a copy that has ended learns how (R236, R315). -/
def State.copyNodeDone (s : State) (x : Copy) : State :=
  match x.node with
  | none => s
  | some n => s.mapNode n fun m => { m with outcome := some (if x.st = .done then 0 else 2, copyStateCode x.st) }

/-- COPY_ABORTED: a stopped copy's writes are acknowledged, those that it has sent among them (R239). -/
def execCopyAborted (k : Key) (handle : Nat) (s : State) : Result :=
  match s.copy? k handle with
  | none => .next s
  | some x =>
    if x.aborting && !x.ended then
      let y := { x with st := .aborted, aborting := false, ahead := [] }
      .next (((s.landWhere fun p => p.kind = .copy handle && p.agent = k).endCopy y).copyNodeDone y)
    else .next s

/-- XCOPY.ABORT on a copy: `none` when it is LATE (R239). -/
def State.abortCopy (s : State) (k : Key) (handle : Nat) : Option State :=
  match s.copy? k handle with
  | none => none
  | some x =>
    if x.ended then none
    else if x.st = .queued || x.st = .grant then
      let y := { x with st := .aborted }
      some ((s.endCopy y).copyNodeDone y)
    else some (s.mapCopy k handle fun x => { x with aborting := true })

/-- RESTART of a FAULTED copy: it goes on from C once a place is free (R227, R234). -/
def State.restartCopy (s : State) (k : Key) (handle : Nat) : State :=
  match s.copy? k handle with
  | none => s
  | some x =>
    if x.st ≠ .faulted || x.aborting then s
    else
      let st := if s.placeFree x.h then CopyState.running else .queued
      s.mapCopy k handle fun x => { x with st := st, spec := x.commit, ahead := [], reason := 0, faultAddr := 0 }

/-- The copy that cpsel selects (R234). -/
def State.selectedCopy (s : State) : Nat := fld s.cx.cpsel 31 0

/-- A write of cpctl (R234, R241): ABORT wins over RESTART. -/
def State.writeCpctl (s : State) (w : Word) : State :=
  if w.getLsbD 1 then (s.abortCopy s.cx.key s.selectedCopy).getD s
  else if w.getLsbD 0 then s.restartCopy s.cx.key s.selectedCopy
  else s

/-- CPCTL_RESTART: RESTART is written to cpctl (R234). -/
def execCpctlRestart (s : State) : Result := .next (s.writeCpctl 1)

/-- CPCTL_ABORT: ABORT is written to cpctl (R234). -/
def execCpctlAbort (s : State) : Result := .next (s.writeCpctl 2)

/-! ## The resident handler's reach (R376) -/

/-- The copy-queue CSRs of a site. -/
def State.cqueue (s : State) (h : Nat) : CopyQueue :=
  (s.copyQueues.find? fun x => x.h = h).getD ⟨h, 0, Vector.replicate 12 0, [], 0⟩

/-- The copy-queue CSRs of a site set. -/
def State.setCqueue (s : State) (x : CopyQueue) : State := { s with copyQueues := upsert (fun y => y.h = x.h) x s.copyQueues }

/-- Kind code of word 9 (R376): the codes of R315, and 3 for the one-dimensional form. -/
def copyKindCode : CopyKind → Nat
  | .d1 => 0
  | .d2 => 1
  | .tile => 2
  | .gath => 3

/-- The kind of a code. -/
def copyKindOf : Nat → CopyKind
  | 0 => .d1
  | 1 => .d2
  | 2 => .tile
  | _ => .gath

/-- Word `w` of an entry (R376). -/
def Copy.word (x : Copy) (w : Nat) : Word :=
  if w < 8 then toWord (bytesAt x.desc.toNat (8 * w) 8)
  else
    match w with
    | 8 => toWord (x.handle + x.agent.slot % 8 * 2 ^ 32)
    | 9 => toWord (copyKindCode x.kind + (if x.acq then 4 else 0) + (if x.rel then 8 else 0) + x.scope * 16 +
        copyStateCode x.st * 256 + x.reason * 4096 + (if x.acqDone then 65536 else 0))
    | 10 => toWord (x.commit + x.spec * 2 ^ 32)
    | 11 => copyStatus (some x) 0
    | _ => 0

/-- cqdata: word WORD of entry IDX; 0 for an empty entry (R376). -/
def State.cqdata (s : State) (h : Nat) : Word :=
  let sel := (s.cqueue h).sel
  match (s.engineQueue h)[fld sel 3 0]? with
  | none => 0
  | some x => x.word (fld sel 7 4)

/-- HOLD (R376): the engine stops reading for every copy of a slot; BUSY until their writes are acknowledged, whatever other slot is
held meanwhile. -/
def State.holdCopies (s : State) (h slot : Nat) : State :=
  let t : State := { s with copies := s.copies.map fun (x : Copy) =>
    if x.agent = (⟨h, slot⟩ : Key) && !x.ended then { x with held := true } else x }
  let q := t.cqueue h
  t.setCqueue { q with busy := (q.busy ++ [slot]).eraseDups, result := 0 }

/-- REMOVE (R376): the held entries of a slot leave the queue, those of a context saved from it among them; a copy that has ended holds
no entry, and its status stays known (R228). -/
def State.removeCopies (s : State) (h slot : Nat) : State :=
  let t : State := { s with copies := s.copies.map fun (x : Copy) =>
    if x.agent.h = h && x.agent.slot % 8 = slot && x.held && !x.ended then { x with removed := true } else x }
  t.setCqueue { t.cqueue h with result := 0 }

/-- The copy that a staging entry describes, for a slot (R376). -/
def stagedCopy (q : CopyQueue) (slot order : Nat) : Copy :=
  let g := fun (i : Fin 12) => q.stage.get i
  let desc := BitVec.ofNat 512 (packElems 64 (fun i => (q.stage[i]?.getD 0).toNat) 8)
  let w9 := g 9
  let st := match fld w9 11 8 with
    | 2 => CopyState.grant
    | 3 => .running
    | 4 => .faulted
    | _ => .queued
  ⟨q.h, ⟨q.h, slot⟩, fld (g 8) 31 0, copyKindOf (fld w9 1 0), desc, w9.getLsbD 2, w9.getLsbD 3, fld w9 5 4, st, fld w9 15 12,
    fld (g 10) 31 0, fld (g 10) 31 0, BitVec.ofNat 5 (fld (g 11) 20 16), .K, w9.getLsbD 16,
    w9.getLsbD 16 || st = .running || st = .faulted || fld (g 10) 31 0 ≠ 0, false, false, 0, none, order, [], false⟩

/-- A rebuilt copy is the one that REMOVE took out: what the entry's words do not hold, it keeps (R108, R234, R236, R376). A staged
entry that was never removed runs at K for no node: DESIGN CHOICE (101). -/
def Copy.rebuilt (x : Copy) (old : Option Copy) : Copy :=
  match old with
  | none => x
  | some o => { x with lvl := o.lvl, seq := o.seq, node := o.node, faultAddr := if x.st = .faulted then o.faultAddr else 0 }

/-- The removed copy that an entry staged for a slot names. -/
def State.removedCopy (s : State) (x : Copy) : Option Copy :=
  let l := s.copies.filter fun (y : Copy) => y.removed && y.handle = x.handle && y.agent.h = x.h && y.agent.slot % 8 = x.agent.slot
  (l.find? fun y => y.agent = x.agent).or l.head?

/-- REBUILD (R376): the staging entry is enqueued for a slot; a running one takes a place again as a restart does (R227). -/
def State.rebuildCopy (s : State) (h slot : Nat) : State :=
  let q := s.cqueue h
  let x := stagedCopy q slot s.order
  let old := s.removedCopy x
  let used := (s.engineQueue h).any fun y => y.agent = x.agent && y.handle = x.handle
  if !copyDescOk x.kind x.desc || copySize x.desc = 0 || 2 ^ 24 < copySize x.desc || used then s.setCqueue { q with result := 2 }
  else if !s.copyRoom ⟨h, slot⟩ then s.setCqueue { q with result := 1 }
  else
    let y := { x.rebuilt old with st := if x.st = .running then .queued else x.st }
    ({ s with copies := (s.copies.filter fun z => some z ≠ old) ++ [y] } : State).tickOrder.setCqueue { q with result := 0 }

/-- A write of cqctl by the core of a site (R376). -/
def State.writeCqctl (s : State) (h : Nat) (w : Word) : State :=
  let slot := fld w 10 8
  match fld w 2 0 with
  | 1 => s.holdCopies h slot
  | 2 => s.removeCopies h slot
  | 3 => s.rebuildCopy h slot
  | _ => s

/-- CQCTL_HOLD (R376). -/
def execCqctlHold (slot : Nat) (s : State) : Result := .next (s.holdCopies s.cx.key.h slot)

/-- CQCTL_REMOVE (R376). -/
def execCqctlRemove (slot : Nat) (s : State) : Result := .next (s.removeCopies s.cx.key.h slot)

/-- CQCTL_REBUILD (R376). -/
def execCqctlRebuild (slot : Nat) (s : State) : Result := .next (s.rebuildCopy s.cx.key.h slot)

/-- The writes of every held copy of a slot are acknowledged: nothing that was read waits to be written (R376). -/
def State.holdDone (s : State) (h slot : Nat) : Bool :=
  s.copies.all fun x => !(x.h = h && x.agent.slot = slot && x.held && x.st = .running && !x.ahead.isEmpty)

/-- COPY_HOLD_COMPLETE: of the slots whose HOLD is in progress, those whose copies' writes are acknowledged are held, with C = S; BUSY
clears with the last (R376). -/
def execCopyHoldComplete (h : Nat) (s : State) : Result :=
  let q := s.cqueue h
  let s := q.busy.foldl (fun (s : State) slot => s.landOf ⟨h, slot⟩) s
  let done := q.busy.filter fun slot => s.holdDone h slot
  if done.isEmpty then .next s
  else .next (({ s with copies := s.copies.map fun x =>
      if x.h = h && x.held && x.st ≠ .faulted && done.contains x.agent.slot then { x with spec := x.commit } else x } : State).setCqueue
        { q with busy := q.busy.filter fun slot => !done.contains slot })

end Sys2Proof.Machine
end

