-- ==== Sys2Proof/Machine/Product.lean ====
section
/-! DEFINITION. Products: descriptors, feeds, accumulation and the epilogue (R61 to R63, R243 to R249, R254). -/

namespace Sys2Proof.Machine

/-! ## The product descriptor (R245) -/

/-- A little-endian field of a descriptor image. -/
def dfield (b : BitVec 512) (o n : Nat) : Nat := bytesAt b.toNat o n

def pdM (b : BitVec 512) : Nat := dfield b 0 1
def pdN (b : BitVec 512) : Nat := dfield b 1 1
def pdTag (b : BitVec 512) : Nat := dfield b 2 2
def pdK (b : BitVec 512) : Nat := dfield b 4 4
def pdA (b : BitVec 512) : Tag := BitVec.ofNat 4 (dfield b 8 1)
def pdB (b : BitVec 512) : Tag := BitVec.ofNat 4 (dfield b 9 1)
def pdOut (b : BitVec 512) : Tag := BitVec.ofNat 4 (dfield b 10 1)
def pdLink (b : BitVec 512) : Nat := dfield b 11 1
def pdSink (b : BitVec 512) : Nat := dfield b 12 2 % 1024
def pdMode (b : BitVec 512) : Nat := dfield b 14 1
def pdOrder (b : BitVec 512) : Nat := dfield b 15 1
def pdWin (b : BitVec 512) : Nat := dfield b 16 4
def pdRqs (b : BitVec 512) : Nat := dfield b 20 4
def pdBias (b : BitVec 512) : Word := toWord (dfield b 24 8)

/-- MODE bits: ADD, BIAS, ACT, ASLOT, RQ, QUIET, CIRQ. -/
def pdAdd (b : BitVec 512) : Bool := (pdMode b).testBit 0
def pdHasBias (b : BitVec 512) : Bool := (pdMode b).testBit 1
def pdAct (b : BitVec 512) : Bool := (pdMode b).testBit 2
def pdSlot (b : BitVec 512) : Bool := (pdMode b).testBit 3
def pdRq (b : BitVec 512) : Bool := (pdMode b).testBit 4
def pdQuiet (b : BitVec 512) : Bool := (pdMode b).testBit 5
def pdCirq (b : BitVec 512) : Bool := (pdMode b).testBit 6

/-- The operand classes (R243). -/
inductive ProdClass where
  | float (chunk : Nat) | qc4 | int8
  deriving DecidableEq, Repr

/-- FP8 and FP6 tags. -/
def isFp8or6 (t : Tag) : Bool := t = 9 || t = 10 || t = 11 || t = 12

/-- R61, R243: the class of an operand pair. -/
def pairClass (a b : Tag) : Option ProdClass :=
  if isFp8or6 a && isFp8or6 b then some (.float 16)
  else if a = 13 && b = 13 then some (.float 32)
  else if (a = 7 && b = 7) || (a = 8 && b = 8) then some (.float 8)
  else if (a = 14 && (b = 9 || b = 10)) || (b = 14 && (a = 9 || a = 10)) then some .qc4
  else if a = 2 && b = 2 then some .int8
  else none

/-- Tags that some pair of R243 holds. -/
def isOperandTag (t : Tag) : Bool := t = 2 || decide (7 ≤ t.toNat) && decide (t.toNat ≤ 14)

/-- Bytes of a window element (R244). -/
def outBytes (t : Tag) : Nat := if t = 4 || t = 6 then 4 else if t = 7 || t = 8 then 2 else 1

/-- OTAG, RQ, BIAS, ACT, ADD, AUNS and BUNS agree with the class (R244, R245). -/
def outputOk (b : BitVec 512) : Bool :=
  let o := pdOut b
  match pairClass (pdA b) (pdB b) with
  | none => false
  | some .int8 => ((o = 4 && !pdRq b) || (o = 2 && pdRq b)) && !pdHasBias b && !pdAct b && !pdAdd b
  | some _ => decide (6 ≤ o.toNat) && decide (o.toNat ≤ 13) && (!pdAdd b || o = 6) && !(pdLink b).testBit 4 && !(pdLink b).testBit 5

/-- R245: the descriptor's own fields are in order; `split` is the engine's mode. -/
def productFieldsOk (b : BitVec 512) (split : Bool) : Bool :=
  let byteTag := fun o => decide (dfield b o 1 < 16)
  1 ≤ pdM b && pdM b ≤ (if split then 32 else 64) && 1 ≤ pdN b && pdN b ≤ 64 && 1 ≤ pdK b && pdK b ≤ 65536 &&
    (pairClass (pdA b) (pdB b) ≠ some .qc4 || pdK b % 64 = 0) && byteTag 8 && byteTag 9 && byteTag 10 && outputOk b &&
    pdLink b < 64 && (pdLink b).testBit 3 = split && dfield b 12 2 < 1024 && pdMode b < 128 && pdOrder b < 16 &&
    pdWin b % 128 = 0 && (if pdHasBias b then (pdBias b).toNat % 4 = 0 else pdBias b = 0) && dfield b 32 4 ≤ 2 ^ 26 &&
    b.toNat >>> 288 = 0

/-! ## Feeds (R246, R249) -/

def fdSrc (b : BitVec 512) : Nat := dfield b 0 8
def fdQsc (b : BitVec 512) : Nat := dfield b 8 8
def fdGaddr (b : BitVec 512) : Nat := dfield b 16 8
def fdStr (b : BitVec 512) : Nat := dfield b 24 4
def fdFlags (b : BitVec 512) : Nat := dfield b 36 1

/-- A feed as the engine sees it, from its descriptor or from its control word and tile. -/
structure FeedHead where
  tag : Nat
  k : Nat
  lanes : Nat
  ftag : Tag
  dir : Nat
  half : Nat
  deriving DecidableEq, Repr

/-- The head of a feed (R246, R249). -/
def feedHead (b : BitVec 512) (tile : Option MReg) : FeedHead :=
  match tile with
  | none => ⟨dfield b 32 2, dfield b 28 4, dfield b 35 1, BitVec.ofNat 4 (dfield b 34 1), fdFlags b / 2 % 4, fdFlags b / 8 % 2⟩
  | some m => ⟨fld b 15 0, fld b 22 16, fld b 30 24, m.tag, fld b 33 32, fld b 34 34⟩

/-- Bits of an element of a feed image (R47). -/
def feedBits (t : Tag) : Nat := laneBits t

/-- An image's elements and the images of a feed: step-major, then lane-major (R246). -/
def imageElems (b : BitVec 512) (f : FeedHead) : Nat := if fdFlags b % 2 = 0 then f.lanes else f.k
def imageCount (b : BitVec 512) (f : FeedHead) : Nat := if fdFlags b % 2 = 0 then f.k else f.lanes

/-- Bytes of one image. -/
def imageBytes (b : BitVec 512) (f : FeedHead) : Nat := (feedBits f.ftag * imageElems b f + 7) / 8

/-- R246, R249: the fields of a feed are in order; `split` is the engine's mode. -/
def feedFieldsOk (b : BitVec 512) (tile : Option MReg) (split : Bool) : Bool :=
  let f := feedHead b tile
  let common := 1 ≤ f.k && 1 ≤ f.lanes && f.lanes ≤ 64 && (split || f.half = 0) && isOperandTag f.ftag
  match tile with
  | none =>
    let even := match feedBits f.ftag with | 4 => 2 | 6 => 4 | _ => 1
    common && f.k ≤ 65536 && dfield b 34 1 < 16 && fdFlags b < 16 && imageElems b f % even = 0 &&
      (if f.ftag = 14 then fdGaddr b % 4 = 0 else fdQsc b = 0 && fdGaddr b = 0) && b.toNat >>> 296 = 0
  | some m => common && f.k ≤ 64 && fld b 31 31 = 0 && fld b 23 23 = 0 && fld b 63 36 = 0 &&
      (m.tag ≠ 14 || (f.k = 64 && fld b 35 35 = 0))

/-- The first byte of [va, va + n) that a feed of the context may not read, if there is one (R98, R246). -/
def Ctx.feedBad (c : Ctx) (va n : Nat) : Option Nat :=
  let lo := localWindowBase + c.regBanks * 0x10000
  let hi := localWindowBase + c.scrEnd
  let reserve := (List.range c.banks.length).filterMap fun j =>
    if c.banks[j]? = some 15 then some (localWindowBase + j * 0x10000 + 0xC000) else none
  let bad := fun v => v < lo || hi ≤ v || reserve.any fun r => r ≤ v && v < r + 0x4000
  ((va :: hi :: reserve).filter fun v => va ≤ v && v < va + n && bad v).min?

/-- The first address that breaks R246; a feed whose FTAG is no element tag has no byte that can be told. -/
def Ctx.feedViolation (c : Ctx) (b : BitVec 512) : Option Nat :=
  let f := feedHead b none
  if !isOperandTag f.ftag then none
  else
  let images := (List.range (imageCount b f)).findSome? fun i => c.feedBad (fdSrc b + i * fdStr b) (imageBytes b f)
  let scales := if f.ftag = 14 then
      (c.feedBad (fdQsc b) (f.lanes * (f.k / 64))).or (c.feedBad (fdGaddr b) 4)
    else none
  images.or scales

/-! ## Reading operands (R246 to R249) -/

/-- The place of a byte that a feed of the context names. -/
def Ctx.feedPlace (c : Ctx) (va : Nat) : Nat := c.localPlace (va - localWindowBase)

/-- The addresses of the bytes that hold lane `j`, step `k` of a feed, and the first bit there. -/
def feedSpan (b : BitVec 512) (f : FeedHead) (j k : Nat) : List Nat × Nat :=
  let (image, e) := if fdFlags b % 2 = 0 then (k, j) else (j, k)
  let bit := feedBits f.ftag * e
  let base := fdSrc b + image * fdStr b + bit / 8
  ((List.range ((bit % 8 + feedBits f.ftag + 7) / 8)).map (base + ·), bit % 8)

/-- Lane `j`, step `k` of a feed whose port reads the byte at an address as `rd` says. -/
def feedElem (rd : Nat → Nat) (b : BitVec 512) (tile : Option MReg) (j k : Nat) : Nat :=
  let f := feedHead b tile
  match tile with
  | some m => if fld b 35 35 = 0 then m.elem j k else m.elem k j
  | none =>
    let (as, bit) := feedSpan b f j k
    let v := (as.mapIdx fun i a => rd a <<< (8 * i)).sum
    (v >>> bit) % 2 ^ feedBits f.ftag

/-- The address of the scale byte of lane `j`, block `m` of a QC4 feed. -/
def scaleAddr (b : BitVec 512) (j m : Nat) : Nat := fdQsc b + j * (dfield b 28 4 / 64) + m

/-- The scale byte of lane `j`, block `m` of a QC4 feed. -/
def feedScale (rd : Nat → Nat) (b : BitVec 512) (tile : Option MReg) (j m : Nat) : Nat :=
  match tile with
  | some t => t.sideByte j
  | none => rd (scaleAddr b j m)

/-- The group scale of a QC4 feed. -/
def feedGroup (rd : Nat → Nat) (b : BitVec 512) (tile : Option MReg) : Nat :=
  match tile with
  | some t => t.group
  | none => ((List.range 4).map fun i => rd (fdGaddr b + i) <<< (8 * i)).sum

/-- What the port of a feed reads for step `k` (R247): its lanes, 16 bits each; for QC4 the lanes' block scales and the group scale
after them. -/
def feedStep (rd : Nat → Nat) (b : BitVec 512) (tile : Option MReg) (k : Nat) : Nat :=
  let f := feedHead b tile
  packElems 16 (fun j => feedElem rd b tile j k) f.lanes +
    (if f.ftag = 14 then packElems 8 (fun j => feedScale rd b tile j (k / 64)) f.lanes * 2 ^ 1024 + feedGroup rd b tile * 2 ^ 1536
     else 0)

/-- The addresses of the bytes that step `k` of a feed takes (R247, R248). -/
def stepBytes (b : BitVec 512) (tile : Option MReg) (k : Nat) : List Nat :=
  match tile with
  | some _ => []
  | none =>
    let f := feedHead b none
    (List.range f.lanes).flatMap (fun j => (feedSpan b f j k).1 ++ (if f.ftag = 14 then [scaleAddr b j (k / 64)] else [])) ++
      (if f.ftag = 14 then (List.range 4).map (fdGaddr b + ·) else [])

/-- A lane, a block scale and the group scale of a step. -/
def stepElem (w j : Nat) : Nat := (w >>> (16 * j)) % 65536
def stepScale (w j : Nat) : Nat := (w >>> (1024 + 8 * j)) % 256
def stepGroup (w : Nat) : Nat := (w >>> 1536) % 2 ^ 32

/-! ## Accumulation (R61 to R63) -/

/-- An accumulator and what it raised: flags, and the wrap bit of INT8. -/
structure Accum where
  bits : Nat
  flags : VFlags
  iov : Bool
  deriving DecidableEq, Repr

/-- Exact sum of numbers; infinities of both signs make a NaN. -/
def sumNums (l : List Num) : Num := l.foldl (fun a x => (numAdd 0 a x).num) (.exact false 0 0)

/-- Whether a number is infinite. -/
def Num.isInf : Num → Bool
  | .inf _ => true
  | _ => false

/-- acc ← rne(acc + S): an exact zero changes nothing; NV when a NaN arises, OF when a finite sum overflows (R61, R243).
`nan` says that an operand was NaN. -/
def Accum.add (a : Accum) (sum : Num) (nan : Bool) : Accum :=
  if sum.isZero then a
  else
    let old := fp32.decode a.bits
    let r := fp32.round 0 false (numAdd 0 old sum).num
    let new := fp32.decode r.bits
    let nv : VFlags := if new.isNan && !old.isNan && !nan then flagNV else 0
    let ov : VFlags := if new.isInf && !old.isInf && !sum.isInf then flagOF else 0
    { a with bits := r.bits, flags := a.flags ||| nv ||| ov }

/-- One chunk of steps [k, k + n) of the cell (R61). -/
def addChunk (x y : Nat → Num) (a : Accum) (k n : Nat) : Accum :=
  let steps := (List.range n).map (k + ·)
  a.add (sumNums (steps.map fun i => (numMul (x i) (y i)).num)) (steps.any fun i => (x i).isNan || (y i).isNan)

/-- The floating classes: chunks of `n` steps in increasing k (R61). -/
def accumFloat (x y : Nat → Num) (k n : Nat) : Accum :=
  (List.range ((k + n - 1) / n)).foldl (fun a c => addChunk x y a (c * n) (min n (k - c * n))) ⟨0, 0, false⟩

/-- QC4 × FP8: one block of 64 steps at a time; a block of scale 0 is not examined (R62). -/
def accumQc4 (code : Nat → Nat) (scale : Nat → Nat) (g : Num) (y : Nat → Num) (k : Nat) : Accum :=
  (List.range (k / 64)).foldl (fun a j =>
    if scale j = 0 then a
    else
      let steps := (List.range 64).map (64 * j + ·)
      let level := fun i => Num.exact (qc4Value (code i)).neg (qc4Level (code i % 8)) 0
      let l := sumNums (steps.map fun i => (numMul (level i) (y i)).num)
      let t := (numMul (numMul l (.exact false (scale j) (-16))).num g).num
      a.add t (g.isNan || steps.any fun i => (y i).isNan)) ⟨0, 0, false⟩

/-- INT8 × INT8: modulo 2^32, with a sticky wrap bit (R63). -/
def accumInt (x y : Nat → Int) (k : Nat) : Accum :=
  (List.range k).foldl (fun a i =>
    let v := bitsInt 32 false a.bits + x i * y i
    ⟨intBits 32 v, 0, a.iov || v ≠ bitsInt 32 false (intBits 32 v)⟩) ⟨0, 0, false⟩

/-! ## The epilogue (R253, R254) -/

/-- The segment of an FP32 value (R253). -/
def segmentOf (y : Nat) : Nat :=
  let e := (y >>> 23) % 256
  32 * (y >>> 31 % 2) + (if e < 112 then 0 else min 31 (e - 111))

/-- Slope and intercept of a segment. -/
def segmentAt (t : BitVec 4096) (i : Nat) : Nat × Nat := (fld t (64 * i + 31) (64 * i), fld t (64 * i + 63) (64 * i + 32))

/-- What the epilogue takes from the product. -/
structure Epilogue where
  int : Bool
  out : Tag
  bias : Option Nat
  table : Option (BitVec 4096)
  scale : Nat
  deriving DecidableEq, Repr

/-- R254: one accumulator through the epilogue. -/
def Epilogue.apply (p : Epilogue) (acc : Nat) : Rounded :=
  let rnd := fun (r : NumF) => fRound fp32 0 r
  if p.int then
    if p.out = 4 then ⟨acc, 0⟩
    else
      let f := fp32.round 0 false (.ofInt (bitsInt 32 false acc))
      let g := rnd (numMul (fp32.decode f.bits) (fp32.decode p.scale))
      let r := toIntConvert 8 false 0 (fp32.decode g.bits)
      ⟨r.bits, f.flags ||| g.flags ||| r.flags⟩
  else
    let y1 : Rounded := match p.bias with
      | none => ⟨acc, 0⟩
      | some b => rnd (numAdd 0 (fp32.decode acc) (fp32.decode b))
    let y2 : Rounded := match p.table with
      | none => ⟨y1.bits, 0⟩
      | some t =>
        if (fp32.decode y1.bits).isNan then ⟨fp32.nanBits, 0⟩
        else
          let (a, c) := segmentAt t (segmentOf y1.bits)
          rnd (numFma 0 (fp32.decode a) (fp32.decode y1.bits) (fp32.decode c))
    let y3 := rnd (numMul (fp32.decode y2.bits) (fp32.decode p.scale))
    let r := convertElem 6 p.out false 0 true y3.bits
    ⟨r.bits, y1.flags ||| y2.flags ||| y3.flags ||| r.flags⟩

end Sys2Proof.Machine
end

