-- ==== Sys2Proof/Machine/Links.lean ====
section
/-! DEFINITION. Link engines: side queues, matching, the life of a product, delivery and the LINK instructions (R250 to R276). -/

namespace Sys2Proof.Machine

/-! ## Commands and queues -/

/-- The command is not over. -/
def LinkCmd.live (x : LinkCmd) : Bool := x.st ≠ .ended

/-- A feed's head. -/
def LinkCmd.head (x : LinkCmd) : FeedHead := feedHead x.desc x.tile

/-- The tag of a command. -/
def LinkCmd.tag (x : LinkCmd) : Nat := if x.feed then x.head.tag else pdTag x.desc

/-- K-steps of a command. -/
def LinkCmd.k (x : LinkCmd) : Nat := if x.feed then x.head.k else pdK x.desc

/-- The command of a context with a handle. -/
def State.link? (s : State) (k : Key) (h : Nat) : Option LinkCmd := s.links.find? fun x => x.owner = k && x.handle = h

/-- A command changed by `f`. -/
def State.mapLink (s : State) (k : Key) (h : Nat) (f : LinkCmd → LinkCmd) : State :=
  { s with links := s.links.map fun x => if x.owner = k && x.handle = h then f x else x }

/-- Live commands at one end of a half of a link (R250). -/
def State.sideQueue (s : State) (l : Link) (far : Bool) (half : Nat) : List LinkCmd :=
  s.links.filter fun x => x.live && x.link = l && x.far = far && x.half = half

/-- The state code of R251. -/
def linkCode : LinkState → Nat
  | .queued => 1
  | .opened => 2
  | .grant => 3
  | .running => 4
  | .delivering => 5
  | .ended => 6

/-- The status word of R266, with T and the reason in `low`. -/
def linkStatus (x : Option LinkCmd) (low : Nat) : Word :=
  match x with
  | none => toWord low
  | some x =>
    toWord (low + linkCode x.st * 256 + (if x.st = .ended then x.result else 0) * 4096 +
      (if x.feed then 0 else x.flags.toNat * 65536) + (if x.iov then 2 ^ 21 else 0) + (if x.feed then 2 ^ 23 else 0) +
      x.pos * 2 ^ 32)

/-! ## Fencing (R13, R101) -/

/-- SHARE of a context's partition word (R96). -/
def Ctx.share (c : Ctx) : Nat := fld c.ident.pword 15 12

/-- R101: the link is open for kernel `kid`, whose context stands at the end `far`. -/
def State.linkOpen (s : State) (l : Link) (far : Bool) (kid : Nat) : Bool :=
  let (a, b) := linkEnds l
  let (own, other) := if far then (b, a) else (a, b)
  linkOnDie l && (s.leafOfSite a).isSome && s.leafOfSite a = s.leafOfSite b &&
    s.ctxs.any fun c => c.status ≠ .free && c.kid = kid && c.key.h = own &&
      s.siteHolds other fun o => o.kid = kid || (o.leaf = c.leaf && o.share = c.share && c.share ≠ 0)

/-! ## Ending (R250, R258, R273) -/

/-- A command ends: it is remembered while it is among the 16 most recently ended of its context (R251). -/
def State.endLink (s : State) (x : LinkCmd) (result : Nat) : State :=
  let y := { x with st := .ended, result := result, out := [], bytes := [] }
  let rest := s.links.filter fun z => !(z.owner = x.owner && z.handle = x.handle)
  { s with links := keepRecent 16 (fun z => z.owner = x.owner && !z.live) (rest ++ [y]) }

/-- A matched feed ends with its product (R258, R275). -/
def State.endFeed (s : State) (f : Option (Key × Nat)) (result : Nat) : State :=
  match f.bind fun p => s.link? p.1 p.2 with
  | none => s
  | some x => if x.live then s.endLink { x with steps := [] } result else s

/-- Cause 32 for a context, with a command's status word in Lval2 (R258). -/
def State.linkFault (s : State) (x : LinkCmd) (offset : Nat) : State :=
  match s.link? x.owner x.handle with
  | none => s
  | some y => s.mapOwner x.owner fun c => c.async 32 (toWord (x.handle + offset * 2 ^ 32)) (linkStatus (some y) 0) .T

/-- A product ends with a result; so do its matched feeds; cause 32, interrupt 21 and its node follow (R258, R273).
`offset` is that of the failing element of the owner, for FEED_FAULT. -/
def State.endProduct (s : State) (x : LinkCmd) (result offset : Nat) : State :=
  let t := ((s.endLink x result).endFeed x.feedA result).endFeed x.feedB result
  let t := if result ≠ 0 && result ≠ 8 && !x.quiet then t.linkFault x offset else t
  let t := if pdCirq x.desc then t.mapOwner x.owner fun c => c.irq 21 .T (toWord x.handle) else t
  match x.node with
  | none => t
  | some n => t.mapNode n fun m => { m with outcome := some (if result = 0 then 0 else 2, result) }

/-- The product that holds a half, from OPEN to DELIVERING (R250). -/
def State.openProduct (s : State) (l : Link) (half : Nat) : Option LinkCmd :=
  s.links.find? fun x => !x.feed && x.link = l && x.half = half &&
    (x.st = .opened || x.st = .grant || x.st = .running || x.st = .delivering)

/-- The open product that a feed is matched to, not yet DELIVERING. -/
def State.productOf (s : State) (f : LinkCmd) : Option LinkCmd :=
  (s.openProduct f.link f.half).filter fun p =>
    p.feedA = some (f.owner, f.handle) || p.feedB = some (f.owner, f.handle)

/-! ## Matching (R250) -/

/-- Whether the feed's end supplies side A of the product (R242): the owner's side by OSIDE. -/
def feedsA (p : LinkCmd) (far : Bool) : Bool := (far = p.far) = !(pdLink p.desc).testBit 2

/-- The side of a product that an end feeds is unmatched. -/
def sideFree (p : LinkCmd) (far : Bool) : Bool := if feedsA p far then p.feedA.isNone else p.feedB.isNone

/-- A feed agrees with the product it matches (R250). -/
def feedAgrees (p f : LinkCmd) : Bool :=
  let h := f.head
  let a := feedsA p f.far
  h.k = pdK p.desc && h.lanes = (if a then pdM p.desc else pdN p.desc) && h.ftag = (if a then pdA p.desc else pdB p.desc)

/-- The product with a feed matched on its side. -/
def LinkCmd.withFeed (p f : LinkCmd) : LinkCmd :=
  if feedsA p f.far then { p with feedA := some (f.owner, f.handle) } else { p with feedB := some (f.owner, f.handle) }

/-- The context's feeds pause: it is pre-empted, its pool is away, or it is halted (R270). -/
def Ctx.feedsPause (c : Ctx) : Bool :=
  c.status = .saving || c.status = .saved || c.status = .restoring || c.halt.any (·.halted)

/-- A feed matches the open product of its half (R250): both end FEED_MISMATCH when they disagree. The feed of a context that is away
is paused from the start (R270). -/
def State.matchFeed (s : State) (p f : LinkCmd) : State :=
  let q := p.withFeed f
  let away := (s.owner? f.owner).any Ctx.feedsPause
  let t := (s.mapLink p.owner p.handle fun _ => q).mapLink f.owner f.handle fun f => { f with st := .opened, paused := away }
  if feedAgrees p f then t else t.endProduct q 1 0

/-- The oldest arrived feed at an end that the product can match (R250). -/
def State.feedFor (s : State) (p : LinkCmd) (far : Bool) : Option LinkCmd :=
  (s.sideQueue p.link far p.half).foldl (fun (acc : Option LinkCmd) x =>
    if x.feed && x.arrived && x.st = .queued && x.tag = p.tag then
      match acc with
      | some y => if x.order < y.order then some x else acc
      | none => some x
    else acc) none

/-- The open product of a half matches what waits at one end. -/
def State.matchSide (s : State) (l : Link) (half : Nat) (far : Bool) : State :=
  match s.openProduct l half with
  | none => s
  | some p =>
    if p.st ≠ .opened || !sideFree p far then s
    else
      match s.feedFor p far with
      | none => s
      | some f => s.matchFeed p f

/-! ## Opening (R250, R252) -/

/-- A place lies in a retired bank or in a poisoned line. -/
def State.badPlace (s : State) (a : Nat) : Bool :=
  s.poison.contains (a / 128) || s.sol.retired.any fun u =>
    match u with
    | .bank h b => a / 0x10000 = siteAddr h (b * 0x10000) / 0x10000
    | .site h => decide (siteAddr h 0 ≤ a) && decide (a < siteAddr (h + 1) 0)
    | _ => false

/-- Bytes of a window (R252). -/
def windowBytes (b : BitVec 512) : Nat := 128 + pdM b * 64 * outBytes (pdOut b)

/-- The sink's context, resident or in its image (R252). -/
def State.sinkOf (s : State) (c : Ctx) (b : BitVec 512) : Option Ctx :=
  s.ctxs.find? fun t => t.kid = c.kid && t.key.h = c.leafBase + pdSink b && t.status ≠ .free

/-- Offset of the window in the sink's local window. -/
def Ctx.windowAt (t : Ctx) (b : BitVec 512) : Nat := t.regBanks * 0x10000 + pdWin b

/-- R252: the first failing check of a product that opens, 0 for none. -/
def State.openReason (s : State) (c : Ctx) (x : LinkCmd) : Nat :=
  if !linkOnDie x.link then 4
  else if (s.engine x.link).retired then 5
  else if !s.linkOpen x.link x.far c.kid then 4
  else if c.leafLen ≤ pdSink x.desc then 3
  else
    match s.sinkOf c x.desc with
    | none => 3
    | some t => if t.accBanks * 0x10000 < pdWin x.desc + windowBytes x.desc then 3 else 0

/-- The product with the feed that waits at one end, which ends with it when it fails as it opens (R273). -/
def State.adopt (s : State) (p : LinkCmd) (far : Bool) : LinkCmd :=
  match s.feedFor p far with
  | some f => if sideFree p far then p.withFeed f else p
  | none => p

/-- A product fails as it opens: the feeds it would have matched end with it (R252, R273). -/
def State.failOpening (s : State) (p : LinkCmd) (result offset : Nat) : State :=
  s.endProduct (s.adopt (s.adopt p false) true) result offset

/-- The bias words of a product, and the offset of the first one that cannot be read (R252, R273). -/
def State.readBias (s : State) (c : Ctx) (b : BitVec 512) : BitVec 2048 × Option Nat :=
  if !pdHasBias b then (0, none)
  else
    let o := (pdBias b).toNat - localWindowBase
    (BitVec.ofNat 2048 (packElems 32 (fun i => s.load (c.localPlace (o + 4 * i)) 4) (pdN b)),
      ((List.range (pdN b)).map (o + 4 * ·)).find? fun a => s.badPlace (c.localPlace a))

/-- The product that opens next in a half: the oldest queued one of its two ends (R250). -/
def State.nextProduct (s : State) (l : Link) (half : Nat) : Option LinkCmd :=
  (s.links.filter fun x => !x.feed && x.link = l && x.half = half && x.st = .queued).foldl
    (fun (acc : Option LinkCmd) x =>
      match acc with
      | some y => if x.order < y.order then some x else acc
      | none => some x) none

/-- The engine of a context starts a command issued at a moment: what the acquires of its thread came after at core scope is performed
first, and with ACQ every earlier access of the thread (R341, R342); `none` while one cannot be. -/
def State.engineStart (s : State) (k : Key) (order : Nat) (acq : Bool) : Option State :=
  (s.heeded k order).bind fun t => if acq then t.engineOrder k order else some t

/-- The bias of a product can be read: there is none, or its owner's pool is in place and its core runs (R374, R404). -/
def State.biasHere (s : State) (x : LinkCmd) : Bool :=
  !pdHasBias x.desc || ((s.ctx? x.owner).isSome && s.poweredSite x.owner.h)

/-- PRODUCT_OPEN: the checks of R252, the acquire and the bias read of R275, and the matching of feeds that wait (R250). A product whose
owner is away waits for it before it reads its bias. -/
def execProductOpen (l : Link) (half : Nat) (s : State) : Result :=
  match s.openProduct l half, s.nextProduct l half with
  | none, some x =>
    match s.owner? x.owner with
    | none => .next s
    | some c =>
      let why := s.openReason c x
      if why ≠ 0 then .next (s.failOpening x why 0)
      else
      if !s.biasHere x then .next s
      else
      match s.engineStart x.owner x.order x.acq with
      | none => .next s
      | some t =>
        let (bias, bad) := t.readBias c x.desc
        match bad with
        | some o => .next (t.failOpening x 7 o)
        | none =>
          let e := t.engine l
          let u := t.mapLink x.owner x.handle fun x =>
            { x with st := .opened, bias := bias, table := if pdSlot x.desc then e.table1 else e.table0 }
          .next ((u.matchSide l half false).matchSide l half true)
  | _, _ => .next s

/-- An older feed of the same side queue has not reached the engine yet: the commands of one core arrive in their order (R250, R265). -/
def State.feedAhead (s : State) (f : LinkCmd) : Bool :=
  (s.sideQueue f.link f.far f.half).any fun x => x.feed && !x.arrived && decide (x.order < f.order)

/-- FEED_ARRIVAL: a feed reaches the engine; the open product is checked against R101 again, and matches it or not (R101,
R250). -/
def execFeedArrival (k : Key) (handle : Nat) (s : State) : Result :=
  match s.link? k handle with
  | none => .next s
  | some f =>
    if !f.feed || f.arrived || f.st ≠ .queued || s.feedAhead f then .next s
    else
      let t := s.mapLink k handle fun f => { f with arrived := true }
      match t.openProduct f.link f.half with
      | none => .next t
      | some p =>
        if p.st = .opened && p.tag = f.tag && !(s.owner? p.owner).any fun c => s.linkOpen p.link p.far c.kid then
          .next (t.endProduct (t.adopt p f.far) 4 0)
        else .next (t.matchSide f.link f.half f.far)

/-- PRODUCT_GRANT: Solstice grants the power leave, and the product runs (R17, R252). -/
def execProductGrant (l : Link) (half : Nat) (s : State) : Result :=
  match s.openProduct l half with
  | none => .next s
  | some p =>
    if p.st ≠ .grant then .next s
    else
      let run := fun (s : State) (f : Option (Key × Nat)) =>
        match f with
        | some (k, h) => s.mapLink k h fun x => { x with st := .running }
        | none => s
      .next (run (run (s.mapLink p.owner p.handle fun x => { x with st := .running }) p.feedA) p.feedB)

/-! ## Streaming (R247, R254, R273) -/

/-- A feed that a product has matched. -/
def State.matched (s : State) (f : Option (Key × Nat)) : Option LinkCmd := f.bind fun p => s.link? p.1 p.2

/-- The window offset of the first byte of step `k` that an uncorrectable error or a retired bank keeps from a feed (R273). -/
def State.stepFault (s : State) (c : Ctx) (x : LinkCmd) (k : Nat) : Option Nat :=
  ((stepBytes x.desc x.tile k).find? fun a => !(x.bytes.any (·.1 = a)) && s.badPlace (c.feedPlace a)).map (· - localWindowBase)

/-- The byte at an address as the port of a feed has read it, or as the pool holds it now. -/
def State.feedByte (s : State) (c : Ctx) (x : LinkCmd) (a : Nat) : Byte :=
  tabGet x.bytes a (memGet s.mem (c.feedPlace a))

/-- The port reads bytes of the pool, each once (R248). -/
def LinkCmd.take (s : State) (c : Ctx) (as : List Nat) (x : LinkCmd) : LinkCmd :=
  { x with bytes := x.bytes ++ ((as.eraseDups.filter fun a => !(x.bytes.any (·.1 = a))).map fun a => (a, memGet s.mem (c.feedPlace a))) }

/-- The port of a live feed reads on: its context is here, its site runs, and what its reads come after is performed (R248, R270, R404). -/
def State.feedPort (s : State) (k : Key) (f : LinkCmd) : Option (Ctx × State) :=
  match s.ctx? k with
  | none => none
  | some c =>
    if !f.live || f.paused || c.feedsPause || !s.poweredSite k.h || f.k ≤ f.pos then none
    else (s.engineStart k f.order (f.acq && f.pos = 0 && f.bytes.isEmpty)).map fun t => (c, t)

/-- The port of a feed reads one byte ahead of the step that takes it (R248). -/
def State.feedRead (s : State) (k : Key) (handle a : Nat) : State :=
  match s.link? k handle with
  | none => s
  | some f =>
    match s.feedPort k f with
    | none => s
    | some (c, t) =>
      if f.feed && ((List.range' f.pos (f.k - f.pos)).any fun i => (stepBytes f.desc f.tile i).contains a) && !s.badPlace (c.feedPlace a)
      then t.mapLink k handle (LinkCmd.take t c [a]) else s

/-- K-steps that the product a feed is matched to has consumed. -/
def State.consumed (s : State) (f : LinkCmd) : Nat := ((s.productOf f).map (·.pos)).getD 0

/-- The port of a feed issues one step (R248, R267): not while its side is OFF or the feed is paused. OFF rises as the occupancy
reaches 48. A byte it cannot read ends the product FEED_FAULT, and the feeder takes cause 32 too, unless the product is a node's (R273,
R315). -/
def State.issueStep (s : State) (k : Key) (handle : Nat) : State :=
  match s.link? k handle with
  | none => s
  | some f =>
    match s.productOf f, s.feedPort k f with
    | some p, some (c, t) =>
      if f.off || p.st = .delivering then s
      else
        match t.stepFault c f f.pos with
        | some o =>
          let u := t.endLink { f with steps := [] } 7
          (if p.node.isSome then u else u.linkFault f o).endProduct p 7 o
        | none =>
          let rd := fun a => (t.feedByte c f a).toNat
          t.mapLink k handle fun f =>
            { f.take t c (stepBytes f.desc f.tile f.pos) with
              steps := f.steps ++ [feedStep rd f.desc f.tile f.pos], pos := f.pos + 1, off := decide (48 ≤ f.pos + 1 - p.pos) }
    | _, _ => s

/-- Up to `n` steps of a feed are issued. -/
def State.issueSteps (s : State) (k : Key) (handle : Nat) : Nat → State
  | 0 => s
  | n + 1 => (s.issueStep k handle).issueSteps k handle n

/-- Both sides of the open product have staged a step: the rendezvous window stops, and the product asks for its power leave (R252,
R269). -/
def State.stageProduct (s : State) (l : Link) (half : Nat) : State :=
  match s.openProduct l half with
  | none => s
  | some p =>
    if p.st = .opened && ([p.feedA, p.feedB].all fun f => (s.matched f).any fun x => decide (1 ≤ x.pos)) then
      s.mapLink p.owner p.handle fun x => { x with st := .grant }
    else s

/-- Steps of a chunk (R61, R62); INT8 adds each step at once (R63). -/
def chunkSteps (b : BitVec 512) : Nat :=
  match pairClass (pdA b) (pdB b) with
  | some (.float n) => n
  | some .qc4 => 64
  | _ => 1

/-- K-steps whose chunk is added once `n` are consumed (R380 code 8). -/
def addedSteps (b : BitVec 512) (n : Nat) : Nat := if n = pdK b then n else n / chunkSteps b * chunkSteps b

/-- The cells consume one step of both sides, once both hold it (R267). OFF falls as an occupancy reaches 16. The counters of an owner
that is saved do not count (R381). -/
def State.consumeStep (s : State) (l : Link) (half : Nat) : State :=
  match s.openProduct l half with
  | none => s
  | some p =>
    let holds := fun (f : Option (Key × Nat)) => (s.matched f).any fun x => decide (p.pos < x.pos)
    if p.st = .running && decide (p.pos < p.k) && holds p.feedA && holds p.feedB then
      let ease := fun (s : State) (f : Option (Key × Nat)) =>
        match f with
        | some (k, h) => s.mapLink k h fun x => { x with off := x.off && decide (16 < x.pos - (p.pos + 1)) }
        | none => s
      let t := ease (ease (s.mapLink p.owner p.handle fun x => { x with pos := p.pos + 1 }) p.feedA) p.feedB
      t.countFor p.owner 8 (pdM p.desc * pdN p.desc * (addedSteps p.desc (p.pos + 1) - addedSteps p.desc p.pos))
    else s

/-- The cells consume up to `n` steps. -/
def State.consumeSteps (s : State) (l : Link) (half : Nat) : Nat → State
  | 0 => s
  | n + 1 => (s.consumeStep l half).consumeSteps l half n

/-- The accumulator of cell (i, j) of a product, from the steps that its two feeds have issued (R61 to R63). -/
def cell (p a b : LinkCmd) (i j : Nat) : Accum :=
  let d := p.desc
  let at_ := fun (f : LinkCmd) (k : Nat) => f.steps.getD k 0
  let ea := fun k => stepElem (at_ a k) i
  let eb := fun k => stepElem (at_ b k) j
  let na := fun k => elemNum (pdA d) false (ea k)
  let nb := fun k => elemNum (pdB d) false (eb k)
  let qc := fun (f : LinkCmd) (lane : Nat) (code : Nat → Nat) (y : Nat → Num) =>
    accumQc4 code (fun m => stepScale (at_ f (64 * m)) lane) (fp32.decode (stepGroup (at_ f 0))) y (pdK d)
  match pairClass (pdA d) (pdB d) with
  | some (.float n) => accumFloat na nb (pdK d) n
  | some .qc4 => if pdA d = 14 then qc a i ea nb else qc b j eb na
  | some .int8 => accumInt (fun k => bitsInt 8 ((pdLink d).testBit 4) (ea k)) (fun k => bitsInt 8 ((pdLink d).testBit 5) (eb k)) (pdK d)
  | none => ⟨0, 0, false⟩

/-- The epilogue of a product for column `j` (R254). -/
def epilogueOf (p : LinkCmd) (j : Nat) : Epilogue :=
  let d := p.desc
  ⟨pairClass (pdA d) (pdB d) = some .int8, pdOut d, if pdHasBias d then some (fld p.bias (32 * j + 31) (32 * j)) else none,
    if pdAct d then some p.table else none, if pdRq d then pdRqs d else 0x3F800000⟩

/-- Every element of a product's result, row by row, with the product's flags and its wrap bit (R254). -/
def productResult (p a b : LinkCmd) : List Nat × VFlags × Bool :=
  let cells := (List.range (pdM p.desc)).flatMap fun i => (List.range (pdN p.desc)).map fun j =>
    let acc := cell p a b i j
    let r := (epilogueOf p j).apply acc.bits
    (r.bits, acc.flags ||| r.flags, acc.iov)
  (cells.map (·.1), cells.foldl (fun f c => f ||| c.2.1) 0, cells.any (·.2.2))

/-! ## Delivery (R255, R272) -/

/-- The sink's pool is on its way to its image or back: it answers RETRY (R272, R375). -/
def State.sinkRetries (s : State) (c : Ctx) (b : BitVec 512) : Bool := s.retries c.kid (c.leafBase + pdSink b)

/-- A delivery waits: its sink's pool answers RETRY, or its site's pool is gated (R272, R404). -/
def State.sinkWaits (s : State) (c : Ctx) (b : BitVec 512) : Bool :=
  s.sinkRetries c b || !s.poweredSite (c.leafBase + pdSink b)

/-- The place of result element `e` of a product in its sink's window (R255). -/
def elemPlace (t : Ctx) (b : BitVec 512) (e : Nat) : Nat :=
  let w := outBytes (pdOut b)
  t.localPlace (t.windowAt b + 128 + 64 * w * (e / pdN b) + w * (e % pdN b))

/-- The next `n` result elements are written to the window, in order (R255 step 2); a row's packet leaves the owner's site with a stamp of
PRD, and waits while the class has no frame (R252, R309). The flag says that a write was refused (R273). -/
def State.writeElems (s : State) (t : Ctx) (p : LinkCmd) : Nat → State × LinkCmd × Bool
  | 0 => (s, p, false)
  | n + 1 =>
    match p.out with
    | [] => (s, p, false)
    | v :: rest =>
      let b := p.desc
      let e := pdM b * pdN b - p.out.length
      let a := elemPlace t b e
      if s.badPlace a then (s, p, true)
      else if e % pdN b = 0 && !s.roomFor p.owner.h t.leaf 2 then (s, p, false)
      else
        let u := s.store a (outBytes (pdOut b)) (if pdAdd b then portOp 8 4 (s.load a 4) v else v)
        let w := if e % pdN b = 0 then u.stampNext p.owner.h t.leaf 2 else u
        (w.countFor t.key 12 1).writeElems t { p with out := rest } n

/-- LAST, then 1 added to ARR, and the event of a bound window (R255 steps 3 and 4, R281). -/
def State.arrive (s : State) (t : Ctx) (p : LinkCmd) : State :=
  let o := t.windowAt p.desc
  let w := t.localPlace o
  let last := pdTag p.desc + p.flags.toNat * 2 ^ 16 + (if p.iov then 2 ^ 21 else 0)
  let u := s.store (w + 8) 8 last
  let v := u.store w 8 (portOp 0 8 (u.load w 8) 1)
  match t.bindings.find? fun b => b.src = .window o with
  | none => v
  | some b => v.mapCtx t.key fun c => c.register (.window o (BitVec.ofNat 16 (pdTag p.desc)) b.hnd)

/-- What the ARR release covers is performed: the earlier writes of the owner with REL, and of each feeder with REL (R248, R255);
`none` while one cannot be. -/
def State.releaseAll (s : State) (xs : List LinkCmd) : Option State :=
  (xs.filter (·.rel)).foldlM (fun s x => s.engineOrder x.owner x.order) s

/-- Delivery goes on by up to `n` elements; at the end LAST and ARR are written and the product ends OK. A sink that has gone or
refuses a write ends it SINK_FAULT, and what was written stays (R255, R272, R273). -/
def State.deliver (s : State) (c : Ctx) (p : LinkCmd) (n : Nat) (finish : Bool) : State :=
  if s.sinkWaits c p.desc then s
  else
    match s.sinkOf c p.desc with
    | none => s.endProduct p 3 0
    | some t =>
      let (u, q, refused) := s.writeElems t p n
      let u := u.mapLink p.owner p.handle fun _ => q
      if refused then u.endProduct q 3 0
      else if !finish || !q.out.isEmpty then u
      else
        match u.releaseAll (q :: ((u.matched q.feedA).toList ++ (u.matched q.feedB).toList)) with
        | none => u
        | some v => if v.badPlace (t.localPlace (t.windowAt q.desc)) then v.endProduct q 3 0 else (v.arrive t q).endProduct q 0 0

/-- PRODUCT_DELIVERY: the last step is consumed; each element passes the epilogue, and the rows leave (R254, R255). -/
def execProductDelivery (l : Link) (half : Nat) (s : State) : Result :=
  match s.openProduct l half with
  | none => .next s
  | some p =>
    match s.matched p.feedA, s.matched p.feedB with
    | some a, some b =>
      if p.st ≠ .running || p.pos ≠ p.k then .next s
      else
        let (out, fl, iov) := productResult p a b
        .next (s.mapLink p.owner p.handle fun p => { p with st := .delivering, out := out, flags := fl.setWidth 5, iov := iov })
    | _, _ => .next s

/-- Up to `n` result elements of a half's product reach the window. -/
def State.deliverElems (s : State) (l : Link) (half n : Nat) : State :=
  match s.openProduct l half with
  | none => s
  | some p =>
    match s.owner? p.owner with
    | some c => if p.st = .delivering then s.deliver c p n false else s
    | none => s

/-- DELIVERY_COMPLETE: every row is written and acknowledged; LAST, ARR and the end of the product (R255). -/
def execDeliveryComplete (l : Link) (half : Nat) (s : State) : Result :=
  match s.openProduct l half with
  | none => .next s
  | some p =>
    match s.owner? p.owner with
    | some c => if p.st = .delivering then .next (s.deliver c p p.out.length true) else .next s
    | none => .next s

/-! ## Timeouts, residues and pauses (R250, R257, R269 to R272) -/

/-- RENDEZVOUS_TIMEOUT: RDV expires before both sides have staged a step (R269). -/
def execRendezvousTimeout (l : Link) (half : Nat) (s : State) : Result :=
  match s.openProduct l half with
  | none => .next s
  | some p => if p.st = .opened then .next (s.endProduct p 2 0) else .next s

/-- PAUSE_TIMEOUT: a paused feed has not resumed within RDV (R269, R271). -/
def execPauseTimeout (k : Key) (handle : Nat) (s : State) : Result :=
  match s.link? k handle with
  | none => .next s
  | some f =>
    match s.productOf f with
    | none => .next s
    | some p => if f.paused && f.live && p.st ≠ .delivering then .next (s.endProduct p 2 0) else .next s

/-- FEED_TIMEOUT: a feed still unmatched after 2^22 cycles (R250). -/
def execFeedTimeout (k : Key) (handle : Nat) (s : State) : Result :=
  match s.link? k handle with
  | none => .next s
  | some f => if f.feed && f.st = .queued then .next (s.endLink f 10) else .next s

/-- SINK_RETRY_TIMEOUT: the sink's pool is not back within RDV of the first RETRY (R272). -/
def execSinkRetryTimeout (l : Link) (half : Nat) (s : State) : Result :=
  match s.openProduct l half with
  | none => .next s
  | some p =>
    match s.owner? p.owner with
    | some c => if p.st = .delivering && s.sinkRetries c p.desc then .next (s.endProduct p 3 0) else .next s
    | none => .next s

/-- The unit address of a link in Lval of interrupt 16 (R257). -/
def linkWord (l : Link) : Word := toWord (l.h + (match l.dir with | .E => 0 | .N => 1024))

/-- RESIDUE_MISMATCH: a running product's engine replays on a spare column, or retires with none left (R257). -/
def execResidueMismatch (l : Link) (s : State) : Result :=
  match s.links.find? fun x => !x.feed && x.link = l && x.st = .running with
  | none => .next s
  | some p =>
    let e := s.engine l
    if e.spares < 2 then
      .next { s.setEngine { e with spares := e.spares + 1 } with sol := { s.sol with corrected := s.sol.corrected + 1 } }
    else
      let dead := s.links.filter fun x => !x.feed && x.link = l && x.live && x.st ≠ .delivering
      let t := dead.foldl (fun s x => s.endProduct x 5 0) ((s.setEngine { e with retired := true }).retireUnit (.engine l))
      .next (t.mapOwner p.owner fun c => c.irq 16 .P (linkWord l))

/-- A matched feed of a context pauses at the steps it has issued (R270). -/
def State.pauseFeeds (s : State) (k : Key) : State :=
  { s with links := s.links.map fun x =>
      if x.owner = k && x.feed && (x.st = .opened || x.st = .running) && !x.paused && (s.productOf x).any (fun p => p.st ≠ .delivering)
      then { x with paused := true } else x }

/-- FEED_RESUME: the context runs again with its pool in place (R271). -/
def execFeedResume (k : Key) (handle : Nat) (s : State) : Result :=
  match s.ctx? k, s.link? k handle with
  | some c, some f => if f.paused && c.holdsCore then .next (s.mapLink k handle fun f => { f with paused := false }) else .next s
  | _, _ => .next s

/-! ## Issue (R260) -/

/-- A command enters its side queue, or the reason it does not: 2 BADDESC, 1 FULL (R260). -/
def State.enqueueLink (s : State) (c : Ctx) (x : LinkCmd) (ok : Bool) : Except Nat State :=
  if !ok then .error 2
  else if 8 ≤ (s.sideQueue x.link x.far x.half).length then .error 1
  else
    .ok (({ s with links := s.links ++ [x] } : State).tickOrder.mapCtx c.key fun c =>
      { c with linkHandle := nextCount c.linkHandle })

/-- The command that a descriptor makes for a context. -/
def newLink (s : State) (c : Ctx) (lvl : Level) (feed : Bool) (l : Link) (far : Bool) (half : Nat) (b : BitVec 512)
    (tile : Option MReg) (order : Nat) (quiet : Bool) (node : Option Nat) : LinkCmd :=
  ⟨c.key, c.linkHandle, lvl, feed, l, far, half, b, tile, order % 2 = 1, order / 2 % 2 = 1, order / 4 % 4, .queued, 0, 0, 0,
    false, s.order, false, false, false, [], [], none, none, 0, 0, [], quiet, node⟩

/-- R245, R260: a product issued by a context; `order` is the ORDER byte in force. -/
def State.issueProduct (s : State) (c : Ctx) (lvl : Level) (b : BitVec 512) (order : Nat) (node : Option Nat) :
    Except Nat State :=
  match linkFrom c.key.h (pdLink b) with
  | none => .error 2
  | some (l, far, _) =>
    let split := (s.engine l).split
    let o := (pdBias b).toNat - localWindowBase
    let biasOk := !pdHasBias b || (regionOf (pdBias b) = .localWindow &&
      (List.range (4 * pdN b)).all fun i => (bankPlace c lvl .load (pdBias b) (o + i) 1).toOption.isSome)
    let half := if split && far then 1 else 0
    s.enqueueLink c (newLink s c lvl false l far half b none order (pdQuiet b || node.isSome) node)
      (productFieldsOk b split && biasOk)

/-- R246, R249, R260: a feed issued by a context. -/
def State.issueFeed (s : State) (c : Ctx) (lvl : Level) (b : BitVec 512) (tile : Option MReg) (order : Nat)
    (node : Option Nat) : Except Nat State :=
  let f := feedHead b tile
  match linkFrom c.key.h f.dir with
  | none => .error 2
  | some (l, far, _) =>
    let split := (s.engine l).split
    s.enqueueLink c (newLink s c lvl true l far f.half b tile order true node) (feedFieldsOk b tile split)

/-- The status that an issue writes to x[d] (R260). -/
def State.issued (s : State) (d : BitVec 5) (r : Except Nat State) : State :=
  match r with
  | .error why => s.result d (refusal why)
  | .ok t => t.result d (accepted s.cx.linkHandle)

/-- A descriptor of 64 bytes in the caller's SCR area (R260), read once what the core has sent to its own pool is there. -/
def State.readDesc (s : State) (a : BitVec 5) : Try (BitVec 512) := do
  let va := s.getX a
  check (va.toNat % 64 = 0) (exn 4 va)
  let p := s.cx.localPlace (← tryExn (s.cx.scrOperand va 64))
  s.ownPool p 64
  return BitVec.ofNat 512 (s.load p 64)

/-- LX.PROD (R260). -/
def execLxProd (a : BitVec 5) (d : BitVec 5) (s : State) : Result :=
  s.finish do
    let b ← s.readDesc a
    return s.issued d (s.issueProduct s.cx s.cx.level b (pdOrder b) none)

/-- The order byte of the aq, rl and scope fields. -/
def orderOf (aq rl : BitVec 1) (s : BitVec 2) : Nat := aq.toNat + 2 * rl.toNat + 4 * s.toNat

/-- Cause 35 of a feed's byte: the platform reserve is P's, anything else beyond the window is T's (R98, R246, R357). -/
def Ctx.feedExn (c : Ctx) (va : Nat) : Exn :=
  let o := va - localWindowBase
  if localWindowBase ≤ va && o < c.scrEnd && c.regBanks * 0x10000 ≤ o && c.reserved o then exnBoundary (toWord va) 5 .P
  else exnBoundary (toWord va) 4 .T

/-- LX.FEED (R246, R260): a byte outside the window raises cause 35 before the descriptor is judged. -/
def execLxFeed (aq : BitVec 1) (rl : BitVec 1) (a : BitVec 5) (s : BitVec 2) (d : BitVec 5) (st : State) : Result :=
  st.finish do
    let b ← st.readDesc a
    match st.cx.feedViolation b with
    | some va => raiseStop (st.cx.feedExn va)
    | none => return st.issued d (st.issueFeed st.cx st.cx.level b none (orderOf aq rl s) none)

/-- LX.FEEDT: the tile is taken now (R249, R260). -/
def execLxFeedt (aq : BitVec 1) (rl : BitVec 1) (b : BitVec 5) (a : BitVec 3) (s : BitVec 2) (d : BitVec 5) (st : State) : Result :=
  st.finish (
    let m := st.getM a
    if !isOperandTag m.tag then raiseStop (exnTagSet 1 a.toNat m.tag)
    else .ok (st.issued d (st.issueFeed st.cx st.cx.level ((st.getX b).setWidth 512) (some m) (orderOf aq rl s) none)))

/-! ## Waiting and aborting (R261, R262) -/

/-- The body of LX.WAIT (R261). -/
def lxWait (s : State) (twin : Bool) (a d : BitVec 5) : Try State := do
  if !twin && s.cx.handlerDiscipline then raiseStop (exn 27 0)
  let x := s.link? s.cx.key (fld (s.getX a) 31 0)
  if x.any (·.live) then (if twin then return s.result d (refusal 1) else waitStop)
  else return (s.acquire 0).result d (linkStatus x 1)

/-- LX.WAIT (R261). -/
def execLxWait (a : BitVec 5) (d : BitVec 5) (s : State) : Result := s.finish (lxWait s false a d)

/-- LX.WAIT.T (R261). -/
def execLxWaitT (a : BitVec 5) (d : BitVec 5) (s : State) : Result := s.finish (lxWait s true a d)

/-- LX.STAT (R261). -/
def execLxStat (a : BitVec 5) (d : BitVec 5) (s : State) : Result :=
  .next (s.result d (linkStatus (s.link? s.cx.key (fld (s.getX a) 31 0)) 0))

/-- An abort of a command by its issuer; `none` when it is LATE (R261): a product aborted ends ABORTED, a matched feed ends its
product PARTY_ABORTED. -/
def State.abortLink (s : State) (k : Key) (h : Nat) : Option State :=
  match s.link? k h with
  | none => none
  | some x =>
    if !x.live || x.st = .delivering then none
    else if !x.feed then some (s.endProduct x 8 0)
    else
      match s.productOf x with
      | none => some (s.endLink x 8)
      | some p => if p.st = .delivering then none
                  else some ((s.endLink { x with steps := [] } 8).endProduct p 9 0)

/-- LX.ABORT (R261). -/
def execLxAbort (a : BitVec 5) (d : BitVec 5) (s : State) : Result :=
  match s.abortLink s.cx.key (fld (s.getX a) 31 0) with
  | none => .next (s.result d (refusal 1))
  | some t => .next (t.result d 1)

/-- The body of LX.DWAIT: the arrival counter of the caller's own pool reaches a count (R262). -/
def lxDwait (s : State) (twin : Bool) (b a d : BitVec 5) : Try State := do
  if !twin && s.cx.handlerDiscipline then raiseStop (exn 27 0)
  let va := s.getX a
  check (va.toNat % 8 = 0) (exn 4 va)
  check (regionOf va = .localWindow) (exnBoundary va 4 .T)
  let p ← tryExn (bankPlace s.cx s.cx.level .load va (va.toNat - localWindowBase) 8)
  s.ownPool (siteAddr s.cx.key.h p) 8
  let n := s.load (siteAddr s.cx.key.h p) 8
  if n < (s.getX b).toNat then (if twin then return s.result d (refusal 1) else waitStop)
  else return (s.acquire 1).result d (accepted (n % 2 ^ 32))

/-- LX.DWAIT (R262). -/
def execLxDwait (b : BitVec 5) (a : BitVec 5) (d : BitVec 5) (s : State) : Result := s.finish (lxDwait s false b a d)

/-- LX.DWAIT.T (R262). -/
def execLxDwaitT (b : BitVec 5) (a : BitVec 5) (d : BitVec 5) (s : State) : Result := s.finish (lxDwait s true b a d)

/-! ## Tables and modes (R263, R264) -/

/-- A product of the link that uses a slot, from OPEN to DELIVERING (R263). -/
def State.slotBusy (s : State) (l : Link) (slot : Bool) : Bool :=
  s.links.any fun x => !x.feed && x.link = l && pdAct x.desc && pdSlot x.desc = slot && x.live && x.st ≠ .queued

/-- LX.EPI: 512 bytes of the local window into a table slot (R263). -/
def execLxEpi (b : BitVec 5) (a : BitVec 5) (d : BitVec 5) (s : State) : Result :=
  s.finish do
    let va := s.getX a
    check (va.toNat % 64 = 0) (exn 4 va)
    check (regionOf va = .localWindow && regionOf (va + 511) = .localWindow) (exnBoundary va 4 .T)
    let o := va.toNat - localWindowBase
    let at0 ← tryExn ((List.range 8).mapM fun i => bankPlace s.cx s.cx.level .load (va + toWord (64 * i)) (o + 64 * i) 64)
    let slot := (s.getX b).getLsbD 2
    match linkFrom s.cx.key.h (fld (s.getX b) 1 0) with
    | none => return s.result d (refusal 3)
    | some (l, far, _) =>
      let e := s.engine l
      if !linkOnDie l || e.retired then return s.result d (refusal 3)
      else if !s.linkOpen l far s.cx.kid then return s.result d (refusal 2)
      else if s.slotBusy l slot then return s.result d (refusal 1)
      else
        let src := fun i => siteAddr s.cx.key.h (at0.getD i 0)
        (List.range 8).forM fun i => s.ownPool (src i) 64
        let t := BitVec.ofNat 4096 (packElems 512 (fun i => s.load (src i) 64) 8)
        return (s.setEngine (if slot then { e with table1 := t } else { e with table0 := t })).result d 1

/-- The result of LX.CFG (R264). -/
def cfgWord (e : Engine) (reason : Nat) : Word :=
  toWord ((if reason = 0 then 1 else 2 * reason) + (if e.split then 256 else 0) + (if e.retired then 512 else 0) + e.spares * 1024)

/-- LX.CFG: the engine's state, and a change of its mode (R264). -/
def execLxCfg (b : BitVec 5) (a : BitVec 5) (d : BitVec 5) (s : State) : Result :=
  let w := s.getX b
  let ask := w.getLsbD 1
  match linkFrom s.cx.key.h (fld (s.getX a) 1 0) with
  | none => .next (s.result d (refusal 3))
  | some (l, far, _) =>
    let e := s.engine l
    if !linkOnDie l then .next (s.result d (refusal 3))
    else if !s.linkOpen l far s.cx.kid then .next (s.result d (refusal 2))
    else if !ask then .next (s.result d (cfgWord e 0))
    else if e.retired then .next (s.result d (cfgWord e 3))
    else if s.links.any fun x => x.link = l && x.live then .next (s.result d (cfgWord e 1))
    else
      let e := { e with split := w.getLsbD 0 }
      .next ((s.setEngine e).result d (cfgWord e 0))

end Sys2Proof.Machine
end

