-- ==== Sys2Proof/Machine/Tasks.lean ====
section
/-! DEFINITION. Nodes, graphs, ready pools, ranges and stealing (R314 to R332, R430). -/

namespace Sys2Proof.Machine

/-! ## Node records (R314, R315, R317) -/

/-- The kind of a code (R315). -/
def nodeKindOf : Nat → Option NodeKind
  | 1 => some .copy
  | 2 => some .prod
  | 3 => some .range
  | 4 => some .kernel
  | 5 => some .signal
  | 6 => some .barrier
  | 7 => some .event
  | _ => none

/-- OBJ, ARG, LO, HI and GRAIN meet R315, and those the kind leaves unused are zero. -/
def kindFieldsOk (k : NodeKind) (obj arg lo hi grain : Nat) : Bool :=
  match k with
  | .copy => decide (arg ≤ 2) && obj % 64 = 0 && lo = 0 && hi = 0 && grain = 0
  | .prod => decide (arg < 1024) && obj % 64 = 0 && regionOf (toWord obj) = .localWindow && lo = 0 && hi = 0 && grain = 0
  | .range => decide (obj < 256) && arg = 0 && decide (lo < hi) && decide (hi < 2 ^ 48) && decide (1 ≤ grain) &&
      decide (grain < 65536)
  | .kernel => arg = 0 && lo = 0 && hi = 0 && grain = 0
  | .signal => obj % 8 = 0 && arg = 0 && hi = 0 && grain = 0
  | .barrier | .event => obj = 0 && arg = 0 && lo = 0 && hi = 0 && grain = 0

/-- What every record must hold (R314, R317). -/
def recordOk (r : Nat) : Bool :=
  bytesAt r 0 1 < 64 && bytesAt r 1 1 < 16 && bytesAt r 5 1 = 0 && bytesAt r 14 2 = 0 && bytesAt r 60 4 = 0 &&
    bytesAt r 12 2 / 1024 % 32 = 0 && decide (bytesAt r 8 2 ≤ bytesAt r 10 2) && bytesAt r 16 8 % 8 = 0 &&
    (bytesAt r 10 2 ≠ 0 || bytesAt r 16 8 = 0)

/-- R317: the node of a record that passes its checks, in state NEW. -/
def nodeOfRecord (r addr leaf kid : Nat) (lvl : Level) (depth : Nat) (graph : Option (Nat × BitVec 32)) : Option Node :=
  let tile := bytesAt r 12 2
  match nodeKindOf (bytesAt r 0 1 % 16) with
  | none => none
  | some k =>
    if recordOk r && kindFieldsOk k (bytesAt r 24 8) (bytesAt r 32 8) (bytesAt r 40 8) (bytesAt r 48 8) (bytesAt r 56 4) then
      some { addr := addr, leaf := leaf, kid := kid, lvl := lvl, kind := k, prio := bytesAt r 0 1 / 16 % 4,
             acq := bytesAt r 1 1 % 2 = 1, rel := bytesAt r 1 1 / 2 % 2 = 1, scope := bytesAt r 1 1 / 4 % 4, st := .new,
             stop := false, pred := bytesAt r 6 2, pend := bytesAt r 6 2, nsucc := bytesAt r 8 2, scap := bytesAt r 10 2, succ := bytesAt r 16 8,
             tile := if tile / 32768 % 2 = 1 then some (tile % 1024) else none, obj := toWord (bytesAt r 24 8),
             arg := toWord (bytesAt r 32 8), lo := bytesAt r 40 8, hi := bytesAt r 48 8, grain := bytesAt r 56 4,
             depth := depth, graph := graph, dropped := false, cmds := [], outcome := none, spawned := false }
    else none

/-- The name of the record at an address for a leaf. -/
def nodeId (leaf addr : Nat) : Nat := leaf * 2 ^ 48 + addr

/-- The leaf's table holds 65,536 live nodes (R316). -/
def State.nodesFull (s : State) (leaf : Nat) : Bool := decide (65536 ≤ (s.nodes.filter fun n => n.leaf = leaf).length)

/-! ## READY (R316, R320, R326) -/

/-- A node becomes READY: its entry joins the pool of its leaf. -/
def State.makeReady (s : State) (n : Node) : State :=
  (s.mapNode n.id fun n => { n with st := .ready }).addReady (n.entry n.lo n.hi)

/-! ## Finishing (R317, R318, R319) -/

/-- STATE of a finished node (R316): DONE, CANCELLED, FAILED. -/
def finishedState (result : Nat) : Nat := 5 + result

/-- One successor's count falls; at 0 an armed one becomes READY (R318). -/
def State.decrement (s : State) (id : Nat) : State :=
  match s.node? id with
  | none => s
  | some n =>
    let m := { n with pend := n.pend - 1 }
    let t := s.mapNode id fun _ => m
    if n.st = .waiting && m.pend = 0 then t.makeReady m else t

/-- The successors of a node in array order; an entry that cannot be read, or that can name no record, is skipped (R318). -/
def State.successors (s : State) (n : Node) : List Nat :=
  (List.range n.nsucc).filterMap fun i =>
    match s.unitReadFor (s.nodeClient n) n.kid (n.succ + 8 * i) 8 with
    | .ok a => if a < 2 ^ 48 then some (nodeId n.leaf a) else none
    | .error _ => none

/-- The threads whose writes the release of a node covers, and up to which moment (R318 step 1): of a RANGE, the contexts of its kernel; of
an EVENT, the thread that executed NODE.DONE. -/
def State.releasers (s : State) (n : Node) : List (Key × Nat) :=
  match n.kind with
  | .range => (s.ctxs.filter fun c => c.kid = n.kid && c.status ≠ .free).map fun c => (c.key, s.order)
  | .event => n.cmds
  | .copy | .prod | .kernel | .signal | .barrier => []

/-- The release of a node that finishes: what it covers is performed (R318 step 1); `none` while one write cannot be. -/
def State.releaseNode (s : State) (n : Node) : Option State :=
  if n.rel then (s.releasers n).foldlM (fun s x => s.engineOrder x.1 x.2) s else some s

/-- The record of a finished node; a write that fails is dropped and reported (R317, R392). -/
def State.writeRecord (s : State) (n : Node) (result detail : Nat) : State :=
  let v := finishedState result + (result + if n.stop then 4 else 0) * 256 + detail * 65536
  match s.walkerBytes (s.nodeClient n) n.kid (n.addr + 2) 3 v with
  | .ok t => t
  | .error _ => s.walkerRas (s.rasLeaf n) (toWord n.addr)

/-- A GRAPH packet whose last node has finished completes (R319). -/
def State.graphStep (s : State) (g : Nat × BitVec 32) (failed : Bool) : State :=
  let t := if failed then s.mapPacket g.1 g.2 fun p => { p with bad := true } else s
  if t.nodes.any fun n => n.graph = some g then t
  else
    match (t.queue g.1).packets.find? fun p => p.idx = g.2 with
    | none => t
    | some p => t.completePacket g.1 p (if p.bad then 4 else 0)

/-- R318 steps 2 and 3: a node finishes with a result, 0 OK, 1 CANCELLED, 2 FAILED, and its DETAIL. -/
def State.finishNode (s : State) (n : Node) (result detail : Nat) : State :=
  let t := s.writeRecord n result detail
  let succ := t.successors n
  let t := { t with nodes := t.nodes.filter fun m => m.id ≠ n.id, ready := t.ready.filter fun e => e.packet.isSome || e.node ≠ n.id }
  let t := succ.foldl (fun s id => s.decrement id) t
  match n.graph with
  | none => t
  | some g => t.graphStep g (result = 2)

/-- A context's event is a task of a node. -/
def Event.ofNode (id : Nat) : Event → Bool
  | .task n _ _ _ _ _ => n = id
  | _ => false

/-- No register, event, activation, steal or pool entry holds a part of a RANGE node (R323). -/
def State.rangeOver (s : State) (n : Node) : Bool :=
  (s.ctxs.all fun c => c.status = .free || (!(c.range.v && c.range.node = n.id) &&
      !(c.events.any (Event.ofNode n.id)) && c.act.all fun a => a.node ≠ some n.id)) &&
    (s.steals.all fun x => x.node ≠ n.id) && s.ready.all fun e => e.packet.isSome || e.node ≠ n.id

/-- The result and DETAIL of a running node whose work is over (R315, R323). -/
def State.nodeResult (s : State) (n : Node) : Option (Nat × Nat) :=
  if n.st ≠ .running then none
  else if n.kind = .range then (if s.rangeOver n then some (if n.dropped then (2, 1) else (0, 0)) else none)
  else n.outcome

/-- NODE_FINISH: a node whose work is over finishes (R315, R318, R323). -/
def execNodeFinish (node : Nat) (s : State) : Result :=
  match s.node? node with
  | none => .next s
  | some n =>
    match s.nodeResult n, s.releaseNode n with
    | some (r, d), some t => .next (t.finishNode n r d)
    | _, _ => .next s

/-! ## GRAPH packets (R319) -/

/-- The arming walk, breadth-first: addresses to visit, and the nodes visited, newest last; `none` when a check fails. A record
lies in global memory (R314), and outside a leaf no kernel can be placed (R428). -/
def State.walkGraph (s : State) (cl : Client) (leaf : Nat) (lvl : Level) (g : Nat × BitVec 32) :
    Nat → List Nat → List Node → Option (List Node)
  | _, [], seen => some seen
  | 0, _ :: _, _ => none
  | fuel + 1, a :: rest, seen =>
    if seen.any fun n => n.addr = a then s.walkGraph cl leaf lvl g fuel rest seen
    else if a % 64 ≠ 0 || 2 ^ 48 ≤ a || 65536 ≤ seen.length || (s.node? (nodeId leaf a)).isSome then none
    else
      match s.unitRead cl a 64 with
      | .error _ => none
      | .ok r =>
        match nodeOfRecord r a leaf 0 lvl 0 (some g) with
        | none => none
        | some n =>
          if n.kind = .copy || n.kind = .prod || n.kind = .range || n.kind = .event || (n.kind = .kernel && 64 ≤ leaf) then none
          else
            match (List.range n.nsucc).mapM fun i => (s.unitRead cl (n.succ + 8 * i) 8).toOption with
            | none => none
            | some next => s.walkGraph cl leaf lvl g fuel (rest ++ next) (seen ++ [n])

/-- Visits that a graph of 65,536 nodes can need: one for each entry of each successor array. -/
def graphFuel : Nat := 65536 * 65536 + 65536

/-- GRAPH_ARM: the dispatched GRAPH packet of a queue is walked, and its graph armed whole, or finished BAD_PACKET (R319). A graph that
the leaf's live table has no room for yet waits (R316): DESIGN CHOICE (102). A stop asked of the packet before is one of its nodes
(R77). -/
def execGraphArm (q : Nat) (s : State) : Result :=
  let x := s.queue q
  match x.packets.find? fun p => pktKind p.bytes = 2 && p.st = .placing with
  | none => .next s
  | some p =>
    let leaf := (s.queueLeaf q).getD (orphanPool q)
    match s.walkGraph (s.queueClient x) leaf x.lvl (q, p.idx) graphFuel [bytesAt p.bytes.toNat 8 8] [] with
    | none => .next (s.completePacket q p 3)
    | some ns =>
      if 65536 < (s.nodes.filter fun n => n.leaf = leaf).length + ns.length then .next s
      else
      let armed := ns.map fun n => { n with st := .waiting, stop := p.stop }
      let t := ({ s with nodes := s.nodes ++ armed } : State).mapPacket q p.idx fun p => { p with st := .running }
      .next (armed.foldl (fun s n => if n.pend = 0 then s.makeReady n else s) t)

/-! ## Dispatch (R236, R315, R320, R321, R430) -/

/-- The result of a node's work is known. -/
def State.settle (s : State) (id result detail : Nat) : State := s.mapNode id fun n => { n with outcome := some (result, detail) }

/-- The 64 bytes at an address as the engine of a context reads them at a level: in its local window, through a site window, or in global
memory (R236). -/
def State.agentRead (s : State) (c : Ctx) (cl : Client) (va : Word) : Option (BitVec 512) :=
  if regionOf va = .localWindow then
    ((bankPlace c cl.lvl .load va (va.toNat - localWindowBase) 64).toOption.filter fun p => !s.badPlace (siteAddr c.key.h p)).map fun p =>
      BitVec.ofNat 512 (s.load (siteAddr c.key.h p) 64)
  else ((s.unitReadFor cl c.kid va.toNat 64).toOption).map (BitVec.ofNat 512)

/-- A COPY node is issued for its agent context (R236). A descriptor that fails its checks finishes the node FAILED. -/
def State.dispatchCopy (s : State) (n : Node) : State :=
  match s.copyAgent n with
  | none => s.settle n.id 2 0
  | some c =>
    match s.agentRead c (s.nodeClient n) n.obj with
    | none => s.settle n.id 2 0
    | some b =>
      let kind := match n.arg.toNat with | 0 => CopyKind.d2 | 1 => .tile | _ => .gath
      if copySize b = 0 || 2 ^ 24 < copySize b || !copyDescOk kind b then s.settle n.id 2 0
      else s.enqueueCopy c n.lvl kind b n.acq n.rel n.scope (some n.id)

/-- The three commands of a PROD node: who issues each, and the address of its descriptor (R315). -/
structure ProdCmd where
  key : Key
  addr : Word
  feed : Bool
  deriving DecidableEq, Repr

/-- The ORDER byte of a node. -/
def Node.order (n : Node) : Nat := (if n.acq then 1 else 0) + (if n.rel then 2 else 0) + 4 * n.scope

/-- A 64-byte descriptor in a context's SCR area, as the walker reads it for a node. -/
def State.nodeDesc (s : State) (c : Ctx) (va : Word) : Option (BitVec 512) :=
  if va.toNat % 64 ≠ 0 then none
  else
    match c.scrOperand va 64 with
    | .error _ => none
    | .ok o => some (BitVec.ofNat 512 (s.load (c.localPlace o) 64))

/-- The commands of a PROD node, in order: the product, the owner's feed, the other end's feed (R315). -/
def State.prodCmds (s : State) (n : Node) : Option (List ProdCmd) :=
  let base := (s.part (.leaf n.leaf)).base
  match s.ofKernel n.kid (base + n.arg.toNat) with
  | none => none
  | some c =>
    match s.nodeDesc c n.obj with
    | none => none
    | some b =>
      match linkFrom c.key.h (pdLink b) with
      | none => none
      | some (_, _, other) =>
        (s.ofKernel n.kid other).map fun o =>
          [⟨c.key, n.obj, false⟩, ⟨c.key, n.obj + 64, true⟩, ⟨o.key, n.obj + 64, true⟩]

/-- One command of a PROD node issued: `error` gives the reason (R260). -/
def State.issueProdCmd (s : State) (n : Node) (x : ProdCmd) : Except Nat State :=
  match s.ctx? x.key with
  | none => .error 2
  | some c =>
    match s.nodeDesc c x.addr with
    | none => .error 2
    | some b =>
      if x.feed then
        if (c.feedViolation b).isSome then .error 2
        else (s.issueFeed c n.lvl b none n.order (some n.id)).map fun t => t.mapNode n.id fun m =>
          { m with cmds := m.cmds ++ [(c.key, c.linkHandle)] }
      else (s.issueProduct c n.lvl b n.order (some n.id)).map fun t => t.mapNode n.id fun m =>
          { m with cmds := m.cmds ++ [(c.key, c.linkHandle)] }

/-- Every command of a PROD node that was accepted is aborted, and the node finishes FAILED with DETAIL 11 (R315). -/
def State.abandonProd (s : State) (id : Nat) : State :=
  match s.node? id with
  | none => s
  | some n =>
    let t := n.cmds.foldl (fun s (c : Key × Nat) => (s.abortLink c.1 c.2).getD s) s
    t.settle id 2 11

/-- The commands of a PROD node from the first one not yet accepted on, until one is refused FULL (R315). -/
def State.issueProdNode (s : State) (id : Nat) : State :=
  match s.node? id with
  | none => s
  | some n =>
    match s.prodCmds n with
    | none => s.abandonProd id
    | some cmds =>
      let go := fun (st : State × Bool) (x : ProdCmd) =>
        if st.2 then st
        else
          match st.1.issueProdCmd n x with
          | .ok t => (t, false)
          | .error 1 => (st.1, true)
          | .error _ => (st.1.abandonProd id, true)
      ((cmds.drop n.cmds.length).foldl go (s, false)).1

/-- PROD_NODE_REISSUE: a command of a running PROD node refused FULL is issued again (R315). -/
def execProdNodeReissue (node : Nat) (s : State) : Result :=
  match s.node? node with
  | none => .next s
  | some n =>
    if n.kind = .prod && n.st = .running && n.outcome.isNone && n.cmds.length < 3 then .next (s.issueProdNode node)
    else .next s

/-- The kernel of a node with ACQ acquires at the node's scope too, before any of its work (R318). -/
def Node.acquires (n : Node) (p : KernelPlan) : KernelPlan := if n.acq then { p with acq := max p.acq n.scope } else p

/-- A KERNEL node launches the packet at OBJ (R315). -/
def State.dispatchKernel (s : State) (n : Node) : State :=
  let cl := s.nodeClient n
  match s.unitReadFor cl n.kid n.obj.toNat 64 with
  | .error _ => s.settle n.id 2 3
  | .ok v =>
    let b := BitVec.ofNat 512 v
    let refuse := fun (status : Nat) =>
      (s.signal cl (pktSig b) status 0).settle n.id 2 status
    if !(packetOk b && pktKind b = 1) then refuse 3
    else
      match s.checkObject cl (bytesAt v 8 8), s.plan cl n.leaf b with
      | .error (.fetch _), _ => refuse 2
      | _, .error (.fetch _) => refuse 3
      | _, .error (.status k) => refuse k
      | _, .ok p => { s with placing := s.placing ++ [⟨n.leaf, .node n.id, n.lvl, n.acquires p⟩] }

/-- A SIGNAL node stores, and finishes OK, or FAILED with the reason (R315, R430). -/
def State.dispatchSignal (s : State) (n : Node) : State :=
  match s.walkerStore (s.nodeClient n) n.kid n.obj.toNat (toWord n.lo) with
  | .ok t => t.settle n.id 0 0
  | .error why => (if why.reported then s.walkerRas (s.rasLeaf n) n.obj else s).settle n.id 2 why.code

/-- A RANGE entry goes to its site as a task event (R321, R322). -/
def State.dispatchRange (s : State) (n : Node) (e : ReadyEntry) : State :=
  match s.rangeSite n with
  | none => s
  | some k => s.mapCtx k fun c => c.register (.task n.id n.obj.toNat e.lo e.hi n.grain n.depth)

/-- The action of a node at its dispatch (R315). -/
def State.dispatchNode (s : State) (n : Node) (e : ReadyEntry) : State :=
  let t := s.mapNode n.id fun n => { n with st := .running }
  match n.kind with
  | .copy => t.dispatchCopy n
  | .prod => t.issueProdNode n.id
  | .range => t.dispatchRange n e
  | .kernel => t.dispatchKernel n
  | .signal => t.dispatchSignal n
  | .barrier => t.settle n.id 0 0
  | .event => t

/-- DISPATCH_DECISION: the walker takes one entry of a leaf's pool (R320, R321). -/
def execDispatchDecision (leaf : Nat) (s : State) : Result :=
  match s.pick leaf with
  | none => .next s
  | some e =>
    match e.packet with
    | some (q, i) =>
      match (s.queue q).packets.find? fun p => p.idx = i with
      | none => .next s
      | some p => .next ((s.takeEntry e).dispatchPacket q p)
    | none =>
      match s.node? e.node with
      | none => .next s
      | some n => .next ((s.takeEntry e).dispatchNode n e)

/-! ## Stealing (R324, R325) -/

/-- The remainder of a range register, in grains (R324). -/
def Range.remainder (r : Range) : Nat := if r.v && r.grain ≠ 0 then (r.hi - r.lo + r.grain - 1) / r.grain else 0

/-- A steal is under way for a thief. -/
def State.stealing (s : State) (k : Key) : Bool := s.steals.any fun x => x.thief = k && x.st = .half

/-- The pool holds an entry that R321 can place on a context. -/
def State.hasWork (s : State) (c : Ctx) : Bool :=
  s.ready.any fun e => e.packet.isNone && e.leaf = c.leaf &&
    (s.node? e.node).any fun n => n.kind = .range && n.kid = c.kid

/-- The victim: the largest remainder of the kernel, lowest relative index (R324). -/
def State.victim (s : State) (c : Ctx) : Option Ctx :=
  (s.kernelCtxs c.kid).foldl (fun (acc : Option Ctx) v =>
    if v.key = c.key || v.status ≠ .running || v.range.remainder < 2 then acc
    else
      match acc with
      | none => some v
      | some b => if b.range.remainder < v.range.remainder then some v else acc) none

/-- STEAL_REQUEST: an idle context's walker takes half of the largest range of its kernel (R324). STEAL goes on CTL, and takes a token
of the thief's site (R312). -/
def execStealRequest (thief : Key) (s : State) : Result :=
  match s.ctx? thief with
  | none => .next s
  | some c =>
    if !c.idle || c.thread || s.stealing thief || s.hasWork c || !s.ctlOpen thief.h then .next s
    else
      match s.victim c with
      | none => .next s
      | some v =>
        let r := v.range
        let split := r.lo + r.grain * ((r.remainder + 1) / 2)
        let t := s.mapCtx v.key fun c => { c with range := { c.range with hi := split } }
        .next (({ t with steals := t.steals ++ [⟨v.key, thief, r.node, split, r.hi, .half⟩] } : State).ctl thief.h c.leaf)

/-- A stolen half in a state, changed. -/
def State.mapSteal (s : State) (p : Steal → Bool) (f : Steal → Steal) : State :=
  match s.steals.find? p with
  | none => s
  | some x => { s with steals := s.steals.map fun y => if y = x then f y else y }

/-- The event that a stolen half makes. -/
def State.stealEvent (s : State) (x : Steal) : Event :=
  match s.node? x.node with
  | none => .task x.node 0 x.lo x.hi 1 0
  | some n => .task x.node n.obj.toNat x.lo x.hi n.grain n.depth

/-- STEAL_HALF_ARRIVAL: the half reaches the thief, which takes it as a task, or returns it when it is pre-empted or gone
(R324, R325). -/
def execStealHalfArrival (thief : Key) (s : State) : Result :=
  match s.steals.find? fun x => x.thief = thief && x.st = .half with
  | none => .next s
  | some x =>
    let put := fun (st : StealState) => s.mapSteal (fun y => y = x) fun y => { y with st := st }
    match s.ctx? thief with
    | none => .next (put .returned)
    | some c =>
      if c.status = .saving || c.saveReq.isSome || tabGet s.power thief.h .S0 = .S2 || tabGet s.power thief.h .S0 = .S3 then
        .next (put .returned)
      else .next ((put .acked).mapCtx thief fun c => c.register (s.stealEvent x))

/-- The thief has started its activation on the half, or dropped it (R324). -/
def State.halfTaken (s : State) (x : Steal) : Bool :=
  x.st = .acked && !(s.ctxs.any fun c => c.key = x.thief && c.status ≠ .free && c.events.contains (s.stealEvent x))

/-- STEAL_ACK: the victim drops its shadow once the thief holds the half (R324). -/
def execStealAck (victim : Key) (s : State) : Result :=
  match s.steals.find? fun x => x.victim = victim && s.halfTaken x with
  | none => .next s
  | some x => .next { s with steals := s.steals.erase x }

/-- STEAL_RETURN: the victim drops its shadow, and the half becomes a new entry of the pool (R325). -/
def execStealReturn (victim : Key) (s : State) : Result :=
  match s.steals.find? fun x => x.victim = victim && x.st = .returned with
  | none => .next s
  | some x =>
    let t := { s with steals := s.steals.erase x }
    match s.node? x.node with
    | none => .next t
    | some n => .next (t.addReady (n.entry x.lo x.hi))

/-- A context about to be saved gives back the halves whose activations have not started (R325). -/
def State.returnHalves (s : State) (k : Key) : State :=
  (s.steals.filter fun x => x.thief = k && x.st = .acked).foldl (fun s x =>
    let e := s.stealEvent x
    if (s.ctx? k).any fun c => c.events.contains e then
      (s.mapSteal (fun y => y = x) fun y => { y with st := .returned }).mapCtx k fun c => { c with events := c.events.erase e }
    else s) s

/-! ## The TASK instructions (R328 to R332) -/

/-- A live node of the caller's leaf (R316, R332). -/
def State.leafNode (s : State) (va : Word) : Option Node :=
  (s.node? (nodeId s.cx.leaf va.toNat)).filter fun _ => decide (va.toNat < 2 ^ 48)

/-- A live node of the caller's kernel, as the NODE members name one (R329). -/
def State.ownNode (s : State) (va : Word) : Option Node := (s.leafNode va).filter fun n => n.kid = s.cx.kid

/-- A record of 64 bytes read by the caller, at a 64-byte-aligned address (R314, R328); `none` outside global memory. -/
def State.readRecord (s : State) (va : Word) : Try (Option Nat × State) := do
  check (va.toNat % 64 = 0) (exn 4 va)
  let t ← s.reach .load va 64
  if t.kind ≠ .glob then return (none, s)
  s.mayLoad .weak t va 64 1
  let (v, u) := s.loadWeak t va 64 1
  return (some v, u)

/-- Depth of the running activation (R326). -/
def Ctx.depth (c : Ctx) : Nat := (c.act.map (·.depth)).getD 0

/-- The node that a record at `va` gives the caller. -/
def State.recordNode (s : State) (va : Word) (r : Nat) (depth : Nat) : Option Node :=
  nodeOfRecord r va.toNat s.cx.leaf s.cx.kid s.cx.level depth none

/-- The packet at a KERNEL node's OBJ is a KERNEL packet (R329). -/
def State.kernelAt (s : State) (n : Node) : Bool :=
  match s.unitReadFor (s.nodeClient n) n.kid n.obj.toNat 64 with
  | .ok v => v % 16 = 1
  | .error _ => false

/-- NODE.NEW (R329). -/
def execNodeNew (a : BitVec 5) (d : BitVec 5) (s : State) : Result :=
  s.finish do
    let va := s.getX a
    let (r, t) ← s.readRecord va
    match r.bind fun v => s.recordNode va v s.cx.depth with
    | none => return t.result d (refusal 2)
    | some n =>
      if (t.node? n.id).isSome || (n.kind = .kernel && !t.kernelAt n) then return t.result d (refusal 2)
      else if t.nodesFull n.leaf then return t.result d (refusal 1)
      else return ({ t with nodes := t.nodes ++ [n] } : State).result d 1

/-- NODE.LINK (R329). -/
def execNodeLink (b : BitVec 5) (a : BitVec 5) (d : BitVec 5) (s : State) : Result :=
  s.finish do
    let va := s.getX a
    let vb := s.getX b
    check (va.toNat % 64 = 0) (exn 4 va)
    check (vb.toNat % 64 = 0) (exn 4 vb)
    match s.ownNode vb, s.ownNode va with
    | none, _ => return s.result d (refusal 2)
    | some y, x =>
      if y.st ≠ .new then return s.result d (refusal 3)
      else
        match x with
        | none => do
          let (st, t) ← s.readMem ⟨false, false, true, 2⟩ (va + 2) 1
          return t.result d (if st = 5 || st = 6 || st = 7 then 1 else refusal 2)
        | some x =>
          if x.nsucc = x.scap || y.pend = 65535 then return s.result d (refusal 1)
          else do
            let at0 := toWord (x.succ + 8 * x.nsucc)
            let tg ← tryExn (s.resolve .store at0 8 none)
            waitUntil (tg.kind = .localWin || tg.kind = .device || s.roomFor (s.cx.bankSite at0) s.cx.leaf 0)
            let t ← s.storeAt .weak (s.cx.bankSite at0) tg at0 8 (vb.setWidth 1024) (valueCells 8 vb.toNat) 8
            let t := (t.mapNode x.id fun n => { n with nsucc := n.nsucc + 1 }).mapNode y.id fun n => { n with pend := n.pend + 1 }
            return t.result d 1

/-- NODE.ARM (R329). -/
def execNodeArm (a : BitVec 5) (d : BitVec 5) (s : State) : Result :=
  s.finish do
    let va := s.getX a
    check (va.toNat % 64 = 0) (exn 4 va)
    match s.ownNode va with
    | none => return s.result d (refusal 3)
    | some n =>
      if n.st ≠ .new then return s.result d (refusal 3)
      else if n.pend = 0 then return (s.makeReady n).result d 1
      else return (s.mapNode n.id fun n => { n with st := .waiting }).result d 1

/-- NODE.DONE (R329): its release covers what the thread wrote before it (R318). It does not block: while a write of the thread cannot be
performed yet, the node finishes later. -/
def execNodeDone (a : BitVec 5) (d : BitVec 5) (s : State) : Result :=
  s.finish do
    let va := s.getX a
    check (va.toNat % 64 = 0) (exn 4 va)
    match s.ownNode va with
    | none => return s.result d (refusal 2)
    | some n =>
      if n.kind ≠ .event then return s.result d (refusal 2)
      else if n.st ≠ .running || n.outcome.isSome then return s.result d (refusal 1)
      else
        let m := { n with cmds := [(s.cx.key, s.order)] }
        match s.releaseNode m with
        | none => return ((s.mapNode n.id fun _ => { m with outcome := some (0, 0) }).tickOrder).result d 1
        | some t => return (t.finishNode m 0 0).result d 1

/-- RNG.NEXT (R330). -/
def execRngNext (d : BitVec 5) (s : State) : Result :=
  let r := s.cx.range
  if !r.v || r.lo = r.hi then .next (s.result d 0)
  else
    let c := min r.grain (r.hi - r.lo)
    .next ((s.mapCx fun x => { x with range := { r with lo := r.lo + c } }).result d (toWord (c * 2 ^ 48 + r.lo)))

/-- Entries of a leaf's pool that hold no reserved slot (R326). -/
def State.unreserved (s : State) (leaf : Nat) : Nat := (s.ready.filter fun e => e.leaf = leaf && !e.reserved).length

/-- The reserved slot of a depth is taken (R326). -/
def State.depthTaken (s : State) (leaf depth : Nat) : Bool :=
  s.ready.any fun e => e.leaf = leaf && e.reserved && e.depth = depth

/-- The body of ENQ (R331). -/
def enqueueTask (s : State) (twin : Bool) (a d : BitVec 5) : Try State := do
  if !twin && s.cx.handlerDiscipline then raiseStop (exn 27 0)
  let va := s.getX a
  let (r, t) ← s.readRecord va
  let dep := s.cx.depth + 1
  match r.bind fun v => s.recordNode va v dep with
  | none => return t.result d (refusal 2)
  | some n =>
    if (t.node? n.id).isSome || n.kind ≠ .range || n.pend ≠ 0 || n.nsucc ≠ 0 || n.scap ≠ 0 then return t.result d (refusal 2)
    else if 8 < dep then return t.result d (refusal 3)
    else
      let full := decide (65528 ≤ t.unreserved n.leaf)
      if (full && t.depthTaken n.leaf dep) || t.nodesFull n.leaf then
        (if twin then return t.result d (refusal 1) else waitStop)
      else do
        waitUntil (t.cx.released 1)
        let u : State := { t with nodes := t.nodes ++ [{ n with st := .ready, spawned := true }] }
        return (u.addReady { n.entry n.lo n.hi with reserved := full }).result d 1

/-- ENQ (R331). -/
def execEnq (a : BitVec 5) (d : BitVec 5) (s : State) : Result := s.finish (enqueueTask s false a d)

/-- ENQ.T (R331). -/
def execEnqT (a : BitVec 5) (d : BitVec 5) (s : State) : Result := s.finish (enqueueTask s true a d)

/-- TASK.CANCEL (R327). -/
def execTaskCancel (a : BitVec 5) (d : BitVec 5) (s : State) : Result :=
  s.finish do
    let va := s.getX a
    check (va.toNat % 64 = 0) (exn 4 va)
    match s.leafNode va with
    | none => return s.result d (refusal 1)
    | some n =>
      if n.st = .running then return (s.mapNode n.id fun n => { n with stop := true }).result d (refusal 1)
      else return (s.finishNode n 1 0).result d 1

/-- STATE of a live node (R316). -/
def nodeCode : NodeState → Nat
  | .new => 1
  | .waiting => 2
  | .ready => 3
  | .running => 4

/-- The state word of R332. -/
def nodeWord (n : Option Node) : Word :=
  match n with
  | none => 0
  | some n => toWord (nodeCode n.st * 256 + (if n.stop then 4096 else 0) + n.depth * 2 ^ 32 + n.pend * 2 ^ 48)

/-- The state word of the packet that launched the running kernel: it runs, and may have been asked to stop (R77). -/
def State.launchWord (s : State) : Word :=
  match (s.kernel? s.cx.kid).bind (·.queue) with
  | none => 0
  | some (q, i) =>
    match (s.queue q).packets.find? fun p => p.idx = i with
    | none => 0
    | some p => toWord (nodeCode .running * 256 + (if p.stop then 4096 else 0))

/-- What TASK.STAT shows of the running activation (R332): its node, or for the launch start the node or the packet that launched the
kernel (R77: a stop request is visible through TASK.STAT; DEDUCED, 103). -/
def State.activationWord (s : State) : Word :=
  match s.cx.act with
  | none => 0
  | some a =>
    if a.kind ≠ 0 then nodeWord (a.node.bind s.node?)
    else
      match (s.kernel? s.cx.kid).bind (·.node) with
      | some n => nodeWord (s.node? n)
      | none => s.launchWord

/-- TASK.STAT: of a node, or of the running activation's (R332). -/
def execTaskStat (a : BitVec 5) (d : BitVec 5) (s : State) : Result :=
  s.finish do
    let va := s.getX a
    check (va.toNat % 64 = 0) (exn 4 va)
    return s.result d (if va = 0 then s.activationWord else nodeWord (s.leafNode va))

end Sys2Proof.Machine
end

