-- ==== Sys2Proof/Machine/Preempt.lean ====
section
/-! DEFINITION. Pre-emption, saving, restoring, migration and the end of a kernel (R370 to R378, R382 to R384). -/

namespace Sys2Proof.Machine

/-! ## Any context, resident or not -/

/-- A key replaced by another. -/
def Key.move (old new k : Key) : Key := if k = old then new else k

/-- Everything that names a context by its key names it by another (R102: a restored context may take another slot). -/
def State.rekey (s : State) (old new : Key) : State :=
  let f := Key.move old new
  let pair := fun (p : Option (Key × Nat)) => p.map fun q => (f q.1, q.2)
  let t := { s with
    links := s.links.map fun (x : LinkCmd) => { x with owner := f x.owner, feedA := pair x.feedA, feedB := pair x.feedB }
    copies := s.copies.map fun (x : Copy) => { x with agent := f x.agent }
    slots := s.slots.map fun (x : XSlot) => { x with owner := f x.owner }
    steals := s.steals.map fun (x : Steal) => { x with victim := f x.victim, thief := f x.thief }
    waiters := s.waiters.map fun (x : Waiter) => { x with key := f x.key }
    invs := s.invs.map fun (i : TlbInv) => { i with key := f i.key }
    ways := s.ways.map fun (w : Ways) => { w with old := w.old.map fun (p : Key × Nat) => (f p.1, p.2) }
    nodes := s.nodes.map fun (n : Node) => { n with cmds := n.cmds.map fun (p : Key × Nat) => (f p.1, p.2) }
    str := s.str.map fun (p : StrPacket) => { p with src := f p.src } }
  t.mapAll fun (c : Ctx) =>
    { c with
      key := if c.status = .free then c.key else f c.key
      hold := c.hold.map fun (r : HeldReply) => { r with src := f r.src } }

/-- x1 to x31 of a context written into the workspace of its level (R201). -/
def State.gatherCtx (s : State) (c : Ctx) : State :=
  (List.range' 1 31).foldl (fun s i => s.store (c.workspace c.level + 8 * i) 8 (c.getX (BitVec.ofNat 5 i)).toNat) s

/-- A composition of the context at `k` ends with LAST (R201, R202), whichever context runs. -/
def State.dissolveAt (s : State) (k : Key) (last : Nat) : State :=
  match s.ctx? k with
  | none => s
  | some c =>
    if c.comp.n < 2 then s
    else
      ((s.gatherCtx c).invalidateAll c.members).mapCtx k fun c =>
        { c.gatherLog with dirty := 0, comp := { c.comp with n := 1, last := last, due := none } }

/-- The context whose composition holds a site. -/
def State.claimant (s : State) (h : Nat) : Option Ctx :=
  s.ctxs.find? fun o => o.resident && decide (2 ≤ o.comp.n) && o.members.contains h

/-- A request reaches a composition: at most `n` further instructions go before it ends with LAST (R202). -/
def Composition.ask (c : Composition) (n last : Nat) : Composition :=
  match c.due with
  | some (m, l) => if m ≤ n then { c with due := some (m, l) } else { c with due := some (n, last) }
  | none => { c with due := some (n, last) }

/-- A request reaches every composition that holds one of some sites (R202). -/
def State.askDissolve (s : State) (p : Nat → Bool) (n last : Nat) : State :=
  s.mapIf (fun o => o.resident && decide (2 ≤ o.comp.n) && o.members.any p) fun o => { o with comp := o.comp.ask n last }

/-! ## The pool of a context (R97, R374) -/

/-- The local-window offset of a place in a context's banks, the platform reserve left out. -/
def Ctx.offsetOf (c : Ctx) (a : Nat) : Option Nat :=
  let p := a - siteAddr c.key.h 0
  if a < siteAddr c.key.h 0 || reserveBase ≤ p then none
  else (c.banks.findIdx? (· = p / 0x10000)).map fun i => i * 0x10000 + p % 0x10000

/-- Offsets above the local window that stand for the D and P workspaces in an image. -/
def savedD : Nat := 0x100000
def savedP : Nat := 0x100200

/-- The 512 bytes at a place, from offset `o` of an image. -/
def State.spaceCells (s : State) (a o : Nat) : List Host.Cell := (List.range 512).map fun i => (o + i, memGet s.mem (a + i))

/-- The bytes that a save streams out: every bank but the reserve, and the workspaces of D and P (R373, R374). -/
def State.poolImage (s : State) (c : Ctx) : List Host.Cell :=
  (s.mem.filterMap fun x => (c.offsetOf x.1).map fun o => (o, x.2)) ++
    s.spaceCells (c.workspace .D) savedD ++ s.spaceCells (c.workspace .P) savedP

/-- The place of a byte of an image when its context has its banks again. -/
def Ctx.imagePlace (c : Ctx) (o : Nat) : Nat :=
  if o < savedD then c.localPlace o
  else if o < savedP then c.workspace .D + (o - savedD)
  else c.workspace .P + (o - savedP)

/-- The image is streamed into the context's banks (R378). -/
def State.streamIn (s : State) (c : Ctx) : State :=
  c.savedPool.foldl (fun s x => s.store (c.imagePlace x.1) 1 x.2.toNat) (s.discard fun a => (c.offsetOf a).isSome)

/-! ## Requests (R372) -/

/-- REASON of PRESTAT set. -/
def State.preReason (s : State) (h reason : Nat) : State := s.setReg (preemptBlock h + 0x10) (toWord (reason * 2 ^ 36))

/-- The kernel is being migrated (R382). -/
def State.migrating (s : State) (kid : Nat) : Bool :=
  s.migs.any fun m => m.kid = kid && (m.st = .quiesce || m.st = .check || m.st = .transfer)

/-- A save of the context cannot start: it is being saved or restored, or it retires (R378, R392). -/
def Ctx.saveBusy (c : Ctx) : Bool := c.status = .saving || c.saveReq.isSome || c.status = .restoring || c.status = .retiring

/-- 1 is written to PRECMD (R372, R378, R386, R392). A composition that holds the site has at most 64 instructions left (R202). -/
def State.preSave (s : State) (h : Nat) (r : Requester) : State :=
  let kind := s.preKind h
  if !r.isP || (kind ≠ 1 && kind ≠ 2) then s
  else
    match s.slotCtx h (s.preSlot h) with
    | none => s.preReason h 2
    | some c =>
      if s.migrating c.kid then s.preReason h 3
      else if c.saveBusy then s.preReason h 1
      else if c.status = .saved then s.preReason h 2
      else ((s.preReason h 0).mapCtx c.key fun c => { c with saveReq := some kind }).askDissolve (· = h) 64 3

/-- PRECMD save: the request, or why it cannot start (R372, R378). -/
def execPrecmdSave (h : Nat) (r : Requester) (s : State) : Result := .next (s.preSave h r)

/-- 2 is written to PRECMD (R378). -/
def State.preRestore (s : State) (h : Nat) (r : Requester) : State :=
  if !r.isP then s
  else
    match s.savedAt h (s.preSlot h) with
    | none => (s.preReason h 2)
    | some c =>
      if c.status ≠ .saved then (s.preReason h 2)
      else if s.migrating c.kid then (s.preReason h 3)
      else ((s.preReason h 0).mapOwner c.key fun c => { c with status := .restoring })

/-- PRECMD restore: a SAVED context waits for its slot and banks (R378). -/
def execPrecmdRestore (h : Nat) (r : Requester) (s : State) : Result := .next (s.preRestore h r)

/-! ## What a migration ends (R271, R383) -/

/-- The kernel of a context's key. -/
def State.kidOf (s : State) (k : Key) : Option Nat := (s.owner? k).map (·.kid)

/-- The kernel is the product's sink. -/
def State.sinksFor (s : State) (x : LinkCmd) (kid : Nat) : Bool :=
  match s.owner? x.owner with
  | none => false
  | some c => (s.sinkOf c x.desc).any fun t => t.kid = kid

/-- The kernel owns the product or feeds it. -/
def State.worksFor (s : State) (x : LinkCmd) (kid : Nat) : Bool :=
  s.kidOf x.owner = some kid || (x.feedA.any fun p => s.kidOf p.1 = some kid) || (x.feedB.any fun p => s.kidOf p.1 = some kid)

/-- Products and feeds that a migration of the kernel ends (R271, R383 step 1). -/
def State.migrationEnds (s : State) (kid : Nat) (x : LinkCmd) : Bool :=
  x.live &&
  (if x.feed then x.st = .queued && s.kidOf x.owner = some kid
   else if x.st = .delivering then s.sinksFor x kid
   else s.sinksFor x kid || s.worksFor x kid)

/-- PARTY_MIGRATED for each of them. -/
def State.endMigrating (s : State) (kid : Nat) : State :=
  (s.links.filter (s.migrationEnds kid)).foldl (fun s x =>
    match (s.link? x.owner x.handle).filter (·.live) with
    | none => s
    | some y => if y.feed then s.endLink y 6 else s.endProduct y 6 0) s

/-! ## Saving (R373, R374) -/

/-- The save in force is taken at an instruction (R373). -/
def Ctx.savesAtInstruction (c : Ctx) : Bool := c.thread || c.saveReq = some 2

/-- A product that a migration waits for: in DELIVERING, with the kernel only its owner or feeder (R271, R383). -/
def State.deliversFor (s : State) (kid : Nat) : Bool :=
  s.links.any fun x => !x.feed && x.st = .delivering && s.worksFor x kid && !s.sinksFor x kid

/-- R360, R373, R386, R406: the context is at the point where its save request is taken. An interrupt routed to P comes first; a halted
context, and one in WFI, is saved at once. A migration lets the products of R271 end before. -/
def State.savePoint (s : State) (c : Ctx) : Bool :=
  !(s.migrating c.kid && s.deliversFor c.kid) &&
  match c.status with
  | .parked | .retiring => true
  | .running => c.haltedNow || c.waiting || (c.savesAtInstruction && c.hint.isNone && (c.dueFirst s.now).isNone)
  | _ => false

/-- The save stops a context (R374 steps 1 and 2): its composition, or the one that holds its site, is dissolved; its copies
are held, its feeds pause, its unstarted halves go back (R325), and its reservation is lost (R144). A handler that the save interrupts
before its first instruction has committed is still there when the context runs again (R362), and a WFI that waits commits (R365). For a
migration the kernel's products and its pins end first (R224, R383). -/
def State.stopForSave (s : State) (k : Key) : State :=
  let mig := (s.ctx? k).any fun c => s.migrating c.kid
  let s := if mig then s.endMigrating (((s.ctx? k).map (·.kid)).getD 0) else s
  let t := match s.claimant k.h with
    | none => s
    | some o => s.dissolveAt o.key 3
  let u := ((t.holdCopies k.h k.slot).pauseFeeds k).returnHalves k
  { u with waiters := u.waiters.filter fun w => w.key ≠ k }.mapCtx k fun c =>
    { (if c.waiting then c.advance else c) with
      status := .saving, semWait := false, resv := none, pins := if mig then [] else c.pins }

/-- The composition that holds a site is at a boundary, where a request to its owner or to a member dissolves it (R202). -/
def State.dissolves (s : State) (h : Nat) : Bool := (s.claimant h).any fun o => o.hint.isNone

/-- SAVE_STOP: a save request is taken (R373, R374). A composition ends first (R202), and does not wait for the point of the save. -/
def execSaveStop (k : Key) (s : State) : Result :=
  match s.ctx? k with
  | none => .next s
  | some c =>
    if c.saveReq.isNone then .next s
    else if s.savePoint c && ((s.claimant k.h).isNone || s.dissolves k.h) then .next (s.stopForSave k)
    else if s.dissolves k.h then
      .next (match s.claimant k.h with
        | none => s
        | some o => s.dissolveAt o.key 3)
    else .next s

/-- R374 step 3: the log holds only FAILED entries and entries that RETRY answers, every send in SENT has its answer, and the
copies are held. -/
def State.drainedForSave (s : State) (c : Ctx) : Bool :=
  (c.log.all fun e =>
    match e.st with
    | .failed _ => true
    | .performed | .refused _ => false
    | .sent => !e.toSwitch && s.entryRetries c e) &&
  (c.sends.all fun x => x.st ≠ .sent || x.answer = some .retry) &&
  (s.copies.all fun x => x.agent ≠ c.key || x.ended || x.held || x.removed) && !(s.cqueue c.key.h).busy.contains c.key.slot

/-- A context as its image holds it (R373, R374, R377): a save at a boundary keeps no v, m or p registers. -/
def Ctx.image (c : Ctx) (res : Word) (pool : List Host.Cell) : Ctx :=
  let d := { c with
    status := .saved
    dirty := 0
    hint := none
    resv := none
    early := []
    bound := []
    watch := c.watch.map fun w => if w.trig.isNone then { w with trig := some 2 } else w
    xprev := res
    sends := c.sends.map fun x => if x.st = .sent && x.answer = some .retry then { x with st := .queued, answer := none } else x
    savedPool := pool
    saveReq := none }
  if c.savesAtInstruction || c.act.isSome then d
  else { d with v := Vector.replicate 32 VReg.empty, m := Vector.replicate 8 MReg.empty, p := Vector.replicate 8 0 }

/-- A key for an image, whose slot is free for another context: it keeps the site and, modulo 8, the slot it was saved from. -/
def State.imageKey (s : State) (k : Key) : Key :=
  ⟨k.h, k.slot % 8 + 8 * (1 + ((s.ctxs.map fun c => c.key.slot / 8).foldl max 0))⟩

/-- R374 steps 4 to 6: the state goes to the image, and the slot, the banks and the XOP slots are free. -/
def State.toImage (s : State) (c : Ctx) : State :=
  let t := (s.landOf c.key).writeBackCtx c
  let u := t.mapCtx c.key fun c => c.image (s.xres c.key) (t.poolImage c)
  { u with slots := u.slots.filter fun x => x.owner ≠ c.key }.rekey c.key (s.imageKey c.key)

/-- SAVE_DRAINED: the context has drained, and is SAVED (R374). -/
def execSaveDrained (k : Key) (s : State) : Result :=
  match s.ctx? k with
  | none => .next s
  | some c => if c.status = .saving && s.drainedForSave c then .next (s.toImage c) else .next s

/-! ## Restoring (R378) -/

/-- Where a context is that is no longer stopped for a save: in its activation, between two, or on its way out (R281, R390). -/
def Ctx.resumes (c : Ctx) : Status := if c.act.isSome then .running else if c.thread then .retiring else .parked

/-- A restored context at its slot, with its banks (R97): its state and its CSRs as the image holds them (R102, R374). -/
def Ctx.restored (c : Ctx) (k : Key) (banks : List Nat) : Ctx := { c with key := k, status := c.resumes, banks := banks }

/-- RESTORE_START: the slot and the banks are free, the site is awake (R404), and the context runs on from its saved point (R378). The slot is the one it was
saved from, since SLOT of ctxid and the workspaces of D and P name it and a restore leaves them as they were (R102, R133): DEDUCED
(104). -/
def execRestoreStart (k : Key) (s : State) : Result :=
  match s.owner? k with
  | none => .next s
  | some c =>
    if c.status ≠ .restoring then .next s
    else
      let n : Key := ⟨k.h, k.slot % 8⟩
      if (s.ctx? n).isSome || decide ((s.freeBanks k.h).length < c.banks.length) || !s.poweredSite k.h then .next s
      else
        let d := c.restored n (s.takeBanks k.h c.banks.length)
        let t := ((s.mapOwner k fun _ => d).rekey k n).streamIn d
        .next ((t.mapCtx n fun c => { c with savedPool := [] }).testRetire n)

/-- SITE_WINDOW_RETRY: a posted access that RETRY answered is sent again (R375), in its order (R14, R206). -/
def execSiteWindowRetry (k : Key) (idx : Nat) (s : State) : Result :=
  match (s.ctx? k).bind fun c => c.log.find? fun e => e.idx = idx with
  | none => .next s
  | some e => if regionOf e.addr = .siteWindow then .next (s.performDue k e) else .next s

/-! ## The end of a kernel (R370) -/

/-- The copies of a context end ABORTED. -/
def State.abortCopies (s : State) (k : Key) : State :=
  (s.copies.filter fun x => x.agent = k && !x.ended).foldl (fun s x =>
    let y := { x with st := .aborted, aborting := false }
    (s.endCopy y).copyNodeDone y) s

/-- The products and feeds of a context end ABORTED, or end their products PARTY_ABORTED. -/
def State.abortLinks (s : State) (k : Key) : State :=
  (s.links.filter fun x => x.owner = k && x.live).foldl (fun s x =>
    match s.abortLink k x.handle with
    | some t => t
    | none => if x.feed then s else s.endProduct x 8 0) s

/-- What a context has sent is performed, with what comes before it (R14); an access that RETRY answers goes with the context. -/
def State.drain (s : State) (c : Ctx) : State :=
  (c.log.filter fun e => e.st = .sent).foldl (fun s e =>
    let t := s.flush e.src e.site
    if (t.ctx? c.key).any fun d => d.log.contains e then t.perform c.key e else t) s

/-- A context of a kernel that ends is no more: what it had under way ends, and it is gone (R370). -/
def State.endContext (s : State) (c : Ctx) : State :=
  let t := (((s.drain c).dissolveAt c.key 3).abortCopies c.key).abortLinks c.key
  match t.ctx? c.key with
  | some d => t.retire d
  | none =>
    let u := { t with
      slots := t.slots.filter fun x => x.owner ≠ c.key
      copies := t.copies.filter fun x => x.agent ≠ c.key
      links := t.links.filter fun x => x.owner ≠ c.key }
    (u.mapOwner c.key fun c => Ctx.blank ⟨c.key.h, c.key.slot % 8⟩).resetTables

/-- R370: the kernel ends: every context, its events, copies, products, ranges and pool entries. Its RANGE nodes have lost
their intervals and finish FAILED. -/
def State.endKernel (s : State) (kid : Nat) : State :=
  let t := (s.ctxs.filter fun c => c.kid = kid && c.status ≠ .free).foldl State.endContext (s.cancelFor kid)
  let mine := fun n => (s.node? n).any fun x => x.kid = kid
  let u := { t with
    ready := t.ready.filter fun e => e.packet.isSome || !mine e.node
    steals := t.steals.filter fun x => !mine x.node
    nodes := t.nodes.map fun (n : Node) => if n.kid = kid && n.kind = NodeKind.range then { n with st := .running, dropped := true } else n }
  u.mapKernel kid fun k => { k with ended := true }

/-- A write of kend by the running context (R355, R370). -/
def State.writeKend (s : State) (v : Word) : State := if v.getLsbD 0 then s.endKernel s.cx.kid else s

/-- KEND_WRITE: kend is written (R370). -/
def execKendWrite (value : Word) (s : State) : Result := .next (s.writeKend value)

/-! ## Migration (R382 to R384) -/

/-- Usable LPDDR in units of 64 GiB (R15, R384): 160 channels of 8 GiB. -/
def State.capUnits (s : State) : Nat :=
  (160 - (s.sol.retired.filter fun u => match u with | .channel _ => true | _ => false).length) / 8

/-- Dies without a retired site (R384). -/
def State.wholeDies (s : State) : Nat :=
  ((List.range 4).filter fun d => s.sol.retired.all fun u => match u with | .site h => h / 256 ≠ d | _ => true).length

/-- The capacity class (R384). -/
def State.capacity (s : State) : BitVec 8 := BitVec.ofNat 8 (s.capUnits + 32 * s.wholeDies)

/-- One class is at least another (R384). -/
def classAtLeast (a b : BitVec 8) : Bool := decide (fld b 4 0 ≤ fld a 4 0) && decide (fld b 7 5 ≤ fld a 7 5)

/-- Contexts of a kernel, resident or in their images. -/
def State.ofKid (s : State) (kid : Nat) : List Ctx := s.ctxs.filter fun c => c.kid = kid && c.status ≠ .free

/-- A context is to be saved urgently (R383, R385, R386): a save that it is in, or has been in and has not left, is the one taken. -/
def Ctx.saveNow (c : Ctx) : Ctx :=
  match c.status with
  | .saved | .restoring => { c with status := .saved }
  | .saving => c
  | _ => { c with saveReq := some 2 }

/-- Every context of a kernel is to be saved urgently; a composition that holds one of their sites has at most 64 instructions left
(R202). -/
def State.saveKernel (s : State) (kid : Nat) : State :=
  let hs := (s.ofKid kid).map (·.key.h)
  (s.mapIf (fun c => c.kid = kid && c.status ≠ .free) Ctx.saveNow).askDissolve (fun h => hs.contains h) 64 3

/-- QUIESCE meets a context: its pins end (R224, R383). -/
def Ctx.quiesce (c : Ctx) : Ctx := { c with pins := [] }

/-- 1 is written to MIGCMD (R383). The other products of the kernel end once those of R271 in DELIVERING have. -/
def State.migStart (s : State) (leaf : Nat) (r : Requester) : State :=
  let m := s.mig leaf
  let kid := fld (s.reg (migBlock leaf)) 31 0
  if !s.writesMig leaf r || m.st = .quiesce || m.st = .check || m.st = .transfer then s
  else if !(s.kernels.any fun k => k.kid = kid && k.leaf = leaf) then
    (s.setMig { m with st := .refused, reason := 1, kib := 0 })
  else
    let t := s.setMig ⟨leaf, kid, s.reg (migBlock leaf + 8), .quiesce, 0, 0, s.capacity⟩
    let u := if t.deliversFor kid then t else t.endMigrating kid
    (u.mapIf (fun c => c.kid = kid && c.status ≠ .free) Ctx.quiesce).saveKernel kid

/-- MIGCMD start: QUIESCE begins (R383 step 1). A command is refused while one runs, and DENIED when the leaf has no such
kernel. -/
def execMigcmdStart (leaf : Nat) (r : Requester) (s : State) : Result := .next (s.migStart leaf r)

/-- A context of a kernel whose migration stopped goes on in place: one that was saved waits for its slot and banks. -/
def Ctx.stays (c : Ctx) : Ctx :=
  match c.status with
  | .saved => { c with status := .restoring }
  | .saving => { c with status := c.resumes, saveReq := none }
  | _ => { c with saveReq := none }

/-- A held copy goes on: a running one takes a place again as a restart does (R227, R376). -/
def Copy.rejoin (x : Copy) : Copy := { x with held := false, st := if x.st = .running then .queued else x.st }

/-- A migration is refused with a reason, and the source restores every context in place (R383). -/
def State.refuseMig (s : State) (m : Mig) (reason : Nat) : State :=
  let t := (s.setMig { m with st := .refused, reason := reason }).mapIf (fun c => c.kid = m.kid && c.status ≠ .free) Ctx.stays
  { t with copies := t.copies.map fun (x : Copy) => if t.kidOf x.agent = some m.kid && !x.removed then x.rejoin else x }

/-- 2 is written to MIGCMD (R383). -/
def State.migCancel (s : State) (leaf : Nat) (r : Requester) : State :=
  let m := s.mig leaf
  if s.writesMig leaf r && (m.st = .quiesce || m.st = .check) then (s.refuseMig m 5) else s

/-- MIGCMD cancel: before TRANSFER the migration ends CANCELLED; later it is ignored (R383). -/
def execMigcmdCancel (leaf : Nat) (r : Requester) (s : State) : Result := .next (s.migCancel leaf r)

/-- LOCAL and the target leaf of MIGDST. -/
def Mig.isLocal (m : Mig) : Bool := m.dst.getLsbD 32
def Mig.target (m : Mig) : Nat := fld m.dst 21 16

/-- Nodes come to a leaf: its table holds 65,536 live ones (R316), and each record once. -/
def State.nodesFit (s : State) (leaf : Nat) (ns : List Node) : Bool :=
  decide ((s.nodes.filter fun n => n.leaf = leaf).length + ns.length ≤ 65536) &&
    ns.all fun n => s.nodes.all fun m => !(m.leaf = leaf && m.addr = n.addr)

/-- R383 step 2 on this module: a free span at the kernel's relative base in a target leaf that is no shorter, with room for the kernel's
nodes: DESIGN CHOICE (128), R383 does not say what a full table does. -/
def State.migFits (s : State) (k : Kernel) (leaf : Nat) : Bool :=
  let src := s.part (.leaf k.leaf)
  let dst := s.part (.leaf leaf)
  let t := ((s.ofKid k.kid).head?.map fun c => c.banks.length).getD 0
  dst.st = .active && decide (src.len ≤ dst.len) && s.nodesFit leaf (s.nodes.filter fun n => n.kid = k.kid) &&
    (List.range k.len).all fun i => s.hasRoom (dst.base + (k.base - src.base) + i) t

/-- What CHECK finds, 0 when it accepts (R383). -/
def State.checkReason (s : State) (m : Mig) (a : MigAnswer) : Nat :=
  if m.isLocal then
    match s.kernel? m.kid with
    | none => 5
    | some k => if !classAtLeast s.capacity m.capacity then 2 else if s.migFits k m.target then 0 else 3
  else if !a.reachable then 4
  else if !(a.keyEqual && classAtLeast a.capacity m.capacity) then 2
  else if !a.roomFree then 3
  else 0

/-- MIGRATION_CHECK: the kernel is quiescent, and the destination accepts or refuses it (R383 step 2). -/
def execMigrationCheck (leaf : Nat) (answer : MigAnswer) (s : State) : Result :=
  let m := s.mig leaf
  if m.st ≠ .quiesce || !s.quiescent m.kid || s.deliversFor m.kid then .next s
  else
    let t := s.endMigrating m.kid
    match t.checkReason m answer with
    | 0 => .next (t.setMig { m with st := .transfer, kib := Config.kibMoved s.tick })
    | r => .next (t.refuseMig m r)

/-- A context of a migrated kernel at its place in another leaf, under a key whose slot it will take and a KID that this module's
walker assigns (R102, R133, R383 step 4); pins end (R224). -/
def Ctx.moved (c : Ctx) (dst : Part) (leaf kid : Nat) (k : Key) : Ctx :=
  let h := k.h
  let (x, y) := hilbertXY h
  let shift := fun (w : Word) => toWord (fld w 19 0 + 1024 * (k.slot % 8) - 1024 * fld c.ident.ctxid 2 0)
  { c with
    key := k
    kid := kid
    status := .restoring
    pins := []
    wsp := { c.wsp with d := shift c.wsp.d, p := shift c.wsp.p }
    ident := { c.ident with
      hid := toWord (h + c.rel * 2 ^ 10 + h / 256 * 2 ^ 20 + x * 2 ^ 24 + y * 2 ^ 32)
      kspan := toWord (fld c.ident.kspan 31 0 + dst.base * 2 ^ 32 + dst.len * 2 ^ 42)
      ctxid := toWord (k.slot % 8 + leaf * 2 ^ 8 + dst.parent * 2 ^ 16 + kid * 2 ^ 32) } }

/-- A task event under the name that a move gives its node. -/
def Event.renamed (id : Nat → Nat) : Event → Event
  | .task n h lo hi grain depth => .task (id n) h lo hi grain depth
  | e => e

/-- A context under the names that a move gives to nodes and, for the pieces its log still holds, to sites. -/
def Ctx.renamed (c : Ctx) (id site : Nat → Nat) : Ctx :=
  { c with
    range := { c.range with node := id c.range.node }
    act := c.act.map fun (a : Activation) => { a with node := a.node.map id }
    events := c.events.map (Event.renamed id)
    log := c.log.map fun e => if regionOf e.addr = .siteWindow then
        { e with site := site e.site, src := c.key.h, pa := siteAddr (site e.site) ((e.pa - siteBase) % 0x400000) } else e }

/-- What a kernel that waits for its span, or that runs, names its node after a move. -/
def PlaceSource.renamed (id : Nat → Nat) : PlaceSource → PlaceSource
  | .node n => .node (id n)
  | x => x

/-- The key under which an image comes to a site: that of the lowest slot free there (R102, R383 step 4). -/
def State.arrivalKey (s : State) (h : Nat) : Key := s.imageKey ⟨h, (s.freeSlot h).getD 0⟩

/-- The walker assigns its next KID (R102). -/
def State.nextKid (s : State) : State := { s with sol := { s.sol with kidNext := s.sol.kidNext % (2 ^ 32 - 1) + 1 } }

/-- DONE on this module: contexts, nodes, pool entries, copy queues, asks and packets of the kernel belong to the target leaf, under
the KID that the walker assigns there (R102, R375, R383 steps 3 and 4). -/
def State.moveKernel (s : State) (m : Mig) (k : Kernel) : State :=
  let leaf := m.target
  let dst := s.part (.leaf leaf)
  let src := s.part (.leaf k.leaf)
  let site := fun (h : Nat) => dst.base + (h - src.base)
  let kid := s.sol.kidNext
  let name := fun (n : Nat) => if n = k.kid then kid else n
  let t := (s.ofKid k.kid).foldl (fun s c =>
    let n := s.arrivalKey (dst.base + c.rel)
    (s.mapOwner c.key fun d => d.moved dst leaf kid n).rekey c.key n) s.nextKid
  let id := fun (n : Nat) => if (s.node? n).any (fun (x : Node) => x.kid = k.kid) then leaf * 2 ^ 48 + n % 2 ^ 48 else n
  let u := { t with
    nodes := t.nodes.map fun (n : Node) => if n.kid = k.kid then { n with leaf := leaf, kid := kid } else n
    ready := t.ready.map fun (e : ReadyEntry) =>
      if e.packet.isNone && (s.node? e.node).any (fun (x : Node) => x.kid = k.kid) then { e with leaf := leaf, node := id e.node } else e
    steals := t.steals.map fun (x : Steal) => { x with node := id x.node }
    copies := t.copies.map fun (x : Copy) =>
      let y := { x with node := x.node.map id }
      if t.kidOf x.agent = some kid then (if x.removed then { y with h := x.agent.h } else { y with h := x.agent.h }.rejoin) else y
    links := t.links.map fun (x : LinkCmd) => { x with node := x.node.map id }
    placing := t.placing.map fun (x : Placing) => { x with src := x.src.renamed id }
    kernels := t.kernels.map fun (x : Kernel) => { x with node := x.node.map id }
    asks := t.asks.map fun (x : HeldAsk) => if x.kid = k.kid then { x with h := site x.h, kid := kid } else x
    str := t.str.map fun (x : StrPacket) => if x.kid = k.kid then { x with dest := site x.dest, kid := kid } else x
    queues := t.queues.map fun (q : Queue) =>
      { q with packets := q.packets.map fun (p : Packet) => { p with kid := p.kid.map name } } }
  let v := u.mapIf (fun c => c.kid = kid && c.status ≠ .free) fun c => c.renamed id site
  (v.mapKernel k.kid fun k => { k with leaf := leaf, base := site k.base, kid := kid }).resetTables

/-- DONE on a peer: the kernel has left this module (R383 step 4). -/
def State.dropKernel (s : State) (kid : Nat) : State :=
  let t := ((s.ofKid kid).foldl (fun s c => s.mapOwner c.key fun c => Ctx.blank ⟨c.key.h, c.key.slot % 8⟩) s).resetTables
  let mine := fun n => (s.node? n).any fun x => x.kid = kid
  { t with
    kernels := t.kernels.filter fun k => k.kid ≠ kid
    ready := t.ready.filter fun e => e.packet.isSome || !mine e.node
    steals := t.steals.filter fun x => !mine x.node
    nodes := t.nodes.filter fun n => n.kid ≠ kid
    copies := t.copies.filter fun x => s.kidOf x.agent ≠ some kid
    links := t.links.filter fun x => s.kidOf x.owner ≠ some kid
    asks := t.asks.filter fun x => x.kid ≠ kid
    str := t.str.filter fun x => x.kid ≠ kid }

/-- MIGRATION_TRANSFER_DONE: the image has arrived, or its tag failed (R383 steps 3 and 4). -/
def execMigrationTransferDone (leaf : Nat) (ok : Bool) (s : State) : Result :=
  let m := s.mig leaf
  if m.st ≠ .transfer then .next s
  else if !ok then .next (s.refuseMig m 4)
  else
    let t := s.setMig { m with st := .done }
    match s.kernel? m.kid with
    | none => .next t
    | some k => .next (if m.isLocal then t.moveKernel m k else t.dropKernel m.kid)

/-! ## This module as the destination (R383, R385) -/

/-- The destination accepts an image (R383 step 2): equal keys, no lower class, and a free span at the kernel's relative base in a
leaf that is no shorter, with room for its nodes (128). -/
def State.acceptsImage (s : State) (x : MigImage) : Bool :=
  let dst := s.part (.leaf x.leaf)
  x.keyEqual && classAtLeast s.capacity x.capacity && dst.st = .active && decide (x.srcLen ≤ dst.len) && s.nodesFit x.leaf x.nodes &&
    x.ctxs.all fun c => s.hasRoom (dst.base + c.rel) c.banks.length

/-- The names of an image at its new place: of keys, of nodes and of sites. -/
structure NewNames where
  key : Key → Key
  node : Nat → Nat
  site : Nat → Nat

/-- A copy of an image at its agent's new place (R227, R376). -/
def Copy.arrives (y : Copy) (f : NewNames) : Copy :=
  { y with h := (f.key y.agent).h, agent := f.key y.agent, node := y.node.map f.node }.rejoin

/-- A command of an image at its owner's new place. -/
def LinkCmd.arrives (x : LinkCmd) (f : NewNames) : LinkCmd :=
  let pair := fun (p : Option (Key × Nat)) => p.map fun q => (f.key q.1, q.2)
  { x with owner := f.key x.owner, link := { x.link with h := f.site x.link.h }, feedA := pair x.feedA, feedB := pair x.feedB,
           node := x.node.map f.node }

/-- The keys that the contexts of an image take, one after the other (R102, R383 step 4). -/
def State.arrivalKeys (s : State) (base : Nat) : List Ctx → List (Key × Key)
  | [] => []
  | c :: r =>
    let n := s.arrivalKey (base + c.rel)
    (c.key, n) :: (s.addContext { c with key := n, status := .restoring }).arrivalKeys base r

/-- The kernel of an image, its contexts, copies, commands, nodes and pool entries come to a leaf under a KID (R102, R227, R383
steps 3 and 4). -/
def State.arrive1 (s : State) (x : MigImage) (kid : Nat) (k : Kernel) : State :=
  let dst := s.part (.leaf x.leaf)
  let keys := s.arrivalKeys dst.base x.ctxs
  let f : NewNames := ⟨fun k => ((keys.find? fun p => p.1 = k).map (·.2)).getD k, fun n => x.leaf * 2 ^ 48 + n % 2 ^ 48,
    fun h => dst.base + (h - x.srcBase)⟩
  let t := x.ctxs.foldl (fun s c => s.addContext ((c.moved dst x.leaf kid (f.key c.key)).renamed f.node f.site)) s
  { t with
    copies := t.copies ++ x.copies.map (Copy.arrives · f)
    links := t.links ++ x.links.map (LinkCmd.arrives · f)
    kernels := t.kernels ++ [{ k with kid := kid, leaf := x.leaf, base := f.site x.kernel.base }]
    nodes := t.nodes ++ x.nodes.map fun (n : Node) => { n with leaf := x.leaf, kid := kid }
    ready := t.ready ++ x.ready.map fun (e : ReadyEntry) => { e with leaf := x.leaf, node := f.node e.node } }

/-- The products whose paused feeds a spare module restored end PARTY_TIMEOUT (R271, R273). -/
def State.endPaused (s : State) (kid : Nat) : State :=
  (s.links.filter fun x => x.live && x.feed && x.paused && s.kidOf x.owner = some kid).foldl (fun s x =>
    match s.productOf x with
    | some p => s.endProduct p 2 0
    | none => s.endLink { x with steps := [] } 2) s

/-- A migration image arrives: the walker assigns a KID, the contexts take the same relative indices in the target leaf, and they
are restored as R378 says (R102, R383 step 4). What it launched from is on the module that it left. -/
def State.migArrival (s : State) (x : MigImage) : State :=
  if !s.acceptsImage x then s
  else
    let kid := s.sol.kidNext
    let k := { x.kernel with queue := none, node := none, idx := ((x.kernel.queue.map (·.2)).getD x.kernel.idx) }
    let t := s.nextKid.arrive1 x kid k
    if x.spare then t.endPaused kid else t

/-! ## Fabric-domain recovery (R385) -/

/-- A memory checkpoint is written back: bytes of the module's own memory. -/
def State.checkpoint (s : State) (cells : List Host.Cell) : State :=
  cells.foldl (fun s c => if c.1 < siteBase && validPlace .K c.1 then s.store c.1 1 c.2.toNat else s) s

/-- The contexts of a kernel stand still until the recovery resumes (R385). -/
def State.holdKernel (s : State) (kid : Nat) : State :=
  s.mapIf (fun c => c.kid = kid && c.status = .restoring) fun c => { c with status := .saved }

/-- Replace (R385): the spare takes an image of the failed module as a migration does; a survivor's kernel goes back to its own last image,
under the KID and the packet or node that it has. -/
def State.replaceKernel (s : State) (x : MigImage) : State :=
  if x.spare then
    let kid := s.sol.kidNext
    let t := s.migArrival x
    if t.sol.kidNext = kid then t else { t.holdKernel kid with sol := { t.sol with job := t.sol.job ++ [kid] } }
  else
    match s.kernel? x.kernel.kid with
    | none => s
    | some k =>
      if !s.sol.job.contains k.kid || !((s.ofKid k.kid).all fun c => c.status = .saved) then s
      else
        ((s.dropKernel k.kid).arrive1 x k.kid { x.kernel with queue := k.queue, node := k.node, idx := k.idx }).holdKernel k.kid

/-- Resume (R385): access-control entries are rewritten, and the contexts of the job run on. -/
def State.resumeJob (s : State) (acl : List (Nat × BitVec 128)) : State :=
  let t := acl.foldl (fun (s : State) e =>
    (s.setReg (aclEntry e.1) (toWord (fld e.2 63 0))).setReg (aclEntry e.1 + 8) (toWord (fld e.2 127 64))) s
  let u := t.mapIf (fun c => t.sol.job.contains c.kid && c.status = .saved) fun c => { c with status := .restoring }
  { u with sol := { u.sol with recovery := .none, job := [] } }

/-- A phase of a recovery, in its turn (R385). -/
def State.recover (s : State) (a : RecoveryAct) : State :=
  match a, s.sol.recovery with
  | .quiesce kids, .fence =>
    let t := kids.foldl State.saveKernel s
    { t with sol := { t.sol with recovery := .quiesce, job := kids } }
  | .replace x mem, .quiesce | .replace x mem, .replace =>
    let t := (s.replaceKernel x).checkpoint mem
    { t with sol := { t.sol with recovery := .replace } }
  | .resume acl, .replace => s.resumeJob acl
  | _, _ => s

end Sys2Proof.Machine
end

