-- ==== Sys2Proof/Machine/Outside.lean ====
section
/-! DEFINITION. The world outside the sites: Fralis functions, debug, peers, boot, power, attestation and RAS (R81, R385,
R393 to R397, R401 to R407). -/

namespace Sys2Proof.Machine

/-! ## Debug sessions (R405, R406) -/

/-- R405 allows a session of the function in the lifecycle state. -/
def debugAllowed (l : Lifecycle) (f : Nat) : Bool :=
  match l with
  | .production => true
  | .rma => false
  | .rmaWiped | .manufacture => f = 0

/-- REASON of DBGSTAT set. -/
def State.debugReason (s : State) (f why : Nat) : State := s.setReg (debugBlock f + 0x10) (toWord (why * 2 ^ 36))

/-- DBGCMD 1: a session opens, or DENIED; one at platform level, not at vendor level, is counted (R405, R406). -/
def State.debugOpen (s : State) (f : Nat) : State :=
  if s.sessions.contains f then s
  else if !s.holds (s.fnRequester f) rightDebug || !debugAllowed s.sol.lifecycle f then s.debugReason f 1
  else
    let t := { s with sessions := f :: s.sessions }.debugReason f 0
    if f = 0 && s.sol.lifecycle = .production then { t with sol := { t.sol with debugSessions := t.sol.debugSessions + 1 } } else t

/-- The selected site lies in the function's span. -/
def State.debugSiteIn (s : State) (f : Nat) : Bool := decide (s.debugRel f < (s.spanFor (s.fnRequester f)).2)

/-- The selected site is in S2 or S3. -/
def State.debugGated (s : State) (f : Nat) : Bool :=
  let p := tabGet s.power ((s.spanFor (s.fnRequester f)).1 + s.debugRel f) .S0
  p = .S2 || p = .S3

/-- A halt reaches a context: it stops at its next boundary, and a composition that holds its site ends with LAST 4, at once or, between a
hint and its target, at the boundary that follows (R202, R406). -/
def State.requestHalt (s : State) (f : Nat) (c : Ctx) : State :=
  let t := match s.claimant c.key.h with
    | some o =>
      if o.key = c.key then s
      else if o.hint.isNone then s.dissolveAt o.key 4
      else s.askDissolve (· = c.key.h) 0 4
    | none => s
  (t.debugReason f 0).mapCtx c.key fun c => { c with halt := some ⟨f, false, false, false, none⟩ }

/-- DBGCMD 3: halt the selected context (R406). -/
def State.debugHalt (s : State) (f : Nat) : State :=
  if !s.sessions.contains f then s
  else if !s.debugSiteIn f then s.debugReason f 2
  else if s.debugGated f then s.debugReason f 4
  else
    match s.debugCtx f with
    | none => s.debugReason f 2
    | some c =>
      match c.halt with
      | some h => if h.session = f then s.debugReason f 0 else s.debugReason f 3
      | none => s.requestHalt f c

/-- DBGCMD 4: the context runs on from DBGPC (R406). -/
def State.debugResume (s : State) (f : Nat) : State :=
  match s.debugHeld f with
  | none => s
  | some c => (s.debugReason f 0).mapCtx c.key Ctx.resume

/-- A halted context is let go for one step from DBGPC. -/
def Ctx.stepOnce (c : Ctx) : Ctx :=
  match c.halt with
  | none => c
  | some h => { c with pc := h.pc.getD c.pc, halt := some { h with halted := false, stepping := true, moved := false, pc := none } }

/-- DBGCMD 5: one step, or BUSY (R406). -/
def State.debugStep (s : State) (f : Nat) : State :=
  if !s.sessions.contains f then s
  else
    match s.debugHeld f with
    | none => s.debugReason f 3
    | some c => (s.debugReason f 0).mapCtx c.key Ctx.stepOnce

/-- A write of DBGXVAL: the selected register of the halted context (R406). -/
def State.debugSetX (s : State) (f : Nat) (v : Word) : State :=
  match s.debugHeld f with
  | none => s
  | some c => s.mapCtx c.key fun c => c.setX (BitVec.ofNat 5 (fld (s.reg (debugBlock f + 0x20)) 4 0)) v

/-- A write of DBGPC while HALTED takes effect at the next resume or step (R406). -/
def State.debugSetPc (s : State) (f : Nat) (v : Word) : State :=
  match s.debugHeld f with
  | none => s
  | some c => s.mapCtx c.key fun c => { c with halt := c.halt.map fun (h : Halt) => { h with pc := some v } }

/-- A function number of R393. -/
def isFn (f : Nat) : Bool := decide (f < 81)

/-- DBGCMD_OPEN (R406). -/
def execDbgcmdOpen (f : Nat) (s : State) : Result := .next (if isFn f then s.debugOpen f else s)

/-- DBGCMD_CLOSE (R406). -/
def execDbgcmdClose (f : Nat) (s : State) : Result := .next (if isFn f then s.endSession f else s)

/-- DBGCMD_HALT (R406). -/
def execDbgcmdHalt (f : Nat) (s : State) : Result := .next (if isFn f then s.debugHalt f else s)

/-- DBGCMD_RESUME (R406). -/
def execDbgcmdResume (f : Nat) (s : State) : Result := .next (if isFn f then s.debugResume f else s)

/-- DBGCMD_STEP (R406). -/
def execDbgcmdStep (f : Nat) (s : State) : Result := .next (if isFn f then s.debugStep f else s)

/-- DBGXVAL_WRITE (R406). -/
def execDbgxvalWrite (f : Nat) (value : Word) (s : State) : Result := .next (if isFn f then s.debugSetX f value else s)

/-- The running context stops here for its debugger (R406): when it has been told to halt, or its one step is over and it runs
at a level that the session reaches. -/
def Ctx.haltDue (c : Ctx) : Bool :=
  match c.halt with
  | none => false
  | some h => !h.halted && (!h.stepping || (h.moved && decide (c.level.rank ≤ (fnLevel h.session).rank)))

/-- The running context is HALTED (R202, R270, R406). -/
def State.enterHalt (s : State) : State :=
  let t := (s.dissolve 4).pauseFeeds s.cx.key
  t.mapCx fun c => { c with
    halt := c.halt.map fun (h : Halt) => { h with halted := true, stepping := false, moved := false, pc := none } }

/-! ## External interrupts (R394) -/

/-- A source holds or lets go of its interrupt. -/
def Ctx.hold9 (c : Ctx) (e : ExtIrq) (on : Bool) : Ctx :=
  { c with ext := if on then (if c.ext.contains e then c.ext else c.ext ++ [e]) else c.ext.erase e }

/-- A write to the XIRQ of a function; out of its reach it is discarded (R394). -/
def State.writeXirq (s : State) (r : Requester) (v : Word) : State :=
  match s.reached r (fld v 25 16) (fld v 28 26) with
  | none => s
  | some c => s.mapCtx c.key fun c => c.hold9 ⟨r.acts, fld v 7 0⟩ (v.getLsbD 8)

/-- XIRQ_WRITE (R394). -/
def execXirqWrite (r : Requester) (value : Word) (s : State) : Result := .next (s.writeXirq r value)

/-! ## Peers (R81, R396, R397) -/

/-- A place outside the package: CXL, host or peer memory (R107). What a slice holds apart lies in the package. -/
def outsidePackage (a : Nat) : Bool :=
  decide (0x100000000000 ≤ a) && decide (a < sliceSpace) && (decide (a < siteBase) || decide (0x400000000000 ≤ a))

/-- What a peer's access asks of an entry: the bit of RIGHTS, and its target lies in the entry's range. -/
structure AclAsk where
  right : Nat
  target : BitVec 128 → Bool

/-- How far an entry matches (R396): the number of its tests that pass before the first that fails; 5 admits. -/
def aclScore (e : BitVec 128) (mod leaf : Nat) (a : AclAsk) : Nat :=
  if !e.getLsbD 0 then 0
  else if fld e 34 25 ≠ mod then 1
  else if !(fld e 40 35 = leaf || (fld e 40 35 = 63 && e.getLsbD 41)) then 2
  else if !e.getLsbD (42 + a.right) then 3
  else if !a.target e then 4
  else 5

/-- The entry that comes nearest to admitting an access, and how far it matches; the lowest of equals. -/
def State.nearestAcl (s : State) (mod leaf : Nat) (a : AclAsk) : BitVec 128 × Nat :=
  (List.range 256).foldl (fun (acc : BitVec 128 × Nat) i =>
    let n := aclScore (s.acl i) mod leaf a
    if acc.2 < n then (s.acl i, n) else acc) (0, 0)

/-- Queue `q` lies in the entry's range. -/
def aclQueue (q : Nat) (e : BitVec 128) : Bool := decide (fld e 56 45 ≤ q) && decide (q < fld e 56 45 + fld e 69 57)

/-- Every context that the level owning an entry answers for holds an external interrupt (R396). -/
def State.peerRefused (s : State) (mod : Nat) (e : BitVec 128) (n : Nat) : State :=
  let src := 0x1000 + mod
  if 2 ≤ n && e.getLsbD 1 then
    let fl := if e.getLsbD 44 then some (s.part (.leaf (fld e 75 70))).parent else s.queueFirst (fld e 56 45)
    s.mapIf (fun c => c.status ≠ .free && some c.fl = fl) fun c => c.hold9 ⟨.D, src⟩ true
  else s.mapIf (fun c => c.status ≠ .free) fun c => c.hold9 ⟨.P, src⟩ true

/-- R397: the place that a peer's address reaches through stages 2 and 3 of a leaf. -/
def State.peerPlace (s : State) (leaf : Nat) (acc : Access) (pa n : Nat) : Except WalkFail Target :=
  s.unitPlace (s.clientFor .D leaf (s.part (.leaf leaf)).parent) acc (pa % 2 ^ 37) n

/-- PEER_ACCESS: a read leaves everything as it is; a write is performed when an entry grants MEM and the translation
succeeds, and is otherwise answered NACK (R396, R397). -/
def execPeerAccess (srcMod : Nat) (srcLeaf : Nat) (a : PeerReq) (s : State) : Result :=
  match a with
  | .read _ _ => .next s
  | .write pa n v =>
    let (e, k) := s.nearestAcl srcMod srcLeaf ⟨2, fun e => (s.part (.leaf (fld e 75 70))).st ≠ .free⟩
    if k < 5 then .next (s.peerRefused srcMod e k)
    else
      match s.peerPlace (fld e 75 70) .store pa n with
      | .error _ => .next s
      | .ok t => .next (if isMmio t.pa || (s.refusedAt t n).isSome then s else s.store t.pa n v.toNat)

/-- The value that a peer's read returns, or NACK (R397). -/
def State.peerValue (s : State) (srcMod srcLeaf pa n : Nat) : Option Nat :=
  let (e, k) := s.nearestAcl srcMod srcLeaf ⟨2, fun e => (s.part (.leaf (fld e 75 70))).st ≠ .free⟩
  if k < 5 then none
  else
    match s.peerPlace (fld e 75 70) .load pa n with
    | .error _ => none
    | .ok t => if isMmio t.pa || (s.refusedAt t n).isSome then none else some (s.load t.pa n)

/-- A peer's write to a slot of a ring (R81). One to a queue that is not registered, or whose slot cannot be written, is dropped without an
ERROR and without an interrupt: DESIGN CHOICE (126), R81 speaks of refused writes alone. -/
def State.peerRing (s : State) (q : Nat) (index : BitVec 32) (packet : BitVec 512) : State :=
  let x := s.queue q
  if x.st = .unreg then s
  else
    match s.unitWrite (s.queueClient x) (x.base.toNat + 64 * (index.toNat % x.size)) 64 packet.toNat with
    | .ok t => t
    | .error _ => s

/-- A peer's read–modify–write on memory of this module (R338, R397): performed at its home when an entry grants MEM and the
translation succeeds; a target of device type answers NACK. -/
def State.peerRmw (s : State) (srcMod srcLeaf pa op n data : Nat) : State :=
  let (e, k) := s.nearestAcl srcMod srcLeaf ⟨2, fun e => (s.part (.leaf (fld e 75 70))).st ≠ .free⟩
  if k < 5 then s.peerRefused srcMod e k
  else
    match s.peerPlace (fld e 75 70) .amo pa n with
    | .error _ => s
    | .ok t => if t.kind = .device || (s.refusedAt t n).isSome then s else s.store t.pa n (portOp op n (s.load t.pa n) data)

/-- A peer's LACC.ADD of either form, or LACC.CLR, on memory of this module (R223, R397): performed at its home when an entry grants MEM and
the translation succeeds; a target of device type, and a value out of its 8-byte alignment, answers NACK. -/
def State.peerLacc (s : State) (srcMod srcLeaf pa : Nat) (kind : OpKind) (op : Nat) (data : Word) : State :=
  let (e, k) := s.nearestAcl srcMod srcLeaf ⟨2, fun e => (s.part (.leaf (fld e 75 70))).st ≠ .free⟩
  if k < 5 then s.peerRefused srcMod e k
  else
    match s.peerPlace (fld e 75 70) .store pa 72 with
    | .error _ => s
    | .ok t =>
      if t.kind = .device || pa % 8 ≠ 0 || (s.refusedAt t 72).isSome then s
      else
        let u := s.together t.site t.pa 72
        let a := if isSiteWindow t.pa then t.pa else u.placeAt t.site (physOf t.pa)
        match kind with
        | .laccAdd => u.store a 72 (laccAdd (u.load a 72) (laccTerm (op = 1) data).num)
        | .laccClr => u.store a 72 0
        | _ => s

/-- A place that an agent outside the package writes on its own: CXL, host and peer memory, but for the switch (R107, R338). -/
def outsideMemory (a : Nat) : Bool := outsidePackage a && !isMmio a && !isSwitch a && validPlace .K a

/-- A write at a device physical address by an agent outside the package: in memory, and in every copy of its line that a slice holds apart
(R124, R344). -/
def State.storeThrough (s : State) (pa n v : Nat) : State :=
  (s.slices.filter fun l => l.line = pa / 128).foldl (fun s l => s.store (slicePlace l.home pa) n v) (s.store pa n v)

/-- An agent outside the package writes its own memory: a naturally aligned access of 1, 2, 4 or 8 bytes (R338, R339). -/
def State.outsideStore (s : State) (pa n v : Nat) : State :=
  if [1, 2, 4, 8].contains n && pa % n = 0 && outsideMemory pa then s.storeThrough pa n v else s

/-- The rights in force of the partition that a peer's write to a queue reaches. R81 names a target partition, and no rule says which one
a queue has: it is the leaf whose PQRANGE holds it, else the first-level span, and a queue of neither admits no peer: DESIGN CHOICE
(95). -/
def State.peerRights (s : State) (q : Nat) : BitVec 10 :=
  match s.queueLeaf q with
  | some j => (s.part (.leaf j)).rights
  | none =>
    match s.queueFirst q with
    | some i => (s.part (.first i)).rights
    | none => 0

/-- PEER_DOORBELL_WRITE: a peer's write to a ring slot or a doorbell is admitted by an entry and by PEER_LAUNCH of the target
partition; any other is dropped (R81, R92, R396). -/
def execPeerDoorbellWrite (srcMod : Nat) (srcLeaf : Nat) (q : Nat) (w : PeerWrite) (s : State) : Result :=
  let right := match w with | .ring _ _ => 0 | .bell _ => 1
  let (e, k) := s.nearestAcl srcMod srcLeaf ⟨right, aclQueue q⟩
  if k < 5 || !(s.peerRights q).getLsbD rightPeerLaunch then .next (s.peerRefused srcMod e k)
  else
    match w with
    | .ring i p => .next (s.peerRing q i p)
    | .bell n => .next (s.doorbell q n)

/-! ## Power (R272, R404) -/

/-- The power state of a site set. -/
def State.setPower (s : State) (h : Nat) (p : PowerState) : State := { s with power := tabPut s.power h p }

/-- An event for a context of the site has come (R365, R404). -/
def Ctx.calls (c : Ctx) (now : Word) : Bool :=
  !c.events.isEmpty || c.status = .restoring || c.saveReq.isSome || c.halt.isSome || !c.asyncs.isEmpty ||
    [Level.T, .D, .P].any fun l => (c.pendingAt now c.level l).any fun p => hasBit (c.tr l).ie p.code

/-- An access that needs the core or the pool of a site is on its way, or may be waited with: of what other sites have sent, of a context that
runs elsewhere and reaches the site, of a copy, a product, or the walker (R404). -/
def State.accessFor (s : State) (h : Nat) : Bool :=
  let leaf := s.leafOfSite h
  let near := fun (k : Key) => (s.owner? k).any fun c => some c.leaf = leaf || c.level = .P
  (s.ctxs.any fun c => (c.log.any fun e => e.st = .sent && e.site = h) || (c.sends.any fun x => x.inFlight && c.leafBase + x.dest = h) ||
      (c.status = .running && c.key.h ≠ h && near c.key)) ||
    (s.posts.any fun p => p.site = h) || (s.copies.any fun x => !x.ended && near x.agent) || (s.links.any fun x => x.live && near x.owner) ||
    (s.placing.any fun e => some e.leaf = leaf) || s.ready.any fun e => some e.leaf = leaf

/-- SITE_WAKE: an event for a context of the site, or an access that needs its core or pool, wakes it from S1 or S2. From S3 the boot of its
units by P's command brings it back (R404). That P's command is this step with nothing placed there is a DESIGN CHOICE (129). -/
def execSiteWake (h : Nat) (s : State) : Result :=
  let p := tabGet s.power h .S0
  .next (if p = .S3 || ((p = .S1 || p = .S2) && ((s.ctxs.any fun c => c.key.h = h && c.status ≠ .free && c.calls s.now) || s.accessFor h))
    then s.setPower h .S0 else s)

/-- The context stands at a WFI (R365). -/
def State.atWfi (s : State) (c : Ctx) : Bool :=
  c.status = .running && c.hint.isNone &&
  match s.resolveFor c c.client .fetch c.pc 4 none with
  | .ok t => s.load t.pa 4 = 0x10500073
  | .error _ => false

/-- R272: no matched feed of the site that is not paused, and no window there that receives a delivery. -/
def State.linksQuiet (s : State) (h : Nat) : Bool :=
  s.links.all fun x =>
    if x.feed then !(x.owner.h = h && (x.st = .opened || x.st = .running) && !x.paused)
    else !(x.st = .delivering && ((s.owner? x.owner).bind fun c => s.sinkOf c x.desc).any fun t => t.key.h = h)

/-- The condition of R404 under which a site enters a state. A halted context holds its site in S0 or S1 (R405), and so does a
composition. -/
def State.mayGate (s : State) (h : Nat) (target : PowerState) : Bool :=
  let cs := s.atSite h
  match target with
  | .S0 => false
  | .S1 => cs.all fun c => c.status = .parked || s.atWfi c
  | .S2 => (cs.all fun c => c.status = .parked && c.events.isEmpty && !c.haltedNow) && s.linksQuiet h && (s.claimant h).isNone
  | .S3 => cs.isEmpty && s.linksQuiet h && (s.claimant h).isNone

/-- The caches and the TLB of a core lose what they hold (R404). -/
def State.dropCore (s : State) (h : Nat) : State :=
  { s.invalidate h with icache := s.icache.filter fun b => b.h ≠ h, tlb := s.tlb.filter fun e => e.at_ ≠ .core h }

/-- SITE_GATE: Solstice places a site in S1, S2 or S3; S3 loses the pool (R404). -/
def execSiteGate (h : Nat) (target : PowerState) (s : State) : Result :=
  if !s.mayGate h target then .next s
  else
    let t := s.setPower h target
    match target with
    | .S0 | .S1 => .next t
    | .S2 => .next (t.dropCore h)
    | .S3 => .next ((t.dropCore h).discard fun a => siteAddr h 0 ≤ a && a < siteAddr h 0x100000)

/-! ## Boot, identity and attestation (R401 to R403, R405) -/

/-- BOOT: verified boot after a package reset (R401). A step that fails halts boot there; else the partition tables are reset
and the P function is open; until then no block is anything but FREE. -/
def execBoot (verified : BootCheck) (s : State) : Result :=
  if s.sol.boot ≠ .reset then .next s
  else
    let halt := fun n => ({ s with parts := [], sol := { s.sol with boot := .halted n, powered := true } } : State)
    if !verified.solsticeOk then .next (halt 1)
    else if !verified.coreOk then .next (halt 2)
    else if !verified.trainingOk then .next (halt 3)
    else .next { s with parts := [], sol := { s.sol with boot := .done, powered := true } }

/-- The debug level in force (R405). -/
def State.debugLevel (s : State) : DebugLevel :=
  if s.sessions.contains 0 then (if s.sol.lifecycle = .production then .platform else .vendor)
  else if s.sessions.any (· < 17) then .reseller
  else if s.sessions.isEmpty then .none
  else .tenant

/-- A span as a report holds it: base, length, parent and rights. -/
def spanContent : Option (Nat × Nat × Nat × BitVec 10) → List Nat
  | none => []
  | some (b, l, p, r) => [b, l, p, r.toNat]

/-- A lifecycle state and a debug level as a report holds them. -/
def Lifecycle.content : Lifecycle → Nat
  | .production => 0
  | .rma => 1
  | .rmaWiped => 2
  | .manufacture => 3
def DebugLevel.content : DebugLevel → Nat
  | .none => 0
  | .tenant => 1
  | .reseller => 2
  | .platform => 3
  | .vendor => 4

/-- What a report is signed over (R403): its fields, in their order. -/
def Report.content (r : Report) : List Nat :=
  [r.nonce.toNat] ++ r.measured.map (·.toNat) ++ r.rollback ++
    [r.lifecycle.content, r.debugLevel.content, r.debugSessions, r.capacity.toNat] ++ spanContent r.span ++ [r.hssIndex]

/-- The fields of the report of R403 under an HSS leaf index. -/
def State.reportFields (s : State) (r : Requester) (nonce : BitVec 256) : Report where
  nonce := nonce
  measured := [Config.measurement 1, Config.measurement 2]
  rollback := [Config.rollbackCounter 1, Config.rollbackCounter 2]
  lifecycle := s.sol.lifecycle
  debugLevel := s.debugLevel
  debugSessions := s.sol.debugSessions
  capacity := s.capacity
  span :=
    let p := s.part (.leaf r.leaf)
    if p.st = .free then none else some (p.base, p.len, p.parent, p.rights)
  hssIndex := s.sol.hssIndex
  ecdsa := 0
  hss := []

/-- The report of R403, signed with both keys. -/
def State.report (s : State) (r : Requester) (nonce : BitVec 256) : Report :=
  let p := s.reportFields r nonce
  { p with ecdsa := Config.ecdsaSignature p.content, hss := Config.hssSignature p.hssIndex p.content }

/-- ATTESTATION_REQUEST: the next HSS leaf index is burnt and a report signed; with none left it is refused (R402, R403). -/
def execAttestationRequest (r : Requester) (nonce : BitVec 256) (s : State) : Result :=
  if 2 ^ 20 ≤ s.sol.hssIndex then .next { s with sol := { s.sol with exhausted := true } }
  else .next { s with sol := { s.sol with hssIndex := s.sol.hssIndex + 1, reports := s.sol.reports ++ [s.report r nonce] } }

/-- POWER_LOSS: everything is as after a package reset, but what non-volatile memory and fuses hold, and memory outside the
package (R402). -/
def execPowerLoss (s : State) : Result :=
  .next { State.reset with
    mem := s.mem.filter fun c => outsidePackage c.1
    tick := s.tick
    sol := { Solstice.reset with
      powered := false
      hssIndex := s.sol.hssIndex
      exhausted := s.sol.exhausted
      lifecycle := s.sol.lifecycle
      retired := s.sol.retired } }

/-- RMA_WIPE: every pool, slice and LPDDR range is cleared (R405). -/
def execRmaWipe (s : State) : Result :=
  if s.sol.lifecycle ≠ .rma then .next s
  else .next { s.discard (fun a => !outsidePackage a) with l1 := [], icache := [], slices := [], sol := { s.sol with lifecycle := .rmaWiped } }

/-! ## RAS, removal and recovery (R202, R384, R385, R395) -/

/-- CXL_DEVICE_REMOVAL: every later access to the port's range meets poison (R395). -/
def execCxlDeviceRemoval (port : Nat) (s : State) : Result :=
  if 4 ≤ port || s.sol.removedPorts.contains port then .next s
  else .next { s with sol := { s.sol with removedPorts := s.sol.removedPorts ++ [port] } }

/-- RAS_RETIREMENT: a channel, a bank, a slice or a site is retired, and with it the capacity class changes (R384). -/
def execRasRetirement (u : RasUnit) (s : State) : Result := .next (s.retireUnit u)

/-- HEARTBEAT_MISS: a module of the domain has failed; every access-control entry naming it is invalidated (R385). The phases
that follow are `State.recover`. -/
def execHeartbeatMiss (module : Nat) (s : State) : Result :=
  if s.sol.failedModules.contains module then .next s
  else
    let t := (List.range 256).foldl (fun s i =>
      if fld (s.acl i) 34 25 = module then s.setReg (aclEntry i) (putFld (s.reg (aclEntry i)) 0 0 0) else s) s
    .next { t with sol := { t.sol with recovery := .fence, failedModules := t.sol.failedModules ++ [module] } }

/-- The registers that a failed member lost take what their workspace doublewords last received (R202). -/
def State.loseRegisters (s : State) (mask : BitVec 32) : State :=
  let base := s.cx.workspace s.cx.level
  s.mapCx fun c => { c with
    x := Vector.ofFn fun i => if i.val ≠ 0 && mask.getLsbD i.val then toWord (s.load (base + 8 * i.val) 8) else c.x.get i
    dirty := c.dirty &&& ~~~mask }

/-- The registers that a member of a composition of `n` holds (R196). -/
def memberRegs (n member : Nat) : BitVec 32 :=
  (List.range' 1 31).foldl (fun m i => if i % n = member then m ||| BitVec.twoPow 32 i else m) 0

/-- SITE_FAULT: a member of a composition fails; it dissolves, and the owner takes cause 34, at its next instruction if it is
parked (R196, R202). -/
def execSiteFault (k : Key) (member : Nat) (f : SiteFailure) (s : State) : Result :=
  match s.ctx? k with
  | none => .next s
  | some c =>
    if c.comp.n ≤ member || c.comp.n < 2 then .next s
    else
      let mask := f.mask &&& memberRegs c.comp.n member
      let t := if f.siteLost then s.retireUnit (.site (k.h + member)) else s
      let u := ((t.switchTo k).loseRegisters mask).dissolve 2
      let val := toWord (member + (if f.siteLost then 2 else 1) * 256)
      .next (if c.status = .running then u.raise ⟨34, val, mask.setWidth 64, .T⟩
        else u.mapCx fun c => c.async 34 val (mask.setWidth 64) .T)

end Sys2Proof.Machine
end

