-- ==== Sys2Proof/Machine/Boundary.lean ====
section
/-! DEFINITION. What a core takes at an instruction boundary (R30, R360, R373, R390, R406), and the trap of a boundary as a step of
its own (R361). -/

namespace Sys2Proof.Machine

/-- The core of the running context executes: its site is in S0 and in service, no composition of another context holds the site, and boot has
not stopped the module (R194, R401, R404). -/
def State.coreFree (s : State) : Bool :=
  s.poweredSite s.cx.key.h && !s.siteLost s.cx.key.h && !s.heldBy s.cx &&
    (match s.sol.boot with | .halted _ => false | .reset | .done => true)

/-- The running context has the core: it is in an activation and not HALTED. -/
def State.canRun (s : State) : Bool := s.cx.status = .running && !s.cx.haltedNow && s.coreFree

/-- The save request of the running context is taken here (R360 item 2, R373); that of a composed one once its instructions are spent (R202). -/
def State.saveDue (s : State) : Bool :=
  s.cx.saveReq.isSome && s.savePoint s.cx && (s.cx.comp.n < 2 || s.cx.comp.due.all (·.1 = 0))

/-- A request to a member ends the composition of the running context here, with LAST (R202). -/
def Ctx.dissolveDue (c : Ctx) : Option Nat :=
  if 2 ≤ c.comp.n then (c.comp.due.filter (·.1 = 0)).map (·.2) else none

/-- One of the instructions that a composition still has before a request dissolves it (R202). -/
def Ctx.spend (c : Ctx) : Ctx := { c with comp := { c.comp with due := c.comp.due.map fun d => (d.1 - 1, d.2) } }

/-- The trap that the boundary of the running context takes: an interrupt routed to P comes first, and anything else only where
no save, debug halt or dissolution is due (R202, R360, R406). -/
def State.trapDue (s : State) : Option Due :=
  (s.cx.dueFirst s.now).or (if s.saveDue || s.cx.haltDue || s.cx.dissolveDue.isSome then none else s.cx.dueLater s.now)

/-- R360: the state after the first thing due at the boundary of the running context is taken, if anything is. -/
def State.boundary (s : State) : Option State :=
  match s.cx.dueFirst s.now with
  | some d => some (s.takeDue d)
  | none =>
    if s.saveDue then some (s.stopForSave s.cx.key)
    else if s.cx.haltDue then some s.enterHalt
    else
      match s.cx.dissolveDue with
      | some last => some (s.dissolveAt s.cx.key last)
      | none => (s.cx.dueLater s.now).map s.takeDue

/-- R390: a retiring context takes cause 31 for a FAILED entry at its HDONE, which executes again after the handler; the
watchdog starts again from 0. -/
def State.failedRetirement (s : State) : Option State :=
  if s.cx.status = .retiring && s.coreFree then
    (firstLeast AsyncExc.age (s.cx.asyncs.filter fun a => a.code = 31)).map fun a =>
      ({ s with cx := { s.cx with status := .running, wdog := { s.cx.wdog with count := 0 } } } : State).takeAsync a
  else none

/-- TRAP_ENTRY: the interrupt or the asynchronous exception due at the boundary of the running context is taken (R360, R361). -/
def execTrapEntry (s : State) : Result :=
  .next (if s.canRun && s.cx.hint.isNone && !s.cx.waiting then (s.trapDue.map s.takeDue).getD s else s)

end Sys2Proof.Machine
end

