-- ==== Sys2Proof/Machine/Switch.lean ====
section
/-! DEFINITION. The fabric switch's reduction slots and the switch blocks (R398 to R400, R408, R409). -/

namespace Sys2Proof.Machine

/-! ## Allocation (R398, R408) -/

/-- The staged registers of a switch block (R408). -/
def State.stagedAllocation (s : State) (leaf : Nat) : Allocation :=
  let r := fun o => s.reg (switchBlock leaf + o)
  ⟨fld (r 0) 7 0, fld (r 0) 21 16, fld (r 8) 3 0, fld (r 0xC) 3 0, fld (r 0x10) 9 0, r 0x18, fld (r 0x20) 15 0, fld (r 0x28) 9 0,
    BitVec.ofNat 16 (fld (r 0x28) 31 16), (s.part (.leaf leaf)).st ≠ .free && (s.part (.leaf leaf)).rights.getLsbD rightPeerLaunch⟩

/-- 1 is written to SWCMD (R398, R408). -/
def State.swAllocate (s : State) (leaf : Nat) (r : Requester) : State :=
  if !s.reachesSwitch leaf r || (s.swBlock leaf).pending.isSome then s
  else (s.setSwBlock ⟨leaf, 0, some (s.stagedAllocation leaf)⟩)

/-- SWCMD allocate: the staged values leave as one allocation; a command while one is unanswered is ignored (R408). -/
def execSwcmdAllocate (leaf : Nat) (r : Requester) (s : State) : Result := .next (s.swAllocate leaf r)

/-- Every staged value is in its range (R398, R408). -/
def Allocation.inRange (a : Allocation) : Bool :=
  ((decide (a.op ≤ 11)) && a.op ≠ 8) && decide (1 ≤ a.els) && decide (a.els ≤ 10) && decide (1 ≤ a.tmo)

/-- The slot that an allocation opens. -/
def Allocation.opens (a : Allocation) : SwitchSlot := ⟨a.slot, a.gen, a.op, a.els, a.base, a.mask, a.tmo, [], [], false⟩

/-- The allocation has the parameters of an open slot (R398). -/
def Allocation.agrees (a : Allocation) (x : SwitchSlot) : Bool :=
  a.gen = x.gen && a.op = x.op && a.els = x.els && a.base = x.base && a.mask = x.mask && a.tmo = x.tmo

/-- The receiver of a leaf, registered at a slot (R398, R409). -/
def SwitchSlot.register (x : SwitchSlot) (leaf : Nat) (a : Allocation) : SwitchSlot :=
  { x with receivers := upsert (fun r => r.1 = leaf) (leaf, a.rel, a.tag) x.receivers }

/-- The slot of a number. -/
def State.switchSlot? (s : State) (n : Nat) : Option SwitchSlot := s.switchSlots.find? fun x => x.slot = n

/-- A slot set. -/
def State.setSwitchSlot (s : State) (x : SwitchSlot) : State :=
  { s with switchSlots := upsert (fun y => y.slot = x.slot) x s.switchSlots }

/-- The slot that an allocation names, and whether it opens it, or `none` for CONFLICT (R398, R400): a slot never allocated opens at
generation 0, and a CLOSED one at the next generation. -/
def State.slotFor (s : State) (a : Allocation) : Option (SwitchSlot × Bool) :=
  if !a.granted || !a.inRange then none
  else
    match s.switchSlot? a.slot with
    | none => if a.gen = 0 then some (a.opens, true) else none
    | some x =>
      if a.agrees x then some (x, false)
      else if x.closed && a.gen = (x.gen + 1) % 64 then some (a.opens, true)
      else none

/-- The slot after an allocation of a leaf: a CLOSED one registers no more. -/
def SwitchSlot.taken (x : SwitchSlot) (leaf : Nat) (a : Allocation) : SwitchSlot := if x.closed then x else x.register leaf a

/-- The site whose bucket the CTL packet of a leaf's allocation spends a token of: DESIGN CHOICE (97), the first of the leaf. -/
def State.switchSite (s : State) (leaf : Nat) : Nat := (s.part (.leaf leaf)).base

/-- SWITCH_ALLOCATION_ANSWER: the allocation finds its token on CTL (R312), and the switch answers it: 1 ALLOCATED, 2 CONFLICT, or 3 NOROOM
where it has no room to open the slot (R398, R408). -/
def execSwitchAllocationAnswer (leaf : Nat) (s : State) : Result :=
  match (s.swBlock leaf).pending with
  | none => .next s
  | some a =>
    if !s.ctlOpen (s.switchSite leaf) then .next s
    else
      let t := s.ctl (s.switchSite leaf) leaf
      match s.slotFor a with
      | none => .next (t.setSwBlock ⟨leaf, 2, none⟩)
      | some (x, opens) =>
        if opens && !Config.switchRoom s.tick then .next (t.setSwBlock ⟨leaf, 3, none⟩)
        else .next ((t.setSwitchSlot (x.taken leaf a)).setSwBlock ⟨leaf, 1, none⟩)

/-- A peer module's allocation reaches the switch: it may open the slot, for which this module registers nothing (R398). -/
def State.peerAllocate (s : State) (a : Allocation) : State :=
  match s.slotFor a with
  | some (x, true) => if Config.switchRoom s.tick then s.setSwitchSlot x else s
  | _ => s

/-! ## Contributions (R399) -/

/-- The port code that a contribution must carry. -/
def SwitchSlot.redOp (x : SwitchSlot) : Nat := if x.op = 11 then 8 else x.op

/-- Contributors expected (R398). -/
def SwitchSlot.expected (x : SwitchSlot) : List Nat := (List.range 64).filter fun i => x.mask.getLsbD i

/-- The word of a contributor for an element. -/
def SwitchSlot.word (x : SwitchSlot) (c e : Nat) : Option (BitVec 32) :=
  (x.words.find? fun w => w.contributor = c && w.element = e).map (·.value)

/-- The contributor has sent every element. -/
def SwitchSlot.whole (x : SwitchSlot) (c : Nat) : Bool := (List.range x.els).all fun e => (x.word c e).isSome

/-- Every element of every expected contributor is held. -/
def SwitchSlot.complete (x : SwitchSlot) : Bool := x.expected.all x.whole

/-- R399: the slot holds the word of a contribution, or refuses it. -/
def SwitchSlot.accept (x : SwitchSlot) (c : Contribution) : Option SwitchSlot :=
  let i := c.module - x.base
  if x.closed || c.gen ≠ x.gen || c.module < x.base || 64 ≤ i || !x.mask.getLsbD i || x.els ≤ c.element || c.op ≠ x.redOp ||
      (x.word i c.element).isSome then none
  else some { x with words := x.words ++ [⟨i, c.element, c.value⟩] }

/-! ## Completion (R399, R400, R409) -/

/-- An FP32 word is a NaN. -/
def isNanWord (v : Nat) : Bool := (fp32.decode v).isNan

/-- The element's words combined, and whether a NaN took part under FMAX or FMAXABS (R399). -/
def combineWords (op : Nat) (ws : List Nat) : Nat × Bool :=
  if op = 11 then (ws.foldl (fun acc v => portOp 8 4 acc v) 0, false)
  else if (op = 9 || op = 10) && ws.any isNanWord then (0x7FC00000, true)
  else
    match ws with
    | [] => (0, false)
    | v :: r => (r.foldl (fun acc v => portOp op 4 acc v) (if op = 10 then v % 2 ^ 31 else v), false)

/-- The result of a slot over a list of contributors, in increasing order (R399). -/
def SwitchSlot.result (x : SwitchSlot) (cs : List Nat) (e : Nat) : Nat × Bool :=
  combineWords x.op (cs.filterMap fun c => (x.word c e).map (·.toNat))

/-- The message of a completion (R400); LEN and the bytes beyond the elements are free. -/
def SwitchSlot.message (x : SwitchSlot) (cs : List Nat) (timeout : Bool) (tag : BitVec 16) (fill : BitVec 512) : BitVec 512 :=
  let nan := (List.range x.els).any fun e => (x.result cs e).2
  let status := (if timeout then 1 else 0) + (if nan then 2 else 0) + cs.length * 256
  let arrived := cs.foldl (fun acc c => acc + 2 ^ c) 0
  let head := putFld (putFld (fill &&& 0xFC00) 31 16 tag.toNat) 8 8 1
  let tail := (fill >>> (192 + 32 * x.els)) <<< (192 + 32 * x.els)
  let body := (List.range x.els).foldl (fun (acc : BitVec 512) e => acc ||| BitVec.ofNat 512 ((x.result cs e).1 <<< (192 + 32 * e))) 0
  head ||| tail ||| BitVec.ofNat 512 (arrived <<< 64) ||| BitVec.ofNat 512 (status <<< 128) ||| body

/-- The context that receives for a leaf: that of the lowest slot on the site (R400). -/
def State.switchReceiver (s : State) (leaf rel : Nat) : Option Ctx :=
  let h := (s.part (.leaf leaf)).base + rel
  (List.range 8).findSome? fun i => (s.ctx? ⟨h, i⟩).filter fun c => c.leaf = leaf

/-- The passive message of a completion arrives (R290, R400). -/
def State.switchDeliver (s : State) (leaf rel : Nat) (img : BitVec 512) : State :=
  match s.switchReceiver leaf rel with
  | none => s
  | some c =>
    match c.postFor img with
    | some p => s.matchPost c p img
    | none =>
      if c.overflow.length < 16 then s.mapCtx c.key fun c => { c with overflow := c.overflow ++ [img] }
      else s.mapCtx c.key fun c => c.addRefg.async 29 (overflowWord 1 img) 0 .T

/-- A receiver of the slot is being saved, so that its message would be answered RETRY (R287): the completion waits. -/
def State.receiverRetries (s : State) (x : SwitchSlot) : Bool :=
  x.receivers.any fun r =>
    s.ctxs.any fun c => c.leaf = r.1 && c.key.h = (s.part (.leaf r.1)).base + r.2.1 &&
      (c.status = .saving || c.status = .saved || c.status = .restoring)

/-- This module lies in the SWMASK of a slot (R400, R409). -/
def SwitchSlot.hasModule (x : SwitchSlot) : Bool :=
  decide (x.base ≤ Config.moduleNumber) && x.expected.contains (Config.moduleNumber - x.base)

/-- R400: the slot completes and is CLOSED; the message goes to this module's receivers if the module lies in SWMASK. -/
def State.closeSlot (s : State) (x : SwitchSlot) (timeout : Bool) : State :=
  let cs := x.expected.filter x.whole
  let t := (if x.hasModule then x.receivers else []).foldl (fun s r =>
    s.switchDeliver r.1 r.2.1 (x.message cs timeout r.2.2 (Config.switchFill s.tick))) s
  t.setSwitchSlot { x with closed := true, words := [] }

/-- What becomes of a contribution: it waits, is refused, or is held, and may complete the slot (R399). -/
inductive Contributed where
  | waits
  | refused
  | held (s : State)

/-- A contribution at the switch (R399). -/
def State.contribute (s : State) (c : Contribution) : Contributed :=
  match s.switchSlot? c.slot with
  | none => .refused
  | some x =>
    match x.accept c with
    | none => .refused
    | some y =>
      if !y.complete then .held (s.setSwitchSlot y)
      else if s.receiverRetries y then .waits
      else .held (s.closeSlot y false)

/-- SWITCH_CONTRIBUTION: a peer's RED reaches a reduction slot; a refusal is its own affair (R399). -/
def execSwitchContribution (c : Contribution) (s : State) : Result :=
  match s.contribute c with
  | .waits | .refused => .next s
  | .held t => .next t

/-- SWITCH_SLOT_TIMEOUT: SWTMO has passed since the slot's first contribution (R399). -/
def execSwitchSlotTimeout (slot : Nat) (s : State) : Result :=
  match s.switchSlot? slot with
  | none => .next s
  | some x => if x.closed || x.words.isEmpty || s.receiverRetries x then .next s else .next (s.closeSlot x true)

/-- The contribution that a posted RED of this module is (R398): slot, generation and element of its address. -/
def contributionOf (e : OpEntry) (pa : Nat) : Contribution :=
  ⟨(pa >>> 12) % 2 ^ 25, (pa >>> 6) % 64, pa % 64 / 4, if e.len = 4 && pa % 4 = 0 then e.op else 99, Config.moduleNumber,
    e.data.setWidth 32⟩

end Sys2Proof.Machine
end

