-- ==== Sys2Proof/Machine/Mmio.lean ====
section
/-! DEFINITION. Platform MMIO: what each register of each block reads, what a write to it does, and for whom (R65, R66, R89,
R310, R354, R372, R379, R382, R393, R396, R398, R406, R408, R429). -/

namespace Sys2Proof.Machine

/-! ## Which register (R66, R89, R393) -/

/-- The register at an address: of platform MMIO, or of a function window under its `windowAddr`. -/
def State.regAt (s : State) (a : Nat) : MmioReg :=
  if isMmio a then mmioReg (a - mmioBase)
  else if windowAddr 0 0 ≤ a && a < windowAddr 81 0 then s.windowReg ((a - windowAddr 0 0) / 0x100000) (a % 0x100000)
  else .none

/-- The requester of an access to an address: of one through a function window, that window's function alone (R393, R429). -/
def State.windowRequester (s : State) (a : Nat) (r : Requester) : Requester :=
  if windowAddr 0 0 ≤ a && a < windowAddr 81 0 then s.fnRequester ((a - windowAddr 0 0) / 0x100000) else r

/-! ## Masks of writable fields -/

/-- Writable bits of a partition block's registers (R89); `d`: the writer is D. R89 makes the reserved bits RO, so they are dropped at
the write, and the check of R90 that they are zero never fails: DESIGN CHOICE (96). -/
def partMask (b : Block) (o : Nat) (d : Bool) : Word :=
  match o with
  | 0x00 => span 20 0 ||| (match b with | .leaf _ => if d then 0 else span 31 28 | .first _ => 0)
  | 0x08 => span 9 0
  | 0x10 => span 28 16 ||| span 11 0
  | _ => 0

/-- Writable bits of a trap template's registers for a level (R354). -/
def trapMask (o : Nat) (l : Level) : Word :=
  let p := l = .P
  match o with
  | 0x00 => if p || l = .T then span 47 2 else 0
  | 0x08 => if p || l = .D then span 47 2 else 0
  | 0x10 => if p || l = .D then dedelegMask else 0
  | 0x18 => if p || l = .D then didelegMask else 0
  | 0x20 => if p then span 47 2 else 0
  | 0x28 => if p then pedelegMask else 0
  | 0x30 => if p then pidelegMask else 0
  | _ => 0

/-- Writable bits of a migration block's registers (R382). -/
def migMask (o : Nat) : Word :=
  match o with
  | 0x00 => span 31 0
  | 0x08 => span 9 0 ||| span 21 16 ||| span 32 32
  | _ => 0

/-- Writable bits of a switch block's registers (R408). -/
def switchMask (o : Nat) : Word :=
  match o with
  | 0x00 => span 21 16 ||| span 7 0
  | 0x08 | 0x0C => span 3 0
  | 0x10 => span 9 0
  | 0x18 => span 63 0
  | 0x20 => span 15 0
  | 0x28 => span 31 16 ||| span 9 0
  | _ => 0

/-- Writable bits of a debug block's staging registers (R406). -/
def debugMask (o : Nat) : Word :=
  match o with
  | 0x00 => span 18 16 ||| span 9 0
  | 0x20 => span 4 0
  | _ => 0

/-- A write of `v` under a mask: the other bits keep their value. -/
def State.setMasked (s : State) (a : Nat) (mask v : Word) : State :=
  s.setReg a ((s.reg a &&& ~~~mask) ||| (v &&& mask))

/-! ## Reach (R89, R310, R354, R379, R396, R406) -/

/-- The entry after a write of one of its doublewords. -/
def State.aclAfter (s : State) (i : Nat) (high : Bool) (v : Word) : BitVec 128 :=
  let lo := s.reg (aclEntry i)
  let hi := s.reg (aclEntry i + 8)
  if high then (v &&& span 11 0) ++ lo else hi ++ (v &&& (span 63 25 ||| span 1 0))

/-- The requester may write the entry so (R396). -/
def State.aclWrites (s : State) (r : Requester) (i : Nat) (high : Bool) (v : Word) : Bool :=
  match r.acts with
  | .P => true
  | .D => s.aclMine r (s.acl i) && s.aclMine r (s.aclAfter i high v)
  | _ => false

/-! ## Writes -/

/-- A write to a queue block by a requester that reaches it (R66 to R68, R77). -/
def State.writeQueueReg (s : State) (r : Requester) (host : Bool) (q o : Nat) (v : Word) : State :=
  match o with
  | 0x00 => s.setReg (queueBlock q) v
  | 0x08 => s.setReg (queueBlock q + 8) (v &&& span 7 0)
  | 0x10 => s.queueCommand q r v.toNat
  | 0x20 => (if host then s.feed q else s).doorbell q (v.setWidth 32)
  | 0x30 => s.cancelPacket q (v.setWidth 32)
  | _ => s

/-- A write to a debug block (R406). -/
def State.writeDebugReg (s : State) (f o : Nat) (v : Word) : State :=
  match o, v.toNat with
  | 0x08, 1 => s.debugOpen f
  | 0x08, 2 => s.endSession f
  | 0x08, 3 => s.debugHalt f
  | 0x08, 4 => s.debugResume f
  | 0x08, 5 => s.debugStep f
  | 0x18, _ => s.debugSetPc f v
  | 0x28, _ => s.debugSetX f v
  | o, _ => s.setMasked (debugBlock f + o) (debugMask o) v

/-- What a requester's write of a register does; out of its reach it is discarded. -/
def State.mmioWrite (s : State) (r : Requester) (host : Bool) (reg : MmioReg) (v : Word) : State :=
  match reg with
  | .part b o =>
    if host || !s.writesBlock b r then s
    else if o = 0x18 then s.pcmd b r v.toNat
    else s.setMasked (blockAddr b + o) (partMask b o (r.acts = .D)) v
  | .qos j o =>
    if o = 0x20 then (if v = 1 then s.qosCommand j r else s)
    else if o < 0x20 && (r.isP || (r.acts = .D && s.ownsLeaf r j && s.holds r rightQos)) then
      s.setMasked (qosBlock j + o) (span 12 0) v
    else s
  | .trap j o => if s.ownsLeaf r j then s.setMasked (trapTemplate j + o) (trapMask o r.acts) v else s
  | .counter j i =>
    if s.ownsLeaf r j && s.holds r rightCounters then
      s.setReg (countTemplate j + 8 * i) (putFld (v &&& (span 53 53 ||| span 7 0)) 55 54 r.acts.rank)
    else s
  | .mig j o =>
    if !s.writesMig j r then s
    else if o = 0x10 then (if v = 1 then s.migStart j r else if v = 2 then s.migCancel j r else s)
    else s.setMasked (migBlock j + o) (migMask o) v
  | .acl i high =>
    if s.aclWrites r i high v then
      (if high then s.setReg (aclEntry i + 8) (v &&& span 11 0) else s.setReg (aclEntry i) (v &&& (span 63 25 ||| span 1 0)))
    else s
  | .switch j o =>
    if !s.reachesSwitch j r then s
    else if o = 0x30 then (if v = 1 then s.swAllocate j r else s)
    else s.setMasked (switchBlock j + o) (switchMask o) v
  | .debug f o => if host || r.isP then s.writeDebugReg f o v else s
  | .preempt h o =>
    if !r.isP then s
    else if o = 0x08 then (if v = 1 then s.preSave h r else if v = 2 then s.preRestore h r else s)
    else if o = 0x00 then s.setMasked (preemptBlock h) (span 9 8 ||| span 2 0) v
    else s
  | .queue q o => if s.reachesQueue r q then s.writeQueueReg r host q o v else s
  | .message f i high =>
    if host then s.setReg (windowAddr f (0x40000 + 16 * i + (if high then 8 else 0))) (if high then v &&& span 32 0 else v) else s
  | .xirq f => if host then s.writeXirq (s.fnRequester f) v else s
  | .inspection f o => if host && (o = 0 || o = 8) then s.setReg (windowAddr f (0x70000 + o)) v else s
  | .none => s

/-! ## Accesses by width -/

/-- The bytes of `cells` at place `a` that lie in the doubleword at `d`, written over `old`. -/
def overlay (cells : List Host.Cell) (a d : Nat) (old : Word) : Word :=
  cells.foldl (fun w c => if (a + c.1) / 8 * 8 = d then putFld w (8 * ((a + c.1) % 8) + 7) (8 * ((a + c.1) % 8)) c.2.toNat else w) old

/-- One doubleword of a store to platform MMIO: a narrower store writes over what the register reads (R112). -/
def State.mmioStoreDouble (s : State) (r : Requester) (a : Nat) (cells : List Host.Cell) (d : Nat) : State :=
  let g := mmioReg (d - mmioBase)
  if (cells.all fun c => (a + c.1) / 8 * 8 ≠ d) || g.isSwitch then s
  else s.mmioWrite r false g (overlay cells a d (s.mmioRead r false g))

/-- A store of cells to platform MMIO, its doublewords in rising order (R112, R408). -/
def State.mmioStore (s : State) (r : Requester) (a : Nat) (cells : List Host.Cell) : State :=
  let g := mmioReg (a - mmioBase)
  if g.isSwitch then
    (if cells.length = g.bytes && a % g.bytes = 0 then
      s.mmioWrite r false g (toWord (cells.foldl (fun v c => v + c.2.toNat <<< (8 * c.1)) 0))
    else s)
  else (List.range 17).foldl (fun s i => s.mmioStoreDouble r a cells (a / 8 * 8 + 8 * i)) s

end Sys2Proof.Machine
end

