-- ==== Sys2Proof/Machine/Memory.lean ====
section
/-! DEFINITION. Scalar memory instructions: loads, stores, AMOs, LR and SC, fences, and the device scalar memory class (R136,
R140 to R148, R219 to R225). -/

namespace Sys2Proof.Machine

/-! ## One access (R112, R208) -/

/-- A load at a target: platform MMIO answers for its registers (R112), everything else is read under the order, in atomic parts of
`w` bytes. -/
def State.loadAt (s : State) (o : Order) (t : Target) (va : Word) (n w : Nat) : Nat × State :=
  if isMmio t.pa then (s.mmioLoad s.cx.requester t.pa n, if o.acq then s.acquire o.scope else s) else s.loadOrd o t va n w

/-- A store at a target: platform MMIO takes it at once (R112, R208), everything else as `storeAt` says. -/
def State.put (s : State) (o : Order) (bank : Nat) (t : Target) (va : Word) (len : Nat) (data : BitVec 1024)
    (cells : List Host.Cell) (unit : Nat) : Try State :=
  if isMmio t.pa then .ok (s.mmioStore s.cx.requester t.pa cells) else s.storeAt o bank t va len data cells unit

/-- A target that an access which is never posted may be refused at (R208). -/
def Target.direct (t : Target) : Bool := t.kind = .localWin || t.kind = .device

/-- The target of a store: one that is not posted meets its errors at once (R208). -/
def State.storeTarget (s : State) (va : Word) (n : Nat) (tc : Option (Nat × Nat)) : Try Target := do
  let t ← tryExn (s.resolve .store va n tc)
  if t.direct then s.checkPlace .store t va n
  return t

/-- The target of a read–modify–write or of SC: device type raises cause 7, and RETRY and what is ahead of it are waited for (R14, R143,
R144, R222). -/
def State.rmwTarget (s : State) (va : Word) (n : Nat) : Try Target := do
  let t ← tryExn (s.resolve .amo va n s.cx.tileco)
  check (t.kind ≠ .device) (exnAccess .amo va)
  waitUntil (!t.retry)
  s.mayGo t va n
  s.checkPlace .amo t va n
  return t

/-- A store under an order goes out now: the order admits it, and the packet of a posted one finds a frame (R210, R309). -/
def State.mayIssue (s : State) (o : Order) (t : Target) (va : Word) : Bool :=
  s.cx.mayLeave o && (t.direct || s.roomFor (s.cx.bankSite va) s.cx.leaf 0)

/-- A value of `n` bytes, sign- or zero-extended. -/
def extend (n : Nat) (signed : Bool) (v : Nat) : Word :=
  if signed then BitVec.ofInt 64 (bitsInt (8 * n) false (v % 2 ^ (8 * n))) else toWord (v % 2 ^ (8 * n))

/-- A load of an address under an order into x[d] (R140, R141, R220). -/
def loadInto (s : State) (o : Order) (va : Word) (n : Nat) (signed : Bool) (d : BitVec 5) : Try State := do
  check (va.toNat % n = 0) (exnMisaligned .load va)
  let t ← s.reach .load va n
  s.mayLoad o t va n n
  let (v, u) := s.loadAt o t va n n
  return u.result d (extend n signed v)

/-- A store of the low `n` bytes of a register under an order (R140, R210, R220). -/
def storeFrom (s : State) (o : Order) (va : Word) (n : Nat) (v : Word) : Try State := do
  check (va.toNat % n = 0) (exnMisaligned .store va)
  let t ← s.storeTarget va n s.cx.tileco
  waitUntil (s.mayIssue o t va)
  let u ← s.put o (s.cx.bankSite va) t va n (v.setWidth 1024) (valueCells n v.toNat) n
  return u.advance

/-! ## LOAD and STORE (R136, R140 to R142) -/

/-- A LOAD: the WAIT and SCOPE hints, then the access (R25, R29, R142). -/
def scalarLoad (s : State) (imm : BitVec 12) (a d : BitVec 5) (n : Nat) (signed : Bool) : Try State := do
  waitUntil (s.cx.waitMet s.cx.waitHint 0)
  loadInto s s.cx.scopeOf (s.getX a + s.imm imm) n signed d

/-- A STORE: the WAIT and SCOPE hints, then the access (R25, R29, R142). -/
def scalarStore (s : State) (b a : BitVec 5) (imm : BitVec 12) (n : Nat) : Try State := do
  waitUntil (s.cx.waitMet s.cx.waitHint 0)
  storeFrom s s.cx.scopeOf (s.getX a + s.imm imm) n (s.getX b)

/-- LB (R136). -/
def execLb (imm : BitVec 12) (a d : BitVec 5) (s : State) : Result := s.finish (scalarLoad s imm a d 1 true)

/-- LH (R136). -/
def execLh (imm : BitVec 12) (a d : BitVec 5) (s : State) : Result := s.finish (scalarLoad s imm a d 2 true)

/-- LW (R136). -/
def execLw (imm : BitVec 12) (a d : BitVec 5) (s : State) : Result := s.finish (scalarLoad s imm a d 4 true)

/-- LD (R136). -/
def execLd (imm : BitVec 12) (a d : BitVec 5) (s : State) : Result := s.finish (scalarLoad s imm a d 8 true)

/-- LBU (R136). -/
def execLbu (imm : BitVec 12) (a d : BitVec 5) (s : State) : Result := s.finish (scalarLoad s imm a d 1 false)

/-- LHU (R136). -/
def execLhu (imm : BitVec 12) (a d : BitVec 5) (s : State) : Result := s.finish (scalarLoad s imm a d 2 false)

/-- LWU (R136). -/
def execLwu (imm : BitVec 12) (a d : BitVec 5) (s : State) : Result := s.finish (scalarLoad s imm a d 4 false)

/-- SB (R136). -/
def execSb (b a : BitVec 5) (imm : BitVec 12) (s : State) : Result := s.finish (scalarStore s b a imm 1)

/-- SH (R136). -/
def execSh (b a : BitVec 5) (imm : BitVec 12) (s : State) : Result := s.finish (scalarStore s b a imm 2)

/-- SW (R136). -/
def execSw (b a : BitVec 5) (imm : BitVec 12) (s : State) : Result := s.finish (scalarStore s b a imm 4)

/-- SD (R136). -/
def execSd (b a : BitVec 5) (imm : BitVec 12) (s : State) : Result := s.finish (scalarStore s b a imm 8)

/-! ## AMO (R142, R143) -/

/-- Bytes of an AMO's operand by f3 bit 0. -/
def amoBytes (z : BitVec 1) : Nat := if z = 1 then 8 else 4

/-- A request of the running context travels to a target and back, unless that is its own pool (R309). -/
def State.goTo (s : State) (t : Target) (va : Word) : State :=
  if t.kind = .localWin then s else s.trip (s.cx.bankSite va) t.site

/-- What a read–modify–write of `n` bytes at a target leaves behind in its core: no first-level copy of its lines and no load
performed early there (R209, R345); after one to the local window, none at all (R342 case 6). -/
def State.afterRmw (s : State) (t : Target) (n : Nat) : State :=
  let u := if t.kind = .glob then (s.dropCopy t.pa n).countSlice s.cx.key else s
  u.mapCx fun c => if t.kind = .localWin then c.settleLoads else c.forget (physOf t.pa) n

/-- A read–modify–write performed at its place in one step, never posted (R143, R209, R222): the old value, and the state
after. -/
def State.rmw (s : State) (o : Order) (t : Target) (va : Word) (n : Nat) (f : Nat → Nat) : Nat × State :=
  let u := (s.mark o t n).goTo t va
  let old := u.load t.pa n
  let w := (u.store t.pa n (f old)).afterRmw t n
  (old, if o.acq then (w.heed t n).acquire o.scope else w)

/-- The body of an AMO (R143). -/
def amo (s : State) (aq rl z : BitVec 1) (b a d : BitVec 5) (op : Nat → Nat → Nat → Nat) : Try State := do
  let n := amoBytes z
  let va := s.getX a
  let o := s.cx.amoOrder (aq = 1) (rl = 1)
  check (va.toNat % n = 0) (exnMisaligned .amo va)
  let t ← s.rmwTarget va n
  waitUntil (s.cx.mayLeave o)
  let (old, u) := s.rmw o t va n fun old => op n old ((s.getX b).toNat % 2 ^ (8 * n))
  return u.result d (extend n true old)

/-- AMOSWAP (R143). -/
def execAmoswap (aq rl : BitVec 1) (b a : BitVec 5) (z : BitVec 1) (d : BitVec 5) (s : State) : Result :=
  s.finish (amo s aq rl z b a d fun _ _ v => v)

/-- AMOADD (R143). -/
def execAmoadd (aq rl : BitVec 1) (b a : BitVec 5) (z : BitVec 1) (d : BitVec 5) (s : State) : Result :=
  s.finish (amo s aq rl z b a d (portOp 0))

/-- AMOXOR (R143). -/
def execAmoxor (aq rl : BitVec 1) (b a : BitVec 5) (z : BitVec 1) (d : BitVec 5) (s : State) : Result :=
  s.finish (amo s aq rl z b a d (portOp 3))

/-- AMOAND (R143). -/
def execAmoand (aq rl : BitVec 1) (b a : BitVec 5) (z : BitVec 1) (d : BitVec 5) (s : State) : Result :=
  s.finish (amo s aq rl z b a d (portOp 1))

/-- AMOOR (R143). -/
def execAmoor (aq rl : BitVec 1) (b a : BitVec 5) (z : BitVec 1) (d : BitVec 5) (s : State) : Result :=
  s.finish (amo s aq rl z b a d (portOp 2))

/-- AMOMIN (R143). -/
def execAmomin (aq rl : BitVec 1) (b a : BitVec 5) (z : BitVec 1) (d : BitVec 5) (s : State) : Result :=
  s.finish (amo s aq rl z b a d (portOp 4))

/-- AMOMAX (R143). -/
def execAmomax (aq rl : BitVec 1) (b a : BitVec 5) (z : BitVec 1) (d : BitVec 5) (s : State) : Result :=
  s.finish (amo s aq rl z b a d (portOp 5))

/-- AMOMINU (R143). -/
def execAmominu (aq rl : BitVec 1) (b a : BitVec 5) (z : BitVec 1) (d : BitVec 5) (s : State) : Result :=
  s.finish (amo s aq rl z b a d (portOp 6))

/-- AMOMAXU (R143). -/
def execAmomaxu (aq rl : BitVec 1) (b a : BitVec 5) (z : BitVec 1) (d : BitVec 5) (s : State) : Result :=
  s.finish (amo s aq rl z b a d (portOp 7))

/-! ## LR and SC (R144) -/

/-- The home that keeps the reservation of a place: the slice of its home, or the bank of a window. -/
def Target.resvHome (t : Target) : Nat := if t.kind = .glob then t.site else 1024 + t.pa / 0x10000

/-- Reservations that a home keeps for other contexts than the running one. -/
def State.resvAt (s : State) (home : Nat) : List Resv :=
  s.ctxs.filterMap fun c => if c.key = s.cx.key then none else c.resv.filter fun r => r.home = home

/-- The oldest of a list of reservations. -/
def oldestResv (l : List Resv) : Option Resv :=
  l.foldl (fun (acc : Option Resv) r =>
    match acc with
    | some x => if r.order < x.order then some r else acc
    | none => some r) none

/-- A home with room for one more reservation: with 32 held, the oldest that has aged is evicted (R144). -/
def State.resvRoom (s : State) (home : Nat) : Option State :=
  let held := s.resvAt home
  if held.length < 32 then some s
  else
    match oldestResv (held.filter (·.aged)) with
    | none => none
    | some r => some (s.mapAll fun c => { c with resv := c.resv.filter fun x => x ≠ r })

/-- The running context's reservation is placed (R144). -/
def State.reserve (s : State) (t : Target) (va : Word) (n : Nat) : State :=
  ({ s with cx := { s.cx with resv := some ⟨lineOf t.pa, va, n, t.resvHome, s.order, false⟩ } } : State).tickOrder

/-- LR (R142, R144): a load at its place, and a reservation on its line. -/
def execLr (aq rl : BitVec 1) (a : BitVec 5) (z : BitVec 1) (d : BitVec 5) (s : State) : Result :=
  s.finish do
    let n := amoBytes z
    let va := s.getX a
    let o := s.cx.amoOrder (aq = 1) (rl = 1)
    check (va.toNat % n = 0) (exnMisaligned .load va)
    let t ← tryExn (s.resolve .load va n s.cx.tileco)
    check (t.kind ≠ .device) (exnAccess .load va)
    waitUntil (!t.retry && s.cx.mayLeave o)
    s.checkPlace .load t va n
    match s.resvRoom t.resvHome with
    | none => waitStop
    | some r =>
      r.mayGo t va n
      let (v, u) := (r.mapCx fun c => c.forget (physOf t.pa) n).loadStrong t va n
      let w := if o.acq then (u.heed t n).acquire o.scope else u
      return (w.reserve t va n).result d (extend n true v)

/-- The running context's reservation ends. -/
def State.unreserve (s : State) : State := { s with cx := { s.cx with resv := none } }

/-- SC (R142, R144): it writes and answers 0 when the reservation stands for its address and width, else it answers 1. -/
def execSc (aq rl : BitVec 1) (b a : BitVec 5) (z : BitVec 1) (d : BitVec 5) (s : State) : Result :=
  s.finish do
    let n := amoBytes z
    let va := s.getX a
    let o := s.cx.amoOrder (aq = 1) (rl = 1)
    check (va.toNat % n = 0) (exnMisaligned .amo va)
    let t ← s.rmwTarget va n
    waitUntil (s.cx.mayLeave o)
    let u := (s.mark o t n).goTo t va
    let won := u.cx.resv.any fun r => r.addr = va && r.width = n
    let v := if won then u.store t.pa n (s.getX b).toNat else u
    let w := v.afterRmw t n
    let w := if o.acq then (w.heed t n).acquire o.scope else w
    return w.unreserve.result d (if won then 0 else 1)

/-- RESERVATION_AGING: the oldest entry of a home that has not aged has been held for 512 cycles (R144). -/
def execReservationAging (h : Nat) (s : State) : Result :=
  let held := s.ctxs.filterMap fun c => c.resv.filter fun r => r.home = h && !r.aged
  match oldestResv held with
  | none => .next s
  | some r => .next (s.mapAll fun c => { c with resv := c.resv.map fun (x : Resv) => if x = r then { x with aged := true } else x })

/-! ## Fences (R146 to R148) -/

/-- FENCE with its sets (R147): O or W before it waits for every store; R after it drops the first-level copies, and leaves no load
performed early. -/
def fence (s : State) (p c : BitVec 4) : Try State := do
  if p = 0 || c = 0 then return s.advance
  else
    waitUntil (!(p.getLsbD 0 || p.getLsbD 2) || s.cx.drained)
    return (if c.getLsbD 1 then (s.invalidateAll s.cx.members).mapCx Ctx.settleLoads else s).advance

/-- FENCE (R147). -/
def execFence (p c : BitVec 4) (s : State) : Result := s.finish (fence s p c)

/-- FENCE.TSO acts as FENCE rw, rw (R147). -/
def execFenceTso (s : State) : Result := s.finish (fence s 3 3)

/-- The instruction caches of several sites are discarded (R148). -/
def State.discardFetched (s : State) (hs : List Nat) : State := { s with icache := s.icache.filter fun b => !hs.contains b.h }

/-- FENCE.I acts as FENCE rw, rw and discards the fetched words of every member (R148). -/
def execFenceI (s : State) : Result := s.finish ((fence s 3 3).map fun u => u.discardFetched u.cx.members)

/-! ## Strong accesses (R219, R220) -/

/-- Bytes of an access by f3[1:0]. -/
def accessBytes {n : Nat} (f : BitVec n) : Nat := 2 ^ (f.toNat % 4)

/-- A load of the SMEM class: W, then a strong load (R220). -/
def strongLoad (s : State) (w sc : BitVec 2) (acq : Bool) (b a : BitVec 5) (f : BitVec 3) (d : BitVec 5) : Try State := do
  waitUntil (s.cx.waitMet w.toNat 0)
  loadInto s ⟨acq, false, true, sc.toNat⟩ (s.getX a + s.getX b) (accessBytes f) (!f.getLsbD 2) d

/-- A store of the SMEM class: W, then a strong store (R220). -/
def strongStore (s : State) (w sc : BitVec 2) (rel : Bool) (b a : BitVec 5) (f : BitVec 2) : Try State := do
  waitUntil (s.cx.waitMet w.toNat 0)
  storeFrom s ⟨false, rel, true, sc.toNat⟩ (s.getX a) (accessBytes f) (s.getX b)

/-- LD.S (R220). -/
def execLdS (w : BitVec 2) (s : BitVec 2) (b a : BitVec 5) (f : BitVec 3) (d : BitVec 5) (st : State) : Result :=
  st.finish (strongLoad st w s false b a f d)

/-- LD.ACQ (R220). -/
def execLdAcq (w : BitVec 2) (s : BitVec 2) (b a : BitVec 5) (f : BitVec 3) (d : BitVec 5) (st : State) : Result :=
  st.finish (strongLoad st w s true b a f d)

/-- ST.S (R220). -/
def execStS (w : BitVec 2) (s : BitVec 2) (b a : BitVec 5) (f : BitVec 2) (st : State) : Result :=
  st.finish (strongStore st w s false b a f)

/-- ST.REL (R220). -/
def execStRel (w : BitVec 2) (s : BitVec 2) (b a : BitVec 5) (f : BitVec 2) (st : State) : Result :=
  st.finish (strongStore st w s true b a f)

/-! ## RED and AMOF (R221, R222) -/

/-- The target of a posted read–modify–write that returns nothing: device type raises cause 7 (R208, R221). -/
def State.postedTarget (s : State) (va : Word) (n : Nat) : Try Target := do
  let t ← s.storeTarget va n s.cx.tileco
  check (t.kind ≠ .device) (exnAccess .store va)
  return t

/-- RED (R221): a posted, weak port operation. -/
def execRed (w : BitVec 2) (b a : BitVec 5) (z : BitVec 1) (c : BitVec 5) (s : State) : Result :=
  s.finish do
    waitUntil (s.cx.waitMet w.toNat 0)
    let n := amoBytes z
    let va := s.getX a
    check (va.toNat % n = 0) (exnMisaligned .store va)
    let t ← s.postedTarget va n
    waitUntil (s.mayIssue .weak t va)
    let u ← s.postRmw .red c.toNat .weak t va n ((s.getX b).setWidth 1024)
    return u.advance

/-- AMOF (R222): strong at its scope, never posted. f3 010 and 011 compare and swap; 100 to 110 are codes 8 to 10. -/
def execAmof (w : BitVec 2) (s : BitVec 2) (b a : BitVec 5) (f : BitVec 3) (d : BitVec 5) (st : State) : Result :=
  st.finish do
    waitUntil (st.cx.waitMet w.toNat 0)
    let cas := f.toNat < 4
    let n := if f = 3 then 8 else 4
    let va := st.getX a
    let o : Order := ⟨false, false, true, s.toNat⟩
    check (va.toNat % n = 0) (exnMisaligned .amo va)
    let t ← st.rmwTarget va n
    waitUntil (st.cx.mayLeave o)
    let new := (st.getX b).toNat % 2 ^ (8 * n)
    let want := (st.getX d).toNat % 2 ^ (8 * n)
    let (old, u) := st.rmw o t va n fun old => if cas then (if old = want then new else old) else portOp (f.toNat + 4) 4 old new
    return u.result d (extend n (cas && n = 4) old)

/-! ## Long accumulators (R52 to R54, R223) -/

/-- The place lies in the pool of a site (R98). -/
def inPool (pa : Nat) : Bool := isSiteWindow pa && decide ((pa - siteBase) % 0x400000 < 0x100000)

/-- R223: the 72 bytes lie in one bank of a pool, or at consecutive places of one slice. -/
def State.laccWhole (s : State) (acc : Access) (t : Target) (va : Word) : Bool :=
  if inPool t.pa then decide ((if regionOf va = .global then t.pa else va.toNat) % 0x10000 + 72 ≤ 0x10000)
  else
    match s.resolve acc (va + 64) 8 s.cx.tileco with
    | .ok u => physOf u.pa = physOf t.pa + 64 && u.site = t.site
    | .error _ => false

/-- The place of an LACC for a posted operation (R223). -/
def State.laccTarget (s : State) (va : Word) : Try Target := do
  check (va.toNat % 8 = 0) (exnMisaligned .store va)
  let t ← s.postedTarget va 72
  check (s.laccWhole .store t va) (exnAccess .store va)
  return t

/-- Some FP32 operand of an LACC.ADD is NaN or infinite (R223). -/
def laccRefuses (prod : Bool) (w : Word) : Bool :=
  let bad := fun v =>
    match fp32.decode v with
    | .fin _ _ _ _ => false
    | _ => true
  bad (fld w 31 0) || (prod && bad (fld w 63 32))

/-- LACC.ADD (R223). A NaN or infinite operand sends nothing, so no access is made. -/
def execLaccAdd (w : BitVec 2) (b a : BitVec 5) (p : BitVec 1) (s : State) : Result :=
  s.finish do
    waitUntil (s.cx.waitMet w.toNat 0)
    let va := s.getX a
    check (va.toNat % 8 = 0) (exnMisaligned .store va)
    if laccRefuses (p = 1) (s.getX b) then return (s.addFlags flagNV).advance
    else
      let t ← s.laccTarget va
      waitUntil (s.mayIssue .weak t va)
      let u ← s.postRmw .laccAdd p.toNat .weak t va 72 ((s.getX b).setWidth 1024)
      return u.advance

/-- LACC.CLR (R223). -/
def execLaccClr (w : BitVec 2) (a : BitVec 5) (s : State) : Result :=
  s.finish do
    waitUntil (s.cx.waitMet w.toNat 0)
    let va := s.getX a
    let t ← s.laccTarget va
    waitUntil (s.mayIssue .weak t va)
    let u ← s.postRmw .laccClr 0 .weak t va 72 0
    return u.advance

/-- The rounded value of an LACC: FP32, or FP64 when `f` is 1, with the flags of R59's conversion, UF among them (R54, R223): DEDUCED
(50). -/
def laccRound (c : Ctx) (f : BitVec 1) (v : Nat) : Rounded := (if f = 1 then fp64 else fp32).convert c.rm c.sat (laccNum v)

/-- The 72 bytes of an LACC as one operation reads them: both lines in one copy of its home (R124, R223). -/
def State.laccRead (s : State) (t : Target) (va : Word) : Nat × State :=
  if t.kind = .glob then
    let u := s.together t.site t.pa 72
    u.loadStrong { t with pa := u.placeAt t.site (physOf t.pa) } va 72
  else s.loadStrong t va 72

/-- LACC.RND (R223): the whole value read at its place and rounded once. -/
def execLaccRnd (w : BitVec 2) (a : BitVec 5) (f : BitVec 1) (d : BitVec 5) (s : State) : Result :=
  s.finish do
    waitUntil (s.cx.waitMet w.toNat 0)
    let va := s.getX a
    check (va.toNat % 8 = 0) (exnMisaligned .load va)
    let t ← tryExn (s.resolve .load va 72 s.cx.tileco)
    check (t.kind ≠ .device) (exnAccess .store va)
    check (s.laccWhole .load t va) (exnAccess .load va)
    waitUntil (!t.retry)
    s.mayGo t va 72
    s.checkPlace .load t va 72
    let (v, u) := s.laccRead t va
    let r := laccRound s.cx f v
    return ((u.countFor u.cx.key 11 1).addFlags r.flags).result d (toWord r.bits)

/-! ## Pins and waits (R224, R225) -/

/-- A context pins a line. -/
def Ctx.pinsLine (c : Ctx) (line : Nat) : Bool := c.pins.any fun p => p.line = line

/-- Lines that the slice of a site holds pinned. -/
def State.pinnedLines (s : State) (site : Nat) : List Nat :=
  ((s.ctxs.flatMap fun c => c.pins).filter fun p => p.site = site).map (·.line) |>.eraseDups

/-- The first reason against a pin, 0 for none (R224). -/
def State.pinReason (s : State) (line site : Nat) : Nat :=
  if s.cx.pinsLine line then 0
  else if 2048 ≤ (s.pinnedLines site).length && !(s.pinnedLines site).contains line then 1
  else if 64 ≤ s.cx.pins.length then 2
  else 0

/-- PIN (R224). -/
def execPin (w : BitVec 2) (a d : BitVec 5) (s : State) : Result :=
  s.finish do
    waitUntil (s.cx.waitMet w.toNat 0)
    let va := s.getX a
    if regionOf va ≠ .global && regionOf va ≠ .nowhere then return s.result d (refusal 3)
    else
      let t ← tryExn (s.resolve .load va 1 s.cx.tileco)
      let line := lineOf t.pa
      if t.kind ≠ .glob || isPeer t.pa then return s.result d (refusal 3)
      else
        let why := s.pinReason line t.site
        if why ≠ 0 then return s.result d (refusal why)
        else if s.cx.pinsLine line then return s.result d 1
        else
          let p : PinEntry := ⟨s.viaOf va, t.site, va, line⟩
          return ((s.mapCx fun c => { c with pins := c.pins ++ [p] }).sliceHold t.site line [0, 1] fun _ => false).result d 1

/-- UNPIN: matched against the recorded addresses, without translation (R224). -/
def execUnpin (w : BitVec 2) (a d : BitVec 5) (s : State) : Result :=
  s.finish do
    waitUntil (s.cx.waitMet w.toNat 0)
    let hit := fun (p : PinEntry) => p.va.toNat / 128 = (s.getX a).toNat / 128
    return ({ s with cx := { s.cx with pins := s.cx.pins.filter fun p => !hit p } } : State).result d
      (if s.cx.pins.any hit then 1 else 0)

/-- CWAIT (R225). -/
def execCwait (w : BitVec 2) (b : BitVec 5) (s : State) : Result :=
  s.finish do
    waitUntil (s.cx.waitMet w.toNat (s.getX b).toNat)
    return s.advance

end Sys2Proof.Machine
end

