-- ==== Sys2Proof/Machine/Sync.lean ====
section
/-! DEFINITION. Group barriers, semaphores and watches (R333 to R336). -/

namespace Sys2Proof.Machine

/-- The blocking forms raise cause 27 under handler discipline (R333). -/
def State.blocking (s : State) (twin : Bool) : Try Unit := check (twin || !s.cx.handlerDiscipline) (exn 27 0)

/-- The status that a twin form answers while it would wait. -/
def pendingStatus : Word := 2

/-! ## Group barriers (R334) -/

/-- The caller's group: it exists and the caller's position is a member. -/
def State.groupOf (s : State) (w : Word) : Option Group :=
  ((s.kernel? s.cx.kid).bind fun k => k.groups[w.toNat]?).filter fun g => decide (w.toNat < 256) && g.hasMember s.cx.position

/-- The generation in which the caller has arrived and whose completion it has not seen. -/
def Ctx.arrivedIn (c : Ctx) (g : Nat) : Option Nat := (c.arrived.find? fun a => a.1 = g).map (·.2)

/-- One more arrival (R334): the last one of a generation starts the next. -/
def Group.arrive (g : Group) : Group :=
  if g.arrivals + 1 = g.count then { g with generation := g.generation + 1, arrivals := 0 }
  else { g with arrivals := g.arrivals + 1 }

/-- The group of a kernel with an arrival (R334). -/
def Kernel.arrive (k : Kernel) (g : Nat) : Kernel := { k with groups := k.groups.modify g Group.arrive }

/-- The caller's arrival, unless it has arrived already (R334). -/
def State.arriveAt (s : State) (g : Nat) (x : Group) : State :=
  if (s.cx.arrivedIn g).isSome then s
  else (s.mapKernel s.cx.kid fun k => k.arrive g).mapCx fun c => { c with arrived := c.arrived ++ [(g, x.generation)] }

/-- R334: the body of GBAR and GBAR.T. A caller that must wait keeps its arrival. -/
def barrier (s : State) (twin : Bool) (a d : BitVec 5) : Try State := do
  s.blocking twin
  let w := s.getX a
  let g := w.toNat
  match s.groupOf w with
  | none => raiseStop (exnBoundary w 6 .T)
  | some x =>
    waitUntil ((s.cx.arrivedIn g).isSome || s.cx.released 1)
    let t := s.arriveAt g x
    match t.groupOf w with
    | none => return t
    | some y =>
      if t.cx.arrivedIn g = some y.generation then return if twin then t.result d pendingStatus else t
      else
        let u := (t.mapCx fun c => { c with arrived := c.arrived.filter fun p => p.1 ≠ g }).acquire 1
        return if twin then u.result d 1 else u.advance

/-- GBAR (R334). -/
def execGbar (a : BitVec 5) (s : State) : Result := s.finish (barrier s false a 0)

/-- GBAR.T (R334). -/
def execGbarT (a : BitVec 5) (d : BitVec 5) (s : State) : Result := s.finish (barrier s true a d)

/-! ## Semaphores (R335) -/

/-- The target of a semaphore access: aligned, and not of device type (R335). -/
def State.semTarget (s : State) (va : Word) : Try Target := do
  check (va.toNat % 8 = 0) (exn 6 va)
  let t ← tryExn (s.resolve .amo va 8 s.cx.tileco)
  check (t.kind ≠ .device) (exn 7 va)
  return t

/-- The port that performs a place (R335): a bank of a pool or of scratch, or the slice of a home. -/
def Target.port (t : Target) : Nat := if t.kind = .glob then 2 ^ 60 + t.site else physOf t.pa / 0x10000

/-- The caller holds a waiter entry already. -/
def State.semWaits (s : State) : Bool := s.waiters.any fun w => w.key = s.cx.key

/-- The SEM.P at the port takes effect in one step: nobody waits before it and the value is at least 1. -/
def State.semTake (s : State) (t : Target) : Bool :=
  decide (1 ≤ s.load t.pa 8) &&
    (match s.waiters.find? fun w => w.place = physOf t.pa && w.port = t.port with | none => true | some w => w.key = s.cx.key)

/-- The semaphore is decremented, with an acquire at span scope. -/
def State.semDone (s : State) (t : Target) : State :=
  let u := { s.store t.pa 8 (s.load t.pa 8 - 1) with waiters := s.waiters.filter fun w => w.key ≠ s.cx.key }
  (u.afterRmw t 8).acquire 1

/-- A SEM.P that finds the value 0 takes a waiter entry, or waits to try again (R335). -/
def State.semQueue (s : State) (t : Target) : State :=
  if s.semWaits then s
  else if (s.waiters.filter fun w => w.port = t.port).length < 32 then
    { s with waiters := s.waiters ++ [⟨s.cx.key, physOf t.pa, t.port⟩] }
  else s.mapCx fun c => { c with semWait := true }

/-- R335: the body of SEM.P and SEM.P.T. -/
def semaphore (s : State) (twin : Bool) (a d : BitVec 5) : Try State := do
  s.blocking twin
  let va := s.getX a
  let t ← s.semTarget va
  waitUntil (!t.retry && !s.cx.semWait)
  s.mayGo t va 8
  s.checkPlace .amo t va 8
  let u := if s.semWaits then s else s.goTo t va
  if u.semTake t then
    let v := u.semDone t
    return if twin then v.result d 1 else v.advance
  else return if twin then u.result d pendingStatus else u.semQueue t

/-- SEM.P (R335). -/
def execSemP (a : BitVec 5) (s : State) : Result := s.finish (semaphore s false a 0)

/-- SEM.P.T (R335). -/
def execSemPT (a : BitVec 5) (d : BitVec 5) (s : State) : Result := s.finish (semaphore s true a d)

/-- The order of SEM.V: a strong release at span scope. -/
def Order.releaseSpan : Order := ⟨false, true, true, 1⟩

/-- SEM.V: a posted increment, a strong release at span scope (R335). -/
def execSemV (a : BitVec 5) (s : State) : Result :=
  s.finish do
    let va := s.getX a
    let t ← s.semTarget va
    if t.kind = .localWin then s.checkPlace .amo t va 8
    waitUntil (s.mayIssue Order.releaseSpan t va)
    let u ← s.postRmw .semV 0 Order.releaseSpan t va 8 0
    return u.advance

/-- SEM_P_RETRY: a SEM.P without a waiter entry tries again (R335). -/
def execSemPRetry (k : Key) (s : State) : Result := .next (s.mapCtx k fun c => { c with semWait := false })

/-! ## Watches (R336) -/

/-- Untriggered watches that a home holds. -/
def State.watchesAt (s : State) (home : Nat) : List Watch :=
  s.ctxs.filterMap fun c => c.watch.filter fun w => w.home = home && w.trig.isNone

/-- The oldest watch of a full home is triggered as lost (R336). -/
def State.overflowWatch (s : State) (home : Nat) : State :=
  let ws := s.watchesAt home
  if ws.length < 64 then s
  else
    let oldest := ws.foldl (fun n w => min n w.order) s.order
    s.mapAll fun c =>
      { c with watch := c.watch.map fun w =>
          if w.home = home && w.order = oldest && w.trig.isNone then { w with trig := some 2 } else w }

/-- The context's watch becomes one on a line (R336). -/
def State.arm (s : State) (t : Target) (va : Word) : State :=
  let u := (s.mapCx fun c => { c with watch := none }).overflowWatch t.site
  (u.mapCx fun c => { c with watch := some ⟨s.viaOf va, lineOf t.pa, t.site, va, u.order, none⟩ }).tickOrder

/-- MON.ARM: a watch on the line, then a load with acquire at span scope, which no load performed earlier stands for (R336). -/
def execMonArm (a : BitVec 5) (d : BitVec 5) (s : State) : Result :=
  s.finish do
    let va := s.getX a
    check (va.toNat % 8 = 0) (exn 4 va)
    let t ← tryExn (s.resolve .load va 8 s.cx.tileco)
    check (t.kind ≠ .device) (exn 5 va)
    waitUntil (!t.retry)
    s.mayGo t va 8
    s.checkPlace .load t va 8
    let armed := (s.arm t va).mapCx fun c => c.forget (physOf t.pa) 8
    let (v, u) := armed.loadOrd ⟨true, false, true, 1⟩ t va 8 8
    return u.result d (toWord v)

/-- The watch ends with an acquire at span scope. -/
def State.disarm (s : State) : State := (s.mapCx fun c => { c with watch := none }).acquire 1

/-- The status of a wake (R336). -/
def wakeStatus (reason : Nat) : Word := toWord (1 + reason * 256)

/-- MON.WAIT, whose status goes to x[d] as R333 lists it (R336). DEDUCED (85). -/
def execMonWait (d : BitVec 5) (s : State) : Result :=
  s.finish do
    s.blocking false
    match s.cx.watch with
    | none => return s.result d (wakeStatus 3)
    | some w =>
      match w.trig with
      | some r => return s.disarm.result d (wakeStatus r)
      | none => waitStop

/-- MON.WAIT.T (R336). -/
def execMonWaitT (d : BitVec 5) (s : State) : Result :=
  match s.cx.watch with
  | none => .next (s.result d (wakeStatus 3))
  | some w =>
    match w.trig with
    | some r => .next (s.disarm.result d (wakeStatus r))
    | none => .next (s.result d pendingStatus)

end Sys2Proof.Machine
end

