-- ==== Sys2Proof/Machine/VectorMemory.lean ====
section
/-! DEFINITION. Vector and tile loads and stores (R33, R47, R156, R213, R216 to R218, R427). -/

namespace Sys2Proof.Machine

/-! ## Pieces of an access -/

/-- A piece of an access, within one 128-byte line: its address, its bytes and what it carries. -/
structure Piece where
  va : Word
  n : Nat
  v : Nat
  deriving DecidableEq, Repr

/-- A piece with its target. -/
structure Placed1 where
  piece : Piece
  at_ : Target
  deriving DecidableEq, Repr

/-- Bytes [va, va + n) cut at 128-byte lines; `v` holds the bytes, and `fuel` bounds the cuts. -/
def cutLines (va : Word) (n v : Nat) : Nat → List Piece
  | 0 => []
  | fuel + 1 =>
    if n = 0 then []
    else
      let k := min n (128 - va.toNat % 128)
      ⟨va, k, v % 2 ^ (8 * k)⟩ :: cutLines (va + toWord k) (n - k) (v >>> (8 * k)) fuel

/-- The pieces of at most 128 bytes. -/
def lines (va : Word) (n v : Nat) : List Piece := cutLines va n v 3

/-- An access of `n` bytes lies in one region (R105). -/
def inOneRegion (acc : Access) (va : Word) (n : Nat) : Try Unit := check (regionOf (va + toWord (n - 1)) = regionOf va) (exnAccess acc va)

/-- The targets of pieces, in their order: the first that fails decides the fault, and nothing is accessed before (R217,
R427). -/
def State.placeAll (s : State) (acc : Access) (tc : Option (Nat × Nat)) (ps : List Piece) : Try (List Placed1) :=
  ps.mapM fun p => (tryExn (s.resolve acc p.va p.n tc)).map fun t => ⟨p, t⟩

/-- The address of the first byte of an access, whose queue bank serves all of it (R198). -/
def firstByte (l : List Placed1) : Word := (l.head?.map (·.piece.va)).getD 0

/-- Pieces that are loaded meet their errors first, the lowest first (R208, R217), and nothing that they come after is on its way (R14). -/
def State.mayLoadAll (s : State) (va : Word) (w : Nat) (l : List Placed1) : Try Unit := do
  l.forM fun p => s.checkPlace .load p.at_ p.piece.va p.piece.n
  l.forM fun p => (s.mapCx Ctx.settleLoads).mayLoad .weak p.at_ va p.piece.n w

/-- Weak loads of pieces, in their order (R217), queued at the bank of `va`, in atomic parts of `w` bytes. -/
def State.loadPieces (s : State) (va : Word) (w : Nat) : List Placed1 → List Nat × State
  | [] => ([], s)
  | p :: r =>
    let (v, u) := s.loadAt .weak p.at_ va p.piece.n w
    let (vs, t) := u.loadPieces va w r
    (v :: vs, t)

/-- The first line of an access is still answered RETRY (R375). -/
def anyRetry (l : List Placed1) : Bool := l.any fun p => p.at_.retry

/-- The values of pieces, lowest first, as one number. -/
def joinPieces : List Piece → List Nat → Nat
  | p :: ps, v :: vs => v + joinPieces ps vs <<< (8 * p.n)
  | _, _ => 0

/-! ## Stores, one piece for each line (R213) -/

/-- What a store sends to one line: the place of the line, and the bytes by their distance from the line's start. -/
structure LineStore where
  line : Nat
  at_ : Target
  cells : List Host.Cell
  deriving DecidableEq, Repr

/-- The cells of a piece by their distance from its line. -/
def Piece.cells (p : Piece) : List Host.Cell :=
  (List.range p.n).map fun i => (p.va.toNat % 128 + i, BitVec.ofNat 8 (p.v >>> (8 * i)))

/-- A piece joins what goes to its line; accesses to a device stay apart (R112, R213). -/
def joinLine (p : Placed1) : List LineStore → List LineStore
  | [] =>
    [⟨p.piece.va.toNat / 128, { p.at_ with pa := p.at_.pa - p.piece.va.toNat % 128 }, p.piece.cells⟩]
  | x :: r =>
    if x.line = p.piece.va.toNat / 128 && p.at_.kind ≠ .device then
      { x with cells := p.piece.cells.foldl (fun l c => tabPut l c.1 c.2) x.cells } :: r
    else x :: joinLine p r

/-- The lowest distance of a list of cells, and the one past the highest. -/
def cellSpan (l : List Host.Cell) : Nat × Nat :=
  (l.foldl (fun n c => min n c.1) 128, l.foldl (fun n c => max n (c.1 + 1)) 0)

/-- An entry of the running context's log is performed, if it may be, after what comes before it, and the acknowledgements on its way back
arrive in their order (R14, R213). -/
def State.settleEntry (s : State) (e : OpEntry) : State := s.clearPath e.src e.site

/-- Room in the log of `bank` for a further piece of one instruction: the thread's oldest outstanding entries are acknowledged until
one is free (R213). -/
def State.makeRoom (s : State) (bank : Nat) : State :=
  (s.cx.log.filter (·.outstanding)).foldl (fun s e => if (s.freeIdx bank).isSome then s else s.settleEntry e) s

/-- One line of a store is sent, weak, in atomic parts of `w` bytes. -/
def State.sendLine (s : State) (bank w : Nat) (x : LineStore) : Try State :=
  let (lo, hi) := cellSpan x.cells
  let va := toWord (128 * x.line + lo)
  let cells := x.cells.map fun c => (c.1 - lo, c.2)
  let data : BitVec 1024 := cells.foldl (fun (v : BitVec 1024) (c : Host.Cell) => v ||| (c.2.setWidth 1024) <<< (8 * c.1)) 0
  s.put .weak bank { x.at_ with pa := x.at_.pa + lo } va (hi - lo) data cells w

/-- The lines of a store are sent in order; the first waits for a free entry (R213). -/
def State.sendLines (s : State) (bank w : Nat) : List LineStore → Try State
  | [] => .ok s
  | x :: r => do
    let u ← s.sendLine bank w x
    r.foldlM (fun u y => (if y.at_.direct then u else u.makeRoom bank).sendLine bank w y) u

/-- Pieces that are not posted meet their errors before anything is written, the first of them first (R208, R217). -/
def State.checkDirect (s : State) : List Placed1 → Try Unit
  | [] => .ok ()
  | p :: r => do
    if p.at_.direct then s.checkPlace .store p.at_ p.piece.va p.piece.n
    s.checkDirect r

/-- A store of pieces, in their order (R217), in atomic parts of `w` bytes, from the queue bank of its first byte (R198); it goes out
once the packet of its first posted piece finds a frame (R309). -/
def State.storePieces (s : State) (w : Nat) (l : List Placed1) : Try State := do
  s.checkDirect l
  waitUntil ((l.all fun p => p.at_.direct) || s.roomFor (s.cx.bankSite (firstByte l)) s.cx.leaf 0)
  s.sendLines (s.cx.bankSite (firstByte l)) w (l.foldl (fun acc p => joinLine p acc) [])

/-! ## Vectors (R216, R217) -/

/-- The element width in bytes of a vector access; BITS moves by bytes. -/
def accessWidth (t : Tag) : Nat := if t = 1 then 1 else tagWidth t / 8

/-- How a vector access forms the address of element i. -/
abbrev ElemAddr := Nat → Word

/-- The offset of VLD and VST (R217). -/
def blockAddr128 (s : State) (imm a : BitVec 5) : Word := s.getX a + (imm.signExtend 64) * 128

/-- Bit i of the predicate of a PRED hint, or 1 without one (R29, R217). -/
def State.enabled (s : State) (i : Nat) : Bool :=
  match s.cx.predHint with
  | none => true
  | some p => (s.cx.getP p).getLsbD i

/-- The enabled elements of a vector access. -/
def State.vectorElems (s : State) (n : Nat) : List Nat := (List.range n).filter s.enabled

/-- Every enabled element is aligned and has its target; the first that fails decides the fault (R217). -/
def State.placeElems (s : State) (acc : Access) (w : Nat) (addr : ElemAddr) (val : Nat → Nat) (is : List Nat) :
    Try (List Placed1) :=
  is.mapM fun i => do
    check ((addr i).toNat % w = 0) (exnMisaligned acc (addr i))
    let t ← tryExn (s.resolve acc (addr i) w s.cx.tileco)
    return ⟨⟨addr i, w, val i⟩, t⟩

/-- The targets of a BITS access of 128 bytes, governed by bit 0 of the predicate (R105, R217). -/
def State.placeBits (s : State) (acc : Access) (va : Word) (v : Nat) : Try (List Placed1) := do
  if !s.enabled 0 then return []
  inOneRegion acc va 128
  s.placeAll acc s.cx.tileco (lines va 128 v)

/-- The value of element i among loaded elements. -/
def pickElem (is : List Nat) (vs : List Nat) (i : Nat) : Nat := ((is.zip vs).find? fun p => p.1 = i).elim 0 (·.2)

/-- A vector load of `n` elements under a tag (R217). -/
def vectorLoad (s : State) (w : BitVec 2) (t : Tag) (n : Nat) (addr : ElemAddr) (d : BitVec 5) : Try State := do
  waitUntil (s.cx.waitMet w.toNat 0)
  if t = 1 then
    let ps ← s.placeBits .load (addr 0) 0
    waitUntil (!anyRetry ps)
    s.mayLoadAll (firstByte ps) 1 ps
    let (vs, u) := s.loadPieces (firstByte ps) 1 ps
    let v := BitVec.ofNat 1024 (joinPieces (ps.map (·.piece)) vs)
    return (u.setV d (if s.enabled 0 then ⟨t, v⟩ else mergeV (s.getV d) t (fun _ => false) fun _ => 0)).advance
  else
    let is := s.vectorElems (min n (tagElems t))
    let ps ← s.placeElems .load (accessWidth t) addr (fun _ => 0) is
    waitUntil (!anyRetry ps)
    s.mayLoadAll (firstByte ps) (accessWidth t) ps
    let (vs, u) := s.loadPieces (firstByte ps) (accessWidth t) ps
    return (u.setV d (mergeV (s.getV d) t (fun i => is.contains i) fun i => trimLane t (pickElem is vs i))).advance

/-- A vector store of the first `n` elements of a register (R217). -/
def vectorStore (s : State) (r : VReg) (n : Nat) (addr : ElemAddr) : Try State := do
  if r.tag = 1 then
    let ps ← s.placeBits .store (addr 0) r.bits.toNat
    let u ← s.storePieces 1 ps
    return u.advance
  else
    let ps ← s.placeElems .store (accessWidth r.tag) addr r.elem (s.vectorElems (min n (tagElems r.tag)))
    let u ← s.storePieces (accessWidth r.tag) ps
    return u.advance

/-- The source of a vector store: EMPTY has no elements, and only VST moves BITS (R217). -/
def State.storeSource (s : State) (d : BitVec 5) (bitsToo : Bool) : Try VReg :=
  let r := s.getV d
  if r.tag = 0 then (if bitsToo then raiseStop (exnTagAny 0 d.toNat) else raiseStop (exnTagSet 0 d.toNat 0))
  else if r.tag = 1 && !bitsToo then raiseStop (exnTagSet 0 d.toNat 1)
  else .ok r

/-- The index register of VLDX and VSTX (R217). -/
def State.indexSource (s : State) (b : BitVec 5) : Try VReg := s.vSource b fun t => t = 4 || t = 5

/-- An index, sign-extended. -/
def VReg.index (r : VReg) (i : Nat) : Word := BitVec.ofInt 64 (bitsInt (tagWidth r.tag) false (r.elem i))

/-- VLD (R217). -/
def execVld (w : BitVec 2) (imm : BitVec 5) (t : BitVec 4) (a d : BitVec 5) (s : State) : Result :=
  s.finish (vectorLoad s w t 1024 (fun i => blockAddr128 s imm a + toWord (i * accessWidth t)) d)

/-- VLDS (R217). -/
def execVlds (w : BitVec 2) (t : BitVec 4) (b a d : BitVec 5) (s : State) : Result :=
  s.finish (vectorLoad s w t 1024 (fun i => s.getX a + toWord i * s.getX b) d)

/-- VLDX (R217). -/
def execVldx (w : BitVec 2) (t : BitVec 4) (b a d : BitVec 5) (s : State) : Result :=
  s.finish do
    waitUntil (s.cx.waitMet w.toNat 0)
    let r ← s.indexSource b
    vectorLoad s w t (tagElems r.tag) (fun i => s.getX a + r.index i) d

/-- VST (R217). -/
def execVst (w : BitVec 2) (imm : BitVec 5) (a d : BitVec 5) (s : State) : Result :=
  s.finish do
    waitUntil (s.cx.waitMet w.toNat 0)
    let r ← s.storeSource d true
    vectorStore s r 1024 fun i => blockAddr128 s imm a + toWord (i * accessWidth r.tag)

/-- VSTS (R217). -/
def execVsts (w : BitVec 2) (b a d : BitVec 5) (s : State) : Result :=
  s.finish do
    waitUntil (s.cx.waitMet w.toNat 0)
    let r ← s.storeSource d false
    vectorStore s r 1024 fun i => s.getX a + toWord i * s.getX b

/-- VSTX (R217). -/
def execVstx (w : BitVec 2) (b a d : BitVec 5) (s : State) : Result :=
  s.finish do
    waitUntil (s.cx.waitMet w.toNat 0)
    let r ← s.storeSource d false
    let x ← s.indexSource b
    vectorStore s r (tagElems x.tag) fun i => s.getX a + x.index i

/-! ## Tiles (R47, R218) -/

/-- A tile descriptor, read from its 64 bytes (R218). -/
structure TileDesc where
  base : Word
  scales : Word
  group : Word
  stride : Word
  tag : Tag
  rows : Nat
  tc : Bool
  row : Nat
  col : Nat
  deriving DecidableEq, Repr

/-- The descriptor in 64 bytes, if it is in order (R218). -/
def tileDesc (b : Nat) : Option TileDesc :=
  let fl := fun o n => (b >>> (8 * o)) % 2 ^ (8 * n)
  let tc := fl 30 2 % 2 = 1
  if 16 ≤ fl 28 1 || !isTileTag (BitVec.ofNat 4 (fl 28 1)) || fl 29 1 = 0 || 64 < fl 29 1 || 2 ≤ fl 30 2 || fl 36 28 ≠ 0 ||
      (tc && (1024 ≤ fl 32 2 || 1024 ≤ fl 34 2)) then none
  else
    some ⟨toWord (fl 0 8), toWord (fl 8 8), toWord (fl 16 8), BitVec.ofInt 64 (bitsInt 32 false (fl 24 4)),
      BitVec.ofNat 4 (fl 28 1), fl 29 1, tc, fl 32 2, fl 34 2⟩

/-- Bytes of a row's memory image (R47, R218). -/
def tileRowBytes (t : Tag) : Nat := 8 * laneBits t

/-- Coordinates of the lines that a tile access touches: the descriptor's, else those of a TILECO hint (R123, R218). -/
def TileDesc.coords (k : TileDesc) (c : Ctx) : Option (Nat × Nat) := if k.tc then some (k.row, k.col) else c.tileco

/-- The address of row r. -/
def TileDesc.rowAddr (k : TileDesc) (r : Nat) : Word := k.base + toWord r * k.stride

/-- The tile's descriptor, read as one weak load (R218): an address that is not aligned raises cause 4, and one out of order
cause 2 with its address. -/
def State.readTileDesc (s : State) (a : BitVec 5) : Try (TileDesc × State) := do
  let va := s.getX a
  check (va.toNat % 64 = 0) (exnMisaligned .load va)
  let t ← s.reach .load va 64
  s.mayLoad .weak t va 64 1
  let (v, u) := s.loadAt .weak t va 64 1
  match tileDesc v with
  | none => raiseStop (exn 2 va)
  | some k => return (k, u)

/-- The enabled rows below ROWS (R156, R218). -/
def State.tileRows (s : State) (k : TileDesc) : List Nat := (List.range k.rows).filter s.enabled

/-- The pieces of the rows, each aligned to its element (R218). -/
def State.placeRows (s : State) (acc : Access) (k : TileDesc) (val : Nat → Nat) (rs : List Nat) : Try (List (List Placed1)) :=
  rs.mapM fun r => do
    check ((k.rowAddr r).toNat % accessWidth k.tag = 0) (exnMisaligned acc (k.rowAddr r))
    inOneRegion acc (k.rowAddr r) (tileRowBytes k.tag)
    s.placeAll acc (k.coords s.cx) (lines (k.rowAddr r) (tileRowBytes k.tag) (val r))

/-- The pieces of the scale bytes of QC4 rows. -/
def State.placeScales (s : State) (acc : Access) (k : TileDesc) (val : Nat → Nat) (rs : List Nat) : Try (List Placed1) :=
  if k.tag = 14 then s.placeAll acc (k.coords s.cx) (rs.map fun r => ⟨k.scales + toWord r, 1, val r⟩) else .ok []

/-- The piece of the FP32 group scale of QC4. -/
def State.placeGroup (s : State) (acc : Access) (k : TileDesc) (v : Nat) : Try (List Placed1) := do
  if k.tag = 14 then
    check (k.group.toNat % 4 = 0) (exnMisaligned acc k.group)
    s.placeAll acc (k.coords s.cx) [⟨k.group, 4, v⟩]
  else return []

/-- Loads of the pieces of rows. -/
def State.loadRows (s : State) (va : Word) : List (List Placed1) → List Nat × State
  | [] => ([], s)
  | ps :: r =>
    let (vs, u) := s.loadPieces va 1 ps
    let (rest, w) := u.loadRows va r
    (joinPieces (ps.map (·.piece)) vs :: rest, w)

/-- The row that a tile takes: loaded, zero from ROWS upward, and kept or zero when disabled (R156, R218). -/
def tileRowFrom (old : MReg) (t : Tag) (en : Nat → Bool) (rs vs : List Nat) (r c : Nat) : Nat :=
  if en r then (if rs.contains r then (pickElem rs vs r >>> (laneBits t * c)) % 2 ^ laneBits t else 0)
  else if old.tag = t then old.elem r c
  else 0

/-- The side band that TLD leaves: QC4's row scales and group scale, else zero (R218). -/
def tileSide (old : MReg) (t : Tag) (en : Nat → Bool) (rs scales : List Nat) (group : Nat) : BitVec 2048 :=
  if t = 14 then
    BitVec.ofNat 2048 (packElems 8 (fun r =>
      if en r then (if rs.contains r then pickElem rs scales r else 0)
      else if old.tag = t then old.sideByte r
      else 0) 64 + group <<< 512)
  else 0

/-- TLD (R218). -/
def execTld (w : BitVec 2) (a : BitVec 5) (d : BitVec 3) (s : State) : Result :=
  s.finish do
    waitUntil (s.cx.waitMet w.toNat 0)
    let (k, s1) ← s.readTileDesc a
    let rs := s.tileRows k
    let rows ← s1.placeRows .load k (fun _ => 0) rs
    let scs ← s1.placeScales .load k (fun _ => 0) rs
    let grp ← s1.placeGroup .load k 0
    waitUntil (!(rows.any anyRetry || anyRetry scs || anyRetry grp))
    let all := rows.flatten ++ scs ++ grp
    let first := firstByte all
    s1.mayLoadAll first 1 all
    let (rv, s2) := s1.loadRows first rows
    let (sv, s3) := s2.loadPieces first 1 scs
    let (gv, s4) := s3.loadPieces first 1 grp
    let old := s.getM d
    return (s4.setM d ⟨k.tag, packTile (tileRowFrom old k.tag s.enabled rs rv),
      tileSide old k.tag s.enabled rs sv (gv.headD 0)⟩).advance

/-- The memory image of a row of a tile (R47). -/
def MReg.rowImage (m : MReg) (r : Nat) : Nat := packElems (laneBits m.tag) (fun c => m.elem r c) 64

/-- TST (R218). -/
def execTst (w : BitVec 2) (a : BitVec 5) (d : BitVec 3) (s : State) : Result :=
  s.finish do
    waitUntil (s.cx.waitMet w.toNat 0)
    let (k, s1) ← s.readTileDesc a
    let m := s.getM d
    check (m.tag = k.tag) (exnTagOne 1 d.toNat m.tag k.tag)
    let rs := s.tileRows k
    let rows ← s1.placeRows .store k m.rowImage rs
    let scs ← s1.placeScales .store k m.sideByte rs
    let grp ← if rs.isEmpty then (.ok [] : Try (List Placed1)) else s1.placeGroup .store k m.group
    let u ← s1.storePieces 1 (rows.flatten ++ scs ++ grp)
    return u.advance

end Sys2Proof.Machine
end

