-- ==== Sys2Proof/Machine/Commands.lean ====
section
/-! DEFINITION. Commands that read or write memory as they are issued: submission to a launch queue (R78, R83 to R85), copies
(R237 to R239) and MSG.SPILL (R298). -/

namespace Sys2Proof.Machine

/-- The 64 bytes at an address aligned to 64, as one weak load (R83, R238). -/
def State.readBlock (s : State) (va : Word) : Try (BitVec 512 × State) := do
  check (va.toNat % 64 = 0) (exnMisaligned .load va)
  let t ← s.reach .load va 64
  s.mayLoad .weak t va 64 1
  let (v, u) := s.loadAt .weak t va 64 1
  return (BitVec.ofNat 512 v, u)

/-! ## Launch queues from a core (R82 to R85) -/

/-- The queue has no room for one more packet. -/
def Queue.full (x : Queue) : Bool := (x.widx - x.ridx).toNat = x.size

/-- KSUB of a queue (R66, R67): the value its registration took, and that of QCFG while it has none. -/
def State.kernelsSubmit (s : State) (q : Nat) : Bool :=
  if (s.queue q).st = .unreg then (s.qstat q).getLsbD 40 else (s.queue q).ksub

/-- The reason that turns a QSUB away, 0 for none; a full queue is met later (R83). -/
def State.submitReason (s : State) (q : Nat) : Nat :=
  let x := s.queue q
  if !s.reachesQueue s.cx.requester q || !s.kernelsSubmit q then 3
  else if x.st = .unreg then 4
  else if x.st = .error then 2
  else 0

/-- A QSUB is turned away: the twin form reports the reason, the other raises cause 36 (R83). -/
def State.turnedAway (s : State) (twin : Bool) (q why : Nat) (d : BitVec 5) : State :=
  if twin then s.result d (refusal why) else s.raise (exn 36 (toWord (q + why * 2 ^ 32)))

/-- The walker writes a packet into the ring and the index advances; a write that fails puts the queue in ERROR (R69, R83, R395). -/
def State.submit (s : State) (twin : Bool) (q : Nat) (pkt : BitVec 512) (d : BitVec 5) : State :=
  let x := s.queue q
  match s.unitWrite (s.queueClient x) (x.base.toNat + 64 * (x.widx.toNat % x.size)) 64 pkt.toNat with
  | .error f => ((s.unitRas x.leaf f).queueError x 6 x.widx).turnedAway twin q 2 d
  | .ok t =>
    (t.setQueue { x with widx := x.widx + 1 }).result d
      (if twin then accepted x.widx.toNat else x.widx.setWidth 64)

/-- R83: the body of QSUB and QSUB.T. -/
def queueSubmit (s : State) (twin : Bool) (b a d : BitVec 5) : Try State := do
  s.blocking twin
  let q := (s.getX b).toNat
  let (pkt, u) ← s.readBlock (s.getX a)
  waitUntil (u.cx.released 2)
  let why := u.submitReason q
  if why ≠ 0 then return u.turnedAway twin q why d
  else if (u.queue q).full then (if twin then return u.turnedAway twin q 1 d else waitStop)
  else return u.submit twin q pkt d

/-- QSUB (R83). -/
def execQsub (b a d : BitVec 5) (s : State) : Result := s.finish (queueSubmit s false b a d)

/-- QSUB.T (R83). -/
def execQsubT (b a d : BitVec 5) (s : State) : Result := s.finish (queueSubmit s true b a d)

/-- The index of the entry that a TRIG takes. It never stalls its core (R84): where all 32 are in use it stands beside them, under a
number that oplsel cannot name: DEDUCED (105). -/
def State.trigIdx (s : State) : Nat :=
  (s.freeIdx s.cx.key.h).getD (((List.range' 32 (s.cx.log.length + 1)).find? fun i => s.cx.log.all fun e => e.idx ≠ i).getD 32)

/-- TRIG: a release at device scope whose count leaves once earlier writes are performed; until then it holds one entry of
the operand log (R78, R84). -/
def execTrig (s : State) : Result :=
  let e : OpEntry := ⟨s.trigIdx, 0, .trig, 0, 0, 2, true, 0, [], 1, 0, 1024, .none, .sent, s.cx.level, s.cx.key.h, s.order, 0, true, false⟩
  .next (s.mapCx fun c => { c with log := c.log ++ [e] }).tickOrder.advance

/-- LSTAT: QSTAT, QWIDX or QERRIDX of a queue in reach, else 0 (R85). -/
def execLstat (a : BitVec 5) (f : BitVec 2) (d : BitVec 5) (s : State) : Result :=
  let q := (s.getX a).toNat
  let x := s.queue q
  let v : Word := if f = 0 then s.qstat q else if f = 1 then x.widx.setWidth 64 else x.erridx.setWidth 64
  .next (s.result d (if s.reachesQueue s.cx.requester q then v else 0))

/-! ## Copies (R237 to R239) -/

/-- The reason that turns a descriptor away (R238): 2 SIZE, 3 BADDESC, 1 FULL, 0 none. A destination tag that names no format
has no size. -/
def State.copyReason (s : State) (kind : CopyKind) (b : BitVec 512) : Nat :=
  let known := copyTag (bytesAt b.toNat 33 1)
  if cdElems b = 0 || cdRows b = 0 || (known && (copySize b = 0 || 2 ^ 24 < copySize b)) then 2
  else if !copyDescOk kind b then 3
  else if !s.copyRoom s.cx.key then 1
  else 0

/-- A copy of the running context is enqueued, or turned away (R238). -/
def State.issueCopy (s : State) (kind : CopyKind) (acq rel : Bool) (scope : Nat) (b : BitVec 512) (d : BitVec 5) : State :=
  let why := s.copyReason kind b
  if why ≠ 0 then s.result d (refusal why)
  else (s.enqueueCopy s.cx s.cx.level kind b acq rel scope none).result d (accepted s.cx.copyHandle)

/-- A copy whose descriptor lies in memory (R238). -/
def copyFrom (s : State) (kind : CopyKind) (aq rl : BitVec 1) (a : BitVec 5) (sc : BitVec 2) (d : BitVec 5) : Try State := do
  let (b, u) ← s.readBlock (s.getX a)
  return u.issueCopy kind (aq = 1) (rl = 1) sc.toNat b d

/-- XCOPY.1D (R238): a count of 0 or above 2^24 gives SIZE. -/
def execXcopy1d (aq rl : BitVec 1) (b a : BitVec 5) (s : BitVec 2) (d : BitVec 5) (st : State) : Result :=
  let n := (st.getX d).toNat
  .next (if n = 0 || 2 ^ 24 < n then st.result d (refusal 2)
    else st.issueCopy .d1 (aq = 1) (rl = 1) s.toNat (copyDesc1D (st.getX a) (st.getX b) n) d)

/-- XCOPY.2D (R238). -/
def execXcopy2d (aq rl : BitVec 1) (a : BitVec 5) (s : BitVec 2) (d : BitVec 5) (st : State) : Result :=
  st.finish (copyFrom st .d2 aq rl a s d)

/-- XCOPY.TILE (R238). -/
def execXcopyTile (aq rl : BitVec 1) (a : BitVec 5) (s : BitVec 2) (d : BitVec 5) (st : State) : Result :=
  st.finish (copyFrom st .tile aq rl a s d)

/-- XCOPY.GATH (R238). -/
def execXcopyGath (aq rl : BitVec 1) (a : BitVec 5) (s : BitVec 2) (d : BitVec 5) (st : State) : Result :=
  st.finish (copyFrom st .gath aq rl a s d)

/-- The copy of the running context that a register names. -/
def State.namedCopy (s : State) (a : BitVec 5) : Option Copy := s.copy? s.cx.key (fld (s.getX a) 31 0)

/-- The scope of the acquire with which a wait sees the end of a copy (R232). -/
def Copy.endScope (x : Copy) : Nat := if x.rel then x.scope else 0

/-- R239: the body of XCOPY.WAIT and XCOPY.WAIT.T. -/
def copyWait (s : State) (twin : Bool) (a d : BitVec 5) : Try State := do
  s.blocking twin
  match s.namedCopy a with
  | none => return s.result d (copyStatus none 1)
  | some x =>
    if x.ended then return (s.acquire x.endScope).result d (copyStatus (some x) 1)
    else if twin then return s.result d (refusal 1)
    else waitStop

/-- XCOPY.WAIT (R239). -/
def execXcopyWait (a d : BitVec 5) (s : State) : Result := s.finish (copyWait s false a d)

/-- XCOPY.WAIT.T (R239). -/
def execXcopyWaitT (a d : BitVec 5) (s : State) : Result := s.finish (copyWait s true a d)

/-- XCOPY.STAT (R239). -/
def execXcopyStat (a d : BitVec 5) (s : State) : Result := .next (s.result d (copyStatus (s.namedCopy a) 0))

/-- XCOPY.ABORT: 1, or LATE (R239). -/
def execXcopyAbort (a d : BitVec 5) (s : State) : Result :=
  match s.abortCopy s.cx.key (fld (s.getX a) 31 0) with
  | none => .next (s.result d (refusal 1))
  | some t => .next (t.result d 1)

/-! ## MSG.SPILL (R298) -/

/-- The pieces of messages written one after the other from an address. -/
def spillPieces (va : Word) (l : List (BitVec 512)) : List Piece :=
  (l.mapIdx fun i img => lines (va + toWord (64 * i)) 64 img.toNat).flatten

/-- MSG.SPILL (R298). -/
def execMsgSpill (b a d : BitVec 5) (s : State) : Result :=
  s.finish do
    let va := s.getX a
    check (va.toNat % 64 = 0) (exnMisaligned .store va)
    let moved := s.cx.waitingMail.take (s.getX b).toNat
    let ps ← s.placeAll .store none (spillPieces va moved)
    let u ← s.storePieces 1 ps
    let v := (u.mapCx fun c => (c.takeMail moved.length).addSpilled moved.length).acquire 1
    return v.result d (toWord moved.length)

end Sys2Proof.Machine
end

