-- ==== Sys2Proof/Machine/CopyRun.lean ====
section
/-! DEFINITION. What a running copy reads and writes, element by element, and how it completes or stops (R230 to R234, R339). -/

namespace Sys2Proof.Machine

/-! ## Accesses of an element (R208, R230, R232) -/

/-- A piece of an element: where it lies, and its bytes. -/
abbrev Piece1 := Target × Nat

/-- The bytes that one element touches: one piece, or each byte on its own when they may lie apart. -/
def State.elemPlaces (s : State) (c : Ctx) (lvl : Level) (acc : Access) (side : Nat) (row : Word) (t : Tag) (i : Nat)
    (tc : Nat → Option (Nat × Nat)) : Except CopyBar (List Piece1) := do
  let (o, _, n) := elemSpan t i
  let va := row + toWord o
  if imageBits t < 8 then
    (List.range n).mapM fun k => (s.copyPlace c lvl acc side va (va + toWord k) 1 (tc (o + k))).map fun p => (p, 1)
  else (s.copyPlace c lvl acc side va va n (tc o)).map fun p => [(p, n)]

/-- The agent of a copy as platform MMIO sees it (R429). -/
def Copy.requester (x : Copy) (c : Ctx) : Requester := ⟨x.lvl, c.leaf, c.fl⟩

/-- The value at a piece: a register that platform MMIO has there, else memory; never a first-level copy (R112, R232). -/
def State.pieceLoad (s : State) (r : Requester) (p : Piece1) : Nat :=
  if isMmio p.1.pa then s.mmioLoad r p.1.pa p.2 else s.load p.1.pa p.2

/-- A write of the low bytes of `v` at a piece (R112, R232). -/
def State.pieceStore (s : State) (r : Requester) (p : Piece1) (v : Nat) : State :=
  if isMmio p.1.pa then s.mmioStore r p.1.pa (valueCells p.2 v) else s.store p.1.pa p.2 v

/-- An access that leaves the site takes a stamp and is counted for the agent (R309, R380). -/
def State.engineAccess (s : State) (c : Ctx) (p : Piece1) : State :=
  if p.1.kind = .localWin then s
  else
    let t := s.request c.key c.key.h c.leaf
    if p.1.kind = .glob then t.countSlice c.key else t

/-- The bits of an element read at its pieces. -/
def State.readElem (s : State) (r : Requester) (t : Tag) (i : Nat) (ps : List Piece1) : Nat :=
  let (_, bit, _) := elemSpan t i
  let v := (ps.mapIdx fun k p => s.pieceLoad r p <<< (8 * k)).sum
  (v >>> bit) % 2 ^ imageBits t

/-- An element written at its pieces; the other bits of a shared byte stay. -/
def State.writeElem (s : State) (r : Requester) (t : Tag) (i : Nat) (ps : List Piece1) (v : Nat) : State :=
  let (_, bit, _) := elemSpan t i
  if imageBits t < 8 then
    (ps.mapIdx fun k p => (k, p)).foldl (fun s p =>
      let mk := ((2 ^ imageBits t - 1) <<< bit) >>> (8 * p.1) % 256
      s.pieceStore r p.2 ((s.pieceLoad r p.2 &&& (255 - mk)) ||| ((v <<< bit) >>> (8 * p.1) % 256))) s
  else ps.foldl (fun s p => s.pieceStore r p v) s

/-- The row offset unit of row `r`: r, or the gather's index (R230). -/
def State.rowIndex (s : State) (c : Ctx) (x : Copy) (r : Nat) : Except CopyBar Word :=
  if x.kind = .gath then
    let w := if cdIdx64 x.desc then 8 else 4
    let va := cdIdx x.desc + toWord (w * r)
    (s.copyPlace c x.lvl .load 2 va va w none).map fun t =>
      BitVec.ofInt 64 (bitsInt (8 * w) false (s.pieceLoad (x.requester c) (t, w)))
  else .ok (toWord r)

/-- The tile shapes of a copy's two sides (R230). -/
def State.copyShapes (s : State) (c : Ctx) (x : Copy) : (Nat × Nat) × (Nat × Nat) :=
  (s.sideShape c x.lvl .load (cdSrc x.desc), s.sideShape c x.lvl .store (cdDst x.desc))

/-- What the agent's site has sent to the places of an element is performed before its engine's access to them (R206, R346). -/
def State.landPieces (s : State) (c : Ctx) (ps : List Piece1) : State :=
  ps.foldl (fun s p => s.landAt c.key.h p.1.site p.1.pa p.2) s

/-- The element at a position, read and converted (R230, R231). -/
def State.copyReadAt (s : State) (c : Ctx) (x : Copy) (pos : Nat) : Except CopyBar (State × Nat × BitVec 5) := do
  let b := x.desc
  let r := pos / cdElems b
  let i := pos % cdElems b
  let k ← s.rowIndex c x r
  let srow := cdSrc b + k * cdSStride b
  let ps ← s.elemPlaces c x.lvl .load 0 srow (cdSTag b) i
    (sideCoords x.kind ((cdFlags b).testBit 4) (bytesAt b.toNat 36 2) (bytesAt b.toNat 38 2) (s.copyShapes c x).1 r)
  let s := s.landPieces c ps
  let e := s.readElem (x.requester c) (cdSTag b) i ps
  if cdSTag b ≠ cdDTag b && cdNlt b && lacksNan (cdDTag b) && (elemNum (cdSTag b) false e).isNan then
    throw (.stop ⟨4, 0, srow + toWord (elemSpan (cdSTag b) i).1, 0, .T, none⟩)
  let out : Rounded := if cdSTag b = cdDTag b then ⟨e, 0⟩
    else convertElem (cdSTag b) (cdDTag b) (cdUns b) (cdRm b) (cdSat b) e
  return (ps.foldl (fun s p => s.engineAccess c p) s, out.bits, out.flags.setWidth 5)

/-- The pieces of the element at a position of the destination (R230). -/
def State.copyDest (s : State) (c : Ctx) (x : Copy) (pos : Nat) : Except CopyBar (List Piece1) :=
  let b := x.desc
  let r := pos / cdElems b
  s.elemPlaces c x.lvl .store 1 (cdDst b + toWord r * cdDStride b) (cdDTag b) (pos % cdElems b)
    (sideCoords x.kind ((cdFlags b).testBit 5) (bytesAt b.toNat 40 2) (bytesAt b.toNat 42 2) (s.copyShapes c x).2 r)

/-- The element at a position written (R230). -/
def State.copyWriteAt (s : State) (c : Ctx) (x : Copy) (pos v : Nat) : Except CopyBar State := do
  let ps ← s.copyDest c x pos
  let s := s.landPieces c ps
  return ps.foldl (fun s p => s.engineAccess c p) (s.writeElem (x.requester c) (cdDTag x.desc) (pos % cdElems x.desc) ps v)

/-- The element at a position is sent to another site, and others may see the write later (R232, R349): without REL the end of the copy
orders it for its own core alone. DESIGN CHOICE (124): R232 lets DONE wait for every acknowledgement, and R349 allows what only a write
that is seen later gives. -/
def State.copySendAt (s : State) (c : Ctx) (x : Copy) (pos v : Nat) : Except CopyBar State := do
  let ps ← s.copyDest c x pos
  match ps with
  | [(t, n)] =>
    if x.rel || imageBits (cdDTag x.desc) < 8 || isMmio t.pa || t.kind = .device || t.site = c.key.h then s.copyWriteAt c x pos v
    else return (s.engineAccess c (t, n)).addPost (.copy x.handle) x.agent c.key.h t.site t.pa n v false
  | _ => s.copyWriteAt c x pos v

/-! ## Running a copy (R230 to R233) -/

/-- Bytes of the elements below a position: rows, and the part of a row (R229, R380 code 9). -/
def copiedBytes (b : BitVec 512) (pos : Nat) : Nat :=
  pos / cdElems b * rowBytes (cdDTag b) (cdElems b) + rowBytes (cdDTag b) (pos % cdElems b)

/-- How far a copy has come, and what bars it, if anything does. -/
structure CopyEnd where
  st : State
  cp : Copy
  bar : Option CopyBar
  deriving DecidableEq, Repr

/-- The next element is read ahead of its write: S moves up (R233). -/
def CopyEnd.read (c : Ctx) (e : CopyEnd) : CopyEnd :=
  let pos := e.cp.commit + e.cp.ahead.length
  if e.bar.isSome || copyCount e.cp.desc ≤ pos then e
  else
    match e.st.copyReadAt c e.cp pos with
    | .error w => { e with bar := some w }
    | .ok (t, v, fl) => { e with st := t, cp := { e.cp with ahead := e.cp.ahead ++ [(v, fl)], spec := pos + 1 } }

/-- The oldest element read is written: C moves up, and its bytes count (R231, R233, R380). -/
def CopyEnd.writeBy (f : State → Ctx → Copy → Nat → Nat → Except CopyBar State) (c : Ctx) (e : CopyEnd) : CopyEnd :=
  match e.cp.ahead with
  | [] => e
  | (v, fl) :: rest =>
    if e.bar.isSome then e
    else
      match f e.st c e.cp e.cp.commit v with
      | .error w => { e with bar := some w }
      | .ok t =>
        let n := copiedBytes e.cp.desc (e.cp.commit + 1) - copiedBytes e.cp.desc e.cp.commit
        ⟨t.countFor c.key 9 n, { e.cp with commit := e.cp.commit + 1, ahead := rest, flags := e.cp.flags ||| fl }, none⟩

/-- The oldest element read is written at its place. -/
def CopyEnd.write (c : Ctx) (e : CopyEnd) : CopyEnd := e.writeBy State.copyWriteAt c

/-- The oldest element read is sent to its place. -/
def CopyEnd.send (c : Ctx) (e : CopyEnd) : CopyEnd := e.writeBy State.copySendAt c

/-- `f` applied `n` times. -/
def CopyEnd.times (f : CopyEnd → CopyEnd) : Nat → CopyEnd → CopyEnd
  | 0, e => e
  | n + 1, e => CopyEnd.times f n (f e)

/-- One element further: one that waits is written, else the next is read and written. -/
def CopyEnd.step (c : Ctx) (e : CopyEnd) : CopyEnd := (if e.cp.ahead.isEmpty then e.read c else e).write c

/-- The rest of a copy's elements, in copy order, until one bars it (R230, R233). -/
def CopyEnd.toEnd (c : Ctx) (e : CopyEnd) : CopyEnd := CopyEnd.times (CopyEnd.step c) (copyCount e.cp.desc - e.cp.commit) e

/-- The completion add to SIG, the copy's last access (R232, R233). -/
def State.copySig (s : State) (c : Ctx) (x : Copy) : Except CopyBar State :=
  if cdSig x.desc = 0 then .ok s
  else do
    let t ← s.copyPlace c x.lvl .amo 3 (cdSig x.desc) (cdSig x.desc) 8 none
    if t.kind = .device then throw (.stop ⟨3, 3, cdSig x.desc, 0, .T, none⟩)
    return (s.store t.pa 8 (portOp 0 8 (s.load t.pa 8) 1)).engineAccess c (t, 8)

/-- A running copy that can make progress, with its agent, once its acquire is done and what its thread's acquires at core scope came after
is performed (R232, R346). A held one writes what it has read and no more (R376). -/
def State.activeCopy (s : State) (k : Key) (handle : Nat) (held : Bool) : Option (Ctx × CopyEnd) :=
  match s.ctx? k, s.copy? k handle with
  | some c, some x =>
    if x.st = .running && (held || !x.held) && !x.aborting then
      (s.heeded k x.seq).bind fun s =>
        if x.acq && !x.acqDone then (s.engineOrder k x.seq).map fun t => (c, ⟨t, { x with acqDone := true }, none⟩)
        else some (c, ⟨s, x, none⟩)
    else none
  | _, _ => none

/-- The scratch ways as a copy reaches them: one accepted before a way is withdrawn still reaches it (R126). -/
def Ways.seenBy (x : Copy) (w : Ways) : Ways := if w.old.any (· = (x.agent, x.handle)) then { w with target := none } else w

/-- `f` over a copy, with the scratch ways that it reaches. -/
def CopyEnd.accepted (f : CopyEnd → CopyEnd) (e : CopyEnd) : CopyEnd :=
  let ways := e.st.ways
  let r := f { e with st := { e.st with ways := ways.map (Ways.seenBy e.cp) } }
  { r with st := { r.st with ways := ways } }

/-- The copy as it now stands is in its queue. -/
def CopyEnd.keep (e : CopyEnd) : State := e.st.mapCopy e.cp.agent e.cp.handle fun _ => e.cp

/-- A running copy goes some way (R230, R233). -/
def State.copyWork (s : State) (k : Key) (handle : Nat) (held : Bool) (f : Ctx → CopyEnd → CopyEnd) : State :=
  match s.activeCopy k handle held with
  | none => s
  | some (c, e) => (e.accepted (f c)).keep

/-- The engine reads up to `n` further elements. -/
def State.copyReads (s : State) (k : Key) (handle n : Nat) : State :=
  s.copyWork k handle false fun c => CopyEnd.times (CopyEnd.read c) n

/-- The engine writes up to `n` of the elements it has read. -/
def State.copyWrites (s : State) (k : Key) (handle n : Nat) : State :=
  s.copyWork k handle true fun c => CopyEnd.times (CopyEnd.write c) n

/-- The engine sends up to `n` of the elements it has read. -/
def State.copySends (s : State) (k : Key) (handle n : Nat) : State :=
  s.copyWork k handle true fun c => CopyEnd.times (CopyEnd.send c) n

/-- A copy run to its end: its elements, then the add to SIG; a held one only writes what it has read. -/
def CopyEnd.finish (c : Ctx) (e : CopyEnd) : CopyEnd :=
  let r := if e.cp.held then CopyEnd.times (CopyEnd.write c) e.cp.ahead.length e else e.toEnd c
  match r.bar with
  | some _ => r
  | none =>
    if e.cp.held then r
    else
    match r.st.copySig c r.cp with
    | .error w => { r with bar := some w }
    | .ok t => { r with st := t }

/-- COPY_COMPLETE: every element is written, the release and the add to SIG are performed, and the copy is DONE (R230, R232). -/
def execCopyComplete (k : Key) (handle : Nat) (s : State) : Result :=
  match s.activeCopy k handle false with
  | none => .next s
  | some (c, e) =>
    let r := e.accepted (CopyEnd.finish c)
    match r.bar with
    | some _ => .next s
    | none =>
      let y := { r.cp with st := .done, spec := r.cp.commit, reason := 0 }
      .next ((r.st.endCopy y).copyNodeDone y)

/-- Lval2 of cause 33 (R234). -/
def copyFaultWord (handle : Nat) (w : CopyStop) : Word :=
  toWord (w.info % 16 + w.reason * 16 + w.side * 256 + fld (toWord w.info) 47 12 * 4096 + handle % 65536 * 2 ^ 48)

/-- One past the highest position that was read, for a copy that stops (R233): a NUMERIC stop has read its element. -/
def CopyEnd.highest (e : CopyEnd) (w : CopyStop) : Nat := e.cp.commit + e.cp.ahead.length + (if w.reason = 4 then 1 else 0)

/-- COPY_FAULT: a copy stops at a failing element, its earlier writes done, and cause 33 becomes due (R233, R234). -/
def execCopyFault (k : Key) (handle : Nat) (s : State) : Result :=
  match s.activeCopy k handle true with
  | none => .next s
  | some (c, e) =>
    let r := e.accepted (CopyEnd.finish c)
    match r.bar with
    | some (.stop w) =>
      let y := { r.cp with st := .faulted, spec := r.highest w, ahead := [], reason := w.reason, faultAddr := w.addr }
      let u := ({ r with cp := y } : CopyEnd).keep.mapCtx k fun c => c.asyncAged 33 w.addr (copyFaultWord handle w) w.floor y.seq
      match w.unit with
      | none => .next u
      | some a => .next (u.mapCtx k fun c => c.irq 17 .P a)
    | _ => .next s

end Sys2Proof.Machine
end

