-- ==== Sys2Proof/Machine/Csr.lean ====
section
/-! DEFINITION. The CSRs: which exist, what each reads, and what a write does (R56, R57, R102, R109, R125, R126, R133, R134,
R150 to R152, R180, R211, R215, R234, R283, R285, R323, R353, R355, R376, R379). -/

namespace Sys2Proof.Machine

/-! ## Trap CSRs (R353) -/

/-- Bits of Lie and Lip that exist (R353). -/
def irqMask : Word := span 21 16 ||| span 13 13 ||| span 11 9 ||| span 7 5 ||| span 3 1

/-- The level whose trap CSRs a number names: 0x1xx T, 0x2xx D, 0x3xx P. -/
def trapCsrLevel (n : Nat) : Option Level := if 0x100 ≤ n && n < 0x400 then some (levelOf (n / 0x100)) else none

/-- Lip as it reads: the codes pending that route to the level, and its own SWI bit (R353, R426). -/
def State.ipWord (s : State) (l : Level) : Word :=
  maskOf ((s.cx.pendingAt s.now s.cx.level l).map (·.code)) ||| (if (s.cx.tr l).swi then BitVec.twoPow 64 l.rank else 0)

/-- A trap CSR of a level, by the low byte of its number; T has no delegation pair (R353). -/
def State.readTrapCsr (s : State) (l : Level) (o : Nat) : Option Word :=
  let t := s.cx.tr l
  match o with
  | 0x00 => some t.status
  | 0x02 => if l = .T then none else some t.edeleg
  | 0x03 => if l = .T then none else some t.ideleg
  | 0x04 => some t.ie
  | 0x05 => some t.vec
  | 0x40 => some t.scratch
  | 0x41 => some t.epc
  | 0x42 => some t.cause
  | 0x43 => some t.val
  | 0x44 => some (s.ipWord l)
  | 0x4B => some t.val2
  | _ => none

/-- Lstatus as a write leaves it: a PL above the register's own level is ignored (R353). -/
def writeStatus (l : Level) (old w : Word) : Word :=
  let st := putFld (putFld old 3 3 (fld w 3 3)) 7 7 (fld w 7 7)
  if fld w 11 10 ≤ l.rank then putFld st 11 10 (fld w 11 10) else st

/-- The trap CSRs of a level after a write of one (R353, R354). -/
def TrapRegs.write (t : TrapRegs) (l : Level) (o : Nat) (w : Word) : TrapRegs :=
  match o with
  | 0x00 => { t with status := writeStatus l t.status w }
  | 0x02 => { t with edeleg := w &&& (if l = .P then pedelegMask else dedelegMask) }
  | 0x03 => { t with ideleg := w &&& (if l = .P then pidelegMask else didelegMask) }
  | 0x04 => { t with ie := w &&& irqMask }
  | 0x05 => { t with vec := w &&& span 47 2 }
  | 0x40 => { t with scratch := w }
  | 0x41 => { t with epc := w &&& span 63 2 }
  | 0x42 => { t with cause := w &&& (span 63 63 ||| span 5 0) }
  | 0x43 => { t with val := w }
  | 0x44 => { t with swi := w.getLsbD l.rank }
  | 0x4B => { t with val2 := w }
  | _ => t

/-- A trap CSR of the running context written. -/
def State.writeTrapCsr (s : State) (l : Level) (o : Nat) (w : Word) : State :=
  s.mapCx fun c => c.setTr l ((c.tr l).write l o w)

/-! ## Workspace pointers (R133, R134) -/

/-- Lowest level that may access the pointer of a level (R133). -/
def wspOwner : Level → Level
  | .K | .T => .T
  | .D => .D
  | .P => .P

/-- R133: an offset is a place for the workspace of a level. -/
def Ctx.wspFits (c : Ctx) (l : Level) (off : Nat) : Bool :=
  match l with
  | .K | .T => c.inScr (off * 512) 512
  | .D | .P => decide (off < 32)

/-- R134: a CSR write of a workspace pointer. -/
def State.writeWsp (s : State) (word : IWord) (l : Level) (w : Word) : Except Exn State :=
  if s.cx.level = l then .error (exnIllegal word)
  else if !s.cx.wspFits l (fld w 19 9) then .error (exnBoundary w 7 (wspOwner l))
  else .ok (s.mapCx fun c => c.setWsp l (w &&& span 19 9))

/-! ## The operand log (R215) -/

/-- KIND of oplinfo. -/
def opKindCode : OpKind → Nat
  | .store => 1
  | .red => 2
  | .laccAdd => 3
  | .laccClr => 4
  | .trig => 5
  | .semV => 6

/-- The entry that oplsel selects, one of the context's own: DESIGN CHOICE (136), no rule says whether oplsel reaches an entry of the core's
log that another context holds (R213, R215). -/
def Ctx.logEntry (c : Ctx) : Option OpEntry := c.log.find? fun e => e.idx = fld c.oplsel 4 0

/-- Data bytes of an entry (R215): those of a store, or of the operands that the operation carries. -/
def OpEntry.dataBytes (e : OpEntry) : Nat :=
  match e.kind with
  | .laccAdd => if e.op = 1 then 8 else 4
  | _ => e.len

/-- oplinfo of an entry. -/
def OpEntry.info (e : OpEntry) : Word :=
  let failed := match e.st with | .failed why => 2 ^ 62 + lateCode why * 2 ^ 60 | .sent | .performed | .refused _ => 0
  toWord (2 ^ 63 + failed + e.dataBytes * 2 ^ 16 + (if e.strong then e.scope.toNat * 2 ^ 12 + 2 ^ 11 else 0) +
    (if e.kind = .red then e.op * 16 else 0) + opKindCode e.kind)

/-- DROP: the selected entry is freed if it is FAILED. -/
def Ctx.dropEntry (c : Ctx) : Ctx :=
  { c with log := c.log.filter fun e => !(e.idx = fld c.oplsel 4 0 && !e.outstanding) }

/-! ## The way mask (R125, R126) -/

/-- The scratch ways of a leaf. -/
def State.leafWays (s : State) (leaf : Nat) : Ways := (s.ways.find? fun w => w.leaf = leaf).getD ⟨leaf, 0, none, []⟩

/-- l2way of a leaf as it reads. -/
def State.l2way (s : State) (leaf : Nat) : Word :=
  let w := s.leafWays leaf
  toWord (w.scrw + (if w.target.isSome then 2 ^ 63 else 0))

/-- The place lies in the scratch of a span at an offset from `lo` to below `hi`. -/
def scratchPlace (base len lo hi pa : Nat) : Bool :=
  isSiteWindow pa &&
    (let h := (pa - siteBase) / 0x400000
     let o := (pa - siteBase) % 0x400000
     decide (base ≤ h) && decide (h < base + len) && decide (0x200000 + lo ≤ o) && decide (o < 0x200000 + hi))

/-- Watches on lines of a span's scratch from `lo` to below `hi` are lost (R336). -/
def loseWatches (base len lo hi : Nat) (c : Ctx) : Ctx :=
  { c with watch := c.watch.map fun (w : Watch) =>
      if w.trig.isNone && scratchPlace base len lo hi (w.line * 128) then { w with trig := some 2 } else w }

/-- A write of l2way by the running context (R125, R126): a change of SCRW starts a transition; copies accepted before it still
reach the ways withdrawn, those of P through the physical windows from any leaf. -/
def State.writeL2way (s : State) (v : Word) : State :=
  let leaf := s.cx.leaf
  let w := s.leafWays leaf
  let n := fld v 4 0
  let p := s.part (.leaf leaf)
  if 14 < n || fld v 62 5 ≠ 0 || w.target.isSome || n = w.scrw then s
  else
    let old := (s.copies.filter fun x => !x.ended && !x.removed && (x.lvl = .P || (s.owner? x.agent).any fun c => c.leaf = leaf)).map
      fun x => (x.agent, x.handle)
    let t := { s with ways := upsert (fun x => x.leaf = leaf) ⟨leaf, w.scrw, some n, old⟩ s.ways }
    if n < w.scrw then t.mapAll (loseWatches p.base p.len (n * 0x20000) (w.scrw * 0x20000)) else t

/-! ## CSRs of a context -/

/-- mbcfg (R285). -/
def Ctx.mbcfg (c : Ctx) : Word := toWord (c.msg.mbox + c.msg.swin * 2 ^ 16 + c.mailbox.length * 2 ^ 32 + c.sq * 2 ^ 40)

/-- The copy that cpsel selects. -/
def State.cpCopy (s : State) : Option Copy := s.copy? s.cx.key s.selectedCopy

/-- A counter as the running context reads it: 0 at K and T while the leaf lacks COUNTERS, and at D while its first-level span does (R92,
R379). -/
def State.readCounter (s : State) (i : Nat) : Word :=
  if !s.holds s.cx.requester rightCounters then 0
  else ((s.cx.pmc[i]?).getD 0).setWidth 64

/-- CSRs 0x5xx: those of a context that T reaches. -/
def State.readTenantCsr (s : State) (n : Nat) : Option Word :=
  let c := s.cx
  match n with
  | 0x5C0 => some c.xtab
  | 0x5C1 => some c.msg.hndtab
  | 0x5C2 => some c.mbcfg
  | 0x5C3 => some (if c.thread then 0 else c.wdog.reg)
  | 0x5C4 => some c.wsp.k
  | 0x5C5 => some c.wsp.t
  | 0x5D0 => some c.xbase
  | 0x5D1 => some (s.xres c.key)
  | 0x5D2 => some c.xprev
  | 0x5D8 => some c.oplsel
  | 0x5D9 => some (c.logEntry.elim 0 (·.addr))
  | 0x5DA => some (c.logEntry.elim 0 OpEntry.info)
  | 0x5DB => some (c.logEntry.elim 0 fun e => toWord (fld e.data (64 * fld c.oplsel 11 8 + 63) (64 * fld c.oplsel 11 8)))
  | 0x5DC => some 0
  | 0x5E0 => some c.cpsel
  | 0x5E1 => some (copyStatus s.cpCopy 0)
  | 0x5E2 => some (s.cpCopy.elim 0 fun x => toWord (x.commit + x.spec * 2 ^ 32))
  | 0x5E3 => some (s.cpCopy.elim 0 fun x => if x.st = .faulted then x.faultAddr else 0)
  | 0x5E4 => some 0
  | 0x5E8 => some c.msg.msgland
  | 0x5E9 => some c.msg.rring
  | 0x5EA => some c.msg.rrhead
  | 0x5EB => some (toWord (c.wdog.count % 2 ^ 25))
  | 0x5EC => some c.msg.msgcnt
  | 0x5F0 => some (toWord (c.range.lo + (if c.range.v then 2 ^ 63 else 0)))
  | 0x5F1 => some (toWord (c.range.hi + c.range.grain * 2 ^ 48))
  | 0x5F2 => some (toWord (c.range.node % 2 ^ 48))
  | 0x5F8 => some c.tt.cmp
  | 0x5F9 => some s.now
  | 0x5FA => some 0
  | _ => none

/-- The root CSRs, and the CSRs 0x6xx and 0x7xx that D and P reach. -/
def State.readOuterCsr (s : State) (n : Nat) : Option Word :=
  let c := s.cx
  match n with
  | 0x180 => some (tabGet s.tatp c.leaf 0)
  | 0x280 => some (tabGet s.datp c.leaf 0)
  | 0x380 => some (tabGet s.patp c.fl 0)
  | 0x6C5 => some c.wsp.d
  | 0x6D0 => some (s.l2way c.leaf)
  | 0x6D8 => some c.td.cmp
  | 0x7C5 => some c.wsp.p
  | 0x7D0 => some c.tp.cmp
  | 0x7D8 => some (s.cqueue c.key.h).sel
  | 0x7D9 => some (s.cqdata c.key.h)
  | 0x7DA => some (((s.cqueue c.key.h).stage[fld (s.cqueue c.key.h).sel 7 4]?).getD 0)
  | 0x7DB => some 0
  | 0x7DC => some (toWord ((s.cqueue c.key.h).result + (if (s.cqueue c.key.h).busy.isEmpty then 0 else 2 ^ 63)))
  | _ => none

/-- CSRs that every level reaches: 0x8C0 and 0x8C1, the counters, the identity and the store counts. -/
def State.readUserCsr (s : State) (n : Nat) : Option Word :=
  let c := s.cx
  match n with
  | 0x8C0 => some c.vctl
  | 0x8C1 => some c.vflags
  | 0xCC0 => some c.ident.hid
  | 0xCC1 => some c.ident.kspan
  | 0xCC2 => some c.ident.pword
  | 0xCC3 => some c.ident.ctxid
  | 0xCC4 => some c.ident.gset
  | 0xCC8 => some (toWord (c.storeCount .scs))
  | 0xCC9 => some (toWord (c.storeCount .scd))
  | 0xCCA => some (toWord (c.storeCount .scm))
  | n => if 0xC40 ≤ n && n < 0xC50 then some (s.readCounter (n - 0xC40)) else none

/-- The value of a CSR, or that the device has no such CSR (R150). -/
def State.readCsr (s : State) (n : Nat) : Option Word :=
  (((trapCsrLevel n).bind fun l => s.readTrapCsr l (n % 0x100)).or (s.readTenantCsr n)).or
    ((s.readOuterCsr n).or (s.readUserCsr n))

/-! ## Writes -/

/-- A table CSR with a count above its address: a count above `most` is ignored (R180, R285). -/
def writeTable (old w : Word) (lo most : Nat) : Word :=
  let n := fld w 63 lo
  putFld (putFld 0 47 3 (fld w 47 3)) 63 lo (if most < n then fld old 63 lo else n)

/-- msgland: a landing slot outside SCR is ignored (R285). -/
def Ctx.writeMsgland (c : Ctx) (w : Word) : Ctx :=
  if c.inScr (fld w 19 6 * 64) 64 then { c with msg := { c.msg with msgland := w &&& span 19 6 } } else c

/-- rring: LSZ is 0 or 2 to 8, and a ring outside SCR is ignored (R285). -/
def Ctx.writeRring (c : Ctx) (w : Word) : Ctx :=
  let want := fld w 27 24
  let lsz := if want = 0 || (2 ≤ want && want ≤ 8) then want else fld c.msg.rring 27 24
  if lsz = 0 || c.inScr (fld w 19 6 * 64) (64 * 2 ^ lsz) then
    { c with msg := { c.msg with rring := putFld (w &&& span 19 6) 27 24 lsz } }
  else c

/-- wdog: 1 to 2^24, taken at the next activation (R283). -/
def Ctx.writeWdog (c : Ctx) (w : Word) : Ctx :=
  let n := fld w 24 0
  if n = 0 || 2 ^ 24 < n then c else { c with wdog := { c.wdog with reg := toWord n } }

/-- A write of one of the CSRs 0x5xx (R180, R215, R234, R285, R323, R355). -/
def State.writeTenantCsr (s : State) (word : IWord) (n : Nat) (w : Word) : Except Exn State :=
  match n with
  | 0x5C0 => .ok (s.mapCx fun c => { c with xtab := writeTable c.xtab w 57 64 })
  | 0x5C1 => .ok (s.mapCx fun c => { c with msg := { c.msg with hndtab := writeTable c.msg.hndtab w 55 256 } })
  | 0x5C3 => .ok (s.mapCx fun c => c.writeWdog w)
  | 0x5C4 => s.writeWsp word .K w
  | 0x5C5 => s.writeWsp word .T w
  | 0x5D0 => .ok (s.mapCx fun c => { c with xbase := w &&& span 47 12 })
  | 0x5D2 => .ok (s.mapCx fun c => { c with xprev := w })
  | 0x5D8 => .ok (s.mapCx fun c => { c with oplsel := w &&& (span 11 8 ||| span 4 0) })
  | 0x5D9 | 0x5DA | 0x5DB => .error (exnIllegal word)
  | 0x5DC => .ok (if w.getLsbD 5 then s.mapCx Ctx.dropEntry else s)
  | 0x5E0 => .ok (s.mapCx fun c => { c with cpsel := w &&& span 31 0 })
  | 0x5E1 | 0x5E2 | 0x5E3 => .error (exnIllegal word)
  | 0x5E4 => .ok (s.writeCpctl w)
  | 0x5E8 => .ok (s.mapCx fun c => c.writeMsgland w)
  | 0x5E9 => .ok (s.mapCx fun c => c.writeRring w)
  | 0x5EA => .ok (s.mapCx fun c => { c with msg := { c.msg with rrhead := putFld c.msg.rrhead 15 0 (fld w 15 0) } })
  | 0x5EC => .ok (s.mapCx fun c => { c with msg := { c.msg with msgcnt := w &&& span 47 0 } })
  | 0x5F8 => .ok (s.mapCx fun c => { c with tt := { c.tt with cmp := w } })
  | 0x5FA => .ok (s.writeKend w)
  | _ => .ok s

/-- A write of a root CSR or of one of the CSRs 0x6xx and 0x7xx (R109, R125, R133, R355, R376). -/
def State.writeOuterCsr (s : State) (word : IWord) (n : Nat) (w : Word) : Except Exn State :=
  let h := s.cx.key.h
  let q := s.cqueue h
  match n with
  | 0x180 => .ok { s with tatp := tabPut s.tatp s.cx.leaf (w &&& (span 63 63 ||| span 47 12)) }
  | 0x280 => .ok { s with datp := tabPut s.datp s.cx.leaf (w &&& (span 63 63 ||| span 47 17)) }
  | 0x380 => .ok { s with patp := tabPut s.patp s.cx.fl (w &&& (span 63 63 ||| span 51 17)) }
  | 0x6C5 => s.writeWsp word .D w
  | 0x6D0 => .ok (s.writeL2way w)
  | 0x6D8 => .ok (s.mapCx fun c => { c with td := { c.td with cmp := w } })
  | 0x7C5 => s.writeWsp word .P w
  | 0x7D0 => .ok (s.mapCx fun c => { c with tp := { c.tp with cmp := w } })
  | 0x7D8 => .ok (s.setCqueue { q with sel := w &&& span 7 0 })
  | 0x7DA => .ok (s.setCqueue { q with stage := q.stage.setIfInBounds (fld q.sel 7 4) w })
  | 0x7DB => .ok (s.writeCqctl h w)
  | _ => .ok s

/-- A write of one of the CSRs that every level reaches (R56, R57). -/
def State.writeUserCsr (s : State) (n : Nat) (w : Word) : State :=
  match n with
  | 0x8C0 => s.mapCx fun c => { c with vctl := w &&& span 4 0 }
  | 0x8C1 => s.mapCx fun c => { c with vflags := w &&& span 5 0 }
  | _ => s

/-- A write of a CSR that exists (R152): its map decides, and may raise. `word` is the instruction's. -/
def State.writeCsr (s : State) (word : IWord) (n : Nat) (w : Word) : Except Exn State :=
  match n / 0x100 with
  | 1 | 2 | 3 =>
    if n % 0x100 = 0x80 then s.writeOuterCsr word n w
    else .ok (s.writeTrapCsr (levelOf (n / 0x100)) (n % 0x100) w)
  | 5 => s.writeTenantCsr word n w
  | 6 | 7 => s.writeOuterCsr word n w
  | _ => .ok (s.writeUserCsr n w)

/-! ## The CSR instructions (R150, R151) -/

/-- The word of a CSR instruction. -/
def csrWord (c : BitVec 12) (a : BitVec 5) (f3 : BitVec 3) (d : BitVec 5) : IWord := c ++ a ++ f3 ++ d ++ (0x73 : BitVec 7)

/-- R151: the body of every member. A write that raises changes nothing; the result is written and the instruction commits
before the write takes effect (R152). -/
def csrAccess (s : State) (word : IWord) (c : BitVec 12) (d : BitVec 5) (wr : Bool) (new : Word → Word) : Try State := do
  let n := c.toNat
  match s.readCsr n with
  | none => raiseStop (exnIllegal word)
  | some old =>
    check (fld c 9 8 ≤ s.cx.level.rank && !(wr && fld c 11 10 = 3)) (exnIllegal word)
    let u := s.result d old
    if wr then tryExn (u.writeCsr word n (new old)) else return u

/-- CSRRW (R151). -/
def execCsrrw (c : BitVec 12) (a d : BitVec 5) (s : State) : Result :=
  s.finish (csrAccess s (csrWord c a 1 d) c d true fun _ => s.getX a)

/-- CSRRS (R151). -/
def execCsrrs (c : BitVec 12) (a d : BitVec 5) (s : State) : Result :=
  s.finish (csrAccess s (csrWord c a 2 d) c d (a ≠ 0) fun old => old ||| s.getX a)

/-- CSRRC (R151). -/
def execCsrrc (c : BitVec 12) (a d : BitVec 5) (s : State) : Result :=
  s.finish (csrAccess s (csrWord c a 3 d) c d (a ≠ 0) fun old => old &&& ~~~s.getX a)

/-- CSRRWI (R151). -/
def execCsrrwi (c : BitVec 12) (u d : BitVec 5) (s : State) : Result :=
  s.finish (csrAccess s (csrWord c u 5 d) c d true fun _ => u.setWidth 64)

/-- CSRRSI (R151). -/
def execCsrrsi (c : BitVec 12) (u d : BitVec 5) (s : State) : Result :=
  s.finish (csrAccess s (csrWord c u 6 d) c d (u ≠ 0) fun old => old ||| u.setWidth 64)

/-- CSRRCI (R151). -/
def execCsrrci (c : BitVec 12) (u d : BitVec 5) (s : State) : Result :=
  s.finish (csrAccess s (csrWord c u 7 d) c d (u ≠ 0) fun old => old &&& ~~~(u.setWidth 64))

/-! ## CSR writes as steps of their own -/

/-- The word at the running context's program counter, 0 where none can be fetched. -/
def State.wordAtPc (s : State) : IWord :=
  match s.resolve .fetch s.cx.pc 4 none with
  | .ok t => BitVec.ofNat 32 (s.load t.pa 4)
  | .error _ => 0

/-- WSP_CSR_WRITE: the checks and the effect of a CSR write of a workspace pointer (R134, R150). -/
def execWspCsrWrite (l : Level) (value : Word) (s : State) : Result :=
  s.finish do
    check ((wspOwner l).rank ≤ s.cx.level.rank) (exnIllegal s.wordAtPc)
    tryExn (s.writeWsp s.wordAtPc l value)

/-- OPLCTL_DROP: DROP is written to oplctl (R215). -/
def execOplctlDrop (s : State) : Result := .next (s.mapCx Ctx.dropEntry)

/-- L2WAY_WRITE: a value is written to l2way (R125). -/
def execL2wayWrite (value : Word) (s : State) : Result := .next (s.writeL2way value)

/-- No copy that was accepted before the change is still under way (R126). -/
def State.oldCopiesDone (s : State) (w : Ways) : Bool := w.old.all fun o => (s.copy? o.1 o.2).all (·.ended)

/-- Ways 16 − n to 15 of a slice become scratch: the lines they hold are written back and dropped (R125, R126). -/
def State.sliceShrink (s : State) (h n : Nat) : State :=
  (s.slices.filter fun l => l.home = h && decide (16 - n ≤ l.way)).foldl (fun s l => s.sliceEvict l.home l.line) s

/-- L2WAY_TRANSITION_COMPLETE: the changed ways are discarded or zero-filled on every slice of the leaf, and BUSY clears
(R126). -/
def execL2wayTransitionComplete (leaf : Nat) (s : State) : Result :=
  let w := s.leafWays leaf
  match w.target with
  | none => .next s
  | some n =>
    if !s.oldCopiesDone w then .next s
    else
      let p := s.part (.leaf leaf)
      let t := (List.range' p.base p.len).foldl (fun s h => s.sliceShrink h n) s
      let gone := fun (c : Host.Cell) => scratchPlace p.base p.len (min n w.scrw * 0x20000) (max n w.scrw * 0x20000) c.1
      .next { t with
        ways := upsert (fun x => x.leaf = leaf) ⟨leaf, n, none, []⟩ t.ways
        mem := t.mem.filter fun c => !gone c }

/-- REGISTER_WRITE: a write of a register that has no row of its own: below 4,096 a CSR of the running context, else a register
of platform MMIO or of a function window, as its requester reaches it (R65, R89, R152, R393, R429). -/
def execRegisterWrite (addr : Nat) (value : Word) (r : Requester) (s : State) : Result :=
  if addr < 4096 then
    (match s.readCsr addr with
    | none => .next s
    | some _ => if addr / 1024 = 3 then .next s else s.finish (tryExn (s.writeCsr s.wordAtPc addr value)))
  else .next (s.mmioWrite (s.windowRequester addr r) (!isMmio addr) (s.regAt addr) value)

end Sys2Proof.Machine
end

