-- ==== Sys2Proof/Machine/Fetch.lean ====
section
/-! DEFINITION. Fetching: the place of a word, the instruction cache, and which targets a hint takes (R28 to R30, R129 to
R132). -/

namespace Sys2Proof.Machine

/-- The member that fetches the block at an address (R195); a core alone fetches for itself. -/
def Ctx.fetchSite (c : Ctx) (va : Nat) : Nat := c.key.h + ((va / 64) ^^^ (va / 512)) % c.comp.n

/-- R130, R132: the place of the word at an address, or the fault of its fetch. The first fetch of a handler whose Lvec is 0 faults
whatever the tables map there (R371): an access fault, DEDUCED (106), since no rule names its cause. -/
def State.fetchPlace (s : State) (va : Word) : Except Exn Nat := do
  if va = 0 && s.cx.first.isSome then throw (exnAccess .fetch va)
  let t ← s.resolve .fetch va 4 none
  match t.kind with
  | .glob => return t.pa
  | .localWin | .siteWin | .device => throw (exnAccess .fetch va)

/-- A fetch block as the instruction cache of a site holds it (R129). -/
def State.blockOf (s : State) (h block : Nat) : Option FetchBlock := s.icache.find? fun b => b.h = h && b.block = block

/-- The instruction cache of a site takes the block of a place from its home; a full one drops the block it took first (R9, R129). -/
def State.fillBlock (s : State) (h pa : Nat) : State :=
  match s.blockOf h (physOf pa / 64) with
  | some _ => s
  | none =>
    let b : FetchBlock := ⟨h, physOf pa / 64, BitVec.ofNat 512 (s.load (pa / 64 * 64) 64)⟩
    { s with icache := addBounded (fun x => decide (x.h = h)) fetchBlocks b s.icache }

/-- The word at a place, through the instruction cache of a site, which holds its block afterwards (R22, R129). -/
def State.fetchWord (s : State) (h pa : Nat) : IWord :=
  match (s.fillBlock h pa).blockOf h (physOf pa / 64) with
  | some b => BitVec.ofNat 32 (b.bytes.toNat >>> (8 * (pa % 64)))
  | none => 0

/-- Major opcode of a word (R22). -/
def opcodeOf (w : IWord) : Nat := fld w 6 0

/-- f3 of a word (R23). -/
def funct3Of (w : IWord) : Nat := fld w 14 12

/-- Major opcodes of LOAD, STORE, AMO, VLD, VST and SMEM (R26). -/
def memoryOpcodes : List Nat := [0x03, 0x23, 0x2F, 0x07, 0x27, 0x4F]

/-- R29: the word is a taker of the hint. -/
def takes (h : Hint) (w : IWord) : Bool :=
  let op := opcodeOf w
  let f3 := funct3Of w
  let order := fld h.payload 1 0
  match h.kind with
  | 1 => op = 0x03 || op = 0x23 || op = 0x67 || (op = 0x13 && [0, 2, 3, 4, 6, 7].contains f3) || (op = 0x1B && f3 = 0)
  | 2 => op = 0x2F || (op = 0x03 && order ≤ 1) || (op = 0x23 && order % 2 = 0)
  | 3 => op = 0x03 || op = 0x23
  | 4 => [0x03, 0x23, 0x33, 0x13, 0x3B, 0x1B, 0x37, 0x17, 0x07, 0x27, 0x4F, 0x47, 0x4B, 0x2B, 0x0B].contains op
  | 5 => op = 0x63
  | 6 => op ≠ 0x1F && op ≠ 0x73
  | 7 => [0x03, 0x23, 0x07, 0x27, 0x4F].contains op
  | 8 => memoryOpcodes.contains op
  | _ => true

/-- The word of a pending hint (R28). -/
def Hint.word (h : Hint) : IWord := h.payload ++ BitVec.ofNat 5 h.kind ++ (0x1F : BitVec 7)

/-- R29: bit 0 of the named predicate is 0 and the target is no vector or tile access: the target is a no-op. -/
def Ctx.suppressed (c : Ctx) (w : IWord) : Bool :=
  match c.predHint with
  | none => false
  | some p => opcodeOf w ≠ 0x07 && opcodeOf w ≠ 0x27 && !(c.getP p).getLsbD 0

end Sys2Proof.Machine
end

