-- ==== Sys2Proof/Machine/Hints.lean ====
section
/-! DEFINITION. Hints (R28 to R30): a hint stands until the word after it, which commits with it. -/

namespace Sys2Proof.Machine

/-- A hint of kinds 1 to 8 forms a pair with the next word: it stands pending, and the next word is fetched with no boundary
between the two (R28, R30). It commits, and is counted, with that word. -/
def State.hint (s : State) (kind : Nat) (payload : BitVec 20) : State :=
  { s with cx := { s.cx with hint := some ⟨kind, payload, s.cx.pc⟩, pc := s.cx.pc + 4 } }

/-- HNOP: no pair and no effect (R28, R29). -/
def execHnop (_p : BitVec 20) (s : State) : Result := .next s.advance

/-- HWIDE (R29). -/
def execHwide (p : BitVec 20) (s : State) : Result := .next (s.hint 1 p)

/-- HSCOPE: strong, scope and order (R29). -/
def execHscope (t : BitVec 1) (c : BitVec 2) (o : BitVec 2) (s : State) : Result :=
  .next (s.hint 2 ((t ++ c ++ o).setWidth 20))

/-- HWAIT (R25, R29). -/
def execHwait (w : BitVec 2) (s : State) : Result := .next (s.hint 3 (w.setWidth 20))

/-- HPRED (R29). -/
def execHpred (p : BitVec 3) (s : State) : Result := .next (s.hint 4 (p.setWidth 20))

/-- HBRH: prediction only (R29). -/
def execHbrh (p : BitVec 20) (s : State) : Result := .next (s.hint 5 p)

/-- HPRIO: issue priority only (R29). -/
def execHprio (p : BitVec 2) (s : State) : Result := .next (s.hint 6 (p.setWidth 20))

/-- HSTREAM: cache allocation only (R29). -/
def execHstream (p : BitVec 2) (s : State) : Result := .next (s.hint 7 (p.setWidth 20))

/-- HTILECO: row and column (R29). -/
def execHtileco (rl : BitVec 10) (c : BitVec 10) (s : State) : Result := .next (s.hint 8 (rl ++ c))

end Sys2Proof.Machine
end

