-- ==== Sys2Proof/Machine/System.lean ====
section
/-! DEFINITION. System instructions: environment calls, returns, waits, workspaces, invalidations, and the steps that complete
translations (R27, R115 to R120, R127, R132, R149, R363 to R367). -/

namespace Sys2Proof.Machine

/-- A word of SYSTEM with f3 000. -/
def systemWord (f7 : BitVec 7) (b a d : BitVec 5) : IWord := f7 ++ b ++ a ++ (0 : BitVec 3) ++ d ++ (0x73 : BitVec 7)

/-! ## Calls and returns (R149, R364) -/

/-- ECALL: cause 8 to 11 by the running level; at K to T, at T to D, at D and P to P (R149, R358). -/
def execEcall (s : State) : Result :=
  let r := s.cx.level.rank
  .next (s.raise ⟨8 + r, 0, 0, levelOf (r + 1)⟩)

/-- EBREAK: cause 3 with its address (R149). -/
def execEbreak (s : State) : Result := .next (s.raise (exn 3 s.cx.pc))

/-- R364: a return, legal at its own level alone. -/
def returnFrom (s : State) (l : Level) (word : IWord) : Try State := do
  check (s.cx.level = l) (exnIllegal word)
  return s.trapReturn l

/-- TRET (R364). -/
def execTret (s : State) : Result := s.finish (returnFrom s .T (systemWord 8 2 0 0))

/-- DRET (R364). -/
def execDret (s : State) : Result := s.finish (returnFrom s .D (systemWord 16 2 0 0))

/-- PRET (R364). -/
def execPret (s : State) : Result := s.finish (returnFrom s .P (systemWord 24 2 0 0))

/-! ## WFI (R365) -/

/-- An interrupt is pending with its Lie bit set, at the running level or above, whatever IE is. -/
def Ctx.wakes (c : Ctx) (now : Word) : Bool :=
  [Level.T, .D, .P].any fun l =>
    decide (c.level.rank ≤ l.rank) && (c.pendingAt now c.level l).any fun p => hasBit (c.tr l).ie p.code

/-- WFI: at K cause 2; it commits once an interrupt is pending, or a save request or a debug halt has come (R365). -/
def execWfi (s : State) : Result :=
  s.finish do
    check (s.cx.level ≠ .K) (exnIllegal (systemWord 8 5 0 0))
    return if s.cx.wakes s.now || s.cx.saveReq.isSome || s.cx.halt.isSome then s.advance else s.mapCx fun c => { c with waiting := true }

/-! ## Workspaces (R366, R367) -/

/-- WSP.SW: the workspace of the running level changes; a composition is dissolved first (R202, R366). -/
def execWspSw (a d : BitVec 5) (s : State) : Result :=
  s.finish do
    let l := s.cx.level
    let t := s.dissolve 2
    check (!(l = .K && a = 0)) (exnIllegal (systemWord 12 0 a d))
    let new := fld (if a = 0 then (s.cx.tr l).scratch else s.getX a) 19 9
    check (s.cx.wspFits l new) (exnBoundary (toWord (new * 512)) 7 (wspOwner l))
    let u := t.writeBack
    let old := u.cx.wspOf l
    let v := u.mapCx fun c =>
      let e := c.setWsp l (toWord (new * 512))
      if a = 0 then e.setTr l { e.tr l with scratch := old } else e
    return v.loadX.result d old

/-- BIND.WB: dirty registers go to the workspace in force (R367). -/
def execBindWb (s : State) : Result := .next s.writeBack.advance

/-! ## Invalidations (R117 to R120, R127) -/

/-- The stages that a TLB.INV names at a level; stage 0 stands for every stage of the level (R118). -/
def invStages (l : Level) (st : BitVec 2) : List Nat := if st = 0 then List.range' 1 l.rank else [st.toNat]

/-- The word of a TLB.INV. -/
def invWord (b a : BitVec 5) (rl st : BitVec 2) : IWord := systemWord 9 b a ((0 : BitVec 1) ++ rl ++ st)

/-- The target that a selector names: leaf and first-level span, or cause 35 (R117, R118, R357). -/
def State.invTarget (s : State) (sel : Word) : Except Exn (Nat × Nat) :=
  let c := s.cx
  if c.level = .T then .ok (c.leaf, c.fl)
  else
    let leaf := if sel.getLsbD 63 then c.leaf else fld sel 5 0
    let fl := if sel.getLsbD 63 then c.fl else fld sel 11 8
    if fld sel 7 6 ≠ 0 || fld sel 62 12 ≠ 0 then .error (exnBoundary sel 2 .P)
    else if c.level = .D && (s.part (.leaf leaf)).parent ≠ c.fl then .error (exnBoundary sel 2 .P)
    else .ok (leaf, fl)

/-- TLB.INV: the removal is issued once earlier stores are performed and its packet finds a token on CTL, and does not wait (R118, R312). -/
def execTlbInv (b a : BitVec 5) (rl st : BitVec 2) (s : State) : Result :=
  s.finish do
    let l := s.cx.level
    let stages := invStages l st
    check (l ≠ .K && rl.toNat ≤ 1 && stages.all (· ≤ l.rank) && (stages.length ≤ 1 || rl ≠ 0)) (exnIllegal (invWord b a rl st))
    let (leaf, fl) ← tryExn (s.invTarget (s.getX b))
    waitUntil (s.cx.drained && s.ctlOpen s.cx.key.h)
    let page := if rl = 0 then some (fld (s.getX a) 47 0) else none
    return (({ s with invs := s.invs ++ [⟨s.cx.key, stages, leaf, fl, page⟩] } : State).ctl s.cx.key.h s.cx.leaf).advance

/-- TLB.SYNC: at K cause 2; it waits for the invalidations that the context issued (R119, R120). -/
def execTlbSync (s : State) : Result :=
  s.finish do
    check (s.cx.level ≠ .K) (exnIllegal (systemWord 11 0 0 0))
    waitUntil (s.invs.all fun i => i.key ≠ s.cx.key)
    return s.advance

/-- The page of `size` bytes at `base` is named: every page is when no page is given. -/
def TlbInv.names (i : TlbInv) (base size : Nat) : Bool := i.page.all fun a => a / size = base / size

/-- The invalidation removes a stage-2 or stage-3 entry (R118). -/
def TlbInv.removes (i : TlbInv) (u : UsedEntry) : Bool :=
  i.stages.contains u.stage && u.span = (if u.stage = 3 then i.fl else i.leaf) && i.names u.input u.out.size

/-- The invalidation removes a whole translation: it was built from an entry that is named, on its own path or on that of a table read
(R113, R118). -/
def TlbInv.hits (i : TlbInv) (e : TlbEntry) : Bool :=
  (i.stages.contains 1 && e.leaf = i.leaf && e.x.o1.entry && i.names e.va e.x.o1.size) || e.x.used.any i.removes

/-- A walk in flight read an entry that is removed, and restarts (R118); one that stage 1 ended may have read any of its leaf's. -/
def TlbInv.restarts (i : TlbInv) (w : Walk) : Bool :=
  w.res.used.any i.removes ||
    (i.stages.contains 1 && w.leaf = i.leaf && cacheLevel w.level = .T &&
      match w.res.outs with
      | o1 :: _ => o1.entry && i.names (w.page * 0x1000) o1.size
      | [] => true)

/-- A context's accesses pass through a stage and a span that the invalidation names. -/
def TlbInv.concerns (i : TlbInv) (c : Ctx) : Bool := c.leaf = i.leaf || (i.stages.contains 3 && c.fl = i.fl)

/-- R119: every posted access to global memory that may have been translated with a removed entry has been performed. -/
def State.invPerformed (s : State) (i : TlbInv) : Bool :=
  s.ctxs.all fun c => !i.concerns c || c.log.all fun e => e.st ≠ .sent || regionOf e.addr ≠ .global || e.kind = .trig

/-- The cached translation names a place of the line. -/
def TlbEntry.maps (e : TlbEntry) (line : Nat) : Bool := decide (e.x.pa / 128 ≤ line) && decide (line < (e.x.pa + e.x.size + 127) / 128)

/-- The invalidation removes a translation of a line: the one by which a context reached it, or any other that a TLB holds (R127, R336). -/
def State.unmaps (s : State) (i : TlbInv) (via : Option TlbEntry) (line : Nat) : Bool :=
  via.any i.hits || s.tlb.any fun e => i.hits e && e.maps line

/-- Lines pinned in their home slices of which an invalidation removes a translation, with their homes (R127). -/
def State.unpinned (s : State) (i : TlbInv) : List (Nat × Nat) :=
  s.ctxs.flatMap fun c => (c.pins.filter fun p => s.unmaps i p.via p.line).map fun p => (p.site, p.line)

/-- The lowest address of a list of pins. -/
def lowestPin (l : List PinEntry) : Option Word :=
  (l.map (·.va)).foldl (fun (acc : Option Word) v => some (acc.elim v fun w => if w ≤ v then w else v)) none

/-- A context loses its pins on the lines: interrupt 18, once, with the lowest address it named (R127). -/
def Ctx.revokePins (c : Ctx) (lines : List (Nat × Nat)) : Ctx :=
  match lowestPin (c.pins.filter fun p => lines.contains (p.site, p.line)) with
  | none => c
  | some v => ({ c with pins := c.pins.filter fun p => !lines.contains (p.site, p.line) } : Ctx).irq 18 .T v

/-- A watch whose line's translation is removed is lost (R336). -/
def State.losesWatch (s : State) (i : TlbInv) (c : Ctx) : Ctx :=
  { c with watch := c.watch.map fun (w : Watch) => if w.trig.isNone && s.unmaps i w.via w.line then { w with trig := some 2 } else w }

/-- TLB_INV_COMPLETE: the oldest invalidation of a context is complete: no TLB, extent cache or walk holds a removed entry, and the
lines that it unpins are written back (R118, R119, R127). -/
def execTlbInvComplete (k : Key) (s : State) : Result :=
  match s.invs.find? fun i => i.key = k with
  | none => .next s
  | some i =>
    if !s.invPerformed i then .next s
    else
      let lines := s.unpinned i
      let t := (lines.foldl (fun s p => s.sliceClean p.1 p.2) s).mapAll fun c => s.losesWatch i (c.revokePins lines)
      .next { t with
        tlb := t.tlb.filter fun e => !i.hits e
        ext := t.ext.filter fun e => !i.removes e.entry
        walks := t.walks.filter fun w => !i.restarts w
        invs := t.invs.erase i }

/-- Entries that a TLB holds (R115). -/
def TlbPlace.room : TlbPlace → Nat
  | .core _ => 64
  | .die _ => 16384

/-- A TLB takes an entry, the one it took first leaving where it is full (R115). -/
def addTlb (l : List TlbEntry) (e : TlbEntry) : List TlbEntry :=
  addBounded (fun x => decide (x.at_ = e.at_)) e.at_.room e (l.filter fun x => x ≠ e)

/-- The extent cache of a die takes the entries that a walk has used (R115). -/
def State.addExt (s : State) (die : Nat) (used : List UsedEntry) : State :=
  let es := used.eraseDups.map fun u => (⟨die, u⟩ : ExtEntry)
  { s with ext := s.ext.filter (!es.contains ·) ++ es }

/-- What a client's die holds once a walk for an address has ended (R115): the entries it used, and the whole translation if it has one. -/
def State.fillDie (s : State) (cl : Client) (va : Nat) (f : Found) : State :=
  let t := s.addExt cl.die f.used
  match f.xlat? with
  | none => t
  | some x => { t with tlb := addTlb t.tlb (x.entry (.die cl.die) cl va) }

/-- A walker of the client's die starts on the page of an address, unless one is at it: there are 64 (R115). -/
def State.startWalk (s : State) (cl : Client) (va : Nat) : State :=
  if (s.walks.any fun w => w.serves cl va) || decide (64 ≤ (s.walks.filter fun w => w.die = cl.die).length) then s
  else { s with walks := s.walks ++ [⟨cl.die, cl.leaf, cl.fl, cl.lvl, va / 0x1000, s.walk cl (va / 0x1000 * 0x1000)⟩] }

/-- PAGE_WALK_COMPLETE: a walk for an access of a context's running level ends, the one in flight for its page if there is one. The
extent cache takes the entries it used, and one that finds a whole translation fills the TLBs of core and die; a failure, and a
permission that is missing, is the access's own (R113, R115). -/
def execPageWalkComplete (k : Key) (_acc : Access) (va : Word) (s : State) : Result :=
  match s.ctx? k with
  | none => .next s
  | some c =>
    if regionOf va ≠ .global then .next s
    else
      let f := s.missFound c.client va.toNat
      let t := ({ s with walks := s.walks.filter fun w => !w.serves c.client va.toNat } : State).fillDie c.client va.toNat f
      .next (match f.xlat? with
        | none => t
        | some x => { t with tlb := addTlb t.tlb (x.entry (.core k.h) c.client va.toNat) })

/-! ## The words and fetches that fail (R27, R30, R132) -/

/-- ILLEGAL_INSTRUCTION: the word that the running context has fetched is illegal: cause 2 with it (R27, R30). -/
def execIllegalInstruction (word : BitVec 32) (s : State) : Result := .next (s.raise (exnIllegal word))

/-- FETCH_FAULT: the fetch of the running context's next word has failed (R30, R132). -/
def execFetchFault (f : FetchFault) (s : State) : Result := .next (s.raise ⟨f.cause, f.va, f.val2, f.floor⟩)

end Sys2Proof.Machine
end

