-- ==== Sys2Proof/Machine/Inspect.lean ====
section
/-! DEFINITION. State inspection: the objects of R369, what a level sees of them, INSPECT and the inspection window (R368, R369,
R393, R407). -/

namespace Sys2Proof.Machine

/-- An object as a level reads it: its words after the header, whether some were hidden, and the site it lies on. -/
structure Inspected where
  words : List Word
  hidden : Bool
  site : Option Nat
  deriving DecidableEq, Repr

/-- An object whose every field is seen. -/
def plainObject (site : Option Nat) (words : List Word) : Inspected := ⟨words, false, site⟩

/-- An entry of a shared unit that leaf `j` caused is seen by a requester (R368); an empty one by everyone. -/
def State.seesLeaf (s : State) (r : Requester) (j : Option Nat) : Bool := r.isP || j.any (s.ownsLeaf r)

/-- Entries of a shared unit, each with whether it is seen: the others read 0, and F is set (R368). -/
def sharedObject (site : Nat) (entries : List (Bool × List Word)) (rest : List Word) : Inspected :=
  ⟨(entries.map fun e => if e.1 then e.2 else e.2.map fun _ => 0).flatten ++ rest, entries.any fun e => !e.1, some site⟩

/-- A fixed number of entries of one shape, the empty ones last. -/
def fillEntries (n words : Nat) (l : List (Bool × List Word)) : List (Bool × List Word) :=
  l.take n ++ List.replicate (n - l.length) (true, List.replicate words 0)

/-- The leaf of the context at a key. -/
def State.leafOfKey (s : State) (k : Key) : Option Nat := (s.owner? k).map Ctx.leaf

/-- A site lies in a requester's span. -/
def State.siteReached (s : State) (r : Requester) (h : Nat) : Bool :=
  decide ((s.spanFor r).1 ≤ h) && decide (h < (s.spanFor r).1 + (s.spanFor r).2)

/-- The resident context of a slot, if the requester reaches it. -/
def State.seenCtx (s : State) (r : Requester) (h slot : Nat) : Option Ctx := (s.ctx? ⟨h, slot⟩).filter fun c => c.inReach r

/-! ## Objects (R369) -/

/-- A partition block is in reach. -/
def State.blockReached (s : State) (r : Requester) (b : Block) : Bool :=
  match r.acts, b with
  | .P, _ => true
  | .D, .first i => i = r.fl
  | .D, .leaf j => s.ownsLeaf r j
  | _, .leaf j => j = r.leaf
  | _, .first _ => false

/-- Class 1. -/
def State.partObject (s : State) (r : Requester) (loc : Nat) : Option Inspected :=
  let b := if loc < 64 then Block.leaf loc else .first (loc - 64)
  if loc < 80 && s.blockReached r b then
    some (plainObject none [s.partReg b 0x00, s.partReg b 0x08, s.partReg b 0x10, s.pstat b])
  else none

/-- Class 2. -/
def State.queueObject (s : State) (r : Requester) (q : Nat) : Option Inspected :=
  if s.reachesQueue r q then some (plainObject none ((List.range 8).map fun i => s.queueReg q (8 * i))) else none

/-- Class 3: entries, the age of the oldest in decisions, and its record. -/
def State.poolObject (s : State) (r : Requester) (leaf prio : Nat) : Option Inspected :=
  if 64 ≤ leaf || 4 ≤ prio || !s.ownsLeaf r leaf then none
  else
    let l := s.ready.filter fun e => e.leaf = leaf && e.prio = prio
    let first : List Word := match oldest l with
      | none => [0, 0]
      | some e => [toWord (s.decision leaf - e.age), toWord (if e.packet.isSome then 0 else e.node % 2 ^ 48)]
    some (plainObject none (toWord l.length :: first))

/-- A live node's record as the walker holds it (R314, R317). -/
def Node.record (n : Node) : List Word :=
  let kind := match n.kind with
    | .copy => 1 | .prod => 2 | .range => 3 | .kernel => 4 | .signal => 5 | .barrier => 6 | .event => 7
  let order := (if n.acq then 1 else 0) + (if n.rel then 2 else 0) + n.scope * 4
  let tile := match n.tile with | none => 0 | some t => 32768 + t
  [toWord (kind + n.prio * 16 + order * 2 ^ 8 + nodeCode n.st * 2 ^ 16 + (if n.stop then 2 ^ 26 else 0) + n.pred * 2 ^ 48),
   toWord (n.nsucc + n.scap * 2 ^ 16 + tile * 2 ^ 32), toWord n.succ, n.obj, n.arg, toWord n.lo, toWord n.hi, toWord n.grain]

/-- Class 4. -/
def State.nodeObject (s : State) (r : Requester) (leaf i : Nat) : Option Inspected :=
  if 64 ≤ leaf || !s.ownsLeaf r leaf then none
  else ((s.nodes.filter fun n => n.leaf = leaf)[i]?).map fun n =>
    plainObject none (n.record ++ [toWord n.pend, toWord n.depth])

/-- Class 5: the two side queues of both halves, W or S side first, and the result of LX.CFG (R264, R266). -/
def State.engineObject (s : State) (r : Requester) (h item : Nat) : Option Inspected :=
  let l : Link := ⟨h, if item = 0 then .E else .N⟩
  if 2 ≤ item || !linkOnDie l || !s.siteReached r h then none
  else
    let entries := [(false, 0), (false, 1), (true, 0), (true, 1)].flatMap fun (p : Bool × Nat) =>
      fillEntries 8 1 ((s.sideQueue l p.1 p.2).map fun x => (s.seesLeaf r (s.leafOfKey x.owner), [linkStatus (some x) 0]))
    some (sharedObject h entries [cfgWord (s.engine l) 0])

/-- Class 6: sixteen pairs of a handle and a status word. -/
def State.copyObject (s : State) (r : Requester) (h item : Nat) : Option Inspected :=
  if item ≠ 0 || !s.siteReached r h then none
  else
    let l := (s.engineQueue h).map fun x =>
      (s.seesLeaf r (s.leafOfKey x.agent), [toWord x.handle, copyStatus (some x) 0])
    some (sharedObject h (fillEntries 16 2 l) [])

/-- Class 7. -/
def State.mailObject (s : State) (r : Requester) (h slot : Nat) : Option Inspected :=
  (s.seenCtx r h slot).map fun c => plainObject (some h) (c.mbcfg :: c.mailbox.map fun e => toWord (fld e.img 63 0))

/-- Class 8. -/
def State.chanObject (s : State) (r : Requester) (h item : Nat) : Option Inspected :=
  (s.seenCtx r h (item / 8)).map fun c => plainObject (some h) [(c.chan? (item % 8)).elim 0 Chan.stat]

/-- The words of a TLB entry (R110, R369). -/
def TlbEntry.words (e : TlbEntry) : List Word :=
  let bit := fun (b : Bool) (i : Nat) => if b then 2 ^ i else 0
  let p := e.x.perms
  [toWord (e.va / 4096 * 4096), toWord (e.x.pa / 4096 * 4096),
   toWord (1 + bit p.r 1 + bit p.w 2 + bit p.x 3 + bit p.k 4 + bit (p.size = 0x10000) 8 + bit p.tensor.isSome 9 + p.mt * 2 ^ 10 +
     e.leaf * 2 ^ 56)]

/-- Class 9. -/
def State.tlbObject (s : State) (r : Requester) (h item : Nat) : Option Inspected :=
  if 64 ≤ item || !s.siteReached r h then none
  else ((s.tlb.filter fun e => e.at_ = .core h)[item]?).map fun e => sharedObject h [(s.seesLeaf r (some e.leaf), e.words)] []

/-- Class 10. -/
def State.wayObject (s : State) (r : Requester) (leaf : Nat) : Option Inspected :=
  if 64 ≤ leaf || !s.ownsLeaf r leaf then none else some (plainObject none [s.l2way leaf])

/-- Counter `i` of a context counts an event of a shared unit (R380). -/
def Ctx.countsShared (c : Ctx) (i : Fin 16) : Bool := decide (5 ≤ fld (c.pmsel.get i) 7 0) && decide (fld (c.pmsel.get i) 7 0 ≤ 10)

/-- Class 11: the counters as the context reads them (R379); T never sees those of shared units (R368). -/
def State.counterObject (s : State) (r : Requester) (h slot : Nat) : Option Inspected :=
  (s.seenCtx r h slot).map fun c =>
    let shown := s.holds c.requester rightCounters
    let hidden := fun i => decide (r.acts = .T) && c.countsShared i
    ⟨(List.finRange 16).map fun i => if shown && !hidden i then (c.pmc.get i).setWidth 64 else 0, (List.finRange 16).any hidden, some h⟩

/-- The state code of a context. -/
def Ctx.stateCode (c : Ctx) : Nat :=
  match c.status with
  | .free => 0
  | .running | .saving | .failed => if 2 ≤ c.comp.n then 3 else 1
  | .parked | .retiring => 2
  | .saved | .restoring => 4

/-- Class 12: a slot with its context, resident or saved from it. -/
def State.ctxObject (s : State) (r : Requester) (h slot : Nat) : Option Inspected :=
  if 8 ≤ slot then none
  else
    match (s.ctx? ⟨h, slot⟩).or (s.savedAt h slot) with
    | some c =>
      if c.inReach r then some (plainObject (some h) [c.ident.ctxid, c.ident.kspan, c.ident.pword, toWord c.stateCode]) else none
    | none => if s.siteReached r h then some (plainObject (some h) [0, 0, 0, 0]) else none

/-- The object that class, loc and item name, if it exists and the requester reaches it (R368, R369). -/
def State.object (s : State) (r : Requester) (cls loc item : Nat) : Option Inspected :=
  match cls with
  | 1 => if item = 0 then s.partObject r loc else none
  | 2 => if loc = 0 then s.queueObject r item else none
  | 3 => s.poolObject r loc item
  | 4 => s.nodeObject r loc item
  | 5 => s.engineObject r loc item
  | 6 => s.copyObject r loc item
  | 7 => s.mailObject r loc item
  | 8 => if item < 64 then s.chanObject r loc item else none
  | 9 => s.tlbObject r loc item
  | 10 => if item = 0 then s.wayObject r loc else none
  | 11 => s.counterObject r loc item
  | 12 => s.ctxObject r loc item
  | _ => none

/-! ## The words of an object (R368) -/

/-- The header of an object. -/
def Inspected.header (o : Inspected) : Word := toWord (2 ^ 63 + (if o.hidden then 2 ^ 62 else 0) + o.words.length)

/-- A site in S2 or S3 is not woken. -/
def State.dark (s : State) (h : Nat) : Bool := tabGet s.power h .S0 = .S2 || tabGet s.power h .S0 = .S3

/-- R368: word `w` of the object that a selector names, as a requester reads it. -/
def State.inspectWord (s : State) (r : Requester) (sel w : Word) : Word :=
  match s.object r (fld sel 63 56) (fld sel 55 46) (fld sel 45 0) with
  | none => 0
  | some o =>
    if o.site.any s.dark then (if w = 0 then toWord (2 ^ 61) else 0)
    else if w = 0 then o.header
    else o.words.getD (w.toNat - 1) 0

/-- INSPECT: at K cause 2; otherwise one word of device state, and nothing else changes (R368). -/
def execInspect (b a d : BitVec 5) (s : State) : Result :=
  s.finish do
    check (s.cx.level ≠ .K) (exnIllegal (systemWord 14 b a d))
    return s.result d (s.inspectWord s.cx.requester (s.getX a) (s.getX b))

/-- What a read of the value of a function's inspection window returns (R393, R407). -/
def State.windowWord (s : State) (f : Nat) : Word :=
  s.inspectWord (s.fnRequester f) (s.reg (windowAddr f 0x70000)) (s.reg (windowAddr f 0x70008))

/-- INSPECTION_WINDOW_READ: the host reads `State.windowWord`, and nothing changes (R368, R393). -/
def execInspectionWindowRead (_f : Nat) (s : State) : Result := .next s

end Sys2Proof.Machine
end

