-- ==== Sys2Proof/Machine/Posted.lean ====
section
/-! DEFINITION. The life of a posted access after it leaves the core: performed at its place in home order, acknowledged, or
failed late (R14, R206, R211, R213, R214, R375, R399). -/

namespace Sys2Proof.Machine

/-- The entry of a context's log at an index. -/
def State.entry? (s : State) (k : Key) (idx : Nat) : Option (Ctx × OpEntry) :=
  (s.ctx? k).bind fun c => (c.log.find? fun e => e.idx = idx).map fun e => (c, e)

/-- A posted RED at the fabric switch: its slot holds it, refuses it, or keeps it waiting (R399). -/
def State.performAtSwitch (s : State) (k : Key) (e : OpEntry) : State :=
  match s.contribute (contributionOf e e.pa) with
  | .waits => s
  | .refused => s.answerEntry k e (.refused .rejected)
  | .held t => t.answerEntry k e .performed

/-- HOME_ACCESS: a posted access arrives at its place of performance and is performed there in home order, or is refused there
(R206, R214); a target that answers RETRY leaves it sent (R375). -/
def execHomeAccess (k : Key) (idx : Nat) (s : State) : Result :=
  match s.entry? k idx with
  | none => .next s
  | some (c, e) =>
    if !s.mayPerform c e then .next s
    else if e.toSwitch then .next (s.performAtSwitch k e)
    else .next (s.perform k e)

/-- An entry's answer comes next on its pair of RPY (R14). -/
def State.entryAnswered (s : State) (e : OpEntry) : Bool := !s.replyAhead e.site e.src e.done

/-- STORE_ACK: the acknowledgement of a performed access arrives, in the order of its pair: its count falls and its entry frees
(R14, R211, R213). -/
def execStoreAck (k : Key) (idx : Nat) (s : State) : Result :=
  .next (s.mapCtx k fun c => { c with log := c.log.filter fun e => !(e.idx = idx && e.st = .performed && s.entryAnswered e) })

/-- What may make a sent access fail before its place has answered it (R214, R397): an uncorrectable error, which can be found at
any place, and a peer that does not admit it or whose bank or slice is retired. -/
def OpEntry.mayFail (e : OpEntry) (why : LateReason) : Bool :=
  match why with
  | .poison => e.kind ≠ .trig
  | .retired | .rejected => isPeer e.pa && !e.toSwitch

/-- The error answer of an access arrives now: its place has refused it, and nothing older is ahead on its pair of RPY (R14, R214);
or it fails on its way. A store of which part is written has been taken, and fails no more. -/
def State.failsNow (s : State) (c : Ctx) (e : OpEntry) (why : LateReason) : Bool :=
  match e.st with
  | .refused r => r = why && s.entryAnswered e
  | .sent => !e.begun && s.mayPerform c e && (e.mayFail why ||
      (match s.placeEntry c e with | .rejected => why = .rejected | .at pa => s.entryRefused e pa = some why | .retry => false))
  | .performed | .failed _ => false

/-- LATE_FAILURE: a posted access is acknowledged with an error: it is not performed, its count falls, its entry stays FAILED and
cause 31 becomes due (R214). -/
def execLateFailure (k : Key) (idx : Nat) (why : LateReason) (s : State) : Result :=
  match s.entry? k idx with
  | none => .next s
  | some (c, e) => .next (if s.failsNow c e why then s.mapCtx k fun c => c.failLate e why else s)

end Sys2Proof.Machine
end

