-- ==== Sys2Proof/Machine/Scalar.lean ====
section
/-! DEFINITION. The scalar stream: integer instructions, branches and jumps (R132, R135 to R139). -/

namespace Sys2Proof.Machine

/-! ## Operations the standard base names (R135) -/

/-- The low word. -/
def low32 (x : Word) : BitVec 32 := x.setWidth 32

/-- A word result, sign-extended. -/
def sext32 (x : BitVec 32) : Word := x.signExtend 64

/-- 1 or 0. -/
def boolWord (b : Bool) : Word := if b then 1 else 0

/-- Bits 127 to 64 of a product. -/
def highWord (p : Int) : Word := BitVec.ofInt 64 (p / 2 ^ 64)

/-- Signed division: by zero −1; the one overflow gives the dividend (R139). -/
def divS {n : Nat} (a b : BitVec n) : BitVec n := if b = 0 then BitVec.allOnes n else BitVec.ofInt n (a.toInt.tdiv b.toInt)

/-- Unsigned division: by zero all ones (R139). -/
def divU {n : Nat} (a b : BitVec n) : BitVec n := if b = 0 then BitVec.allOnes n else BitVec.ofNat n (a.toNat / b.toNat)

/-- Signed remainder: by zero the dividend; the one overflow gives 0 (R139). -/
def remS {n : Nat} (a b : BitVec n) : BitVec n := if b = 0 then a else BitVec.ofInt n (a.toInt.tmod b.toInt)

/-- Unsigned remainder: by zero the dividend (R139). -/
def remU {n : Nat} (a b : BitVec n) : BitVec n := if b = 0 then a else BitVec.ofNat n (a.toNat % b.toNat)

/-- Ones among the low `n` bits. -/
def onesIn (n v : Nat) : Nat := ((List.range n).filter fun i => v.testBit i).length

/-- Zeros above the highest one of `n` bits; `n` when there is none. -/
def leadingZeros (n v : Nat) : Nat := if v = 0 then n else n - 1 - v.log2

/-- Zeros below the lowest one of `n` bits; `n` when there is none. -/
def trailingZeros (n v : Nat) : Nat := ((List.range n).find? fun i => v.testBit i).getD n

/-- The eight bytes in the other order. -/
def reverseBytes (x : Word) : Word :=
  x.extractLsb' 0 8 ++ x.extractLsb' 8 8 ++ x.extractLsb' 16 8 ++ x.extractLsb' 24 8 ++ x.extractLsb' 32 8 ++
    x.extractLsb' 40 8 ++ x.extractLsb' 48 8 ++ x.extractLsb' 56 8

/-! ## Control transfer (R132) -/

/-- A target whose bit 1 is set is misaligned: the transfer raises cause 0 and does not retire (R132). -/
def aligned (t : Word) : Try Unit := check (!t.getLsbD 1) (exn 0 t)

/-- A jump: the link register takes the next address. -/
def transfer (s : State) (d : BitVec 5) (t : Word) : Try State := do
  aligned t
  return (s.setX d (s.cx.pc + 4)).jump t

/-- A branch: only a taken one meets a misaligned target. -/
def branch (s : State) (taken : Bool) (off : BitVec 12) : Try State :=
  if taken then do
    let t := s.cx.pc + offset off
    aligned t
    return s.jump t
  else .ok s.advance

/-! ## The instructions -/

/-- ADD: x[a] + x[b] (R135, R137). -/
def execAdd (b : BitVec 5) (a : BitVec 5) (d : BitVec 5) (s : State) : Result :=
  .next (s.result d (s.getX a + s.getX b))

/-- SLL: x[a] shifted left (R135, R137). -/
def execSll (b : BitVec 5) (a : BitVec 5) (d : BitVec 5) (s : State) : Result :=
  .next (s.result d (s.getX a <<< (fld (s.getX b) 5 0)))

/-- SLT: signed x[a] < x[b] (R135, R137). -/
def execSlt (b : BitVec 5) (a : BitVec 5) (d : BitVec 5) (s : State) : Result :=
  .next (s.result d (boolWord ((s.getX a).slt (s.getX b))))

/-- SLTU: unsigned x[a] < x[b] (R135, R137). -/
def execSltu (b : BitVec 5) (a : BitVec 5) (d : BitVec 5) (s : State) : Result :=
  .next (s.result d (boolWord ((s.getX a).ult (s.getX b))))

/-- XOR: exclusive or (R135, R137). -/
def execXor (b : BitVec 5) (a : BitVec 5) (d : BitVec 5) (s : State) : Result :=
  .next (s.result d (s.getX a ^^^ s.getX b))

/-- SRL: x[a] shifted right, zeros in (R135, R137). -/
def execSrl (b : BitVec 5) (a : BitVec 5) (d : BitVec 5) (s : State) : Result :=
  .next (s.result d (s.getX a >>> (fld (s.getX b) 5 0)))

/-- OR: or (R135, R137). -/
def execOr (b : BitVec 5) (a : BitVec 5) (d : BitVec 5) (s : State) : Result :=
  .next (s.result d (s.getX a ||| s.getX b))

/-- AND: and (R135, R137). -/
def execAnd (b : BitVec 5) (a : BitVec 5) (d : BitVec 5) (s : State) : Result :=
  .next (s.result d (s.getX a &&& s.getX b))

/-- SUB: x[a] − x[b] (R135, R137). -/
def execSub (b : BitVec 5) (a : BitVec 5) (d : BitVec 5) (s : State) : Result :=
  .next (s.result d (s.getX a - s.getX b))

/-- XNOR: not of exclusive or (R135, R137). -/
def execXnor (b : BitVec 5) (a : BitVec 5) (d : BitVec 5) (s : State) : Result :=
  .next (s.result d (~~~(s.getX a ^^^ s.getX b)))

/-- SRA: x[a] shifted right, sign in (R135, R137). -/
def execSra (b : BitVec 5) (a : BitVec 5) (d : BitVec 5) (s : State) : Result :=
  .next (s.result d ((s.getX a).sshiftRight (fld (s.getX b) 5 0)))

/-- ORN: x[a] or not x[b] (R135, R137). -/
def execOrn (b : BitVec 5) (a : BitVec 5) (d : BitVec 5) (s : State) : Result :=
  .next (s.result d (s.getX a ||| ~~~(s.getX b)))

/-- ANDN: x[a] and not x[b] (R135, R137). -/
def execAndn (b : BitVec 5) (a : BitVec 5) (d : BitVec 5) (s : State) : Result :=
  .next (s.result d (s.getX a &&& ~~~(s.getX b)))

/-- MUL: the low word of the product (R135, R139). -/
def execMul (b : BitVec 5) (a : BitVec 5) (d : BitVec 5) (s : State) : Result :=
  .next (s.result d (s.getX a * s.getX b))

/-- MULH: the high word, signed by signed (R135, R139). -/
def execMulh (b : BitVec 5) (a : BitVec 5) (d : BitVec 5) (s : State) : Result :=
  .next (s.result d (highWord ((s.getX a).toInt * (s.getX b).toInt)))

/-- MULHSU: the high word, signed by unsigned (R135, R139). -/
def execMulhsu (b : BitVec 5) (a : BitVec 5) (d : BitVec 5) (s : State) : Result :=
  .next (s.result d (highWord ((s.getX a).toInt * (s.getX b).toNat)))

/-- MULHU: the high word, unsigned by unsigned (R135, R139). -/
def execMulhu (b : BitVec 5) (a : BitVec 5) (d : BitVec 5) (s : State) : Result :=
  .next (s.result d (highWord ((s.getX a).toNat * (s.getX b).toNat)))

/-- DIV: signed quotient; by zero −1, overflow the dividend (R135, R139). -/
def execDiv (b : BitVec 5) (a : BitVec 5) (d : BitVec 5) (s : State) : Result :=
  .next (s.result d (divS (s.getX a) (s.getX b)))

/-- DIVU: unsigned quotient; by zero all ones (R135, R139). -/
def execDivu (b : BitVec 5) (a : BitVec 5) (d : BitVec 5) (s : State) : Result :=
  .next (s.result d (divU (s.getX a) (s.getX b)))

/-- REM: signed remainder; by zero the dividend, overflow 0 (R135, R139). -/
def execRem (b : BitVec 5) (a : BitVec 5) (d : BitVec 5) (s : State) : Result :=
  .next (s.result d (remS (s.getX a) (s.getX b)))

/-- REMU: unsigned remainder; by zero the dividend (R135, R139). -/
def execRemu (b : BitVec 5) (a : BitVec 5) (d : BitVec 5) (s : State) : Result :=
  .next (s.result d (remU (s.getX a) (s.getX b)))

/-- SH1ADD: (x[a] << 1) + x[b] (R135, R137). -/
def execSh1add (b : BitVec 5) (a : BitVec 5) (d : BitVec 5) (s : State) : Result :=
  .next (s.result d ((s.getX a <<< 1) + s.getX b))

/-- SH2ADD: (x[a] << 2) + x[b] (R135, R137). -/
def execSh2add (b : BitVec 5) (a : BitVec 5) (d : BitVec 5) (s : State) : Result :=
  .next (s.result d ((s.getX a <<< 2) + s.getX b))

/-- SH3ADD: (x[a] << 3) + x[b] (R135, R137). -/
def execSh3add (b : BitVec 5) (a : BitVec 5) (d : BitVec 5) (s : State) : Result :=
  .next (s.result d ((s.getX a <<< 3) + s.getX b))

/-- MIN: the signed smaller (R135, R137). -/
def execMin (b : BitVec 5) (a : BitVec 5) (d : BitVec 5) (s : State) : Result :=
  .next (s.result d (if (s.getX b).slt (s.getX a) then s.getX b else s.getX a))

/-- MINU: the unsigned smaller (R135, R137). -/
def execMinu (b : BitVec 5) (a : BitVec 5) (d : BitVec 5) (s : State) : Result :=
  .next (s.result d (if (s.getX b).ult (s.getX a) then s.getX b else s.getX a))

/-- MAX: the signed larger (R135, R137). -/
def execMax (b : BitVec 5) (a : BitVec 5) (d : BitVec 5) (s : State) : Result :=
  .next (s.result d (if (s.getX a).slt (s.getX b) then s.getX b else s.getX a))

/-- MAXU: the unsigned larger (R135, R137). -/
def execMaxu (b : BitVec 5) (a : BitVec 5) (d : BitVec 5) (s : State) : Result :=
  .next (s.result d (if (s.getX a).ult (s.getX b) then s.getX b else s.getX a))

/-- ROL: x[a] rotated left (R135, R137). -/
def execRol (b : BitVec 5) (a : BitVec 5) (d : BitVec 5) (s : State) : Result :=
  .next (s.result d ((s.getX a).rotateLeft (fld (s.getX b) 5 0)))

/-- ROR: x[a] rotated right (R135, R137). -/
def execRor (b : BitVec 5) (a : BitVec 5) (d : BitVec 5) (s : State) : Result :=
  .next (s.result d ((s.getX a).rotateRight (fld (s.getX b) 5 0)))

/-- ADDW: the low words added (R135, R137). -/
def execAddw (b : BitVec 5) (a : BitVec 5) (d : BitVec 5) (s : State) : Result :=
  .next (s.result d (sext32 (low32 (s.getX a) + low32 (s.getX b))))

/-- SLLW: the low word shifted left (R135, R137). -/
def execSllw (b : BitVec 5) (a : BitVec 5) (d : BitVec 5) (s : State) : Result :=
  .next (s.result d (sext32 (low32 (s.getX a) <<< (fld (s.getX b) 4 0))))

/-- SRLW: the low word shifted right, zeros in (R135, R137). -/
def execSrlw (b : BitVec 5) (a : BitVec 5) (d : BitVec 5) (s : State) : Result :=
  .next (s.result d (sext32 (low32 (s.getX a) >>> (fld (s.getX b) 4 0))))

/-- SUBW: the low words subtracted (R135, R137). -/
def execSubw (b : BitVec 5) (a : BitVec 5) (d : BitVec 5) (s : State) : Result :=
  .next (s.result d (sext32 (low32 (s.getX a) - low32 (s.getX b))))

/-- SRAW: the low word shifted right, sign in (R135, R137). -/
def execSraw (b : BitVec 5) (a : BitVec 5) (d : BitVec 5) (s : State) : Result :=
  .next (s.result d (sext32 ((low32 (s.getX a)).sshiftRight (fld (s.getX b) 4 0))))

/-- MULW: the low word of the product of the low words (R135, R139). -/
def execMulw (b : BitVec 5) (a : BitVec 5) (d : BitVec 5) (s : State) : Result :=
  .next (s.result d (sext32 (low32 (s.getX a) * low32 (s.getX b))))

/-- DIVW: signed quotient of the low words (R135, R139). -/
def execDivw (b : BitVec 5) (a : BitVec 5) (d : BitVec 5) (s : State) : Result :=
  .next (s.result d (sext32 (divS (low32 (s.getX a)) (low32 (s.getX b)))))

/-- DIVUW: unsigned quotient of the low words (R135, R139). -/
def execDivuw (b : BitVec 5) (a : BitVec 5) (d : BitVec 5) (s : State) : Result :=
  .next (s.result d (sext32 (divU (low32 (s.getX a)) (low32 (s.getX b)))))

/-- REMW: signed remainder of the low words (R135, R139). -/
def execRemw (b : BitVec 5) (a : BitVec 5) (d : BitVec 5) (s : State) : Result :=
  .next (s.result d (sext32 (remS (low32 (s.getX a)) (low32 (s.getX b)))))

/-- REMUW: unsigned remainder of the low words (R135, R139). -/
def execRemuw (b : BitVec 5) (a : BitVec 5) (d : BitVec 5) (s : State) : Result :=
  .next (s.result d (sext32 (remU (low32 (s.getX a)) (low32 (s.getX b)))))

/-- SH1ADD_UW: (zero-extended low word << 1) + x[b] (R135, R137). -/
def execSh1addUw (b : BitVec 5) (a : BitVec 5) (d : BitVec 5) (s : State) : Result :=
  .next (s.result d (((low32 (s.getX a)).setWidth 64 <<< 1) + s.getX b))

/-- SH2ADD_UW: (zero-extended low word << 2) + x[b] (R135, R137). -/
def execSh2addUw (b : BitVec 5) (a : BitVec 5) (d : BitVec 5) (s : State) : Result :=
  .next (s.result d (((low32 (s.getX a)).setWidth 64 <<< 2) + s.getX b))

/-- SH3ADD_UW: (zero-extended low word << 3) + x[b] (R135, R137). -/
def execSh3addUw (b : BitVec 5) (a : BitVec 5) (d : BitVec 5) (s : State) : Result :=
  .next (s.result d (((low32 (s.getX a)).setWidth 64 <<< 3) + s.getX b))

/-- ADD_UW: zero-extended low word + x[b] (R135, R137). -/
def execAddUw (b : BitVec 5) (a : BitVec 5) (d : BitVec 5) (s : State) : Result :=
  .next (s.result d ((low32 (s.getX a)).setWidth 64 + s.getX b))

/-- ZEXT_H: the low halfword, zero-extended (R135, R137). -/
def execZextH (a : BitVec 5) (d : BitVec 5) (s : State) : Result :=
  .next (s.result d ((s.getX a).setWidth 16 |>.setWidth 64))

/-- ROLW: the low word rotated left (R135, R137). -/
def execRolw (b : BitVec 5) (a : BitVec 5) (d : BitVec 5) (s : State) : Result :=
  .next (s.result d (sext32 ((low32 (s.getX a)).rotateLeft (fld (s.getX b) 4 0))))

/-- RORW: the low word rotated right (R135, R137). -/
def execRorw (b : BitVec 5) (a : BitVec 5) (d : BitVec 5) (s : State) : Result :=
  .next (s.result d (sext32 ((low32 (s.getX a)).rotateRight (fld (s.getX b) 4 0))))

/-- ADDI: x[a] + imm (R135, R138). -/
def execAddi (imm : BitVec 12) (a : BitVec 5) (d : BitVec 5) (s : State) : Result :=
  .next (s.result d (s.getX a + s.imm imm))

/-- SLTI: signed x[a] < imm (R135, R138). -/
def execSlti (imm : BitVec 12) (a : BitVec 5) (d : BitVec 5) (s : State) : Result :=
  .next (s.result d (boolWord ((s.getX a).slt (s.imm imm))))

/-- SLTIU: unsigned x[a] < imm (R135, R138). -/
def execSltiu (imm : BitVec 12) (a : BitVec 5) (d : BitVec 5) (s : State) : Result :=
  .next (s.result d (boolWord ((s.getX a).ult (s.imm imm))))

/-- XORI: x[a] xor imm (R135, R138). -/
def execXori (imm : BitVec 12) (a : BitVec 5) (d : BitVec 5) (s : State) : Result :=
  .next (s.result d (s.getX a ^^^ s.imm imm))

/-- ORI: x[a] or imm (R135, R138). -/
def execOri (imm : BitVec 12) (a : BitVec 5) (d : BitVec 5) (s : State) : Result :=
  .next (s.result d (s.getX a ||| s.imm imm))

/-- ANDI: x[a] and imm (R135, R138). -/
def execAndi (imm : BitVec 12) (a : BitVec 5) (d : BitVec 5) (s : State) : Result :=
  .next (s.result d (s.getX a &&& s.imm imm))

/-- SLLI: x[a] shifted left (R135, R138). -/
def execSlli (sh : BitVec 6) (a : BitVec 5) (d : BitVec 5) (s : State) : Result :=
  .next (s.result d (s.getX a <<< sh.toNat))

/-- SRLI: x[a] shifted right, zeros in (R135, R138). -/
def execSrli (sh : BitVec 6) (a : BitVec 5) (d : BitVec 5) (s : State) : Result :=
  .next (s.result d (s.getX a >>> sh.toNat))

/-- SRAI: x[a] shifted right, sign in (R135, R138). -/
def execSrai (sh : BitVec 6) (a : BitVec 5) (d : BitVec 5) (s : State) : Result :=
  .next (s.result d ((s.getX a).sshiftRight sh.toNat))

/-- RORI: x[a] rotated right (R135, R138). -/
def execRori (sh : BitVec 6) (a : BitVec 5) (d : BitVec 5) (s : State) : Result :=
  .next (s.result d ((s.getX a).rotateRight sh.toNat))

/-- CLZ: leading zeros (R135, R138). -/
def execClz (a : BitVec 5) (d : BitVec 5) (s : State) : Result :=
  .next (s.result d (toWord (leadingZeros 64 (s.getX a).toNat)))

/-- CTZ: trailing zeros (R135, R138). -/
def execCtz (a : BitVec 5) (d : BitVec 5) (s : State) : Result :=
  .next (s.result d (toWord (trailingZeros 64 (s.getX a).toNat)))

/-- CPOP: ones (R135, R138). -/
def execCpop (a : BitVec 5) (d : BitVec 5) (s : State) : Result :=
  .next (s.result d (toWord (onesIn 64 (s.getX a).toNat)))

/-- SEXT_B: the low byte, sign-extended (R135, R138). -/
def execSextB (a : BitVec 5) (d : BitVec 5) (s : State) : Result :=
  .next (s.result d (((s.getX a).setWidth 8).signExtend 64))

/-- SEXT_H: the low halfword, sign-extended (R135, R138). -/
def execSextH (a : BitVec 5) (d : BitVec 5) (s : State) : Result :=
  .next (s.result d (((s.getX a).setWidth 16).signExtend 64))

/-- REV8: the bytes reversed (R135, R138). -/
def execRev8 (a : BitVec 5) (d : BitVec 5) (s : State) : Result :=
  .next (s.result d (reverseBytes (s.getX a)))

/-- ADDIW: the low word of x[a] + imm (R135, R138). -/
def execAddiw (imm : BitVec 12) (a : BitVec 5) (d : BitVec 5) (s : State) : Result :=
  .next (s.result d (sext32 (low32 (s.getX a + s.imm imm))))

/-- SLLIW: the low word shifted left (R135, R138). -/
def execSlliw (sh : BitVec 5) (a : BitVec 5) (d : BitVec 5) (s : State) : Result :=
  .next (s.result d (sext32 (low32 (s.getX a) <<< sh.toNat)))

/-- SRLIW: the low word shifted right, zeros in (R135, R138). -/
def execSrliw (sh : BitVec 5) (a : BitVec 5) (d : BitVec 5) (s : State) : Result :=
  .next (s.result d (sext32 (low32 (s.getX a) >>> sh.toNat)))

/-- SRAIW: the low word shifted right, sign in (R135, R138). -/
def execSraiw (sh : BitVec 5) (a : BitVec 5) (d : BitVec 5) (s : State) : Result :=
  .next (s.result d (sext32 ((low32 (s.getX a)).sshiftRight sh.toNat)))

/-- RORIW: the low word rotated right (R135, R138). -/
def execRoriw (sh : BitVec 5) (a : BitVec 5) (d : BitVec 5) (s : State) : Result :=
  .next (s.result d (sext32 ((low32 (s.getX a)).rotateRight sh.toNat)))

/-- SLLI_UW: the zero-extended low word shifted left (R135, R138). -/
def execSlliUw (sh : BitVec 6) (a : BitVec 5) (d : BitVec 5) (s : State) : Result :=
  .next (s.result d (((low32 (s.getX a)).setWidth 64) <<< sh.toNat))

/-- CLZW: leading zeros of the low word (R135, R138). -/
def execClzw (a : BitVec 5) (d : BitVec 5) (s : State) : Result :=
  .next (s.result d (toWord (leadingZeros 32 (low32 (s.getX a)).toNat)))

/-- CTZW: trailing zeros of the low word (R135, R138). -/
def execCtzw (a : BitVec 5) (d : BitVec 5) (s : State) : Result :=
  .next (s.result d (toWord (trailingZeros 32 (low32 (s.getX a)).toNat)))

/-- CPOPW: ones of the low word (R135, R138). -/
def execCpopw (a : BitVec 5) (d : BitVec 5) (s : State) : Result :=
  .next (s.result d (toWord (onesIn 32 (low32 (s.getX a)).toNat)))

/-- LUI: imm << 12, sign-extended (R135, R136). -/
def execLui (imm : BitVec 20) (d : BitVec 5) (s : State) : Result :=
  .next (s.result d ((imm ++ (0 : BitVec 12)).signExtend 64))

/-- AUIPC: the pc plus imm << 12 (R135, R136). -/
def execAuipc (imm : BitVec 20) (d : BitVec 5) (s : State) : Result :=
  .next (s.result d (s.cx.pc + (imm ++ (0 : BitVec 12)).signExtend 64))

/-- JAL: the link is the next address; a misaligned target raises cause 0 and links nothing (R132). -/
def execJal (imm : BitVec 20) (d : BitVec 5) (s : State) : Result :=
  s.finish (transfer s d (s.cx.pc + offset imm))

/-- JALR: bit 0 of x[a] + imm is cleared (R132). -/
def execJalr (imm : BitVec 12) (a : BitVec 5) (d : BitVec 5) (s : State) : Result :=
  s.finish (transfer s d ((s.getX a + s.imm imm) &&& ~~~1))

/-- BEQ: taken when x[a] and x[b] are equal (R132). -/
def execBeq (b : BitVec 5) (a : BitVec 5) (off : BitVec 12) (s : State) : Result :=
  s.finish (branch s (s.getX a = s.getX b) off)

/-- BNE: taken when x[a] and x[b] are not equal (R132). -/
def execBne (b : BitVec 5) (a : BitVec 5) (off : BitVec 12) (s : State) : Result :=
  s.finish (branch s (s.getX a ≠ s.getX b) off)

/-- BLT: taken when x[a] and x[b] are signed less (R132). -/
def execBlt (b : BitVec 5) (a : BitVec 5) (off : BitVec 12) (s : State) : Result :=
  s.finish (branch s ((s.getX a).slt (s.getX b)) off)

/-- BGE: taken when x[a] and x[b] are signed not less (R132). -/
def execBge (b : BitVec 5) (a : BitVec 5) (off : BitVec 12) (s : State) : Result :=
  s.finish (branch s (!(s.getX a).slt (s.getX b)) off)

/-- BLTU: taken when x[a] and x[b] are unsigned less (R132). -/
def execBltu (b : BitVec 5) (a : BitVec 5) (off : BitVec 12) (s : State) : Result :=
  s.finish (branch s ((s.getX a).ult (s.getX b)) off)

/-- BGEU: taken when x[a] and x[b] are unsigned not less (R132). -/
def execBgeu (b : BitVec 5) (a : BitVec 5) (off : BitVec 12) (s : State) : Result :=
  s.finish (branch s (!(s.getX a).ult (s.getX b)) off)

end Sys2Proof.Machine
end

