-- ==== Sys2Proof/Machine/Dispatch.lean ====
section
/-! DEFINITION. One arm per constructor of Instr: the meaning it calls. -/

namespace Sys2Proof.Machine

def exec (i : Instr) (s : State) : Host.Outcome State Fault Refusal :=
  match i with
  | .lui imm d => Sys2Proof.Machine.execLui imm d s
  | .auipc imm d => Sys2Proof.Machine.execAuipc imm d s
  | .jal imm d => Sys2Proof.Machine.execJal imm d s
  | .jalr imm a d => Sys2Proof.Machine.execJalr imm a d s
  | .beq b a off => Sys2Proof.Machine.execBeq b a off s
  | .bne b a off => Sys2Proof.Machine.execBne b a off s
  | .blt b a off => Sys2Proof.Machine.execBlt b a off s
  | .bge b a off => Sys2Proof.Machine.execBge b a off s
  | .bltu b a off => Sys2Proof.Machine.execBltu b a off s
  | .bgeu b a off => Sys2Proof.Machine.execBgeu b a off s
  | .lb imm a d => Sys2Proof.Machine.execLb imm a d s
  | .lh imm a d => Sys2Proof.Machine.execLh imm a d s
  | .lw imm a d => Sys2Proof.Machine.execLw imm a d s
  | .ld imm a d => Sys2Proof.Machine.execLd imm a d s
  | .lbu imm a d => Sys2Proof.Machine.execLbu imm a d s
  | .lhu imm a d => Sys2Proof.Machine.execLhu imm a d s
  | .lwu imm a d => Sys2Proof.Machine.execLwu imm a d s
  | .sb b a imm => Sys2Proof.Machine.execSb b a imm s
  | .sh b a imm => Sys2Proof.Machine.execSh b a imm s
  | .sw b a imm => Sys2Proof.Machine.execSw b a imm s
  | .sd b a imm => Sys2Proof.Machine.execSd b a imm s
  | .add b a d => Sys2Proof.Machine.execAdd b a d s
  | .sll b a d => Sys2Proof.Machine.execSll b a d s
  | .slt b a d => Sys2Proof.Machine.execSlt b a d s
  | .sltu b a d => Sys2Proof.Machine.execSltu b a d s
  | .xor b a d => Sys2Proof.Machine.execXor b a d s
  | .srl b a d => Sys2Proof.Machine.execSrl b a d s
  | .or b a d => Sys2Proof.Machine.execOr b a d s
  | .and b a d => Sys2Proof.Machine.execAnd b a d s
  | .sub b a d => Sys2Proof.Machine.execSub b a d s
  | .xnor b a d => Sys2Proof.Machine.execXnor b a d s
  | .sra b a d => Sys2Proof.Machine.execSra b a d s
  | .orn b a d => Sys2Proof.Machine.execOrn b a d s
  | .andn b a d => Sys2Proof.Machine.execAndn b a d s
  | .mul b a d => Sys2Proof.Machine.execMul b a d s
  | .mulh b a d => Sys2Proof.Machine.execMulh b a d s
  | .mulhsu b a d => Sys2Proof.Machine.execMulhsu b a d s
  | .mulhu b a d => Sys2Proof.Machine.execMulhu b a d s
  | .div b a d => Sys2Proof.Machine.execDiv b a d s
  | .divu b a d => Sys2Proof.Machine.execDivu b a d s
  | .rem b a d => Sys2Proof.Machine.execRem b a d s
  | .remu b a d => Sys2Proof.Machine.execRemu b a d s
  | .sh1add b a d => Sys2Proof.Machine.execSh1add b a d s
  | .sh2add b a d => Sys2Proof.Machine.execSh2add b a d s
  | .sh3add b a d => Sys2Proof.Machine.execSh3add b a d s
  | .min b a d => Sys2Proof.Machine.execMin b a d s
  | .minu b a d => Sys2Proof.Machine.execMinu b a d s
  | .max b a d => Sys2Proof.Machine.execMax b a d s
  | .maxu b a d => Sys2Proof.Machine.execMaxu b a d s
  | .rol b a d => Sys2Proof.Machine.execRol b a d s
  | .ror b a d => Sys2Proof.Machine.execRor b a d s
  | .addw b a d => Sys2Proof.Machine.execAddw b a d s
  | .sllw b a d => Sys2Proof.Machine.execSllw b a d s
  | .srlw b a d => Sys2Proof.Machine.execSrlw b a d s
  | .subw b a d => Sys2Proof.Machine.execSubw b a d s
  | .sraw b a d => Sys2Proof.Machine.execSraw b a d s
  | .mulw b a d => Sys2Proof.Machine.execMulw b a d s
  | .divw b a d => Sys2Proof.Machine.execDivw b a d s
  | .divuw b a d => Sys2Proof.Machine.execDivuw b a d s
  | .remw b a d => Sys2Proof.Machine.execRemw b a d s
  | .remuw b a d => Sys2Proof.Machine.execRemuw b a d s
  | .sh1addUw b a d => Sys2Proof.Machine.execSh1addUw b a d s
  | .sh2addUw b a d => Sys2Proof.Machine.execSh2addUw b a d s
  | .sh3addUw b a d => Sys2Proof.Machine.execSh3addUw b a d s
  | .addUw b a d => Sys2Proof.Machine.execAddUw b a d s
  | .zextH a d => Sys2Proof.Machine.execZextH a d s
  | .rolw b a d => Sys2Proof.Machine.execRolw b a d s
  | .rorw b a d => Sys2Proof.Machine.execRorw b a d s
  | .addi imm a d => Sys2Proof.Machine.execAddi imm a d s
  | .slti imm a d => Sys2Proof.Machine.execSlti imm a d s
  | .sltiu imm a d => Sys2Proof.Machine.execSltiu imm a d s
  | .xori imm a d => Sys2Proof.Machine.execXori imm a d s
  | .ori imm a d => Sys2Proof.Machine.execOri imm a d s
  | .andi imm a d => Sys2Proof.Machine.execAndi imm a d s
  | .slli sh a d => Sys2Proof.Machine.execSlli sh a d s
  | .srli sh a d => Sys2Proof.Machine.execSrli sh a d s
  | .srai sh a d => Sys2Proof.Machine.execSrai sh a d s
  | .rori sh a d => Sys2Proof.Machine.execRori sh a d s
  | .clz a d => Sys2Proof.Machine.execClz a d s
  | .ctz a d => Sys2Proof.Machine.execCtz a d s
  | .cpop a d => Sys2Proof.Machine.execCpop a d s
  | .sextB a d => Sys2Proof.Machine.execSextB a d s
  | .sextH a d => Sys2Proof.Machine.execSextH a d s
  | .rev8 a d => Sys2Proof.Machine.execRev8 a d s
  | .addiw imm a d => Sys2Proof.Machine.execAddiw imm a d s
  | .slliw sh a d => Sys2Proof.Machine.execSlliw sh a d s
  | .srliw sh a d => Sys2Proof.Machine.execSrliw sh a d s
  | .sraiw sh a d => Sys2Proof.Machine.execSraiw sh a d s
  | .roriw sh a d => Sys2Proof.Machine.execRoriw sh a d s
  | .slliUw sh a d => Sys2Proof.Machine.execSlliUw sh a d s
  | .clzw a d => Sys2Proof.Machine.execClzw a d s
  | .ctzw a d => Sys2Proof.Machine.execCtzw a d s
  | .cpopw a d => Sys2Proof.Machine.execCpopw a d s
  | .lr aq rl a w d => Sys2Proof.Machine.execLr aq rl a w d s
  | .sc aq rl b a w d => Sys2Proof.Machine.execSc aq rl b a w d s
  | .amoswap aq rl b a w d => Sys2Proof.Machine.execAmoswap aq rl b a w d s
  | .amoadd aq rl b a w d => Sys2Proof.Machine.execAmoadd aq rl b a w d s
  | .amoxor aq rl b a w d => Sys2Proof.Machine.execAmoxor aq rl b a w d s
  | .amoand aq rl b a w d => Sys2Proof.Machine.execAmoand aq rl b a w d s
  | .amoor aq rl b a w d => Sys2Proof.Machine.execAmoor aq rl b a w d s
  | .amomin aq rl b a w d => Sys2Proof.Machine.execAmomin aq rl b a w d s
  | .amomax aq rl b a w d => Sys2Proof.Machine.execAmomax aq rl b a w d s
  | .amominu aq rl b a w d => Sys2Proof.Machine.execAmominu aq rl b a w d s
  | .amomaxu aq rl b a w d => Sys2Proof.Machine.execAmomaxu aq rl b a w d s
  | .fence p c => Sys2Proof.Machine.execFence p c s
  | .fenceTso => Sys2Proof.Machine.execFenceTso s
  | .fenceI => Sys2Proof.Machine.execFenceI s
  | .ecall => Sys2Proof.Machine.execEcall s
  | .ebreak => Sys2Proof.Machine.execEbreak s
  | .csrrw c a d => Sys2Proof.Machine.execCsrrw c a d s
  | .csrrs c a d => Sys2Proof.Machine.execCsrrs c a d s
  | .csrrc c a d => Sys2Proof.Machine.execCsrrc c a d s
  | .csrrwi c u d => Sys2Proof.Machine.execCsrrwi c u d s
  | .csrrsi c u d => Sys2Proof.Machine.execCsrrsi c u d s
  | .csrrci c u d => Sys2Proof.Machine.execCsrrci c u d s
  | .hnop p => Sys2Proof.Machine.execHnop p s
  | .hwide p => Sys2Proof.Machine.execHwide p s
  | .hscope t c o => Sys2Proof.Machine.execHscope t c o s
  | .hwait w => Sys2Proof.Machine.execHwait w s
  | .hpred p => Sys2Proof.Machine.execHpred p s
  | .hbrh p => Sys2Proof.Machine.execHbrh p s
  | .hprio p => Sys2Proof.Machine.execHprio p s
  | .hstream p => Sys2Proof.Machine.execHstream p s
  | .htileco rl c => Sys2Proof.Machine.execHtileco rl c s
  | .qsub b a d => Sys2Proof.Machine.execQsub b a d s
  | .qsubT b a d => Sys2Proof.Machine.execQsubT b a d s
  | .trig => Sys2Proof.Machine.execTrig s
  | .lstat a f d => Sys2Proof.Machine.execLstat a f d s
  | .tlbInv b a rl sc => Sys2Proof.Machine.execTlbInv b a rl sc s
  | .tlbSync => Sys2Proof.Machine.execTlbSync s
  | .vadd pg b a f d => Sys2Proof.Machine.execVadd pg b a f d s
  | .vsub pg b a f d => Sys2Proof.Machine.execVsub pg b a f d s
  | .vmul pg b a f d => Sys2Proof.Machine.execVmul pg b a f d s
  | .vmulh pg b a sc f d => Sys2Proof.Machine.execVmulh pg b a sc f d s
  | .vmin pg b a sc f d => Sys2Proof.Machine.execVmin pg b a sc f d s
  | .vmax pg b a sc f d => Sys2Proof.Machine.execVmax pg b a sc f d s
  | .vabs pg a d => Sys2Proof.Machine.execVabs pg a d s
  | .vand pg b a f d => Sys2Proof.Machine.execVand pg b a f d s
  | .vor pg b a f d => Sys2Proof.Machine.execVor pg b a f d s
  | .vxor pg b a f d => Sys2Proof.Machine.execVxor pg b a f d s
  | .vsll pg b a f d => Sys2Proof.Machine.execVsll pg b a f d s
  | .vsrl pg b a f d => Sys2Proof.Machine.execVsrl pg b a f d s
  | .vsra pg b a f d => Sys2Proof.Machine.execVsra pg b a f d s
  | .vcmp c b a f d => Sys2Proof.Machine.execVcmp c b a f d s
  | .vsel c b a f d => Sys2Proof.Machine.execVsel c b a f d s
  | .vsadd pg b a sc f d => Sys2Proof.Machine.execVsadd pg b a sc f d s
  | .vfadd pg b a f d => Sys2Proof.Machine.execVfadd pg b a f d s
  | .vfsub pg b a f d => Sys2Proof.Machine.execVfsub pg b a f d s
  | .vfmul pg b a f d => Sys2Proof.Machine.execVfmul pg b a f d s
  | .vfma pg b a f d => Sys2Proof.Machine.execVfma pg b a f d s
  | .vfmin pg b a f d => Sys2Proof.Machine.execVfmin pg b a f d s
  | .vfmax pg b a f d => Sys2Proof.Machine.execVfmax pg b a f d s
  | .vfmaxabs pg b a f d => Sys2Proof.Machine.execVfmaxabs pg b a f d s
  | .vfabs pg a d => Sys2Proof.Machine.execVfabs pg a d s
  | .vfneg pg a d => Sys2Proof.Machine.execVfneg pg a d s
  | .vfcmp c b a f d => Sys2Proof.Machine.execVfcmp c b a f d s
  | .vfclass pg a d => Sys2Proof.Machine.execVfclass pg a d s
  | .vfrcp pg a d => Sys2Proof.Machine.execVfrcp pg a d s
  | .vfrsq pg a d => Sys2Proof.Machine.execVfrsq pg a d s
  | .vfexp2 pg a d => Sys2Proof.Machine.execVfexp2 pg a d s
  | .vflog2 pg a d => Sys2Proof.Machine.execVflog2 pg a d s
  | .vfdiv pg b a f d => Sys2Proof.Machine.execVfdiv pg b a f d s
  | .vcvt pg t f a u j d => Sys2Proof.Machine.execVcvt pg t f a u j d s
  | .vpack a j d => Sys2Proof.Machine.execVpack a j d s
  | .vunpack f a j d => Sys2Proof.Machine.execVunpack f a j d s
  | .vdq pg b a j d => Sys2Proof.Machine.execVdq pg b a j d s
  | .vredsum pg a sc d => Sys2Proof.Machine.execVredsum pg a sc d s
  | .vredmax pg a sc d => Sys2Proof.Machine.execVredmax pg a sc d s
  | .vredmin pg a sc d => Sys2Proof.Machine.execVredmin pg a sc d s
  | .vperm pg b a d => Sys2Proof.Machine.execVperm pg b a d s
  | .vslide pg b a f d => Sys2Proof.Machine.execVslide pg b a f d s
  | .vbcast pg f a d => Sys2Proof.Machine.execVbcast pg f a d s
  | .vmvXv b a u d => Sys2Proof.Machine.execVmvXv b a u d s
  | .vmvVx b a d => Sys2Proof.Machine.execVmvVx b a d s
  | .vlut pg b a j d => Sys2Proof.Machine.execVlut pg b a j d s
  | .vsettag f a d => Sys2Proof.Machine.execVsettag f a d s
  | .vtag a d => Sys2Proof.Machine.execVtag a d s
  | .pand b a d => Sys2Proof.Machine.execPand b a d s
  | .por b a d => Sys2Proof.Machine.execPor b a d s
  | .pxor b a d => Sys2Proof.Machine.execPxor b a d s
  | .pnot a d => Sys2Proof.Machine.execPnot a d s
  | .pcnt a d => Sys2Proof.Machine.execPcnt a d s
  | .pfirst a d => Sys2Proof.Machine.execPfirst a d s
  | .tzero f d => Sys2Proof.Machine.execTzero f d s
  | .tmov a d => Sys2Proof.Machine.execTmov a d s
  | .ttrans a d => Sys2Proof.Machine.execTtrans a d s
  | .tcvt f a rl d => Sys2Proof.Machine.execTcvt f a rl d s
  | .tcvtSat f a rl d => Sys2Proof.Machine.execTcvtSat f a rl d s
  | .tcvtNosat f a rl d => Sys2Proof.Machine.execTcvtNosat f a rl d s
  | .tqset a d => Sys2Proof.Machine.execTqset a d s
  | .tpick b a c d => Sys2Proof.Machine.execTpick b a c d s
  | .tplace b a c d => Sys2Proof.Machine.execTplace b a c d s
  | .ttagSet f d => Sys2Proof.Machine.execTtagSet f d s
  | .ttagRead a d => Sys2Proof.Machine.execTtagRead a d s
  | .xop sc b a pg d => Sys2Proof.Machine.execXop sc b a pg d s
  | .xcfgLoad a d => Sys2Proof.Machine.execXcfgLoad a d s
  | .xcfgDrop a => Sys2Proof.Machine.execXcfgDrop a s
  | .xcfgQuery a d => Sys2Proof.Machine.execXcfgQuery a d s
  | .compose b d => Sys2Proof.Machine.execCompose b d s
  | .release d => Sys2Proof.Machine.execRelease d s
  | .cstat d => Sys2Proof.Machine.execCstat d s
  | .vld w imm t a d => Sys2Proof.Machine.execVld w imm t a d s
  | .vlds w t b a d => Sys2Proof.Machine.execVlds w t b a d s
  | .vldx w t b a d => Sys2Proof.Machine.execVldx w t b a d s
  | .tld w a d => Sys2Proof.Machine.execTld w a d s
  | .vst w imm a d => Sys2Proof.Machine.execVst w imm a d s
  | .vsts w b a d => Sys2Proof.Machine.execVsts w b a d s
  | .vstx w b a d => Sys2Proof.Machine.execVstx w b a d s
  | .tst w a d => Sys2Proof.Machine.execTst w a d s
  | .ldS w sc b a f d => Sys2Proof.Machine.execLdS w sc b a f d s
  | .stS w sc b a f => Sys2Proof.Machine.execStS w sc b a f s
  | .ldAcq w sc b a f d => Sys2Proof.Machine.execLdAcq w sc b a f d s
  | .stRel w sc b a f => Sys2Proof.Machine.execStRel w sc b a f s
  | .red w b a z c => Sys2Proof.Machine.execRed w b a z c s
  | .amof w sc b a f d => Sys2Proof.Machine.execAmof w sc b a f d s
  | .laccAdd w b a p => Sys2Proof.Machine.execLaccAdd w b a p s
  | .laccRnd w a f d => Sys2Proof.Machine.execLaccRnd w a f d s
  | .laccClr w a => Sys2Proof.Machine.execLaccClr w a s
  | .pin w a d => Sys2Proof.Machine.execPin w a d s
  | .unpin w a d => Sys2Proof.Machine.execUnpin w a d s
  | .cwait w b => Sys2Proof.Machine.execCwait w b s
  | .xcopy1d aq rl b a sc d => Sys2Proof.Machine.execXcopy1d aq rl b a sc d s
  | .xcopy2d aq rl a sc d => Sys2Proof.Machine.execXcopy2d aq rl a sc d s
  | .xcopyTile aq rl a sc d => Sys2Proof.Machine.execXcopyTile aq rl a sc d s
  | .xcopyGath aq rl a sc d => Sys2Proof.Machine.execXcopyGath aq rl a sc d s
  | .xcopyWait a d => Sys2Proof.Machine.execXcopyWait a d s
  | .xcopyWaitT a d => Sys2Proof.Machine.execXcopyWaitT a d s
  | .xcopyStat a d => Sys2Proof.Machine.execXcopyStat a d s
  | .xcopyAbort a d => Sys2Proof.Machine.execXcopyAbort a d s
  | .lxProd a d => Sys2Proof.Machine.execLxProd a d s
  | .lxFeed aq rl a sc d => Sys2Proof.Machine.execLxFeed aq rl a sc d s
  | .lxFeedt aq rl b a sc d => Sys2Proof.Machine.execLxFeedt aq rl b a sc d s
  | .lxWait a d => Sys2Proof.Machine.execLxWait a d s
  | .lxWaitT a d => Sys2Proof.Machine.execLxWaitT a d s
  | .lxDwait b a d => Sys2Proof.Machine.execLxDwait b a d s
  | .lxDwaitT b a d => Sys2Proof.Machine.execLxDwaitT b a d s
  | .lxStat a d => Sys2Proof.Machine.execLxStat a d s
  | .lxAbort a d => Sys2Proof.Machine.execLxAbort a d s
  | .lxEpi b a d => Sys2Proof.Machine.execLxEpi b a d s
  | .lxCfg b a d => Sys2Proof.Machine.execLxCfg b a d s
  | .msgSend b a d => Sys2Proof.Machine.execMsgSend b a d s
  | .msgSendT b a d => Sys2Proof.Machine.execMsgSendT b a d s
  | .msgPut b a d => Sys2Proof.Machine.execMsgPut b a d s
  | .msgPutT b a d => Sys2Proof.Machine.execMsgPutT b a d s
  | .msgReply b a d => Sys2Proof.Machine.execMsgReply b a d s
  | .msgPost b a d => Sys2Proof.Machine.execMsgPost b a d s
  | .msgUnpost a d => Sys2Proof.Machine.execMsgUnpost a d s
  | .msgPoll a f d => Sys2Proof.Machine.execMsgPoll a f d s
  | .msgPollTake d => Sys2Proof.Machine.execMsgPollTake d s
  | .msgSpill b a d => Sys2Proof.Machine.execMsgSpill b a d s
  | .hdone => Sys2Proof.Machine.execHdone s
  | .chOpen b a d => Sys2Proof.Machine.execChOpen b a d s
  | .chClose a => Sys2Proof.Machine.execChClose a s
  | .chPush b a => Sys2Proof.Machine.execChPush b a s
  | .chPushT b a d => Sys2Proof.Machine.execChPushT b a d s
  | .chPop a d => Sys2Proof.Machine.execChPop a d s
  | .chPopT b a d => Sys2Proof.Machine.execChPopT b a d s
  | .chBind b a f d => Sys2Proof.Machine.execChBind b a f d s
  | .chStat a d => Sys2Proof.Machine.execChStat a d s
  | .nodeNew a d => Sys2Proof.Machine.execNodeNew a d s
  | .nodeLink b a d => Sys2Proof.Machine.execNodeLink b a d s
  | .nodeArm a d => Sys2Proof.Machine.execNodeArm a d s
  | .nodeDone a d => Sys2Proof.Machine.execNodeDone a d s
  | .rngNext d => Sys2Proof.Machine.execRngNext d s
  | .enq a d => Sys2Proof.Machine.execEnq a d s
  | .enqT a d => Sys2Proof.Machine.execEnqT a d s
  | .taskCancel a d => Sys2Proof.Machine.execTaskCancel a d s
  | .taskStat a d => Sys2Proof.Machine.execTaskStat a d s
  | .gbar a => Sys2Proof.Machine.execGbar a s
  | .gbarT a d => Sys2Proof.Machine.execGbarT a d s
  | .semP a => Sys2Proof.Machine.execSemP a s
  | .semPT a d => Sys2Proof.Machine.execSemPT a d s
  | .semV a => Sys2Proof.Machine.execSemV a s
  | .monArm a d => Sys2Proof.Machine.execMonArm a d s
  | .monWait d => Sys2Proof.Machine.execMonWait d s
  | .monWaitT d => Sys2Proof.Machine.execMonWaitT d s
  | .tret => Sys2Proof.Machine.execTret s
  | .dret => Sys2Proof.Machine.execDret s
  | .pret => Sys2Proof.Machine.execPret s
  | .wfi => Sys2Proof.Machine.execWfi s
  | .wspSw a d => Sys2Proof.Machine.execWspSw a d s
  | .bindWb => Sys2Proof.Machine.execBindWb s
  | .inspect b a d => Sys2Proof.Machine.execInspect b a d s
  | .qcmdRegister q r => Sys2Proof.Machine.execQcmdRegister q r s
  | .qcmdUnregister q r => Sys2Proof.Machine.execQcmdUnregister q r s
  | .qwidxWrite q n r => Sys2Proof.Machine.execQwidxWrite q n r s
  | .qcancelWrite q n r => Sys2Proof.Machine.execQcancelWrite q n r s
  | .packetFetch q => Sys2Proof.Machine.execPacketFetch q s
  | .packetDispatch q => Sys2Proof.Machine.execPacketDispatch q s
  | .kernelPlacement leaf => Sys2Proof.Machine.execKernelPlacement leaf s
  | .graphArm q => Sys2Proof.Machine.execGraphArm q s
  | .peerDoorbellWrite srcMod srcLeaf q w => Sys2Proof.Machine.execPeerDoorbellWrite srcMod srcLeaf q w s
  | .contextRetire k => Sys2Proof.Machine.execContextRetire k s
  | .kernelComplete kid => Sys2Proof.Machine.execKernelComplete kid s
  | .pcmdCreate blk r => Sys2Proof.Machine.execPcmdCreate blk r s
  | .pcmdDestroy blk r => Sys2Proof.Machine.execPcmdDestroy blk r s
  | .pcmdApply blk r => Sys2Proof.Machine.execPcmdApply blk r s
  | .spanDestroyComplete blk => Sys2Proof.Machine.execSpanDestroyComplete blk s
  | .qoscmdApply leaf r => Sys2Proof.Machine.execQoscmdApply leaf r s
  | .pageWalkComplete k acc va => Sys2Proof.Machine.execPageWalkComplete k acc va s
  | .tlbInvComplete k => Sys2Proof.Machine.execTlbInvComplete k s
  | .l2wayWrite value => Sys2Proof.Machine.execL2wayWrite value s
  | .l2wayTransitionComplete leaf => Sys2Proof.Machine.execL2wayTransitionComplete leaf s
  | .wspCsrWrite l value => Sys2Proof.Machine.execWspCsrWrite l value s
  | .kendWrite value => Sys2Proof.Machine.execKendWrite value s
  | .oplctlDrop => Sys2Proof.Machine.execOplctlDrop s
  | .cpctlRestart => Sys2Proof.Machine.execCpctlRestart s
  | .cpctlAbort => Sys2Proof.Machine.execCpctlAbort s
  | .cqctlHold slot => Sys2Proof.Machine.execCqctlHold slot s
  | .cqctlRemove slot => Sys2Proof.Machine.execCqctlRemove slot s
  | .cqctlRebuild slot => Sys2Proof.Machine.execCqctlRebuild slot s
  | .copyHoldComplete h => Sys2Proof.Machine.execCopyHoldComplete h s
  | .registerWrite addr value r => Sys2Proof.Machine.execRegisterWrite addr value r s
  | .watchdogExpiry k => Sys2Proof.Machine.execWatchdogExpiry k s
  | .timerCompare cycles => Sys2Proof.Machine.execTimerCompare cycles s
  | .frameBoundary => Sys2Proof.Machine.execFrameBoundary s
  | .ctlTokenGain h => Sys2Proof.Machine.execCtlTokenGain h s
  | .rendezvousTimeout l half => Sys2Proof.Machine.execRendezvousTimeout l half s
  | .pauseTimeout k handle => Sys2Proof.Machine.execPauseTimeout k handle s
  | .feedTimeout k handle => Sys2Proof.Machine.execFeedTimeout k handle s
  | .sinkRetryTimeout l half => Sys2Proof.Machine.execSinkRetryTimeout l half s
  | .sendBackoffExpiry k handle => Sys2Proof.Machine.execSendBackoffExpiry k handle s
  | .messageRetryResend k handle => Sys2Proof.Machine.execMessageRetryResend k handle s
  | .siteWindowRetry k idx => Sys2Proof.Machine.execSiteWindowRetry k idx s
  | .channelAskRetry k q => Sys2Proof.Machine.execChannelAskRetry k q s
  | .semPRetry k => Sys2Proof.Machine.execSemPRetry k s
  | .prodNodeReissue node => Sys2Proof.Machine.execProdNodeReissue node s
  | .switchSlotTimeout slot => Sys2Proof.Machine.execSwitchSlotTimeout slot s
  | .heartbeatMiss module => Sys2Proof.Machine.execHeartbeatMiss module s
  | .trapEntry => Sys2Proof.Machine.execTrapEntry s
  | .xirqWrite r value => Sys2Proof.Machine.execXirqWrite r value s
  | .homeAccess k idx => Sys2Proof.Machine.execHomeAccess k idx s
  | .storeAck k idx => Sys2Proof.Machine.execStoreAck k idx s
  | .lateFailure k idx why => Sys2Proof.Machine.execLateFailure k idx why s
  | .copyStart h => Sys2Proof.Machine.execCopyStart h s
  | .copyGrant k handle => Sys2Proof.Machine.execCopyGrant k handle s
  | .copyComplete k handle => Sys2Proof.Machine.execCopyComplete k handle s
  | .copyFault k handle => Sys2Proof.Machine.execCopyFault k handle s
  | .copyAborted k handle => Sys2Proof.Machine.execCopyAborted k handle s
  | .productOpen l half => Sys2Proof.Machine.execProductOpen l half s
  | .feedArrival k handle => Sys2Proof.Machine.execFeedArrival k handle s
  | .productGrant l half => Sys2Proof.Machine.execProductGrant l half s
  | .productDelivery l half => Sys2Proof.Machine.execProductDelivery l half s
  | .deliveryComplete l half => Sys2Proof.Machine.execDeliveryComplete l half s
  | .residueMismatch l => Sys2Proof.Machine.execResidueMismatch l s
  | .feedResume k handle => Sys2Proof.Machine.execFeedResume k handle s
  | .packetInjection k handle => Sys2Proof.Machine.execPacketInjection k handle s
  | .messageArrival k handle => Sys2Proof.Machine.execMessageArrival k handle s
  | .replyHoldRelease k => Sys2Proof.Machine.execReplyHoldRelease k s
  | .messageAnswer k handle => Sys2Proof.Machine.execMessageAnswer k handle s
  | .activationStart k => Sys2Proof.Machine.execActivationStart k s
  | .channelEntryArrival k q => Sys2Proof.Machine.execChannelEntryArrival k q s
  | .channelFlowSignal k q => Sys2Proof.Machine.execChannelFlowSignal k q s
  | .channelAsk k q => Sys2Proof.Machine.execChannelAsk k q s
  | .channelCloseMarker k q => Sys2Proof.Machine.execChannelCloseMarker k q s
  | .channelClosedNotice k q => Sys2Proof.Machine.execChannelClosedNotice k q s
  | .dispatchDecision leaf => Sys2Proof.Machine.execDispatchDecision leaf s
  | .nodeFinish node => Sys2Proof.Machine.execNodeFinish node s
  | .stealRequest thief => Sys2Proof.Machine.execStealRequest thief s
  | .stealHalfArrival thief => Sys2Proof.Machine.execStealHalfArrival thief s
  | .stealAck victim => Sys2Proof.Machine.execStealAck victim s
  | .stealReturn victim => Sys2Proof.Machine.execStealReturn victim s
  | .precmdSave h r => Sys2Proof.Machine.execPrecmdSave h r s
  | .precmdRestore h r => Sys2Proof.Machine.execPrecmdRestore h r s
  | .saveStop k => Sys2Proof.Machine.execSaveStop k s
  | .saveDrained k => Sys2Proof.Machine.execSaveDrained k s
  | .restoreStart k => Sys2Proof.Machine.execRestoreStart k s
  | .migcmdStart leaf r => Sys2Proof.Machine.execMigcmdStart leaf r s
  | .migcmdCancel leaf r => Sys2Proof.Machine.execMigcmdCancel leaf r s
  | .migrationCheck leaf answer => Sys2Proof.Machine.execMigrationCheck leaf answer s
  | .migrationTransferDone leaf ok => Sys2Proof.Machine.execMigrationTransferDone leaf ok s
  | .dbgcmdOpen f => Sys2Proof.Machine.execDbgcmdOpen f s
  | .dbgcmdClose f => Sys2Proof.Machine.execDbgcmdClose f s
  | .dbgcmdHalt f => Sys2Proof.Machine.execDbgcmdHalt f s
  | .dbgcmdResume f => Sys2Proof.Machine.execDbgcmdResume f s
  | .dbgcmdStep f => Sys2Proof.Machine.execDbgcmdStep f s
  | .dbgxvalWrite f value => Sys2Proof.Machine.execDbgxvalWrite f value s
  | .inspectionWindowRead f => Sys2Proof.Machine.execInspectionWindowRead f s
  | .swcmdAllocate leaf r => Sys2Proof.Machine.execSwcmdAllocate leaf r s
  | .switchAllocationAnswer leaf => Sys2Proof.Machine.execSwitchAllocationAnswer leaf s
  | .switchContribution c => Sys2Proof.Machine.execSwitchContribution c s
  | .peerAccess srcMod srcLeaf a => Sys2Proof.Machine.execPeerAccess srcMod srcLeaf a s
  | .siteWake h => Sys2Proof.Machine.execSiteWake h s
  | .siteGate h target => Sys2Proof.Machine.execSiteGate h target s
  | .boot verified => Sys2Proof.Machine.execBoot verified s
  | .attestationRequest r nonce => Sys2Proof.Machine.execAttestationRequest r nonce s
  | .cxlDeviceRemoval port => Sys2Proof.Machine.execCxlDeviceRemoval port s
  | .illegalInstruction word => Sys2Proof.Machine.execIllegalInstruction word s
  | .fetchFault f => Sys2Proof.Machine.execFetchFault f s
  | .siteFault k member f => Sys2Proof.Machine.execSiteFault k member f s
  | .rasRetirement u => Sys2Proof.Machine.execRasRetirement u s
  | .powerLoss => Sys2Proof.Machine.execPowerLoss s
  | .rmaWipe => Sys2Proof.Machine.execRmaWipe s
  | .reservationAging h => Sys2Proof.Machine.execReservationAging h s

end Sys2Proof.Machine
end

