-- ==== Sys2Proof/Machine/Turns.lean ====
section
/-! DEFINITION. The turns of the schedule that are no row of the opcode table: which context has the core; what caches, TLBs, slices
and walkers do on their own; accesses that come early or in parts; the steps of engines within a command; and agents outside the
package (R115, R124, R129, R131, R209, R210, R338, R339, R383). -/

namespace Sys2Proof.Machine

/-! ## Loads performed early (R210, R342) -/

/-- The running context performs a load early, at its place, where `skip` loads of the same bytes still precede it: once nothing is on
its way that it comes after (R14), and never at a device or a peer. -/
def State.loadEarly (s : State) (va : Word) (n : Nat) (tc : Option (Nat × Nat)) (skip : Nat) : State :=
  match s.resolve .load va n tc with
  | .error _ => s
  | .ok t =>
    if t.retry || t.kind = .device || isPeer (physOf t.pa) || (s.refusedAt t n).isSome || s.cx.status ≠ .running then s
    else
      match s.mayGo t va n with
      | .error _ => s
      | .ok _ => s.mapCx fun c => { c with early := c.early ++ [⟨t.site, physOf t.pa, n, s.load t.pa n, skip, false⟩] }

/-! ## Caches (R9, R124, R129, R131, R195, R198, R209) -/

/-- No thread that uses the first-level cache of a site has a write of the line on its way (R14, R198, R209). -/
def State.mayFill (s : State) (h line : Nat) : Bool :=
  s.ctxs.all fun c => c.log.all fun e =>
    !(e.st = .sent && (c.key.h = h || c.members.contains h || e.src = h) && meetsLine e.pa e.len line)

/-- A site of a context takes a first-level copy of the line at an address: of normal type, and never of a peer (R208, R209). -/
def State.cacheAhead (s : State) (k : Key) (va : Word) (tc : Option (Nat × Nat)) : State :=
  match s.ctx? k with
  | none => s
  | some c =>
    match s.resolveFor c c.client .load va 1 tc with
    | .error _ => s
    | .ok t =>
      let h := c.bankSite va
      if t.kind = .glob && t.mt = 0 && !isPeer (physOf t.pa) && !t.retry && s.mayFill h (lineOf t.pa) then s.fillLine h t.pa else s

/-- A site of a context takes the fetch block at an address (R129, R131, R195). -/
def State.fetchAhead (s : State) (k : Key) (va : Word) : State :=
  match s.ctx? k with
  | none => s
  | some c =>
    match s.resolveFor c c.client .fetch va 4 none with
    | .error _ => s
    | .ok t => if t.kind = .glob then s.fillBlock (c.fetchSite va.toNat) t.pa else s

/-- Lines that slices hold apart: those of LPDDR, CXL and the host (R107, R124, R208). -/
def sliceable (line : Nat) : Bool :=
  let pa := line * 128
  validPlace .K pa && !isMmio pa && !isPeer pa && !isSiteWindow pa && decide (pa < sliceSpace)

/-- A slice takes a line apart from memory into one of its cache ways, if that has room (R9, R124). -/
def State.sliceTake (s : State) (home line way : Nat) : State :=
  if sliceable line && decide (home < 1024) && (s.cacheWays home).contains way && decide (s.wayUsed home way < wayLines) then
    s.sliceFill home line way
  else s

/-- A slice drops a line that no context has pinned there (R124, R224). -/
def State.sliceDrop (s : State) (home line : Nat) : State :=
  if s.pinnedAt home line then s else s.sliceEvict home line

/-- A walker of a context's die starts on the page of an address (R115). -/
def State.walkAhead (s : State) (k : Key) (va : Word) : State :=
  match s.ctx? k with
  | none => s
  | some c => if regionOf va = .global then s.startWalk c.client va.toNat else s

/-! ## Stores in parts (R339) -/

/-- An entry without the cells of one part, which the place `pa` has taken. -/
def OpEntry.without (e : OpEntry) (part pa : Nat) : OpEntry :=
  { e with cells := e.cells.filter (fun c => c.1 / e.unit ≠ part), begun := true, pa := physOf pa }

/-- One part of a posted store is written at its place, apart from the others, in the order of the entry (R14, R339); the place has
then taken the store. -/
def State.storePart (s : State) (k : Key) (idx part : Nat) : State :=
  match (s.ctx? k).bind fun c => (c.log.find? fun e => e.idx = idx).map fun e => (c, e) with
  | none => s
  | some (c, e) =>
    match s.placeEntry c e with
    | .retry | .rejected => s
    | .at pa =>
      if e.kind ≠ .store || !s.mayPerform c e || (s.entryRefused e pa).isSome then s
      else
        (s.storeCells pa (e.cells.filter fun x => x.1 / e.unit = part)).mapCtx k fun c =>
          { c with log := c.log.map fun x => if x.idx = e.idx && x.seq = e.seq then x.without part pa else x }

/-! ## The schedule -/

/-- A turn of a unit that is no row of the table. -/
def State.takeTurn (s : State) (u : Turn) : State :=
  match u with
  | .run k => s.switchTo k
  | .event _ => s
  | .loadEarly va n tc skip => s.loadEarly va n tc skip
  | .cacheFill k va tc => s.cacheAhead k va tc
  | .cacheDrop h line => { s with l1 := s.l1.filter fun l => !(l.h = h && l.line = line) }
  | .fetchFill k va => s.fetchAhead k va
  | .fetchDrop h block => { s with icache := s.icache.filter fun b => !(b.h = h && b.block = block) }
  | .tlbDrop n => { s with tlb := s.tlb.eraseIdx n }
  | .extDrop n => { s with ext := s.ext.eraseIdx n }
  | .walkStart k va => s.walkAhead k va
  | .storePart k idx part => s.storePart k idx part
  | .sliceFill home line way => s.sliceTake home line way
  | .sliceClean home line => s.sliceClean home line
  | .sliceEvict home line => s.sliceDrop home line
  | .copyRead k handle n => s.copyReads k handle n
  | .copyWrite k handle n => s.copyWrites k handle n
  | .copyPost k handle n => s.copySends k handle n
  | .apart => { s with apart := true }
  | .land n => s.landNth n
  | .feedRead k handle a => s.feedRead k handle a
  | .feedIssue k handle n => s.issueSteps k handle n
  | .productStaged l half => s.stageProduct l half
  | .productSteps l half n => s.consumeSteps l half n
  | .deliverElems l half n => s.deliverElems l half n
  | .outsideStore pa n v => s.outsideStore pa n v
  | .peerRmw srcMod srcLeaf pa op n data => s.peerRmw srcMod srcLeaf pa op n data
  | .peerLacc srcMod srcLeaf pa kind op data => s.peerLacc srcMod srcLeaf pa kind op data
  | .peerAllocate a => s.peerAllocate a
  | .migArrival x => s.migArrival x
  | .recover a => s.recover a

end Sys2Proof.Machine
end

