-- ==== Sys2Proof/Machine/Step.lean ====
section
/-! DEFINITION. One step of the machine: the next turn of the schedule, else a boundary, else one instruction. -/

noncomputable section

namespace Sys2Proof.Machine

/-- A word runs: an illegal one is the row ILLEGAL_INSTRUCTION (R27); after a hint, a word that is no taker makes the hint
illegal, and one that its predicate suppresses only commits (R29, R30). An instruction uses the storage of its registers (R155). -/
def State.runWord (s : State) (w : IWord) : Result :=
  match decode w with
  | .error _ => exec (.illegalInstruction w) s
  | .ok i =>
    match s.cx.hint with
    | none => exec i (s.useRegs i)
    | some h =>
      if takes h w then (if s.cx.suppressed w then .next s.advance else exec i (s.useRegs i))
      else exec (.illegalInstruction h.word) s

/-- The row FETCH_FAULT of an exception that a fetch met (R132). -/
def Exn.fetch (e : Exn) : FetchFault := ⟨e.cause, e.val, e.val2, e.floor⟩

/-- Fetch the word at the program counter and run it (R129, R132). -/
def State.runNext (s : State) : Result :=
  match s.fetchPlace s.cx.pc with
  | .error e => exec (.fetchFault e.fetch) s
  | .ok pa =>
    let h := s.cx.fetchSite s.cx.pc.toNat
    (s.fillBlock h pa).runWord (s.fetchWord h pa)

/-- The running context's step: what its boundary takes, else its next instruction. No boundary falls between a hint and its
target (R30, R360), nor before a WFI that waits (R365). A context that has no core stands still, but for a retirement that meets a FAILED entry (R390). -/
def State.runCore (s : State) : Result :=
  if !s.canRun then .next (s.failedRetirement.getD s)
  else if s.cx.waiting then exec .wfi s
  else if s.cx.hint.isSome then s.runNext
  else
    match s.boundary with
    | some t => .next t
    | none => s.runNext

/-- A row of the table that is a step of another unit, or a trap at a boundary. A row with a word runs from memory alone, and an
illegal word or a failed fetch is met at the program counter alone. -/
def isEvent : Instr → Bool
  | .illegalInstruction _ => false
  | .fetchFault _ => false
  | i => (encode i).isNone

/-- Events that happen to a module that has not booted (R384, R385, R395, R401, R404). -/
def beforeBoot : Instr → Bool
  | .boot _ | .powerLoss | .cxlDeviceRemoval _ | .rasRetirement _ | .heartbeatMiss _ => true
  | _ => false

/-- A row is an event that can come now: nothing is configured and no site runs before boot is done (R401). -/
def State.opensTo (s : State) (i : Instr) : Bool := isEvent i && (s.sol.boot = .done || beforeBoot i)

/-- What comes before the running context's step: the parts of its own writes to its local window that are left (R339, R342 case 6), and one of
the instructions that a composition has before a request dissolves it is spent (R202). -/
def State.opening (s : State) : State := (s.landWhere fun p => p.kind = .thread && p.agent = s.cx.key).mapCx Ctx.spend

/-- One step: the first turn of the schedule if one is left, else the running context's step. The count of free values
advances. -/
def step (s : State) : Host.Outcome State Fault Refusal :=
  let t := { s with tick := s.tick + 1 }
  match s.turns with
  | [] => t.opening.runCore
  | .event i :: rest => if s.opensTo i then exec i { t with turns := rest } else .next { t with turns := rest }
  | u :: rest => .next ({ t with turns := rest }.takeTurn u)

/-- The state with an instruction's word stored where `step` fetches next, and the running context free to run it: in an
activation, on a site in S0, with no debug halt, no save request and no pending hint, and boot not stopped. -/
def State.withFetchWord (s : State) (nbits w : Nat) : State :=
  let pa := match s.fetchPlace s.cx.pc with
    | .ok a => a
    | .error _ => s.cx.pc.toNat
  { s with
    turns := []
    icache := []
    mem := memWrite s.mem pa 4 (w % 2 ^ nbits)
    power := tabPut s.power s.cx.key.h .S0
    sol := { s.sol with boot := match s.sol.boot with | .halted _ => .done | b => b }
    cx := { s.cx with status := .running, hint := none, waiting := false, act := some ⟨0, false, none, 0, none⟩,
                      halt := none, saveReq := none } }

end Sys2Proof.Machine

end
end

