-- ==== Sys2Proof/Safety.lean ====
section
/-! DEFINITION. What counts as a safe run, and the words the statements use: what a commit writes, and what it leaves alone. -/

namespace Sys2Proof.Machine

/-- What holds in every state a run can reach: memory keeps its canonical form. -/
def Safe (s : State) : Prop := Memory.wf s.mem = true

/-! ## What a commit writes (R153, R379, R380) -/

/-- A context without what every commit writes: the pc, a pending hint, the mark of R362, the wait of a WFI, the progress of a debug
step, and what counting changes (the counters and the interrupt of a counter that wraps). -/
def Ctx.sansCommit (c : Ctx) : Ctx :=
  { c with pc := 0, hint := none, first := none, waiting := false, halt := none, pmc := Vector.replicate 16 0, irqs := [] }

/-- A state without what every commit writes in its running context. -/
def State.sansCommit (s : State) : State := { s with cx := s.cx.sansCommit }

/-- A context as it is after a commit is counted: event 2 for each instruction of the pair, event 3 for the VR-format, TILE and
XOP classes (R380). -/
def Ctx.counted (c : Ctx) (vec : Bool) : Ctx :=
  let n := c.count 2 (if c.hint = none then 1 else 2)
  if vec then n.count 3 1 else n

/-- `t` is `u` with its instruction committed and control at `pc`: the pair is over, the instruction is counted, and nothing
else differs from `u`. -/
structure Committed (u t : State) (pc : Word) (vec : Bool) : Prop where
  pc : t.cx.pc = pc
  hint : t.cx.hint = none
  first : t.cx.first = none
  waiting : t.cx.waiting = false
  pmc : t.cx.pmc = (u.cx.counted vec).pmc
  irqs : t.cx.irqs = (u.cx.counted vec).irqs
  rest : t.sansCommit = u.sansCommit

/-- A state without the x registers of its running context. -/
def State.sansX (s : State) : State := { s with cx := { s.cx with x := Vector.replicate 32 0, dirty := 0 } }

/-- A context without what an access to memory may change besides memory: its reservation and its watch (R144, R336), and what
counting the access changes (R380). -/
def Ctx.sansMarks (c : Ctx) : Ctx := { c with resv := none, watch := none, pmc := Vector.replicate 16 0, irqs := [] }

/-- A state without memory, first-level copies and the marks of writes: those of R144 and R336, and the bytes that a slice holds
dirty (R124). -/
def State.sansMem (s : State) : State :=
  { s with
    mem := [], l1 := [], cx := s.cx.sansMarks, others := s.others.map Ctx.sansMarks
    slices := s.slices.map fun l => { l with dirty := 0 } }

/-- A state without the operand log of its running context. -/
def State.sansLog (s : State) : State := { s with cx := { s.cx with log := [] } }

/-- A state without what the traffic of a request leaves behind: the stamps of its packets, the running order, the loads that the
running context performed early, and what its strong accesses of core scope came before and after (R309, R342, R345). -/
def State.sansTraffic (s : State) : State :=
  { s with stamps := [], order := 0, marks := [], cx := { s.cx with early := [], behind := [] } }

/-- A context without what the storage of its v and m registers shows: what is bound where, and the counting of spills (R155). -/
def Ctx.sansStorage (c : Ctx) : Ctx := { c with bound := [], pmc := Vector.replicate 16 0, irqs := [] }

/-- A state without what the storage of registers shows, and the running order that dates its uses. -/
def State.sansStorage (s : State) : State :=
  { s with order := 0, cx := s.cx.sansStorage, others := s.others.map Ctx.sansStorage }

/-- The running context performed no load early (R345), and its access to a target may go: nothing that it comes after is on its way there
(R14), and its packets find a frame (R309). -/
def State.settled (s : State) (t : Target) (va : Word) (n : Nat) : Prop := s.cx.early = [] ∧ s.mayGo t va n = .ok ()

/-- The instruction goes on to `t`: `exec` answers it, committed over `u` with control at the next word. -/
def Completes (i : Instr) (s u : State) (vec : Bool) : Prop :=
  ∃ t, exec i s = .next t ∧ Committed u t (s.cx.pc + 4) vec

/-- The instruction completes with x[d] ← v as its only effect. -/
def Gives (i : Instr) (s : State) (d : BitVec 5) (v : Word) : Prop := Completes i s (s.setX d v) false

/-- The instruction completes and control goes to `pc`. -/
def Goes (i : Instr) (s u : State) (pc : Word) : Prop := ∃ t, exec i s = .next t ∧ Committed u t pc false

/-- The instruction raises an exception: `exec` answers the state in which the trap is taken. -/
def Traps (i : Instr) (s : State) (e : Exn) : Prop := exec i s = .next (s.raise e)

/-! ## Vector results (R156) -/

/-- Element `i` is governed and enabled (R31, R156): p0 enables all, and no predicate governs bits 128 and up of BITS. -/
def Enabled (s : State) (pg : BitVec 3) (i : Nat) : Prop := 128 ≤ i ∨ pg = 0 ∨ (s.cx.p.get pg.toFin).getLsbD i = true

/-- What a v register holds once `f` is written under tag `t` (R156): a disabled element keeps its value where the register held
the tag, and is zero otherwise. -/
def VWritten (old new : VReg) (t : Tag) (en : Nat → Prop) (f : Nat → Nat) : Prop :=
  new.tag = t ∧ ∀ i < tagElems t, (en i → new.elem i = f i % 2 ^ tagWidth t) ∧
    (¬ en i → new.elem i = if old.tag = t then old.elem i else 0)

/-- `fl` holds exactly the flags that `g` raises on some enabled index below `n` (R58). -/
def FlagsOf (fl : VFlags) (n : Nat) (en : Nat → Prop) (g : Nat → VFlags) : Prop :=
  ∀ k, fl.getLsbD k = true ↔ ∃ i < n, en i ∧ (g i).getLsbD k = true

/-- The instruction completes over `u`: v[d] is written with `f` under tag `t`, and the flags of the enabled elements are set. -/
def GivesV (i : Instr) (s u : State) (d : BitVec 5) (t : Tag) (en : Nat → Prop) (f : Nat → Nat) (g : Nat → VFlags) : Prop :=
  ∃ r fl, VWritten (s.getV d) r t en f ∧ FlagsOf fl (tagElems t) en g ∧ Completes i s ((u.setV d r).addFlags fl) true

/-- What an m register holds once `f`, by row and column, is written under tag `t` with a zeroed side band. -/
def MWritten (new : MReg) (t : Tag) (side : BitVec 2048) (f : Nat → Nat → Nat) : Prop :=
  new.tag = t ∧ new.side = side ∧ ∀ r < 64, ∀ c < 64, new.elem r c = f r c % 65536

/-- The instruction completes over `u`: m[d] is written with `f` under tag `t`. -/
def GivesM (i : Instr) (s u : State) (d : BitVec 3) (t : Tag) (side : BitVec 2048) (f : Nat → Nat → Nat) : Prop :=
  ∃ m, MWritten m t side f ∧ Completes i s (u.setM d m) true

/-- Every byte of memory outside [a, a + n) reads in `t` as in `s`. -/
def MemSameBut (s t : State) (a n : Nat) : Prop := ∀ b, b < a ∨ a + n ≤ b → memGet t.mem b = memGet s.mem b

/-- Every byte of memory reads in `t` as in `s`. -/
def MemSame (s t : State) : Prop := ∀ b, memGet t.mem b = memGet s.mem b

/-- `k` is the lowest index that is free in the operand log of the core at `src` (R213). -/
def State.lowestFree (s : State) (src k : Nat) : Prop :=
  k < 32 ∧ (∀ c ∈ s.ctxs, ∀ e ∈ c.log, s.inLog src c e = true → e.idx ≠ k) ∧
    ∀ j < k, ∃ c ∈ s.ctxs, ∃ e ∈ c.log, s.inLog src c e = true ∧ e.idx = j

/-! ## Stores of bytes (R213, R217) -/

/-- The byte that is written last at an address, if one is. -/
def lastAt (bs : List (Word × Byte)) (p : Word → Bool) : Option Byte := ((bs.filter fun b => p b.1).getLast?).map (·.2)

/-- The bytes `bs`, in their order, go to the places `pl`, each of a kind in `ks` and none refused or in platform MMIO; two
addresses do not share a place, and a line of addresses is a line of places. -/
def BytesReach (s : State) (tc : Option (Nat × Nat)) (ks : List PlaceKind) (pl : Word → Nat) (bs : List (Word × Byte)) : Prop :=
  (∀ b ∈ bs, isMmio (pl b.1) = false ∧
    ∃ t, s.resolve .store b.1 1 tc = .ok t ∧ t.pa = pl b.1 ∧ t.kind ∈ ks ∧ s.refusedAt t 1 = none) ∧
  (∀ b ∈ bs, pl b.1 % 128 = b.1.toNat % 128) ∧
  (∀ b ∈ bs, ∀ c ∈ bs, b.1.toNat / 128 = c.1.toNat / 128 ↔ pl b.1 / 128 = pl c.1 / 128)

/-- The operand log of the core from which bytes are sent has room for `n` further entries of the running context (R198, R213). -/
def State.logRoom (s : State) (bs : List (Word × Byte)) (n : Nat) : Prop :=
  (s.ctxs.map fun c => (c.log.filter (s.inLog (s.cx.bankSite ((bs.head?.map (·.1)).getD 0)) c)).length).sum + n ≤ 32

/-- The first-level cache of a site has room for `n` further lines (R9). -/
def State.cacheRoom (s : State) (h n : Nat) : Prop := (s.l1.filter fun l => l.h = h).length + n ≤ l1Lines

/-- In the local window the instruction completes over `u` with the bytes written at once, and no others. -/
def StoresNow (i : Instr) (s u : State) (pl : Word → Nat) (bs : List (Word × Byte)) : Prop :=
  ∃ t, exec i s = .next t ∧ t.cx.pc = s.cx.pc + 4 ∧
    (∀ a, memGet t.mem a = (lastAt bs fun v => pl v = a).getD (memGet s.mem a)) ∧
    t.sansCommit.sansMem.sansTraffic = u.sansCommit.sansMem.sansTraffic

/-- In a site window or in global memory the instruction completes over `u`: entries enter the log as sent weak stores, whose
cells are the bytes, each at its place; memory stays as it is. -/
def StoresPost (i : Instr) (s u : State) (pl : Word → Nat) (bs : List (Word × Byte)) : Prop :=
  ∃ t xs, exec i s = .next t ∧ t.cx.pc = s.cx.pc + 4 ∧ t.mem = s.mem ∧ t.cx.log = s.cx.log ++ xs ∧
    (∀ x ∈ xs, x.kind = .store ∧ x.st = .sent ∧ x.strong = false) ∧
    (∀ v y, lastAt bs (· = v) = some y ↔ ∃ x ∈ xs, ∃ c ∈ x.cells, x.addr + BitVec.ofNat 64 c.1 = v ∧ c.2 = y) ∧
    (∀ x ∈ xs, ∀ c ∈ x.cells, x.pa + c.1 = pl (x.addr + BitVec.ofNat 64 c.1)) ∧
    t.sansCommit.sansLog.sansMem.sansTraffic = u.sansCommit.sansLog.sansMem.sansTraffic

end Sys2Proof.Machine
end

