-- ==== Sys2Proof/Certificates/Slice0/Obligations.lean ====
section
/-! DEFINITION. The statements about the machine. A statement with several parts is their conjunction, in the order of its docstring. An
equation between states under `sansCommit`, `sansX`, `sansMem`, `sansLog`, `sansTraffic` or `sansStorage`, and the field `rest` of `Committed`, say that nothing else differs. -/

open Sys2Proof Sys2Proof.Machine

/-! ## Encoding -/

/-- Words written out from the encoding tables, at least one for each family, decode to the instructions they stand for. -/
def Obligations.DecodedWords : Prop :=
  ∀ e ∈ [((0x12345537 : IWord), Instr.lui 0x12345 10), (0x8045FEE3, .bgeu 4 11 0xC0E), (0xFF85A503, .lw 0xFF8 11 10),
      (0x00C5BC23, .sd 12 11 0x018), (0x20C5E533, .sh3add 12 11 10), (0x4055D51B, .sraiw 5 11 10), (0x0474332F, .amoadd 1 0 7 8 1 6),
      (0x0330000F, .fence 3 3), (0x8C1022F3, .csrrs 0x8C1 0 5), (0x120280F3, .tlbInv 0 5 0 1), (0x180302F3, .wspSw 6 5),
      (0x1C9403F3, .inspect 9 8 7), (0x00C5853F, .qsub 12 11 10), (0x0400003F, .trig), (0x060312BF, .lstat 6 1 5),
      (0x0000511F, .hscope 0 1 1), (0x02C5A553, .vadd 1 12 11 2 10), (0x36C58543, .vfma 3 12 11 0 10), (0x093912CB, .xcopy1d 0 1 19 18 1 5),
      (0xC6C5A557, .vlut 3 12 11 2 10), (0xF02081D7, .pand 2 1 3), (0x0673417B, .tcvt 7 6 4 2), (0x14C5A577, .xop 5 12 11 2 10),
      (0x003002DB, .compose 3 5), (0x42458507, .vld 1 1 4 11 10), (0x40C5A527, .vstx 1 12 11 10), (0x48C5A4CF, .red 1 12 11 0 9),
      (0x000502C7, .lxProd 10 5), (0x10058347, .lxFeed 0 0 11 0 6), (0x508C03C7, .lxDwait 8 24 7), (0x02B502AB, .msgSendT 11 10 5),
      (0x0AD6032B, .msgPost 13 12 6), (0x1200002B, .hdone), (0x0062808B, .chOpen 6 5 1), (0x0A20838B, .chPopT 2 1 7),
      (0x22B502BF, .nodeLink 11 10 5), (0x2800033F, .rngNext 6), (0x020483EB, .gbarT 9 7), (0x0804006B, .semV 8)],
    decode e.1 = .ok e.2

/-- Decoding and encoding agree (R22 to R27): a well-formed instruction that has a word decodes from it, with every operand at every value,
and a word that decodes gives a well-formed instruction whose word it is: no two instructions share a word. -/
def Obligations.DecodeEncode : Prop :=
  (∀ i w, i.wf = true → encode i = some w → decode w = .ok i) ∧ ∀ w i, decode w = .ok i → i.wf = true ∧ encode i = some w

/-- Hints (R28, R29): HNOP only advances; every other kind stands pending with its payload and its own address, control goes to the
next word, and nothing else changes; it commits with its target.

A step runs the decoded instruction (R22, R129, R27 to R30, R155, R365): when no turn is left and the running context has the core,
once what is left of its own writes to its local window is performed and one instruction of a composition that ends is spent (nothing,
with neither), a WFI that waits is tried again; otherwise, with no boundary due, step fetches the word at pc through the instruction
cache, which then holds its block, and is exec of the instruction it decodes to, whose v and m registers have taken their storage, which
shows in nothing but the event count. A block not held is read from memory, so the word is the four bytes at its place, the lowest first.
The target of a hint runs with the hint pending; where its predicate is 0 it only commits, and no taker makes the hint illegal.

The model's choice, where it rests on one: what an illegal pair reports (log entry 26) and that a hint is counted with its target (27). -/
def Obligations.StepRunsDecoded : Prop :=
  (
    ∀ (p : BitVec 20) (t : BitVec 1) (c o w q : BitVec 2) (g : BitVec 3) (r l : BitVec 10) (s : State),
      Completes (.hnop p) s s false ∧
      ∀ e ∈ [(Instr.hwide p, 1, p.toNat), (.hscope t c o, 2, o.toNat + 4 * c.toNat + 16 * t.toNat), (.hwait w, 3, w.toNat),
        (.hpred g, 4, g.toNat), (.hbrh p, 5, p.toNat), (.hprio q, 6, q.toNat), (.hstream q, 7, q.toNat),
        (.htileco r l, 8, l.toNat + 1024 * r.toNat)],
        exec e.1 s = .next { s with cx := { s.cx with hint := some ⟨e.2.1, BitVec.ofNat 20 e.2.2, s.cx.pc⟩, pc := s.cx.pc + 4 } }) ∧
  (
    (∀ (i : Instr) (s : State), (s.useRegs i).sansStorage = s.sansStorage) ∧
    ∀ s t : State, t = ({ s with tick := s.tick + 1 } : State).opening → s.turns = [] →
      (s.posts = [] → s.cx.comp.due = none → t = { s with tick := s.tick + 1 }) ∧ (t.canRun = true →
      (t.cx.waiting = true → step s = exec .wfi t) ∧
      (t.cx.waiting = false → (t.cx.hint = none → t.boundary = none) → ∀ pa, t.fetchPlace t.cx.pc = .ok pa →
        ∀ h u w b, h = t.cx.fetchSite t.cx.pc.toNat → u = t.fillBlock h pa → w = t.fetchWord h pa →
          b = (⟨h, physOf pa / 64, BitVec.ofNat 512 (memRead t.mem (pa / 64 * 64) 64)⟩ : FetchBlock) →
        (t.blockOf h (physOf pa / 64) = none → pa % 4 = 0 → w = BitVec.ofNat 32 (memRead t.mem pa 4) ∧
          u = { t with icache := u.icache } ∧ b ∈ u.icache ∧ ∀ x ∈ u.icache, x ∈ t.icache ∨ x = b) ∧
        (∀ e, decode w = .error e → step s = exec (.illegalInstruction w) u) ∧
        (∀ i, decode w = .ok i →
          (t.cx.hint = none → step s = exec i (u.useRegs i)) ∧
          ∀ k, t.cx.hint = some k → (takes k w = false → step s = exec (.illegalInstruction k.word) u) ∧
            (takes k w = true → u.cx.suppressed w = false → step s = exec i (u.useRegs i)) ∧
            (takes k w = true → u.cx.suppressed w = true → step s = .next u.advance)))))

/-! ## The scalar stream -/

/-- OP, the 64-bit register forms (R31, R137, R139): x[d] takes the named function of x[a] and x[b], whatever d is; x0 discards
it.

OP-32, the word forms (R137): the low words in, the word result sign-extended; the .UW forms take the low word of x[a]
zero-extended and give 64 bits.

The M operations (R139): products of the stated signs; division by zero gives all ones and the dividend as remainder,
signed overflow the dividend and remainder zero, and nothing traps. -/
def Obligations.RegisterForms : Prop :=
  (
    let f : List ((BitVec 5 → BitVec 5 → BitVec 5 → Instr) × (Word → Word → Word)) := [
      (.add, fun x y => x + y), (.sub, fun x y => x - y), (.xor, fun x y => x ^^^ y), (.or, fun x y => x ||| y),
      (.and, fun x y => x &&& y), (.xnor, fun x y => ~~~(x ^^^ y)), (.orn, fun x y => x ||| ~~~y), (.andn, fun x y => x &&& ~~~y),
      (.sll, fun x y => x <<< (y.toNat % 64)), (.srl, fun x y => x >>> (y.toNat % 64)),
      (.sra, fun x y => x.sshiftRight (y.toNat % 64)), (.rol, fun x y => x.rotateLeft (y.toNat % 64)),
      (.ror, fun x y => x.rotateRight (y.toNat % 64)), (.slt, fun x y => if x.toInt < y.toInt then 1 else 0),
      (.sltu, fun x y => if x.toNat < y.toNat then 1 else 0), (.min, fun x y => if x.toInt ≤ y.toInt then x else y),
      (.minu, fun x y => if x.toNat ≤ y.toNat then x else y), (.max, fun x y => if x.toInt ≤ y.toInt then y else x),
      (.maxu, fun x y => if x.toNat ≤ y.toNat then y else x), (.sh1add, fun x y => x * 2 + y), (.sh2add, fun x y => x * 4 + y),
      (.sh3add, fun x y => x * 8 + y)]
    ∀ e ∈ f, ∀ (b a d : BitVec 5) (s : State), Gives (e.1 b a d) s d (e.2 (s.getX a) (s.getX b))) ∧
  (
    let f : List ((BitVec 5 → BitVec 5 → BitVec 5 → Instr) × (BitVec 32 → BitVec 32 → BitVec 32)) := [
      (.addw, fun x y => x + y), (.subw, fun x y => x - y), (.sllw, fun x y => x <<< (y.toNat % 32)),
      (.srlw, fun x y => x >>> (y.toNat % 32)), (.sraw, fun x y => x.sshiftRight (y.toNat % 32)),
      (.rolw, fun x y => x.rotateLeft (y.toNat % 32)), (.rorw, fun x y => x.rotateRight (y.toNat % 32))]
    let g : List ((BitVec 5 → BitVec 5 → BitVec 5 → Instr) × (Word → Word → Word)) := [
      (.addUw, fun x y => x + y), (.sh1addUw, fun x y => x * 2 + y), (.sh2addUw, fun x y => x * 4 + y),
      (.sh3addUw, fun x y => x * 8 + y)]
    ∀ (b a d : BitVec 5) (s : State),
      (∀ e ∈ f, Gives (e.1 b a d) s d ((e.2 ((s.getX a).setWidth 32) ((s.getX b).setWidth 32)).signExtend 64)) ∧
      (∀ e ∈ g, Gives (e.1 b a d) s d (e.2 (((s.getX a).setWidth 32).setWidth 64) (s.getX b))) ∧
      Gives (.zextH a d) s d (((s.getX a).setWidth 16).setWidth 64)) ∧
  (
    let quot (n : Nat) (x y : BitVec n) : BitVec n :=
      if y = 0 then BitVec.allOnes n else if x.toInt = -2 ^ (n - 1) ∧ y.toInt = -1 then x else BitVec.ofInt n (x.toInt.tdiv y.toInt)
    let rem (n : Nat) (x y : BitVec n) : BitVec n :=
      if y = 0 then x else if x.toInt = -2 ^ (n - 1) ∧ y.toInt = -1 then 0 else BitVec.ofInt n (x.toInt.tmod y.toInt)
    let quotU (n : Nat) (x y : BitVec n) : BitVec n := if y = 0 then BitVec.allOnes n else BitVec.ofNat n (x.toNat / y.toNat)
    let remU (n : Nat) (x y : BitVec n) : BitVec n := if y = 0 then x else BitVec.ofNat n (x.toNat % y.toNat)
    ∀ (b a d : BitVec 5) (s : State), ∀ x y, x = s.getX a → y = s.getX b → ∀ u v : BitVec 32, u = x.setWidth 32 → v = y.setWidth 32 →
      Gives (.mul b a d) s d (BitVec.ofInt 64 (x.toInt * y.toInt)) ∧
      Gives (.mulh b a d) s d (BitVec.ofInt 64 (x.toInt * y.toInt / 2 ^ 64)) ∧
      Gives (.mulhsu b a d) s d (BitVec.ofInt 64 (x.toInt * y.toNat / 2 ^ 64)) ∧
      Gives (.mulhu b a d) s d (BitVec.ofNat 64 (x.toNat * y.toNat / 2 ^ 64)) ∧
      Gives (.div b a d) s d (quot 64 x y) ∧ Gives (.rem b a d) s d (rem 64 x y) ∧
      Gives (.divu b a d) s d (quotU 64 x y) ∧ Gives (.remu b a d) s d (remU 64 x y) ∧
      Gives (.mulw b a d) s d ((BitVec.ofInt 32 (u.toInt * v.toInt)).signExtend 64) ∧
      Gives (.divw b a d) s d ((quot 32 u v).signExtend 64) ∧ Gives (.remw b a d) s d ((rem 32 u v).signExtend 64) ∧
      Gives (.divuw b a d) s d ((quotU 32 u v).signExtend 64) ∧ Gives (.remuw b a d) s d ((remU 32 u v).signExtend 64))

/-- OP-IMM and OP-IMM-32 (R138): the immediate is imm sign-extended, or, after a WIDE hint, the 20 payload bits over it, 32 bits
sign-extended (R29).

Shifts by a constant (R138, R139).

The unary forms (R138): zeros above the highest one, zeros below the lowest one, ones, sign extension, and the bytes in the
other order. -/
def Obligations.ImmediateForms : Prop :=
  (
    let f : List ((BitVec 12 → BitVec 5 → BitVec 5 → Instr) × (Word → Word → Word)) := [
      (.addi, fun x y => x + y), (.xori, fun x y => x ^^^ y), (.ori, fun x y => x ||| y), (.andi, fun x y => x &&& y),
      (.slti, fun x y => if x.toInt < y.toInt then 1 else 0), (.sltiu, fun x y => if x.toNat < y.toNat then 1 else 0),
      (.addiw, fun x y => (x.setWidth 32 + y.setWidth 32).signExtend 64)]
    ∀ e ∈ f, ∀ (imm : BitVec 12) (a d : BitVec 5) (s : State),
      (s.cx.hint = none → Gives (e.1 imm a d) s d (e.2 (s.getX a) (imm.signExtend 64))) ∧
      (∀ h, s.cx.hint = some h → h.kind = 1 → Gives (e.1 imm a d) s d (e.2 (s.getX a) ((h.payload ++ imm).signExtend 64)))) ∧
  (
    ∀ (sh : BitVec 6) (n : BitVec 5) (a d : BitVec 5) (s : State), ∀ x w, x = s.getX a → w = x.setWidth 32 →
      Gives (.slli sh a d) s d (x <<< sh.toNat) ∧ Gives (.srli sh a d) s d (x >>> sh.toNat) ∧
      Gives (.srai sh a d) s d (BitVec.ofInt 64 (x.toInt / 2 ^ sh.toNat)) ∧ Gives (.rori sh a d) s d (x.rotateRight sh.toNat) ∧
      Gives (.slliUw sh a d) s d (BitVec.ofNat 64 (x.toNat % 2 ^ 32 * 2 ^ sh.toNat)) ∧
      Gives (.slliw n a d) s d ((w <<< n.toNat).signExtend 64) ∧ Gives (.srliw n a d) s d ((w >>> n.toNat).signExtend 64) ∧
      Gives (.sraiw n a d) s d (BitVec.ofInt 64 (w.toInt / 2 ^ n.toNat)) ∧
      Gives (.roriw n a d) s d ((w.rotateRight n.toNat).signExtend 64)) ∧
  (
    let clz (n v : Nat) : Word := BitVec.ofNat 64 ((List.range n).countP fun i => v < 2 ^ i)
    let ctz (n v : Nat) : Word := BitVec.ofNat 64 ((List.range n).countP fun i => v % 2 ^ (i + 1) = 0)
    let pop (n v : Nat) : Word := BitVec.ofNat 64 ((List.range n).countP fun i => v / 2 ^ i % 2 = 1)
    ∀ (a d : BitVec 5) (s : State), ∀ x v, x = s.getX a → v = x.toNat →
      Gives (.clz a d) s d (clz 64 v) ∧ Gives (.ctz a d) s d (ctz 64 v) ∧ Gives (.cpop a d) s d (pop 64 v) ∧
      Gives (.clzw a d) s d (clz 32 (v % 2 ^ 32)) ∧ Gives (.ctzw a d) s d (ctz 32 (v % 2 ^ 32)) ∧
      Gives (.cpopw a d) s d (pop 32 (v % 2 ^ 32)) ∧
      Gives (.sextB a d) s d ((x.setWidth 8).signExtend 64) ∧ Gives (.sextH a d) s d ((x.setWidth 16).signExtend 64) ∧
      ∃ y, Gives (.rev8 a d) s d y ∧ ∀ i < 8, y.toNat / 2 ^ (8 * i) % 256 = v / 2 ^ (56 - 8 * i) % 256)

/-- LUI and AUIPC (R136), and the jumps (R132): a target whose bit 1 is clear is taken and x[d] gets the next address; any other
raises cause 0 with it and writes no link.

The branches (R132): not taken, the next word follows; taken, the target pc + 2 × off follows, or cause 0 when its bit 1 is
set. -/
def Obligations.JumpsAndBranches : Prop :=
  (
    ∀ (u : BitVec 20) (imm : BitVec 12) (a d : BitVec 5) (s : State), ∀ up t r,
      up = (u.setWidth 32 <<< 12).signExtend 64 → t = s.cx.pc + (u.signExtend 64 <<< 1) →
      r = BitVec.ofNat 64 ((s.getX a + s.imm imm).toNat / 2 * 2) →
        Gives (.lui u d) s d up ∧ Gives (.auipc u d) s d (s.cx.pc + up) ∧
        (t.getLsbD 1 = false → Goes (.jal u d) s (s.setX d (s.cx.pc + 4)) t) ∧
        (t.getLsbD 1 = true → Traps (.jal u d) s (exn 0 t)) ∧
        (r.getLsbD 1 = false → Goes (.jalr imm a d) s (s.setX d (s.cx.pc + 4)) r) ∧
        (r.getLsbD 1 = true → Traps (.jalr imm a d) s (exn 0 r))) ∧
  (
    let f : List ((BitVec 5 → BitVec 5 → BitVec 12 → Instr) × (Word → Word → Prop)) := [
      (.beq, fun x y => x = y), (.bne, fun x y => x ≠ y), (.blt, fun x y => x.toInt < y.toInt), (.bge, fun x y => y.toInt ≤ x.toInt),
      (.bltu, fun x y => x.toNat < y.toNat), (.bgeu, fun x y => y.toNat ≤ x.toNat)]
    ∀ e ∈ f, ∀ (b a : BitVec 5) (off : BitVec 12) (s : State), ∀ t, t = s.cx.pc + (off.signExtend 64 <<< 1) →
      (¬ e.2 (s.getX a) (s.getX b) → Goes (e.1 b a off) s s (s.cx.pc + 4)) ∧
      (e.2 (s.getX a) (s.getX b) → t.getLsbD 1 = false → Goes (e.1 b a off) s s t) ∧
      (e.2 (s.getX a) (s.getX b) → t.getLsbD 1 = true → Traps (e.1 b a off) s (exn 0 t)))

/-! ## Memory -/

/-- Alignment (R140): a scalar load or LR whose address is not a multiple of its width raises cause 4 with the address, and a scalar
store, SC or AMO cause 6, whatever the address translates to. -/
def Obligations.MisalignedAccesses : Prop :=
  let ls : List ((BitVec 12 → BitVec 5 → BitVec 5 → Instr) × Nat) := [
    (.lb, 1), (.lh, 2), (.lw, 4), (.ld, 8), (.lbu, 1), (.lhu, 2), (.lwu, 4)]
  let ss : List ((BitVec 5 → BitVec 5 → BitVec 12 → Instr) × Nat) := [(.sb, 1), (.sh, 2), (.sw, 4), (.sd, 8)]
  let rs : List (BitVec 1 → BitVec 1 → BitVec 5 → BitVec 5 → BitVec 1 → BitVec 5 → Instr) := [
    .sc, .amoswap, .amoadd, .amoxor, .amoand, .amoor, .amomin, .amomax, .amominu, .amomaxu]
  ∀ (s : State) (aq rl z : BitVec 1) (b a d : BitVec 5) (imm : BitVec 12) (va : Word),
    (s.cx.waitMet s.cx.waitHint 0 = true → va = s.getX a + s.imm imm →
      (∀ e ∈ ls, va.toNat % e.2 ≠ 0 → Traps (e.1 imm a d) s (exn 4 va)) ∧
      (∀ e ∈ ss, va.toNat % e.2 ≠ 0 → Traps (e.1 b a imm) s (exn 6 va))) ∧
    (va = s.getX a → va.toNat % (if z = 1 then 8 else 4) ≠ 0 →
      Traps (.lr aq rl a z d) s (exn 4 va) ∧ ∀ i ∈ rs, Traps (i aq rl b a z d) s (exn 6 va))

/-- LOAD (R136, R140, R141): a misaligned address raises cause 4 and performs nothing; an aligned one whose place is reached
loads what that place answers, extended, whatever d is. (It may be performed: nothing that it comes after is on its way.)

What a weak, relaxed load answers (R209): outside global memory the bytes at its place; in global memory of normal type the
bytes of the first-level copy when its core holds one, and otherwise the bytes at the place, and then the line is copied. Memory
stays as it is. (The thread performed no load early.)

The model's choice, where it rests on one: how early a load may be performed (log entry 10), and a cache takes a line when it is read (17). -/
def Obligations.ScalarLoads : Prop :=
  (
    let f : List ((BitVec 12 → BitVec 5 → BitVec 5 → Instr) × Nat × Bool) := [
      (.lb, 1, true), (.lh, 2, true), (.lw, 4, true), (.ld, 8, true), (.lbu, 1, false), (.lhu, 2, false), (.lwu, 4, false)]
    ∀ e ∈ f, ∀ (imm : BitVec 12) (a d : BitVec 5) (s : State) (va : Word), va = s.getX a + s.imm imm →
      s.cx.waitMet s.cx.waitHint 0 = true →
        (va.toNat % e.2.1 ≠ 0 → Traps (e.1 imm a d) s (exn 4 va)) ∧
        (va.toNat % e.2.1 = 0 → ∀ t, s.reach .load va e.2.1 = .ok t →
          s.mayLoad s.cx.scopeOf t va e.2.1 e.2.1 = .ok () → ∀ v u, s.loadAt s.cx.scopeOf t va e.2.1 e.2.1 = (v, u) →
          Completes (e.1 imm a d) s (u.setX d (if e.2.2 then (BitVec.ofNat (8 * e.2.1) v).signExtend 64
            else (BitVec.ofNat (8 * e.2.1) v).setWidth 64)) false)) ∧
  (
    ∀ (s : State) (t : Target) (va : Word) (n h : Nat), s.cx.early = [] → isMmio t.pa = false → 0 < n → h = s.cx.bankSite va →
      (t.kind = .localWin → s.loadAt .weak t va n n = (memRead s.mem t.pa n, s)) ∧
      (∀ l, t.kind = .glob → t.mt = 0 → isPeer t.pa = false → s.copyOf h (lineOf t.pa) = some l →
        s.loadAt .weak t va n n = (l.read t.pa n, s)) ∧
      (t.kind ≠ .localWin → (t.kind = .glob → t.mt = 0 → isPeer t.pa = false → s.copyOf h (lineOf t.pa) = none) →
        ∀ v u, s.loadAt .weak t va n n = (v, u) → v = memRead s.mem t.pa n ∧ u.mem = s.mem ∧
          u.sansMem.sansTraffic = s.sansMem.sansTraffic ∧ (t.kind = .glob → t.mt = 0 → isPeer t.pa = false →
            ∃ l, u.copyOf h (lineOf t.pa) = some l ∧ l.bytes = BitVec.ofNat 1024 (memRead s.mem (t.pa / 128 * 128) 128))))

/-- STORE where it is performed at once (R136, R140, R208): a misaligned address raises cause 6; in the local window, and at
device type outside platform MMIO, the n bytes at the place become the low n bytes of x[b], and no other byte, register or flag
changes. (Nothing that the core has sent to those bytes is on its way.)

STORE where it is posted (R208, R213): in a site window and in global memory the store takes the lowest free index of its core's log,
enters the log as sent with its address, place and bytes, and commits; memory and every register stay as they are until the home
performs it. (The order admits it, and its packet finds a frame.) -/
def Obligations.ScalarStores : Prop :=
  (
    let f : List ((BitVec 5 → BitVec 5 → BitVec 12 → Instr) × Nat) := [(.sb, 1), (.sh, 2), (.sw, 4), (.sd, 8)]
    ∀ e ∈ f, ∀ (b a : BitVec 5) (imm : BitVec 12) (s : State) (va : Word), va = s.getX a + s.imm imm →
      s.cx.waitMet s.cx.waitHint 0 = true →
        (va.toNat % e.2 ≠ 0 → Traps (e.1 b a imm) s (exn 6 va)) ∧
        (Safe s → va.toNat % e.2 = 0 → ∀ t, s.storeTarget va e.2 s.cx.tileco = .ok t → (t.kind = .localWin ∨ t.kind = .device) →
          isMmio t.pa = false → s.cx.mayLeave s.cx.scopeOf = true → s.localOpen t.pa e.2 = true → ∃ u, exec (e.1 b a imm) s = .next u ∧
            u.cx.pc = s.cx.pc + 4 ∧ memRead u.mem t.pa e.2 = (s.getX b).toNat % 256 ^ e.2 ∧ MemSameBut s u t.pa e.2 ∧ u.l1 = s.l1 ∧
            u.sansCommit.sansMem.sansTraffic = s.sansCommit.sansMem.sansTraffic)) ∧
  (
    let f : List ((BitVec 5 → BitVec 5 → BitVec 12 → Instr) × Nat) := [(.sb, 1), (.sh, 2), (.sw, 4), (.sd, 8)]
    ∀ e ∈ f, ∀ (b a : BitVec 5) (imm : BitVec 12) (s : State) (va : Word), va = s.getX a + s.imm imm →
      s.cx.waitMet s.cx.waitHint 0 = true → va.toNat % e.2 = 0 → ∀ t, s.storeTarget va e.2 s.cx.tileco = .ok t →
        (t.kind = .siteWin ∨ t.kind = .glob) → isMmio t.pa = false → s.mayIssue s.cx.scopeOf t va = true →
        ∀ k, s.freeIdx (s.cx.bankSite va) = some k → ∃ u x, exec (e.1 b a imm) s = .next u ∧ u.cx.pc = s.cx.pc + 4 ∧ u.mem = s.mem ∧
          u.cx.log = s.cx.log ++ [x] ∧ x.idx = k ∧ x.addr = va ∧ x.kind = .store ∧ x.len = e.2 ∧ x.pa = t.pa ∧ x.site = t.site ∧
          x.st = .sent ∧ x.cells = (List.range e.2).map (fun i => (i, BitVec.ofNat 8 ((s.getX b).toNat / 256 ^ i))) ∧
          s.lowestFree (s.cx.bankSite va) k ∧ u.sansCommit.sansLog.sansMem.sansTraffic = s.sansCommit.sansLog.sansMem.sansTraffic)

/-- HOME_ACCESS (R14, R205, R206, R223, R335): a sent access of a resident context that comes next at its place, which admits it, is
performed there, and its entry is PERFORMED: each byte of a store is written; a RED, LACC.ADD, LACC.CLR or SEM.V changes its bytes by its
operation, an LACC with both of its lines in one copy of their home; and no other byte changes. The release of TRIG counts at the walker,
up to TRIGN (R78), and changes no byte.

STORE_ACK and LATE_FAILURE (R14, R211, R213, R214): an acknowledgement, in its turn on its pair, frees the entry; a failure that the
place or the way gives leaves it FAILED, posts cause 31 with the address and index, and performs nothing.

A reply that waits in the hold slot lands once it can, and its sender is answered (R291); a site-window access that met RETRY is
performed once its target is back, in its order (R14, R375).

The model's choice, where it rests on one: the order of one pair of sites (log entry 11) and the parts of a store (12). -/
def Obligations.PostedStoreLife : Prop :=
  (
    ∀ (s : State) (k : Key) (i pa : Nat) (c : Ctx) (e : OpEntry), s.entry? k i = some (c, e) → s.mayPerform c e = true → e.toSwitch = false →
      Safe s → s.placeEntry c e = .at pa → s.entryRefused e pa = none →
      ∀ o, o = (if e.kind = .laccAdd ∨ e.kind = .laccClr then s.together e.site pa 72 else s) →
      ∀ p, p = (if isSiteWindow pa then pa else o.placeAt e.site (physOf pa)) →
      ∃ u, exec (.homeAccess k i) s = .next u ∧
        (∃ c', u.ctx? k = some c' ∧ c'.log = c.log.map fun y => if y.idx = i then { y with st := .performed, done := s.order } else y) ∧
        (e.kind = .store → (e.cells.map (·.1)).Nodup → (∀ x ∈ e.cells, memGet u.mem (p + x.1) = x.2) ∧
          ∀ b, (∀ x ∈ e.cells, b ≠ p + x.1) → memGet u.mem b = memGet s.mem b) ∧
        (e.kind = .red → memRead u.mem p e.len = portOp e.op e.len (memRead s.mem p e.len) e.data.toNat % 256 ^ e.len ∧
          MemSameBut s u p e.len) ∧
        (e.kind = .laccAdd → MemSameBut o u p 72 ∧ memRead u.mem p 72 =
          laccAdd (memRead o.mem p 72) (laccTerm (e.op = 1) (e.data.setWidth 64)).num % 256 ^ 72) ∧
        (e.kind = .laccClr → memRead u.mem p 72 = 0 ∧ MemSameBut o u p 72) ∧
        (e.kind = .semV → memRead u.mem p 8 = min (memRead s.mem p 8 + 1) (2 ^ 64 - 1) ∧ MemSameBut s u p 8) ∧
        (e.kind = .trig → u.mem = s.mem ∧ u.kernels = s.kernels.map fun x =>
          if x.kid = c.kid ∧ x.trigs < x.trigN then { x with trigs := x.trigs + 1 } else x)) ∧
  (
    ∀ (s : State) (k : Key) (i : Nat) (c : Ctx) (e : OpEntry), s.entry? k i = some (c, e) →
      (e.st = .performed → s.entryAnswered e = true → ∃ u c', exec (.storeAck k i) s = .next u ∧ u.mem = s.mem ∧ u.ctx? k = some c' ∧
        e ∉ c'.log ∧ ∀ y ∈ c.log, y.idx ≠ i → y ∈ c'.log) ∧
      (s.failsNow c e .rejected = false → s.failsNow c e .poison = false → s.failsNow c e .retired = false → ∀ why,
        exec (.lateFailure k i why) s = .next s) ∧
      (∀ why, s.failsNow c e why = true → ∃ u c', exec (.lateFailure k i why) s = .next u ∧ u.mem = s.mem ∧
        u.ctx? k = some c' ∧ (∀ y ∈ c'.log, y.idx = i → y.st = .failed why) ∧
        c'.asyncs = c.asyncs ++ [⟨31, e.addr, BitVec.ofNat 64 i, .T, e.seq⟩])) ∧
  (
    ∀ (s : State) (k : Key) (c : Ctx), s.ctx? k = some c →
      (∀ r u, c.hold = some r → s.landReply c r.img = some u → ∃ t c', exec (.replyHoldRelease k) s = .next t ∧ t.ctx? k = some c' ∧
        c'.hold = none ∧ t.mem = u.mem) ∧
      (∀ i e pa, s.entry? k i = some (c, e) → e.st = .sent → regionOf e.addr = .siteWindow → e.kind = .store → Safe s →
        s.mayPerform c e = true → s.placeEntry c e = .at pa → s.entryRefused e pa = none → (e.cells.map (·.1)).Nodup →
        ∀ p, p = (if isSiteWindow pa then pa else s.placeAt e.site (physOf pa)) → ∃ t, exec (.siteWindowRetry k i) s = .next t ∧
        (∀ x ∈ e.cells, memGet t.mem (p + x.1) = x.2) ∧ ∀ b, (∀ x ∈ e.cells, b ≠ p + x.1) → memGet t.mem b = memGet s.mem b))

/-- The AMOs (R142, R143): an aligned address whose place admits it is read and written in one step; x[d] gets the old value
sign-extended, the place the named function of it and the low bytes of x[b], and nothing else of memory changes. A misaligned
address raises cause 6.

AMOF (R222): f3 010 and 011 swap when the old value equals the low bytes of x[d]; 100 to 110 apply port codes 8 to 10 to FP32
words; x[d] gets the old value.

The model's choice, where it rests on one: the permissions and the cause of an AMO (log entry 18). -/
def Obligations.Amos : Prop :=
  (
    let sg (n v : Nat) : Int := (BitVec.ofNat (8 * n) v).toInt
    let f : List ((BitVec 1 → BitVec 1 → BitVec 5 → BitVec 5 → BitVec 1 → BitVec 5 → Instr) × (Nat → Nat → Nat → Nat)) := [
      (.amoswap, fun _ _ v => v), (.amoadd, fun n o v => (o + v) % 256 ^ n), (.amoxor, fun _ o v => o ^^^ v),
      (.amoand, fun _ o v => o &&& v), (.amoor, fun _ o v => o ||| v), (.amomin, fun n o v => if sg n o ≤ sg n v then o else v),
      (.amomax, fun n o v => if sg n o ≤ sg n v then v else o), (.amominu, fun _ o v => min o v), (.amomaxu, fun _ o v => max o v)]
    ∀ e ∈ f, ∀ (aq rl z : BitVec 1) (b a d : BitVec 5) (s : State) (n : Nat), n = (if z = 1 then 8 else 4) →
      ((s.getX a).toNat % n ≠ 0 → Traps (e.1 aq rl b a z d) s (exn 6 (s.getX a))) ∧
      (Safe s → (s.getX a).toNat % n = 0 → ∀ t, s.rmwTarget (s.getX a) n = .ok t → s.cx.mayLeave (s.cx.amoOrder (aq = 1) (rl = 1)) = true →
        ∀ o, o = memRead s.mem t.pa n → ∃ u, exec (e.1 aq rl b a z d) s = .next u ∧ u.cx.pc = s.cx.pc + 4 ∧
          (∀ r, u.getX r = if r ≠ 0 ∧ r = d then (BitVec.ofNat (8 * n) o).signExtend 64 else s.getX r) ∧
          memRead u.mem t.pa n = e.2 n o ((s.getX b).toNat % 256 ^ n) ∧ MemSameBut s u t.pa n ∧
          u.sansCommit.sansMem.sansX.sansTraffic = s.sansCommit.sansMem.sansX.sansTraffic)) ∧
  (
    ∀ (w sc : BitVec 2) (b a d : BitVec 5) (f : BitVec 3) (s : State) (n : Nat), n = (if f = 3 then 8 else 4) →
      s.cx.waitMet w.toNat 0 = true → Safe s → (s.getX a).toNat % n = 0 → ∀ t, s.rmwTarget (s.getX a) n = .ok t →
      s.cx.mayLeave ⟨false, false, true, sc.toNat⟩ = true → ∀ old, old = memRead s.mem t.pa n →
        ∃ u, exec (.amof w sc b a f d) s = .next u ∧ u.cx.pc = s.cx.pc + 4 ∧ MemSameBut s u t.pa n ∧
          (f.toNat < 4 → memRead u.mem t.pa n = (if old = (s.getX d).toNat % 256 ^ n then (s.getX b).toNat % 256 ^ n else old) ∧
            u.getX d = (if d = 0 then 0 else (BitVec.ofNat (8 * n) old).signExtend 64)) ∧
          (4 ≤ f.toNat → f.toNat < 7 → memRead u.mem t.pa n = portOp (f.toNat + 4) 4 old (s.getX b).toNat % 256 ^ n ∧
            u.getX d = (if d = 0 then 0 else BitVec.ofNat 64 old)))

/-- LR and SC (R142, R144): LR answers the value at its place and holds a reservation on the line for that address and width; SC
writes x[b] and answers 0 when the reservation held is for its address and width, and otherwise answers 1 and writes nothing;
SC ends the reservation either way. (Nothing that LR comes after is on its way.)

The model's choice, where it rests on one: where LR reads and what it needs (log entry 18). -/
def Obligations.LoadReserved : Prop :=
  ∀ (aq rl z : BitVec 1) (b a d : BitVec 5) (s : State) (n : Nat) (va : Word), n = (if z = 1 then 8 else 4) → va = s.getX a →
    (va.toNat % n ≠ 0 → Traps (.lr aq rl a z d) s (exn 4 va) ∧ Traps (.sc aq rl b a z d) s (exn 6 va)) ∧
    (Safe s → va.toNat % n = 0 → s.cx.mayLeave (s.cx.amoOrder (aq = 1) (rl = 1)) = true →
      (∀ t r, s.resolve .load va n s.cx.tileco = .ok t → t.kind ≠ .device → t.retry = false → s.checkPlace .load t va n = .ok () →
        s.resvRoom t.resvHome = some r → r.settled t va n → ∃ u x, exec (.lr aq rl a z d) s = .next u ∧ u.cx.pc = s.cx.pc + 4 ∧
          u.getX d = (if d = 0 then 0 else (BitVec.ofNat (8 * n) (memRead s.mem t.pa n)).signExtend 64) ∧ u.mem = s.mem ∧
          u.cx.resv = some x ∧ x.line = lineOf t.pa ∧ x.addr = va ∧ x.width = n) ∧
      (∀ t, s.rmwTarget va n = .ok t → ∀ won : Bool,
        (won = true ↔ ∃ r, s.cx.resv = some r ∧ r.addr = va ∧ r.width = n) →
        ∃ u, exec (.sc aq rl b a z d) s = .next u ∧ u.cx.pc = s.cx.pc + 4 ∧ u.cx.resv = none ∧
          u.getX d = (if d = 0 ∨ won then 0 else 1) ∧
          (if won then memRead u.mem t.pa n = (s.getX b).toNat % 256 ^ n ∧ MemSameBut s u t.pa n else u.mem = s.mem)))

/-- LD.S and LD.ACQ (R210, R219, R220): W is waited for; the value is read at its place, never in the first-level cache, and
extended by f3; LD.ACQ at span scope or wider drops the thread's first-level copies, LD.S none. A misaligned address raises
cause 4. (Nothing that the load comes after is on its way.)

ST.S and ST.REL (R210, R213, R220): W is waited for, and the order admits the store; in the local window the bytes are written
at once, and elsewhere the store enters the log as a strong one with its scope. A misaligned address raises cause 6.

The order that makes a strong store or a release wait (R210, R211): a release of span scope or wider leaves only with every
posted write acknowledged, and no strong store or release whose scope is span or wider leaves before an earlier strong store of span
scope or wider is acknowledged.

The model's choice, where it rests on one: a strong store that may not leave waits at its issue, and a narrower one of core scope does not hold it (log entry 19). -/
def Obligations.StrongAccesses : Prop :=
  (
    ∀ (w sc : BitVec 2) (b a d : BitVec 5) (f : BitVec 3) (acq : Bool) (s : State) (n : Nat) (va : Word),
      ∀ i, i = (if acq then Instr.ldAcq w sc b a f d else Instr.ldS w sc b a f d) →
      n = 2 ^ (f.toNat % 4) → va = s.getX a + s.getX b → s.cx.waitMet w.toNat 0 = true →
        (va.toNat % n ≠ 0 → Traps i s (exn 4 va)) ∧
        (va.toNat % n = 0 → ∀ t, s.reach .load va n = .ok t → isMmio t.pa = false → s.settled t va n →
          ∀ v, v = BitVec.ofNat (8 * n) (memRead s.mem t.pa n) → ∃ u, exec i s = .next u ∧ u.cx.pc = s.cx.pc + 4 ∧ u.mem = s.mem ∧
            (∀ r, u.getX r = if r ≠ 0 ∧ r = d then (if f.toNat < 4 then v.signExtend 64 else v.setWidth 64) else s.getX r) ∧
            (acq = false → u.l1 = s.l1) ∧ (acq = true → sc ≠ 0 → ∀ l ∈ u.l1, ∀ j < s.cx.comp.n, l.h ≠ s.cx.key.h + j) ∧
            u.sansCommit.sansMem.sansX.sansTraffic = s.sansCommit.sansMem.sansX.sansTraffic)) ∧
  (
    ∀ (w sc : BitVec 2) (b a : BitVec 5) (f : BitVec 2) (rel : Bool) (s : State) (n : Nat) (va : Word),
      ∀ i, i = (if rel then Instr.stRel w sc b a f else Instr.stS w sc b a f) → n = 2 ^ f.toNat → va = s.getX a →
      s.cx.waitMet w.toNat 0 = true →
        (va.toNat % n ≠ 0 → Traps i s (exn 6 va)) ∧
        (Safe s → va.toNat % n = 0 → ∀ t, s.storeTarget va n s.cx.tileco = .ok t → isMmio t.pa = false →
          s.mayIssue ⟨false, rel, true, sc.toNat⟩ t va = true →
          ((t.kind = .localWin ∨ t.kind = .device) → s.localOpen t.pa n = true → ∃ u, exec i s = .next u ∧ u.cx.pc = s.cx.pc + 4 ∧
            memRead u.mem t.pa n = (s.getX b).toNat % 256 ^ n ∧ MemSameBut s u t.pa n ∧
            u.sansCommit.sansMem.sansTraffic = s.sansCommit.sansMem.sansTraffic) ∧
          ((t.kind = .siteWin ∨ t.kind = .glob) → ∀ k, s.freeIdx (s.cx.bankSite va) = some k → ∃ u x, exec i s = .next u ∧ u.cx.pc = s.cx.pc + 4 ∧
            u.mem = s.mem ∧ u.cx.log = s.cx.log ++ [x] ∧ x.idx = k ∧ x.addr = va ∧ x.kind = .store ∧ x.strong = true ∧ x.scope = sc ∧
            x.st = .sent ∧ x.cells = (List.range n).map (fun j => (j, BitVec.ofNat 8 ((s.getX b).toNat / 256 ^ j))) ∧
            u.sansCommit.sansLog.sansMem.sansTraffic = s.sansCommit.sansLog.sansMem.sansTraffic))) ∧
  (
    ∀ (c : Ctx) (o : Order), c.mayLeave o = true →
      (o.rel = true → 1 ≤ o.scope → c.storeCount .scs = 0 ∧ c.storeCount .scd = 0 ∧ c.storeCount .scm = 0) ∧
      (o.strong = true ∨ o.rel = true → 1 ≤ o.scope → ∀ e ∈ c.log, e.kind = .store → e.strong = true → 1 ≤ e.scope.toNat →
        ∃ why, e.st = .failed why))

/-- RED, LACC.ADD and LACC.CLR (R53, R221, R223): in a local window the place is changed at once, by the port operation, by the
exact sum, or to zero; elsewhere the operation is posted with its operand. Registers keep their values. (Nothing that the core has
sent to those bytes of its own pool is on its way, and the packet of a posted one finds a frame.)

LACC.ADD of a NaN or an infinity sends nothing, leaves the accumulator and sets NV; LACC.RND answers the rounded value, and
sets the flags of its conversion, NX and OF among them (R54, R59, R223). The lines of its bytes are read in one copy of their home.

The model's choice, where it rests on one: one place for the 72 bytes (log entries 47 and 109), the flags of LACC.RND (50) and the order of the checks of LACC.ADD (51). -/
def Obligations.PostedReductions : Prop :=
  (
    ∀ (w : BitVec 2) (b a : BitVec 5) (z p : BitVec 1) (c : BitVec 5) (s : State), s.cx.waitMet w.toNat 0 = true → Safe s →
      let done (i : Instr) (t : Target) (n : Nat) (k : OpKind) (op : Nat) (f : Nat → Nat) : Prop :=
        (t.kind = .localWin → s.localOpen t.pa n = true → ∃ u, exec i s = .next u ∧ u.cx.pc = s.cx.pc + 4 ∧ memRead u.mem t.pa n = f (memRead s.mem t.pa n) % 256 ^ n ∧
          MemSameBut s u t.pa n ∧ u.sansCommit.sansMem.sansTraffic = s.sansCommit.sansMem.sansTraffic) ∧
        ((t.kind = .siteWin ∨ t.kind = .glob) → s.roomFor (s.cx.bankSite (s.getX a)) s.cx.leaf 0 = true →
          ∀ j, s.freeIdx (s.cx.bankSite (s.getX a)) = some j → ∃ u x, exec i s = .next u ∧ u.cx.pc = s.cx.pc + 4 ∧
          u.mem = s.mem ∧ u.cx.log = s.cx.log ++ [x] ∧ x.idx = j ∧ x.addr = s.getX a ∧ x.kind = k ∧ x.op = op ∧ x.len = n ∧
          x.pa = t.pa ∧ x.st = .sent ∧ (k ≠ .laccClr → x.data = (s.getX b).setWidth 1024) ∧
          u.sansCommit.sansLog.sansMem.sansTraffic = s.sansCommit.sansLog.sansMem.sansTraffic)
      (∀ n t, n = (if z = 1 then 8 else 4) → (s.getX a).toNat % n = 0 → s.postedTarget (s.getX a) n = .ok t →
        done (.red w b a z c) t n .red c.toNat fun old => portOp c.toNat n old (s.getX b).toNat) ∧
      (∀ t, s.laccTarget (s.getX a) = .ok t →
        done (.laccClr w a) t 72 .laccClr 0 (fun _ => 0) ∧
        (laccRefuses (p = 1) (s.getX b) = false →
          done (.laccAdd w b a p) t 72 .laccAdd p.toNat fun old => laccAdd old (laccTerm (p = 1) (s.getX b)).num))) ∧
  (
    ∀ (w : BitVec 2) (b a d : BitVec 5) (p f : BitVec 1) (s : State), s.cx.waitMet w.toNat 0 = true → (s.getX a).toNat % 8 = 0 →
      (laccRefuses (p = 1) (s.getX b) = true →
        Completes (.laccAdd w b a p) s { s with cx := { s.cx with vflags := s.cx.vflags ||| 8 } } false) ∧
      (∀ t, s.resolve .load (s.getX a) 72 s.cx.tileco = .ok t → t.kind ≠ .device → s.laccWhole .load t (s.getX a) = true →
        t.retry = false → s.checkPlace .load t (s.getX a) 72 = .ok () → s.settled t (s.getX a) 72 →
        ∀ o pl, o = (if t.kind = .glob then s.together t.site t.pa 72 else s) →
        pl = (if t.kind = .glob then o.placeAt t.site (physOf t.pa) else t.pa) →
        ∀ r, r = (if f = 1 then fp64 else fp32).convert s.cx.rm s.cx.sat (laccNum (memRead o.mem pl 72)) →
        ∃ u, exec (.laccRnd w a f d) s = .next u ∧ u.cx.pc = s.cx.pc + 4 ∧ u.mem = o.mem ∧
          u.getX d = (if d = 0 then 0 else BitVec.ofNat 64 r.bits) ∧
          u.cx.vflags = s.cx.vflags ||| r.flags.setWidth 64))

/-- PIN, UNPIN and CWAIT (R224, R225): a window is refused with reason 3; a global line that no rule refuses becomes pinned and
answers 1, and its home slice holds it in way 0 or 1; UNPIN takes the line out and answers whether it was pinned; CWAIT goes on once the
counts W selects are at most x[b].

FENCE, FENCE.TSO and FENCE.I (R146 to R148): with a write or output before it a fence waits until every posted write is
acknowledged; with a read after it, it drops the thread's first-level copies and the loads it performed early; FENCE.I also discards what its sites have
fetched. With an empty set on either side FENCE only advances. -/
def Obligations.PinsAndFences : Prop :=
  (
    ∀ (w : BitVec 2) (a b d : BitVec 5) (s : State), 
      (s.cx.waitMet w.toNat (s.getX b).toNat = true → Completes (.cwait w b) s s false) ∧
      (s.cx.waitMet w.toNat 0 = true →
        (regionOf (s.getX a) = .localWindow ∨ regionOf (s.getX a) = .siteWindow →
          Gives (.pin w a d) s d 6) ∧
        (∀ t, regionOf (s.getX a) = .global → s.resolve .load (s.getX a) 1 s.cx.tileco = .ok t → t.kind = .glob → isPeer t.pa = false →
          s.pinReason (lineOf t.pa) t.site = 0 → ∃ u, exec (.pin w a d) s = .next u ∧ u.cx.pc = s.cx.pc + 4 ∧
            u.getX d = (if d = 0 then 0 else 1) ∧ (∃ p ∈ u.cx.pins, p.line = lineOf t.pa) ∧
            (s.cx.pinsLine (lineOf t.pa) = false → ∃ l ∈ u.slices, l.home = t.site ∧ l.line = lineOf t.pa ∧ l.way < 2)) ∧
        (∃ u, exec (.unpin w a d) s = .next u ∧ u.cx.pc = s.cx.pc + 4 ∧
          u.cx.pins = s.cx.pins.filter (fun p => p.va.toNat / 128 ≠ (s.getX a).toNat / 128) ∧
          u.getX d = (if d ≠ 0 ∧ ∃ p ∈ s.cx.pins, p.va.toNat / 128 = (s.getX a).toNat / 128 then 1 else 0)))) ∧
  (
    ∀ (p c : BitVec 4) (s : State),
      let dropped := (s.invalidateAll s.cx.members).mapCx Ctx.settleLoads
      (p = 0 ∨ c = 0 → Completes (.fence p c) s s false) ∧
      (p ≠ 0 → c ≠ 0 → (p.getLsbD 0 = true ∨ p.getLsbD 2 = true → s.cx.drained = true) →
        Completes (.fence p c) s (if c.getLsbD 1 then dropped else s) false) ∧
      (p ≠ 0 → c ≠ 0 → (p.getLsbD 0 = true ∨ p.getLsbD 2 = true) → s.cx.drained = false → exec (.fence p c) s = .next s) ∧
      (s.cx.drained = true → Completes .fenceTso s dropped false ∧
        Completes .fenceI s { dropped with icache := s.icache.filter fun x => !s.cx.members.contains x.h } false))

/-! ## Vectors and tiles -/

/-- VINT (R33, R156, R158): the result has a's tag; each enabled element is the named function of a's element and operand b's,
in w bits; IO is set when an enabled element says so.

Operand b by f3 (R157): the vector form is v[b], which must have a's tag, or cause 24; the scalar form is the low bits of x[b];
the immediate form of an integer tag is the field sign-extended; the channel form pops one entry, which must have a's tag. Each
element fits a's element width.

VABS, VSEL, VCMP (R158, R159): VABS wraps |a| and sets IO on the most negative value; VSEL takes a where the selector bit is
1, and for bits 128 and up of BITS, and b elsewhere, in every element; VCMP writes one bit for each element, the others 0.

The model's choice, where it rests on one: an immediate that its tag does not hold is a free value (log entries 69 and 74). -/
def Obligations.VectorInteger : Prop :=
  (
    let sg (w x : Nat) : Int := (BitVec.ofNat w x).toInt
    let wrap (w : Nat) (z : Int) : Nat := (z % 2 ^ w).toNat
    let int (t : Tag) : Prop := t = 2 ∨ t = 3 ∨ t = 4 ∨ t = 5
    let f : List ((BitVec 3 → BitVec 5 → BitVec 5 → BitVec 2 → BitVec 5 → Instr) × Bool × (Nat → Nat → Nat → Nat) ×
        (Nat → Nat → Nat → Bool)) := [
      (.vadd, false, fun _ x y => x + y, fun _ _ _ => false), (.vsub, false, fun w x y => wrap w (x - y), fun _ _ _ => false),
      (.vmul, false, fun _ x y => x * y, fun _ _ _ => false),
      (fun pg b a o d => .vmulh pg b a 0 o d, false, fun w x y => wrap w (sg w x * sg w y / 2 ^ w), fun _ _ _ => false),
      (fun pg b a o d => .vmulh pg b a 1 o d, false, fun w x y => x * y / 2 ^ w, fun _ _ _ => false),
      (fun pg b a o d => .vmin pg b a 0 o d, false, fun w x y => if sg w x ≤ sg w y then x else y, fun _ _ _ => false),
      (fun pg b a o d => .vmin pg b a 1 o d, false, fun _ x y => min x y, fun _ _ _ => false),
      (fun pg b a o d => .vmax pg b a 0 o d, false, fun w x y => if sg w x ≤ sg w y then y else x, fun _ _ _ => false),
      (fun pg b a o d => .vmax pg b a 1 o d, false, fun _ x y => max x y, fun _ _ _ => false),
      (.vand, true, fun _ x y => x &&& y, fun _ _ _ => false), (.vor, true, fun _ x y => x ||| y, fun _ _ _ => false),
      (.vxor, true, fun _ x y => x ^^^ y, fun _ _ _ => false), (.vsll, false, fun w x y => x * 2 ^ (y % w), fun _ _ _ => false),
      (.vsrl, false, fun w x y => x / 2 ^ (y % w), fun _ _ _ => false),
      (.vsra, false, fun w x y => wrap w (sg w x / 2 ^ (y % w)), fun _ _ _ => false),
      (fun pg b a o d => .vsadd pg b a 0 o d, false,
        fun w x y => wrap w (max (-2 ^ (w - 1)) (min (2 ^ (w - 1) - 1) (sg w x + sg w y))),
        fun w x y => decide (sg w x + sg w y < -2 ^ (w - 1) ∨ 2 ^ (w - 1) ≤ sg w x + sg w y)),
      (fun pg b a o d => .vsadd pg b a 1 o d, false, fun w x y => min (x + y) (2 ^ w - 1), fun w x y => decide (2 ^ w ≤ x + y))]
    ∀ e ∈ f, ∀ (pg : BitVec 3) (b a d : BitVec 5) (o : BitVec 2) (s : State) (x : VReg) (y : Nat → Nat) (u : State),
      x = s.getV a → (int x.tag ∨ (e.2.1 = true ∧ x.tag = 1)) → s.operandB o x.tag b = .ok (y, u) → (∀ i, y i < 2 ^ tagWidth x.tag) →
        GivesV (e.1 pg b a o d) s u d x.tag (Enabled s pg) (fun i => e.2.2.1 (tagWidth x.tag) (x.elem i) (y i))
          (fun i => if e.2.2.2 (tagWidth x.tag) (x.elem i) (y i) then 32 else 0)) ∧
  (
    ∀ (s : State) (t : Tag) (b : BitVec 5), t ≠ 0 →
      ((s.getV b).tag = t → ∃ y, s.operandB 0 t b = .ok (y, s) ∧ ∀ i, y i = (s.getV b).elem i) ∧
      ((s.getV b).tag ≠ t → s.operandB 0 t b = .error (.trap (exnTagOne 0 b.toNat (s.getV b).tag t))) ∧
      (∃ y, s.operandB 1 t b = .ok (y, s) ∧ ∀ i, y i = (s.getX b).toNat % 2 ^ tagWidth t) ∧
      (∃ y, s.operandB 2 t b = .ok (y, s) ∧ ((t = 2 ∨ t = 3 ∨ t = 4 ∨ t = 5) → ∀ i, y i = (b.toInt % 2 ^ tagWidth t).toNat)) ∧
      (∀ e u, s.popSource b.toNat = .ok (e, u) → (e.tag = t → ∃ y, s.operandB 3 t b = .ok (y, u) ∧ ∀ i, y i = e.elem i) ∧
        (e.tag ≠ t → s.operandB 3 t b = .error (.trap (exnTagOne 2 b.toNat e.tag t)))) ∧
      (∀ o y u, s.operandB o t b = .ok (y, u) → ∀ i, y i < 2 ^ tagWidth t)) ∧
  (
    let sg (w x : Nat) : Int := (BitVec.ofNat w x).toInt
    let cond (w c x y : Nat) : Prop := match c with
      | 0 => x = y
      | 1 => x ≠ y
      | 2 => sg w x < sg w y
      | 3 => sg w y ≤ sg w x
      | 4 => x < y
      | 5 => y ≤ x
      | 6 => sg w y < sg w x
      | _ => y < x
    ∀ (pg : BitVec 3) (b a d : BitVec 5) (o : BitVec 2) (s : State) (x : VReg), x = s.getV a → ∀ w, w = tagWidth x.tag →
      (isInt x.tag = true → GivesV (.vabs pg a d) s s d x.tag (Enabled s pg) (fun i => (sg w (x.elem i)).natAbs)
        (fun i => if x.elem i = 2 ^ (w - 1) then 32 else 0)) ∧
      ∀ y u, s.operandB o x.tag b = .ok (y, u) → (∀ i, y i < 2 ^ w) →
        (x.tag ≠ 0 → ∃ r, r.tag = x.tag ∧ (∀ i < tagElems x.tag, (Enabled s pg i → r.elem i = x.elem i) ∧
          (¬ Enabled s pg i → r.elem i = y i)) ∧ Completes (.vsel pg b a o d) s (u.setV d r) true) ∧
        (isInt x.tag = true → ∃ p, (∀ i < 128, p.getLsbD i = true ↔ i < tagElems x.tag ∧ cond w pg.toNat (x.elem i) (y i)) ∧
          Completes (.vcmp pg b a o d) s (u.setP (d.setWidth 3) p) true))

/-- Operands that a card does not accept (R33): an INT, a VFLT or a tile instruction raises cause 24, with the register, its file and the tag
found, when its first source holds no tag of its class, and VSEL, which accepts any tag but EMPTY, with bit 16 set. -/
def Obligations.TagTraps : Prop :=
  ∀ (pg : BitVec 3) (b a d : BitVec 5) (o : BitVec 2) (h : BitVec 1) (s : State) (t : Tag) (val : Word), t = (s.getV a).tag →
    val = BitVec.ofNat 64 (a.toNat + 256 * t.toNat) →
    (t ≠ 2 → t ≠ 3 → t ≠ 4 → t ≠ 5 → (∀ i ∈ [Instr.vadd pg b a o d, .vsub pg b a o d, .vmul pg b a o d, .vmulh pg b a h o d,
        .vmin pg b a h o d, .vmax pg b a h o d, .vsll pg b a o d, .vsrl pg b a o d, .vsra pg b a o d, .vsadd pg b a h o d, .vabs pg a d,
        .vcmp pg b a o d], Traps i s (exn 24 val)) ∧
      (t ≠ 1 → ∀ i ∈ [Instr.vand pg b a o d, .vor pg b a o d, .vxor pg b a o d], Traps i s (exn 24 val))) ∧
    (t ≠ 6 → t ≠ 7 → t ≠ 8 → ∀ i ∈ [Instr.vfadd pg b a o d, .vfsub pg b a o d, .vfmul pg b a o d, .vfma pg b a o d, .vfmin pg b a o d,
        .vfmax pg b a o d, .vfmaxabs pg b a o d, .vfdiv pg b a o d, .vfcmp pg b a o d, .vfabs pg a d, .vfneg pg a d, .vfrcp pg a d,
        .vfrsq pg a d, .vfexp2 pg a d, .vflog2 pg a d, .vfclass pg a d], Traps i s (exn 24 val)) ∧
    (t = 0 → Traps (.vsel pg b a o d) s (exn 24 (BitVec.ofNat 64 (a.toNat + 2 ^ 16)))) ∧
    ∀ (m k : BitVec 3) (e : BitVec 5), isTileTag (s.getM m).tag = false → ∀ i ∈ [Instr.tmov m k, .ttrans m k, .tpick b m h e],
      Traps i s (exn 24 (BitVec.ofNat 64 (m.toNat + 32 + 256 * (s.getM m).tag.toNat)))

/-- VFLT (R160, R161): on FP32, BF16 and FP16 each enabled element is the exact operation rounded once under vctl.RM, and its
flags are set; VFMA reads v[d] under a's tag.

VFCMP and VFCLASS (R161): one bit of a predicate for each element, with the flags of the condition; and the class mask, INT32
for FP32 and INT16 otherwise, with no flag.

The model's choice, where it rests on one: VFEXP2 and VFLOG2 take the value of a fixed series as the exact result (log entry 29). -/
def Obligations.VectorFloat : Prop :=
  (
    let f : List ((BitVec 3 → BitVec 5 → BitVec 5 → BitVec 2 → BitVec 5 → Instr) × (Fmt → Nat → Nat → Nat → Rounded)) := [
      (.vfadd, fun t m x y => fRound t m (numAdd m (t.decode x) (t.decode y))),
      (.vfsub, fun t m x y => fRound t m (numAdd m (t.decode x) (t.decode y).flip)),
      (.vfmul, fun t m x y => fRound t m (numMul (t.decode x) (t.decode y))),
      (.vfdiv, fun t m x y => fRound t m (numDiv (t.decode x) (t.decode y))), (.vfmin, fun t _ x y => fMin t x y),
      (.vfmax, fun t _ x y => fMax t x y), (.vfmaxabs, fun t _ x y => fMaxAbs t x y)]
    let g : List ((BitVec 3 → BitVec 5 → BitVec 5 → Instr) × (Fmt → Nat → Nat → Rounded)) := [
      (.vfabs, fun t _ x => ⟨x % 2 ^ (t.width - 1), 0⟩), (.vfneg, fun t _ x => ⟨x ^^^ 2 ^ (t.width - 1), 0⟩),
      (.vfrcp, fun t m x => fRound t m (numDiv (.exact false 1 0) (t.decode x))),
      (.vfrsq, fun t m x => fRound t m (numRsqrt (t.decode x))), (.vfexp2, fun t m x => fRound t m (numExp2 (t.decode x))),
      (.vflog2, fun t m x => fRound t m (numLog2 (t.decode x)))]
    ∀ (pg : BitVec 3) (b a d : BitVec 5) (o : BitVec 2) (s : State) (x : VReg), x = s.getV a → isVflt x.tag = true →
      ∀ t m, t = vfltFmt x.tag → m = s.cx.vctl.toNat % 4 →
        (∀ e ∈ g, GivesV (e.1 pg a d) s s d x.tag (Enabled s pg) (fun i => (e.2 t m (x.elem i)).bits)
          (fun i => (e.2 t m (x.elem i)).flags)) ∧
        ∀ y u, s.operandB o x.tag b = .ok (y, u) →
          (∀ e ∈ f, GivesV (e.1 pg b a o d) s u d x.tag (Enabled s pg) (fun i => (e.2 t m (x.elem i) (y i)).bits)
            (fun i => (e.2 t m (x.elem i) (y i)).flags)) ∧
          ((s.getV d).tag = x.tag → ∀ z : Nat → Rounded,
            (∀ i, z i = fRound t m (numFma m (t.decode (x.elem i)) (t.decode (y i)) (t.decode ((s.getV d).elem i)))) →
            GivesV (.vfma pg b a o d) s u d x.tag (Enabled s pg) (fun i => (z i).bits) (fun i => (z i).flags))) ∧
  (
    ∀ (c pg : BitVec 3) (b a d : BitVec 5) (o : BitVec 2) (s : State) (x : VReg), x = s.getV a → isVflt x.tag = true →
      GivesV (.vfclass pg a d) s s d (if x.tag = 6 then 4 else 3) (Enabled s pg) (fun i => classMask x.tag (x.elem i)) (fun _ => 0) ∧
      ∀ y u, s.operandB o x.tag b = .ok (y, u) → ∃ p fl,
        (∀ i < 128, p.getLsbD i = true ↔ i < tagElems x.tag ∧ (floatCond x.tag c.toNat (x.elem i) (y i)).1 = true) ∧
        FlagsOf fl (tagElems x.tag) (fun _ => True) (fun i => (floatCond x.tag c.toNat (x.elem i) (y i)).2) ∧
        Completes (.vfcmp c b a o d) s ((u.setP (d.setWidth 3) p).addFlags fl) true)

/-- VCVT, VPACK, VUNPACK and VDQ (R47, R49, R59, R163 to R165): converted lanes by part, packed images and back, and QC4 codes
times their scales.

The reductions of integer tags (R166): element 0 takes the sum of the enabled elements modulo 2^w, or the largest or smallest
under the reading; with none enabled 0, the least or the greatest value. The other elements are 0. For float tags element 0 is the
tree's value. -/
def Obligations.VectorConversions : Prop :=
  (
    ∀ (pg : BitVec 3) (b a d : BitVec 5) (t u1 h : BitVec 1) (f : BitVec 4) (j : BitVec 2) (s : State) (x : VReg), x = s.getV a →
      (isNumeric x.tag = true → f ≠ 0 → ∀ src, src = cvtSource (tagElems x.tag) (tagElems f) j.toNat →
        ∀ on : Nat → Prop, (∀ i, on i ↔ Enabled s pg i ∧ (src i).isSome) →
        (∀ i < tagElems f, on i → nanLost s.cx x.tag f (x.elem ((src i).getD 0)) = false) →
        ∀ r : Nat → Rounded, (∀ i, r i = convertElem x.tag f (u1 = 1) s.cx.rm (s.cx.satFor f (t = 1)) (x.elem ((src i).getD 0))) →
        GivesV (.vcvt pg t f a u1 j d) s s d f on (fun i => (r i).bits) (fun i => (r i).flags)) ∧
      ((x.tag = 11 ∨ x.tag = 12) → GivesV (.vpack a 0 d) s s d 1 (fun i => i < 768)
        (fun i => x.elem (i / 6) % 64 / 2 ^ (i % 6) % 2) (fun _ => 0)) ∧
      ((x.tag = 13 ∨ x.tag = 14) → GivesV (.vpack a h d) s s d 1 (fun i => 512 * h.toNat ≤ i ∧ i < 512 * h.toNat + 512)
        (fun i => x.elem ((i - 512 * h.toNat) / 4) % 16 / 2 ^ ((i - 512 * h.toNat) % 4) % 2) (fun _ => 0)) ∧
      (x.tag = 1 → (f = 11 ∨ f = 12) → GivesV (.vunpack f a 0 d) s s d f (fun _ => True)
        (fun i => x.bits.toNat / 2 ^ (6 * i) % 64) (fun _ => 0)) ∧
      (x.tag = 1 → (f = 13 ∨ f = 14) → GivesV (.vunpack f a h d) s s d f (fun _ => True)
        (fun i => x.bits.toNat / 2 ^ (512 * h.toNat + 4 * i) % 16) (fun _ => 0)) ∧
      (x.tag = 14 → ∀ r : Nat → Rounded, (∀ i, r i = fRound fp32 s.cx.rm (qc4Scaled (fp32.decode (fld (s.getX b) 63 32))
          (if 32 * j.toNat + i < 64 then fld (s.getX b) 7 0 else fld (s.getX b) 15 8) (x.elem (32 * j.toNat + i)))) →
        GivesV (.vdq pg b a j d) s s d 6 (Enabled s pg) (fun i => (r i).bits) (fun i => (r i).flags))) ∧
  (
    ∀ (pg : BitVec 3) (a d : BitVec 5) (h : BitVec 1) (s : State) (x : VReg), x = s.getV a → ∀ w n, w = tagWidth x.tag → n = tagElems x.tag →
      let v (e : Nat) : Int := if h = 1 then e else (BitVec.ofNat w e).toInt
      let first (r : Nat) (i : Nat) : Nat := if i = 0 then r else 0
      (isInt x.tag = true →
        GivesV (.vredsum pg a h d) s s d x.tag (fun _ => True)
          (first (((List.range n).map fun i => if enabledBy (s.getP pg) i then x.elem i else 0).sum)) (fun _ => 0) ∧
        (∃ m, ((∃ i < n, Enabled s pg i) → (∃ i < n, Enabled s pg i ∧ m = x.elem i) ∧ ∀ i < n, Enabled s pg i → v (x.elem i) ≤ v m) ∧
          ((∀ i < n, ¬ Enabled s pg i) → m = if h = 1 then 0 else 2 ^ (w - 1)) ∧
          GivesV (.vredmax pg a h d) s s d x.tag (fun _ => True) (first m) (fun _ => 0)) ∧
        (∃ m, ((∃ i < n, Enabled s pg i) → (∃ i < n, Enabled s pg i ∧ m = x.elem i) ∧ ∀ i < n, Enabled s pg i → v m ≤ v (x.elem i)) ∧
          ((∀ i < n, ¬ Enabled s pg i) → m = if h = 1 then 2 ^ w - 1 else 2 ^ (w - 1) - 1) ∧
          GivesV (.vredmin pg a h d) s s d x.tag (fun _ => True) (first m) (fun _ => 0))) ∧
      (isVflt x.tag = true → ∀ t, t = vfltFmt x.tag →
        let red (i : Instr) (f : Nat → Nat → Rounded) (e : Nat) : Prop :=
          ∀ r, r = reduceTree f (fun i => if enabledBy (s.getP pg) i then some (x.elem i) else none) n.log2 0 →
            GivesV i s s d x.tag (fun _ => True) (first (r.1.getD e)) (fun i => if i = 0 then r.2 else 0)
        red (.vredsum pg a h d) (fun p q => fRound t s.cx.rm (numAdd s.cx.rm (t.decode p) (t.decode q))) 0 ∧
        red (.vredmax pg a h d) (fMax t) (t.infBits true) ∧ red (.vredmin pg a h d) (fMin t) (t.infBits false)))

/-- The movers and the tag instructions (R167, R168): what each lane, register or tag takes.

The predicate instructions (R31, R169): p0 reads all ones and discards what is written to it.

The model's choice, where it rests on one: VSETTAG EMPTY takes any a (log entry 132). -/
def Obligations.VectorMoves : Prop :=
  (
    ∀ (pg : BitVec 3) (b a d : BitVec 5) (u1 : BitVec 1) (f : BitVec 4) (j o : BitVec 2) (s : State) (x y : VReg), x = s.getV a →
      y = s.getV b → ∀ n, n = tagElems x.tag →
      (x.tag ≠ 0 → y.tag ≠ 0 → y.tag = indexTag x.tag → GivesV (.vperm pg b a d) s s d x.tag (Enabled s pg)
        (fun i => x.elem (y.elem i % n)) (fun _ => 0)) ∧
      (x.tag ≠ 0 → (o = 1 ∨ o = 2) → ∀ k : Int, k = (if o = 1 then (s.getX b).toInt else b.toInt) →
        GivesV (.vslide pg b a o d) s s d x.tag (Enabled s pg)
          (fun i => if 0 ≤ (i : Int) - k ∧ (i : Int) - k < n then x.elem ((i : Int) - k).toNat else 0) (fun _ => 0)) ∧
      (f ≠ 0 → GivesV (.vbcast pg f a d) s s d f (Enabled s pg) (fun _ => (s.getX a).toNat % 2 ^ laneBits f) (fun _ => 0)) ∧
      (x.tag ≠ 0 → ∀ v, v = x.elem ((s.getX b).toNat % n) → Completes (.vmvXv b a u1 d) s
        (s.setX d (if isInt x.tag ∧ u1 = 0 then BitVec.ofInt 64 (BitVec.ofNat (tagWidth x.tag) v).toInt else BitVec.ofNat 64 v)) true) ∧
      ((s.getV d).tag ≠ 0 → GivesV (.vmvVx b a d) s s d (s.getV d).tag (fun i => i = (s.getX b).toNat % tagElems (s.getV d).tag)
        (fun _ => (s.getX a).toNat % 2 ^ laneBits (s.getV d).tag) (fun _ => 0)) ∧
      ((x.tag = 2 ∨ x.tag = 13 ∨ x.tag = 14) → y.tag ≠ 0 → y.tag ≠ 1 → GivesV (.vlut pg b a j d) s s d y.tag (Enabled s pg)
        (fun i => y.elem (x.elem (j.toNat * tagElems y.tag % 128 + i) % 16)) (fun _ => 0)) ∧
      Completes (.vsettag 0 a d) s (s.setV d ⟨0, 0⟩) true ∧
      (f ≠ 0 → x.tag ≠ 0 → GivesV (.vsettag f a d) s s d f (fun _ => True)
        (fun i => elemOf (tagWidth f) x.bits i % 2 ^ laneBits f) (fun _ => 0)) ∧
      Completes (.vtag a d) s (s.setX d (x.tag.setWidth 64)) true) ∧
  (
    ∀ (b a d : BitVec 3) (e : BitVec 5) (s : State) (x y : BitVec 128),
      x = (if a = 0 then BitVec.allOnes 128 else s.cx.p.get a.toFin) → y = (if b = 0 then BitVec.allOnes 128 else s.cx.p.get b.toFin) →
      let put (v : BitVec 128) : State := if d = 0 then s else { s with cx := { s.cx with p := s.cx.p.set d.toFin v } }
      Completes (.pand b a d) s (put (x &&& y)) true ∧ Completes (.por b a d) s (put (x ||| y)) true ∧
      Completes (.pxor b a d) s (put (x ^^^ y)) true ∧ Completes (.pnot a d) s (put (~~~x)) true ∧
      Completes (.pcnt a e) s (s.setX e (BitVec.ofNat 64 ((List.range 128).countP fun i => x.getLsbD i))) true ∧
      ∃ k, ((∃ i < 128, x.getLsbD i = true) → k < 128 ∧ x.getLsbD k = true ∧ ∀ i < k, x.getLsbD i = false) ∧
        ((∀ i < 128, x.getLsbD i = false) → k = 128) ∧ Completes (.pfirst a e) s (s.setX e (BitVec.ofNat 64 k)) true)

/-- The tile instructions that move (R170, R171): zeros, copies, the transpose, a row or column out and in, and tags:
retagging keeps every bit, so that retagging back restores the tile, and a tile of zeros stays one.

TCVT and TQSET (R59, R170 to R172): each element converted with one rounding under the mode f3 names and the saturation in
force, the side band zeroed; a tile quantised into QC4 with scales of its own.

The model's choice, where it rests on one: how 8-bit and 16-bit elements share the bits of a tile is free (log entry 73), integer elements of TCVT are signed (130), and an infinite or NaN element sets no NX in TQSET (131). -/
def Obligations.TileMoves : Prop :=
  (
    ∀ (a d : BitVec 3) (b e v : BitVec 5) (c : BitVec 1) (f : BitVec 4) (s : State) (x : MReg), x = s.getM a → ∀ k, k = (s.getX b).toNat % 64 →
      Completes (.tzero f d) s (s.setM d ⟨f, 0, 0⟩) true ∧
      (isTileTag x.tag = true → Completes (.tmov a d) s (s.setM d x) true ∧
        (x.tag ≠ 14 → GivesM (.ttrans a d) s s d x.tag 0 fun r q => x.elem q r) ∧
        GivesV (.tpick b a c e) s s e x.tag (fun _ => True)
          (fun i => if i < 64 then (if c = 0 then x.elem k i else x.elem i k) else 0) (fun _ => 0)) ∧
      (∀ y, y = s.getV v → isTileTag y.tag = true → ∀ same : Bool, same = decide ((s.getM d).tag = y.tag) →
        GivesM (.tplace b v c d) s s d y.tag (if same then (s.getM d).side else 0) fun r q =>
          if c = 0 ∧ r = k then y.elem q else if c = 1 ∧ q = k then y.elem r else if same then (s.getM d).elem r q else 0) ∧
      Completes (.ttagSet 0 d) s (s.setM d ⟨0, 0, 0⟩) true ∧
      (isTileTag f = true → isTileTag (s.getM d).tag = true → tagWidth f = tagWidth (s.getM d).tag → ∃ m, m.tag = f ∧
        m.side = (s.getM d).side ∧ (∀ r < 64, ∀ q < 64, m.elem r q = (s.getM d).elem r q % 2 ^ laneBits f) ∧
        Completes (.ttagSet f d) s (s.setM d m) true) ∧
      (∀ y, y = s.getM d → isTileTag f = true → isTileTag y.tag = true → laneBits f = tagWidth f → laneBits y.tag = tagWidth y.tag →
        ∃ t u, exec (.ttagSet f d) s = .next t ∧ (t.getM d).tag = f ∧ exec (.ttagSet y.tag d) t = .next u ∧ u.getM d = y) ∧
      (isTileTag f = true → (s.getM d).tag ≠ 0 → (s.getM d).elems = 0 →
        Completes (.ttagSet f d) s (s.setM d ⟨f, 0, (s.getM d).side⟩) true) ∧
      Completes (.ttagRead a e) s (s.setX e (x.tag.setWidth 64)) true) ∧
  (
    ∀ (a d : BitVec 3) (f : BitVec 4) (rl : BitVec 3) (s : State) (x : MReg), x = s.getM a → ∀ mode, mode = (if rl = 0 then s.cx.vctl.toNat % 4 else rl.toNat - 4) →
      let done (i : Instr) (sat : Bool) : Prop := ∃ m fl, MWritten m f 0 (fun r q => (tileConvert x f mode sat r q).bits) ∧
        FlagsOf fl 4096 (fun _ => True) (fun i => (tileConvert x f mode sat (i / 64) (i % 64)).flags) ∧
        Completes i s ((s.setM d m).addFlags fl) true
      (isTileTag x.tag = true → (s.cx.vctl.getLsbD 3 = false ∨ f.toNat < 11 ∨ 14 < f.toNat) →
        done (.tcvt f a rl d) (if isInt f then s.cx.vctl.getLsbD 4 else s.cx.vctl.getLsbD 2) ∧
        done (.tcvtSat f a rl d) true ∧ done (.tcvtNosat f a rl d) false) ∧
      ((x.tag = 7 ∨ x.tag = 8 ∨ x.tag = 9 ∨ x.tag = 10) → s.cx.vctl.getLsbD 3 = false →
        Completes (.tqset a d) s ((s.setM d (quantiseTile x).1).addFlags (quantiseTile x).2) true))

/-- VLD, VLDS, VLDX (R156, R217): the enabled elements are checked in rising order, and the first that is misaligned or does not
translate raises (with interrupt 17 at P where a table read met an uncorrectable error, log entry 122); otherwise each takes what a weak load of its address answers, queued where the first of them is, d takes the tag, and
memory stays as it is. (Nothing that the loads come after is on its way, no other context's write is seen in a copy alone, a line has one home for
all of them, and the cache has room.)

VLD of BITS (R217): one access of 128 bytes, governed by bit 0 of the predicate; in a window each byte of v[d] is the byte at
its place. (Nothing that it comes after is on its way, and the thread performed no load early.)

The model's choice, where it rests on one: BITS has no alignment (log entry 46), and what an uncorrectable error of a table read is reported as (122). -/
def Obligations.VectorLoads : Prop :=
  (
    ∀ (w : BitVec 2) (imm a b d : BitVec 5) (t : BitVec 4) (s : State) (m : Nat), m = tagWidth t / 8 → t ≠ 0 → t ≠ 1 →
      s.cx.waitMet w.toNat 0 = true →
      let loads (i : Instr) (n : Nat) (addr : Nat → Word) : Prop :=
        let on (k : Nat) : Prop := k < n ∧ k < tagElems t ∧ s.enabled k = true
        let good (k : Nat) : Prop := (addr k).toNat % m = 0 ∧ ∃ g, s.resolve .load (addr k) m s.cx.tileco = .ok g
        (∀ k, on k → (∀ j < k, on j → good j) → ((addr k).toNat % m ≠ 0 → Traps i s (exn 4 (addr k))) ∧
          (∀ e, (addr k).toNat % m = 0 → s.resolve .load (addr k) m s.cx.tileco = .error e →
            exec i s = .next ((if e.onTable then s.mapCx fun c => c.irq 17 .P e.val else s).raise e))) ∧
        ∀ (g : Nat → Target) (first : Word), (∀ k, on k → (∀ j < k, ¬ on j) → first = addr k) →
          s.cacheRoom (s.cx.bankSite first) (tagElems t) → (∀ k, on k → (addr k).toNat % m = 0 ∧ s.resolve .load (addr k) m s.cx.tileco = .ok (g k) ∧
            (g k).retry = false ∧ isMmio (g k).pa = false ∧ s.checkPlace .load (g k) (addr k) m = .ok () ∧
            s.settled (g k) first m ∧ s.foreign (physOf (g k).pa) m = none ∧
            (g k).pa % 128 + m ≤ 128) →
          (∀ k j, on k → on j → lineOf (g k).pa = lineOf (g j).pa → (g k).pa / 128 = (g j).pa / 128) →
          ∃ r u, VWritten (s.getV d) r t on (fun k => trimLane t (s.loadWeak (g k) first m m).1) ∧ exec i s = .next u ∧
            u.cx.pc = s.cx.pc + 4 ∧ u.mem = s.mem ∧
            u.sansCommit.sansMem.sansTraffic = (s.setV d r).sansCommit.sansMem.sansTraffic
      loads (.vld w imm t a d) 1024 (fun k => s.getX a + imm.signExtend 64 * 128 + BitVec.ofNat 64 (k * m)) ∧
      loads (.vlds w t b a d) 1024 (fun k => s.getX a + BitVec.ofNat 64 k * s.getX b) ∧
      (∀ x, x = s.getV b → (x.tag = 4 ∨ x.tag = 5) → loads (.vldx w t b a d) (tagElems x.tag)
        (fun k => s.getX a + (BitVec.ofNat (tagWidth x.tag) (x.elem k)).signExtend 64))) ∧
  (
    ∀ (w : BitVec 2) (imm a d : BitVec 5) (s : State) (va : Word) (g : Nat → Target), s.cx.waitMet w.toNat 0 = true →
      va = s.getX a + imm.signExtend 64 * 128 →
      (s.enabled 0 = true → ∀ j < 128, s.resolve .load (va + BitVec.ofNat 64 j) 1 s.cx.tileco = .ok (g j) ∧ (g j).kind = .localWin ∧
        isMmio (g j).pa = false ∧ s.checkPlace .load (g j) (va + BitVec.ofNat 64 j) 1 = .ok ()) → s.cx.early = [] → s.ahead s.cx.key.h s.cx.key.h = [] → s.posts = [] →
      ∃ r u, r.tag = 1 ∧ (s.enabled 0 = true → ∀ j < 128, r.bits.toNat / 256 ^ j % 256 = (memGet s.mem (g j).pa).toNat) ∧
        (s.enabled 0 = false → r.bits = if (s.getV d).tag = 1 then (s.getV d).bits else 0) ∧
        exec (.vld w imm 1 a d) s = .next u ∧ u.cx.pc = s.cx.pc + 4 ∧ u.mem = s.mem ∧
        u.sansCommit.sansMem = (s.setV d r).sansCommit.sansMem)

/-- VST, VSTS, VSTX (R213, R217): the enabled elements below the count are stored in rising order, and overlapping bytes take the
later element; in the local window at once, and elsewhere by one posted entry for each line, while the log has room. Nothing else
of memory, and no register, changes. EMPTY, and BITS in VSTS and VSTX, raise cause 24. (Where the bytes are written at once, nothing
that the core has sent to its own pool is on its way, and the schedule does not take them in parts; where they are posted, the first packet
finds a frame.)

The model's choice, where it rests on one: BITS has no alignment (log entry 46), one piece for a line (49) and the log that fills within one instruction (12, 13). -/
def Obligations.VectorStores : Prop :=
  ∀ (w : BitVec 2) (imm a b d : BitVec 5) (s : State) (r : VReg) (m : Nat), r = s.getV d → m = tagWidth r.tag / 8 →
    s.cx.waitMet w.toNat 0 = true →
    let bytes (n : Nat) (addr : Nat → Word) : List (Word × Byte) :=
      ((List.range (min n (tagElems r.tag))).filter s.enabled).flatMap fun k => (List.range m).map fun j =>
        (addr k + BitVec.ofNat 64 j, BitVec.ofNat 8 (r.elem k / 256 ^ j))
    let stores (i : Instr) (bs : List (Word × Byte)) : Prop := ∀ pl,
      (Safe s → s.ahead s.cx.key.h s.cx.key.h = [] → s.posts = [] → s.apart = false → BytesReach s s.cx.tileco [.localWin] pl bs → StoresNow i s s pl bs) ∧
      (∀ ls : List Nat, (∀ x ∈ bs, x.1.toNat / 128 ∈ ls) → s.logRoom bs ls.length →
        s.roomFor (s.cx.bankSite ((bs.head?.map (·.1)).getD 0)) s.cx.leaf 0 = true → BytesReach s s.cx.tileco [.siteWin, .glob] pl bs → StoresPost i s s pl bs)
    let aligned (n : Nat) (addr : Nat → Word) : Prop := ∀ k, k < n → k < tagElems r.tag → s.enabled k = true → (addr k).toNat % m = 0
    let form (i : Instr) (n : Nat) (addr : Nat → Word) : Prop := aligned n addr → stores i (bytes n addr)
    let block := s.getX a + imm.signExtend 64 * 128
    (r.tag = 0 → Traps (.vst w imm a d) s (exn 24 (BitVec.ofNat 64 (d.toNat + 0x10000)))) ∧
    (r.tag.toNat ≤ 1 → ∀ i, i = .vsts w b a d ∨ i = .vstx w b a d →
      Traps i s (exn 24 (BitVec.ofNat 64 (d.toNat + 256 * r.tag.toNat)))) ∧
    (r.tag = 1 → stores (.vst w imm a d) (if s.enabled 0 then (List.range 128).map fun j =>
      (block + BitVec.ofNat 64 j, BitVec.ofNat 8 (r.bits.toNat / 256 ^ j)) else [])) ∧
    (1 < r.tag.toNat → form (.vst w imm a d) 1024 (fun k => block + BitVec.ofNat 64 (k * m)) ∧
      form (.vsts w b a d) 1024 (fun k => s.getX a + BitVec.ofNat 64 k * s.getX b) ∧
      ∀ x, x = s.getV b → (x.tag = 4 ∨ x.tag = 5) → form (.vstx w b a d) (tagElems x.tag)
        (fun k => s.getX a + (BitVec.ofNat (tagWidth x.tag) (x.elem k)).signExtend 64))

/-- A tile descriptor (R218): 64 bytes are in order exactly when the tag is a tile tag, ROWS is 1 to 64, the reserved bits are
zero, and the coordinates, where they apply, are below 1,024; its fields are where the table puts them. A misaligned address
raises cause 4, and one out of order cause 2.

TLD (R47, R156, R218): with its descriptor read and its enabled rows, scale bytes and group scale placed, the tile takes the
descriptor's tag, each enabled row the elements of its image, zero from ROWS up; a disabled row keeps its values under the same tag
and is zero otherwise; QC4 takes its side band, and every other tag a zero one. Memory stays as it is. (As for the vector loads, nothing
that the loads come after is on its way.)

TST (R213, R218): a tile of the descriptor's tag stores the images of its enabled rows below ROWS, and for QC4 their scale
bytes and, unless every row is disabled, the group scale; another tag raises cause 24.

The model's choice, where it rests on one: a disabled row keeps its QC4 scale byte in TLD, and stores none in TST (log entry 48), and a whole line of stores is one piece (49). -/
def Obligations.TileAccesses : Prop :=
  (
    (∀ b < 256 ^ 64, let fl (o n : Nat) := b / 256 ^ o % 256 ^ n
      let inOrder : Prop := (fl 28 1 = 2 ∨ fl 28 1 = 3 ∨ (7 ≤ fl 28 1 ∧ fl 28 1 ≤ 14)) ∧ 1 ≤ fl 29 1 ∧ fl 29 1 ≤ 64 ∧ fl 30 2 ≤ 1 ∧
        fl 36 28 = 0 ∧ (fl 30 2 = 1 → fl 32 2 < 1024 ∧ fl 34 2 < 1024)
      (¬ inOrder → tileDesc b = none) ∧
      (inOrder → ∃ k, tileDesc b = some k ∧ k.base.toNat = fl 0 8 ∧ k.scales.toNat = fl 8 8 ∧ k.group.toNat = fl 16 8 ∧
        k.stride = (BitVec.ofNat 32 (fl 24 4)).signExtend 64 ∧ k.tag.toNat = fl 28 1 ∧ k.rows = fl 29 1 ∧
        (k.tc = true ↔ fl 30 2 = 1) ∧ k.row = fl 32 2 ∧ k.col = fl 34 2)) ∧
    ∀ (w : BitVec 2) (a : BitVec 5) (d : BitVec 3) (s : State), s.cx.waitMet w.toNat 0 = true → ∀ i, i = .tld w a d ∨ i = .tst w a d →
      ((s.getX a).toNat % 64 ≠ 0 → Traps i s (exn 4 (s.getX a))) ∧
      ((s.getX a).toNat % 64 = 0 → ∀ t, s.reach .load (s.getX a) 64 = .ok t → s.mayLoad .weak t (s.getX a) 64 1 = .ok () →
        tileDesc (s.loadAt .weak t (s.getX a) 64 1).1 = none →
        Traps i s (exn 2 (s.getX a)))) ∧
  (
    ∀ (w : BitVec 2) (a : BitVec 5) (d : BitVec 3) (s s1 : State) (k : TileDesc), s.cx.waitMet w.toNat 0 = true →
      s.readTileDesc a = .ok (k, s1) → s1.mem = s.mem → ∀ n, n = 8 * laneBits k.tag →
      let row (r : Nat) : Word := k.base + BitVec.ofNat 64 r * k.stride
      let easy (first : Word) (p : Placed1) : Prop := p.at_.retry = false ∧ isMmio p.at_.pa = false ∧
        s1.checkPlace .load p.at_ p.piece.va p.piece.n = .ok () ∧ s1.settled p.at_ first p.piece.n ∧
        s1.foreign (physOf p.at_.pa) p.piece.n = none ∧ p.at_.pa % 128 + p.piece.n ≤ 128
      let old := s.getM d
      let rs := (List.range k.rows).filter s.enabled
      ∀ (rows : Nat → List Placed1) (scale : Nat → Placed1) (group : Placed1) (first : Word),
      ∀ all, all = (rs.flatMap rows ++ if k.tag = 14 then rs.map scale ++ [group] else []) → first = firstByte all →
        (∀ p ∈ all, ∀ q ∈ all, lineOf p.at_.pa = lineOf q.at_.pa → p.at_.pa / 128 = q.at_.pa / 128) →
        s1.cacheRoom (s1.cx.bankSite first) 256 →
        (∀ r < k.rows, s.enabled r = true → (row r).toNat % (tagWidth k.tag / 8) = 0 ∧
          regionOf (row r + BitVec.ofNat 64 (n - 1)) = regionOf (row r) ∧
          s1.placeAll .load (k.coords s.cx) (lines (row r) n 0) = .ok (rows r) ∧ ∀ p ∈ rows r, easy first p) →
        (k.tag = 14 → k.group.toNat % 4 = 0 ∧ s1.placeAll .load (k.coords s.cx) [⟨k.group, 4, 0⟩] = .ok [group] ∧ easy first group ∧
          ∀ r < k.rows, s.enabled r = true →
            s1.placeAll .load (k.coords s.cx) [⟨k.scales + BitVec.ofNat 64 r, 1, 0⟩] = .ok [scale r] ∧ easy first (scale r)) →
        ∀ val : Placed1 → Nat, (∀ p, val p = (s1.loadWeak p.at_ first p.piece.n 1).1) →
        ∃ m u, exec (.tld w a d) s = .next u ∧ u.cx.pc = s.cx.pc + 4 ∧ u.mem = s.mem ∧
          u.sansCommit.sansMem.sansTraffic = (s1.setM d m).sansCommit.sansMem.sansTraffic ∧ m.tag = k.tag ∧
          (∀ r < 64, ∀ c < 64, m.elem r c = if s.enabled r then (if r < k.rows then
            joinPieces ((rows r).map (·.piece)) ((rows r).map val) / 2 ^ (laneBits k.tag * c) % 2 ^ laneBits k.tag else 0)
            else if old.tag = k.tag then old.elem r c else 0) ∧
          (k.tag ≠ 14 → m.side = 0) ∧
          (k.tag = 14 → m.group = val group ∧ ∀ r < 64, m.sideByte r = if s.enabled r then (if r < k.rows then val (scale r) else 0)
            else if old.tag = k.tag then old.sideByte r else 0)) ∧
  (
    ∀ (w : BitVec 2) (a : BitVec 5) (d : BitVec 3) (s s1 : State) (k : TileDesc) (m : MReg), s.cx.waitMet w.toNat 0 = true →
      s.readTileDesc a = .ok (k, s1) → s1.mem = s.mem → s1.cx.log = s.cx.log → m = s.getM d →
      (m.tag ≠ k.tag → Traps (.tst w a d) s (exn 24 (BitVec.ofNat 64 (d.toNat + 32 + 256 * m.tag.toNat + 4096 * k.tag.toNat)))) ∧
      (m.tag = k.tag → ∀ rs, rs = (List.range k.rows).filter s.enabled →
        let row (r : Nat) : Word := k.base + BitVec.ofNat 64 r * k.stride
        let bits (r : Nat) (x : Nat) : Nat := m.elem r (x / laneBits k.tag) / 2 ^ (x % laneBits k.tag) % 2
        let byte (r j : Nat) : Byte := BitVec.ofNat 8 (((List.range 8).map fun x => bits r (8 * j + x) * 2 ^ x).sum)
        ∀ bs : List (Word × Byte), bs = (rs.flatMap fun r => (List.range (8 * laneBits k.tag)).map fun j =>
            (row r + BitVec.ofNat 64 j, byte r j)) ++
          (if k.tag = 14 then (rs.map fun r => (k.scales + BitVec.ofNat 64 r, BitVec.ofNat 8 (m.sideByte r))) ++
            (if rs = [] then [] else (List.range 4).map fun j => (k.group + BitVec.ofNat 64 j, BitVec.ofNat 8 (m.group / 256 ^ j)))
          else []) →
        (∀ r ∈ rs, (row r).toNat % (tagWidth k.tag / 8) = 0) → (k.tag = 14 → rs ≠ [] → k.group.toNat % 4 = 0) →
        ∀ pl, (Safe s → s1.ahead s.cx.key.h s.cx.key.h = [] → s1.posts = [] → s1.apart = false → BytesReach s1 (k.coords s.cx) [.localWin] pl bs →
            StoresNow (.tst w a d) s s1 pl bs) ∧
          (∀ ls : List Nat, (∀ x ∈ bs, x.1.toNat / 128 ∈ ls) → s1.logRoom bs ls.length →
            s1.roomFor (s1.cx.bankSite ((bs.head?.map (·.1)).getD 0)) s1.cx.leaf 0 = true →
            BytesReach s1 (k.coords s.cx) [.siteWin, .glob] pl bs → StoresPost (.tst w a d) s s1 pl bs)))

/-! ## System -/

/-- Taking a trap (R356, R361, R362), outside a composition: Lepc is the precise point, the address of a pending hint or else pc; Lcause,
Lval and Lval2 take the trap's; PIE takes IE, IE falls and PL takes the level that ran; the reservation ends; control goes to the
address of Lvec, a wait ends, and the handler's first instruction is to come. To another level, the dirty registers go to the old workspace and the new one is read; at the same level the
registers stand. An exception goes to its route, and from a handler's first instruction one level up; at P the context stops and its site
has failed.

ILLEGAL_INSTRUCTION and FETCH_FAULT (R27, R30, R132): the running context raises cause 2 with the word, or the fault of the
fetch.

The model's choice, where it rests on one: the next level above a handler that fails at once (log entry 25), the site of a failed one (111), and the fetch at address 0 (106). -/
def Obligations.TakingATrap : Prop :=
  (
    ∀ (s : State) (l : Level) (code : Nat) (int : Bool) (val val2 : Word) (t : State), s.cx.comp.n ≤ 1 → l ≠ .K → code < 64 →
      t = s.takeTrap l code int val val2 → ∀ run, run = s.cx.level → ∀ old, old = s.cx.tr l →
        (∀ r, r = t.cx.tr l → t.cx.level = l ∧ t.cx.pc.toNat = old.vec.toNat / 4 % 2 ^ 46 * 4 ∧ t.cx.resv = none ∧ t.cx.hint = none ∧
          t.cx.waiting = false ∧ t.cx.first = some l ∧
          r.epc = (match s.cx.hint with | some h => h.addr | none => s.cx.pc) ∧ r.val = val ∧ r.val2 = val2 ∧
          r.cause.toNat = code + (if int then 2 ^ 63 else 0) ∧ r.status.getLsbD 7 = old.status.getLsbD 3 ∧
          r.status.getLsbD 3 = false ∧ (r.status.extractLsb' 10 2).toNat = run.rank ∧ r.vec = old.vec ∧ r.ie = old.ie ∧
          r.scratch = old.scratch) ∧
        (l = run → t.cx.x = s.cx.x ∧ MemSame s t) ∧
        (l ≠ run → (∀ i, t.cx.x.get i = if i.val = 0 then 0 else
            BitVec.ofNat 64 (memRead t.mem (t.cx.workspace l + 8 * i.val) 8)) ∧
          (Safe s → (∀ b, b < s.cx.workspace run ∨ s.cx.workspace run + 256 ≤ b → memGet t.mem b = memGet s.mem b) ∧
            ∀ i < 32, 0 < i → s.cx.dirty.getLsbD i = true →
              memRead t.mem (s.cx.workspace run + 8 * i) 8 = (s.cx.x.get (BitVec.ofNat 5 i).toFin).toNat)) ∧
        (∀ e, s.cx.first = none → s.raise e = s.takeTrap (s.cx.route e.cause false e.floor) e.cause false e.val e.val2) ∧
        (∀ e, s.cx.first = some .T → s.raise e = s.takeTrap .D e.cause false e.val e.val2) ∧
        (∀ e, s.cx.first = some .D → s.raise e = s.takeTrap .P e.cause false e.val e.val2) ∧
        (∀ e, s.cx.first = some .P → (s.raise e).cx = { s.cx with status := .failed } ∧ (s.raise e).mem = s.mem ∧
          .site s.cx.key.h ∈ (s.raise e).sol.retired)) ∧
  (
    ∀ (s : State) (w : BitVec 32) (f : FetchFault), Traps (.illegalInstruction w) s (exn 2 (w.setWidth 64)) ∧
      Traps (.fetchFault f) s ⟨f.cause, f.va, f.val2, f.floor⟩)

/-- Routing (R356): a trap goes to P, unless P's delegation register holds its bit and neither its floor nor the running level is P;
then to D, unless D's holds its bit too and neither is D; then to T. It is never taken at K, and never below the running level. -/
def Obligations.TrapRouting : Prop :=
  ∀ (c : Ctx) (code : Nat) (int : Bool) (floor : Level), ∀ p d l, p = (if int then c.tp.ideleg else c.tp.edeleg) →
    d = (if int then c.td.ideleg else c.td.edeleg) → l = c.route code int floor →
      (l = if floor = .P ∨ c.level = .P ∨ p.getLsbD code = false then .P
        else if floor = .D ∨ c.level = .D ∨ d.getLsbD code = false then .D else .T) ∧
      l ≠ .K ∧ c.level.rank ≤ l.rank ∧ floor.rank ≤ l.rank

/-- ECALL and EBREAK (R149): their words; cause 8 at K, 9 at T, 10 at D and 11 at P, routed from T, D, P and P up, with Lval 0; cause 3
with Lval the address. Lepc is the address of the instruction. -/
def Obligations.Calls : Prop :=
  decode 0x00000073 = .ok .ecall ∧ decode 0x00100073 = .ok .ebreak ∧
  ∀ s : State, Traps .ebreak s (exn 3 s.cx.pc) ∧
    (s.cx.level = .K → Traps .ecall s ⟨8, 0, 0, .T⟩) ∧ (s.cx.level = .T → Traps .ecall s ⟨9, 0, 0, .D⟩) ∧
    (s.cx.level = .D → Traps .ecall s ⟨10, 0, 0, .P⟩) ∧ (s.cx.level = .P → Traps .ecall s ⟨11, 0, 0, .P⟩) ∧
    (s.cx.first = none → s.cx.hint = none →
      (∃ t r, exec .ebreak s = .next t ∧ r = t.cx.tr t.cx.level ∧ r.epc = s.cx.pc ∧ r.val = s.cx.pc ∧ r.cause = 3) ∧
      ∃ t r, exec .ecall s = .next t ∧ r = t.cx.tr t.cx.level ∧ r.epc = s.cx.pc ∧ r.val = 0 ∧ r.cause.toNat = 8 + s.cx.level.rank)

/-- TRET, DRET and PRET (R364): at another level cause 2; at its own, IE takes PIE, PIE becomes 1, PL 0, the dirty registers go to the
workspace of the level, the level becomes PL and control goes to Lepc; the registers of another level's workspace are loaded, and at the
same level the registers stand. -/
def Obligations.TrapReturns : Prop :=
  ∀ e ∈ [(Instr.tret, Level.T, (0x10200073 : BitVec 64)), (.dret, .D, 0x20200073), (.pret, .P, 0x30200073)], ∀ s : State,
    (s.cx.level ≠ e.2.1 → Traps e.1 s (exn 2 e.2.2)) ∧
    (s.cx.level = e.2.1 → ∀ old w, old = s.cx.tr e.2.1 → w = s.cx.workspace e.2.1 → ∃ t, exec e.1 s = .next t ∧ t.cx.pc = old.epc ∧
      t.cx.level.rank = (old.status.extractLsb' 10 2).toNat ∧ t.cx.hint = none ∧
      (∀ n, n = (t.cx.tr e.2.1).status → n.getLsbD 3 = old.status.getLsbD 7 ∧ n.getLsbD 7 = true ∧ n.extractLsb' 10 2 = 0) ∧
      (Safe s → MemSameBut s t w 256 ∧ ∀ i < 32, 0 < i → s.cx.dirty.getLsbD i = true →
        memRead t.mem (w + 8 * i) 8 = (s.cx.x.get (BitVec.ofNat 5 i).toFin).toNat) ∧
      (t.cx.level = e.2.1 → t.cx.x = s.cx.x) ∧
      (t.cx.level ≠ e.2.1 → ∀ i, t.cx.x.get i = if i.val = 0 then 0 else
        BitVec.ofNat 64 (memRead t.mem (t.cx.workspace t.cx.level + 8 * i.val) 8)))

/-- The CSR instructions (R150 to R152): a number without a CSR, a level below the CSR's, and a write of a read-only one raise cause 2;
otherwise x[d] takes the old value, and a member that writes writes its function of the old value and the source, after which
the CSR's map decides.

CSRs with a plain map (R56, R57, R109, R180, R215, R234, R285, R353, R355): what a member that writes leaves in each is its value in
the bits that the map gives, and 0 elsewhere; x[d] takes the old value, and the others of the list keep theirs.

The model's choice, where it rests on one: fields of one write are judged one by one (log entry 57), read-only registers in writable blocks (58), how Lip reads (56), and the log shows a context its own entries (136). -/
def Obligations.CsrAccesses : Prop :=
  (
    let f : List ((BitVec 12 → BitVec 5 → BitVec 5 → Instr) × BitVec 3 × Bool × (Word → Word → Word)) := [
      (.csrrw, 1, true, fun _ x => x), (.csrrs, 2, false, fun o x => o ||| x), (.csrrc, 3, false, fun o x => o &&& ~~~x),
      (.csrrwi, 5, true, fun _ x => x), (.csrrsi, 6, false, fun o x => o ||| x), (.csrrci, 7, false, fun o x => o &&& ~~~x)]
    ∀ e ∈ f, ∀ (c : BitVec 12) (a d : BitVec 5) (s : State) (x : Word), x = (if e.2.1.getLsbD 2 then a.setWidth 64 else s.getX a) →
      ∀ word : IWord, word = c ++ a ++ e.2.1 ++ d ++ (0x73 : BitVec 7) →
      (s.readCsr c.toNat = none → Traps (e.1 c a d) s (exn 2 (word.setWidth 64))) ∧
      ∀ old, s.readCsr c.toNat = some old →
        (s.cx.level.rank < (c.extractLsb' 8 2).toNat ∨ ((e.2.2.1 = true ∨ a ≠ 0) ∧ c.extractLsb' 10 2 = 3) →
          Traps (e.1 c a d) s (exn 2 (word.setWidth 64))) ∧
        ((c.extractLsb' 8 2).toNat ≤ s.cx.level.rank →
          (e.2.2.1 = false → a = 0 → Gives (e.1 c a d) s d old) ∧
          (e.2.2.1 = true ∨ a ≠ 0 → c.extractLsb' 10 2 ≠ 3 → ∃ u, Committed (s.setX d old) u (s.cx.pc + 4) false ∧
            exec (e.1 c a d) s = .next (match u.writeCsr word c.toNat (e.2.2.2 old x) with | .ok t => t | .error y => s.raise y)))) ∧
  (
    let members : List ((BitVec 12 → BitVec 5 → BitVec 5 → Instr) × Bool × Bool × (Word → Word → Word)) := [
      (.csrrw, false, true, fun _ x => x), (.csrrs, false, false, fun o x => o ||| x), (.csrrc, false, false, fun o x => o &&& ~~~x),
      (.csrrwi, true, true, fun _ x => x), (.csrrsi, true, false, fun o x => o ||| x), (.csrrci, true, false, fun o x => o &&& ~~~x)]
    let bits (hi lo : Nat) : Word := BitVec.ofNat 64 (2 ^ (hi + 1) - 2 ^ lo)
    let irq : Word := bits 21 16 ||| bits 13 13 ||| bits 11 9 ||| bits 7 5 ||| bits 3 1
    let one (n : Nat) : List (Nat × Word) := [(n + 0x04, irq), (n + 0x05, bits 47 2), (n + 0x40, bits 63 0), (n + 0x41, bits 63 2),
      (n + 0x42, bits 63 63 ||| bits 5 0), (n + 0x43, bits 63 0), (n + 0x4B, bits 63 0)]
    let all := one 0x100 ++ one 0x200 ++ one 0x300 ++ [(0x180, bits 63 63 ||| bits 47 12), (0x280, bits 63 63 ||| bits 47 17),
      (0x380, bits 63 63 ||| bits 51 17), (0x5D0, bits 47 12), (0x5D2, bits 63 0), (0x5D8, bits 11 8 ||| bits 4 0), (0x5E0, bits 31 0),
      (0x5EC, bits 47 0), (0x5F8, bits 63 0), (0x6D8, bits 63 0), (0x7D0, bits 63 0), (0x7D8, bits 7 0), (0x8C0, bits 4 0), (0x8C1, bits 5 0)]
    ∀ m ∈ members, ∀ e ∈ all, ∀ (c : BitVec 12) (a d : BitVec 5) (s : State) (x : Word), (m.2.2.1 = true ∨ a ≠ 0) →
      x = (if m.2.1 then a.setWidth 64 else s.getX a) → c.toNat = e.1 → (c.extractLsb' 8 2).toNat ≤ s.cx.level.rank →
      ∃ old t, s.readCsr e.1 = some old ∧ exec (m.1 c a d) s = .next t ∧ t.readCsr e.1 = some (m.2.2.2 old x &&& e.2) ∧
        t.cx.pc = s.cx.pc + 4 ∧ (∀ r, t.getX r = if r ≠ 0 ∧ r = d then old else s.getX r) ∧ t.mem = s.mem ∧
        ∀ f ∈ all, f.1 ≠ e.1 → t.readCsr f.1 = s.readCsr f.1)

/-- WFI, BIND.WB and WSP.SW (R32, R133, R365 to R367): WFI raises cause 2 at K, commits once an enabled interrupt is pending at its
level or above, or a save request or debug halt has come, and otherwise it waits, and the boundaries before it are none; BIND.WB leaves the workspace equal to the registers;
WSP.SW, outside a composition, writes the dirty registers back, moves the pointer of the level, loads the new workspace and answers
the old pointer, with Lscratch as the source, and the place of the old pointer, where a is x0.

TLB.INV and TLB.SYNC (R117 to R120, R127), TLB_INV_COMPLETE and PAGE_WALK_COMPLETE (R113, R115): at K cause 2; TLB.INV, once its
earlier stores are performed and its site has a token of CTL (R312), issues a removal of the stages named, spends the token and goes on;
TLB.SYNC goes on once the context's removals are
complete; a completed removal takes every entry it names out of the TLBs, the extent caches and the walks in flight, and leaves the
others; a walk that succeeds fills the TLBs of the site and of its die, and the extent cache of the die takes the entries it used.

The model's choice, where it rests on one: caches and TLBs take entries by data (log entry 17), reserved selector bits and completion of TLB.INV (60), and pins of several contexts (61). -/
def Obligations.SystemInstructions : Prop :=
  (
    ∀ (a d : BitVec 5) (s : State),
      (s.cx.level = .K → Traps .wfi s (exn 2 0x10500073)) ∧
      (s.cx.level ≠ .K → (s.cx.wakes s.now = true ∨ s.cx.saveReq ≠ none ∨ s.cx.halt ≠ none → Completes .wfi s s false) ∧
        (s.cx.wakes s.now = false → s.cx.saveReq = none → s.cx.halt = none → exec .wfi s = .next { s with cx := { s.cx with waiting := true } })) ∧
      (Safe s → ∃ t, exec .bindWb s = .next t ∧ t.cx.pc = s.cx.pc + 4 ∧ t.cx.x = s.cx.x ∧ t.cx.dirty = 0 ∧
        MemSameBut s t (s.cx.workspace s.cx.level) 256 ∧ ∀ i < 32, 0 < i → s.cx.dirty.getLsbD i = true →
          memRead t.mem (s.cx.workspace s.cx.level + 8 * i) 8 = (s.cx.x.get (BitVec.ofNat 5 i).toFin).toNat) ∧
      (s.cx.comp.n ≤ 1 → (s.cx.level = .K → a = 0 → Traps (.wspSw a d) s (exn 2 (0x18000073 + (d.setWidth 64) * 128))) ∧
        (s.cx.level ≠ .K ∨ a ≠ 0 → ∀ src, src = (if a = 0 then (s.cx.tr s.cx.level).scratch else s.getX a) →
          ∀ new, new = src.toNat / 512 % 2048 →
          (s.cx.wspFits s.cx.level new = false → Traps (.wspSw a d) s ⟨35, BitVec.ofNat 64 (new * 512), 7, wspOwner s.cx.level⟩) ∧
          (s.cx.wspFits s.cx.level new = true → ∀ old, old = s.cx.wspOf s.cx.level → ∃ t, exec (.wspSw a d) s = .next t ∧
            t.cx.pc = s.cx.pc + 4 ∧ t.cx.level = s.cx.level ∧ t.cx.wspOf s.cx.level = BitVec.ofNat 64 (new * 512) ∧
            (a = 0 → (t.cx.tr s.cx.level).scratch = old) ∧
            ∀ r : BitVec 5, t.getX r = if r = 0 then 0 else if r = d then old else
              BitVec.ofNat 64 (memRead t.mem (t.cx.workspace s.cx.level + 8 * r.toNat) 8))))) ∧
  (
    ∀ (b a : BitVec 5) (rl st : BitVec 2) (s : State),
      (s.cx.level = .K → Traps (.tlbInv b a rl st) s (exn 2 (0x12000073 + b.setWidth 64 * 2 ^ 20 + a.setWidth 64 * 2 ^ 15 +
          rl.setWidth 64 * 2 ^ 9 + st.setWidth 64 * 2 ^ 7)) ∧ Traps .tlbSync s (exn 2 0x16000073)) ∧
      (s.cx.level ≠ .K → rl.toNat ≤ 1 → st.toNat ≤ s.cx.level.rank → (st = 0 → s.cx.level ≠ .T → rl ≠ 0) →
        ∀ leaf fl, s.invTarget (s.getX b) = .ok (leaf, fl) → s.cx.drained = true → tabGet s.tokens s.cx.key.h 0 < 16 →
          ∃ i, i.key = s.cx.key ∧ i.leaf = leaf ∧ i.fl = fl ∧ i.page = (if rl = 0 then some ((s.getX a).toNat % 2 ^ 48) else none) ∧
            (∀ k, k ∈ i.stages ↔ if st = 0 then 1 ≤ k ∧ k ≤ s.cx.level.rank else k = st.toNat) ∧
            Completes (.tlbInv b a rl st) s { s with
              invs := s.invs ++ [i]
              tokens := tabPut s.tokens s.cx.key.h (tabGet s.tokens s.cx.key.h 0 + 1)
              stamps := s.stamps ++ [⟨s.cx.key.h, s.cx.leaf, 4, s.frame, 1⟩] } false) ∧
      (s.cx.level ≠ .K → (∀ i ∈ s.invs, i.key ≠ s.cx.key) → Completes .tlbSync s s false) ∧
      (∀ k i, s.invs.find? (fun j => j.key = k) = some i → s.invPerformed i = true → ∃ t, exec (.tlbInvComplete k) s = .next t ∧
        (∀ e, e ∈ t.tlb ↔ e ∈ s.tlb ∧ i.hits e = false) ∧ (∀ e, e ∈ t.ext ↔ e ∈ s.ext ∧ i.removes e.entry = false) ∧
        (∀ w, w ∈ t.walks ↔ w ∈ s.walks ∧ i.restarts w = false) ∧ t.invs = s.invs.erase i ∧ ((∀ l ∈ s.slices, l.dirty = 0) → t.mem = s.mem) ∧
        ∀ c ∈ t.ctxs, ∀ p ∈ c.pins, ∃ o ∈ s.ctxs, p ∈ o.pins) ∧
      (∀ k acc va c x p q, s.ctx? k = some c → regionOf va = .global → (s.missFound c.client va.toNat).xlat? = some x →
        p = x.entry (.core k.h) c.client va.toNat → q = x.entry (.die c.client.die) c.client va.toNat →
        ∃ t, exec (.pageWalkComplete k acc va) s = .next t ∧ p ∈ t.tlb ∧ q ∈ t.tlb ∧ t.mem = s.mem ∧ t.cx = s.cx ∧
          (∀ y ∈ x.used, ⟨c.client.die, y⟩ ∈ t.ext) ∧ ∀ e ∈ t.tlb, e ∈ s.tlb ∨ e = p ∨ e = q))

/-- COMPOSE, RELEASE, CSTAT and INSPECT (R190 to R204, R368): COMPOSE without the right raises cause 35; it answers 6 (NESTED), 4 (ALIGN)
or 2 (BUSY) and changes nothing, or composes the sites, whose first-level copies go, and answers 1, with the clean registers read from
the workspace. RELEASE answers 8 on a lone core, and otherwise ends the composition, the workspace then holding the registers. CSTAT answers the state of the composition, and INSPECT above K one word of an object. -/
def Obligations.Composing : Prop :=
  ∀ (b : BitVec 2) (e a d : BitVec 5) (s : State) (n : Nat), n = 2 ^ b.toNat →
    (s.leafGrants 5 = false → Traps (.compose b d) s ⟨35, 0, 3, .D⟩) ∧
    (s.leafGrants 5 = true →
      (2 ≤ s.cx.comp.n → Gives (.compose b d) s d 6) ∧
      (s.cx.comp.n < 2 → ∀ ok : Prop, (ok ↔ s.cx.key.h % n = 0 ∧ s.cx.kbase ≤ s.cx.rel ∧ s.cx.rel + n ≤ s.cx.kbase + s.cx.klen) →
        (¬ ok → Gives (.compose b d) s d 4) ∧
        (ok → ((∃ j < n, s.available s.cx.key (s.cx.key.h + j) = false) → Gives (.compose b d) s d 2) ∧
          ((∀ j < n, s.available s.cx.key (s.cx.key.h + j) = true) → ∃ t, exec (.compose b d) s = .next t ∧ t.cx.pc = s.cx.pc + 4 ∧
            t.cx.comp.n = n ∧ t.cx.comp.oh = s.cx.rel ∧ (∀ l ∈ t.l1, ∀ j < n, l.h ≠ s.cx.key.h + j) ∧
            (Safe s → s.cx.resident = true → (∀ c ∈ s.others, c.resident = true → (∃ j < n, c.key.h = s.cx.key.h + j) → c.dirty = 0) →
              ∀ r, t.getX r = if r = 0 then 0 else if r = d then 1 else if s.cx.dirty.getLsbD r.toNat then s.getX r else
                BitVec.ofNat 64 (memRead s.mem (s.cx.workspace s.cx.level + 8 * r.toNat) 8)))))) ∧
    (s.cx.comp.n < 2 → Gives (.release d) s d 8) ∧
    (2 ≤ s.cx.comp.n → ∃ t, exec (.release d) s = .next t ∧ t.cx.pc = s.cx.pc + 4 ∧ t.cx.comp.n = 1 ∧ t.cx.comp.last = 1 ∧
      (∀ r, t.getX r = if r ≠ 0 ∧ r = d then 1 else s.getX r) ∧
      (Safe s → ∀ r, r ≠ 0 → memRead t.mem (s.cx.workspace s.cx.level + 8 * r.toNat) 8 = (t.getX r).toNat)) ∧
    Gives (.cstat d) s d (BitVec.ofNat 64 (s.cx.comp.n + s.cx.comp.oh * 2 ^ 10 + s.cx.comp.last * 2 ^ 24 +
      (if 2 ≤ s.cx.comp.n then 2 ^ 63 else 0))) ∧
    (s.cx.level = .K → Traps (.inspect e a d) s (exn 2 (0x1C000073 + e.setWidth 64 * 2 ^ 20 + a.setWidth 64 * 2 ^ 15 +
      d.setWidth 64 * 128))) ∧
    (s.cx.level ≠ .K → Gives (.inspect e a d) s d (s.inspectWord s.cx.requester (s.getX a) (s.getX e)))

/-! ## Copies and links -/

/-- Issuing a copy (R238): a misaligned descriptor raises cause 4; SIZE, BADDESC and FULL are answered as 4, 6 and 2 and change
nothing else; otherwise the copy enters the queue as QUEUED with the next handle, which is answered with bit 0 set.

XCOPY.WAIT, its twin, XCOPY.STAT and XCOPY.ABORT (R239, R240): the blocking form raises cause 27 under handler discipline; an
unknown or ended copy is reported with bit 0 set, after an acquire at the scope of its release, and a live one is waited for or
answered 2; STAT answers the status word; ABORT answers 2 when it is late, ends a copy that has not started, and marks a running one.

The model's choice, where it rests on one: a destination tag that names no format gives BADDESC (log entry 63). -/
def Obligations.CopyCommands : Prop :=
  (
    ∀ (aq rl : BitVec 1) (b a d : BitVec 5) (sc : BitVec 2) (s : State),
      let outcome (i : Instr) (k : CopyKind) (u : State) (D : BitVec 512) : Prop :=
        let size : Prop := cdElems D = 0 ∨ cdRows D = 0 ∨ (copyTag (bytesAt D.toNat 33 1) = true ∧ (copySize D = 0 ∨ 2 ^ 24 < copySize D))
        (size → Completes i s (u.setX d 4) false) ∧
        (¬ size → copyDescOk k D = false → Completes i s (u.setX d 6) false) ∧
        (¬ size → copyDescOk k D = true → u.copyRoom s.cx.key = false → Completes i s (u.setX d 2) false) ∧
        (¬ size → copyDescOk k D = true → u.copyRoom s.cx.key = true → ∃ t x, exec i s = .next t ∧ t.cx.pc = s.cx.pc + 4 ∧
          t.copies = u.copies ++ [x] ∧ x.agent = s.cx.key ∧ x.h = s.cx.key.h ∧ x.handle = s.cx.copyHandle ∧ x.kind = k ∧ x.desc = D ∧
          x.st = .queued ∧ x.acq = decide (aq = 1) ∧ x.rel = decide (rl = 1) ∧ x.scope = sc.toNat ∧ x.commit = 0 ∧ x.lvl = s.cx.level ∧
          (s.cx.resident = true → t.cx.copyHandle = nextHandle s.cx.copyHandle) ∧ t.mem = u.mem ∧
          ∀ r, t.getX r = if r ≠ 0 ∧ r = d then BitVec.ofNat 64 (1 + s.cx.copyHandle * 2 ^ 32) else s.getX r)
      let n := (s.getX d).toNat
      (n = 0 ∨ 2 ^ 24 < n → Gives (.xcopy1d aq rl b a sc d) s d 4) ∧
      (n ≠ 0 → n ≤ 2 ^ 24 → outcome (.xcopy1d aq rl b a sc d) .d1 s (BitVec.ofNat 512 ((s.getX a).toNat + (s.getX b).toNat * 2 ^ 64 +
        n * 2 ^ 128 + 2 ^ 160 + 2 * 2 ^ 256 + 2 * 2 ^ 264))) ∧
      ∀ e ∈ [(Instr.xcopy2d aq rl a sc d, CopyKind.d2), (.xcopyTile aq rl a sc d, .tile), (.xcopyGath aq rl a sc d, .gath)],
        ((s.getX a).toNat % 64 ≠ 0 → Traps e.1 s (exn 4 (s.getX a))) ∧
        ((s.getX a).toNat % 64 = 0 → ∀ t, s.reach .load (s.getX a) 64 = .ok t → s.mayLoad .weak t (s.getX a) 64 1 = .ok () → ∀ v u,
          s.loadAt .weak t (s.getX a) 64 1 = (v, u) → outcome e.1 e.2 u (BitVec.ofNat 512 v))) ∧
  (
    ∀ (a d : BitVec 5) (s : State) (h : Nat), h = (s.getX a).toNat % 2 ^ 32 →
      let status (x : Copy) (low : Nat) : Word := BitVec.ofNat 64 (low + copyStateCode x.st * 256 +
        (if x.st = .faulted then x.reason else 0) * 4096 + x.flags.toNat * 65536 + x.commit * 2 ^ 32)
      (s.cx.thread = false → Traps (.xcopyWait a d) s (exn 27 0)) ∧
      (s.copy? s.cx.key h = none → (s.cx.thread = true → Gives (.xcopyWait a d) s d 1) ∧ Gives (.xcopyWaitT a d) s d 1 ∧
        Gives (.xcopyStat a d) s d 0 ∧ Gives (.xcopyAbort a d) s d 2) ∧
      ∀ x, s.copy? s.cx.key h = some x →
        let ended : Prop := x.st = .done ∨ x.st = .aborted
        Gives (.xcopyStat a d) s d (status x 0) ∧
        (ended → let u := (s.acquire (if x.rel then x.scope else 0)).setX d (status x 1)
          (s.cx.thread = true → Completes (.xcopyWait a d) s u false) ∧ Completes (.xcopyWaitT a d) s u false ∧
          Gives (.xcopyAbort a d) s d 2) ∧
        (¬ ended → (s.cx.thread = true → exec (.xcopyWait a d) s = .next s) ∧ Gives (.xcopyWaitT a d) s d 2 ∧
          ∃ t y, exec (.xcopyAbort a d) s = .next t ∧ t.cx.pc = s.cx.pc + 4 ∧ t.mem = s.mem ∧ t.getX d = (if d = 0 then 0 else 1) ∧
            y ∈ t.copies ∧ y.agent = x.agent ∧ y.handle = x.handle ∧
            (x.st = .queued ∨ x.st = .grant → y.st = .aborted) ∧ (x.st = .running ∨ x.st = .faulted → y.st = x.st ∧ y.aborting = true)))

/-- One element of a copy (R230, R231): between tags of whole bytes, without tile coordinates, the element at position p, i of row r, is
read at SRC + k × SSTRIDE + i elements, with k the row or the gather's index, and gives its bytes where the tags agree, else its
conversion and the flags of that; reading leaves memory alone. It is written at DST + r × DSTRIDE + i elements, and no other byte
of memory changes. (No write is on its way.)

The life of a copy (R227, R228, R232 to R235, R239): a queued copy that is next takes a free place and runs, or waits for a grant
above 64 KiB; the grant lets the oldest one run once a place is free; run to its end, its writes stand and it is DONE with
every element committed; stopped at an element, its earlier writes stand, it is FAULTED there, and cause 33 is posted; an
aborting copy becomes ABORTED and writes nothing more than it has sent.

The model's choice, where it rests on one: a copy goes element by element (log entry 14), and one without REL leaves writes to be seen later (124). -/
def Obligations.CopyRuns : Prop :=
  (
    ∀ (s : State) (c : Ctx) (x : Copy) (p r i n m : Nat) (src dst : Word) (st dt : Tag), st = cdSTag x.desc → dt = cdDTag x.desc →
      8 ≤ laneBits st → 8 ≤ laneBits dt → n = laneBits st / 8 → m = laneBits dt / 8 →
      (x.kind = .d1 ∨ cdFlags x.desc / 16 % 4 = 0) → s.posts = [] → r = p / cdElems x.desc → i = p % cdElems x.desc → Safe s →
      dst = cdDst x.desc + BitVec.ofNat 64 r * cdDStride x.desc + BitVec.ofNat 64 (m * i) →
      (∀ k f, s.rowIndex c x r = .ok k → src = cdSrc x.desc + k * cdSStride x.desc + BitVec.ofNat 64 (n * i) →
        s.copyPlace c x.lvl .load 0 src src n none = .ok f → isMmio f.pa = false →
        (x.kind ≠ .gath → k = BitVec.ofNat 64 r) ∧
        ((st = dt ∨ cdNlt x.desc = false ∨ lacksNan dt = false ∨ (elemNum st false (memRead s.mem f.pa n)).isNan = false) →
          ∀ e, e = memRead s.mem f.pa n → ∀ o : Rounded,
            o = (if st = dt then ⟨e, 0⟩ else convertElem st dt (cdUns x.desc) (cdRm x.desc) (cdSat x.desc) e) →
            ∃ w, s.copyReadAt c x p = .ok (w, o.bits, o.flags.setWidth 5) ∧ w.mem = s.mem ∧
              w.sansMem.sansTraffic = s.sansMem.sansTraffic)) ∧
      (∀ g v, s.copyPlace c x.lvl .store 1 dst dst m none = .ok g → isMmio g.pa = false →
        ∃ w, s.copyWriteAt c x p v = .ok w ∧ memRead w.mem g.pa m = v % 256 ^ m ∧ MemSameBut s w g.pa m ∧
          w.sansMem.sansTraffic = s.sansMem.sansTraffic)) ∧
  (
    ∀ (s : State) (k : Key) (h : Nat),
      (∀ x, s.nextCopy k.h = some x → s.placeFree k.h = true → (s.ctx? x.agent).isSome → ∃ t, exec (.copyStart k.h) s = .next t ∧
        t.mem = s.mem ∧ ∃ y ∈ t.copies, y.agent = x.agent ∧ y.handle = x.handle ∧
          y.st = if 65536 < copySize x.desc ∧ x.started = false then .grant else .running) ∧
      (∀ x, s.copy? k h = some x → x.st = .grant → x.held = false → s.oldestCopy x.h = some x → s.againCopy x.h = none →
        (s.placeFree x.h = true → ∃ t, exec (.copyGrant k h) s = .next t ∧ t.mem = s.mem ∧ t.cx = s.cx ∧
          ∀ y ∈ t.copies, (y.agent = k → y.handle = h → y.removed = false → y.st = .running) ∧
            (¬ (y.agent = k ∧ y.handle = h) → y ∈ s.copies)) ∧
        (s.placeFree x.h = false → exec (.copyGrant k h) s = .next s)) ∧
      (∀ c e r, s.activeCopy k h false = some (c, e) → r = e.accepted (CopyEnd.finish c) → r.bar = none → ∃ t y, exec (.copyComplete k h) s = .next t ∧
          t.mem = r.st.mem ∧ y ∈ t.copies ∧ y.agent = k ∧ y.handle = h ∧ y.st = .done ∧ (e.cp.commit ≤ copyCount e.cp.desc → y.commit = copyCount e.cp.desc) ∧
          ∀ z ∈ r.st.copies, z.agent ≠ k → z ∈ t.copies) ∧
      (∀ c e r, s.activeCopy k h true = some (c, e) → r = e.accepted (CopyEnd.finish c) →
        ∀ w, r.bar = some (.stop w) → ∃ t, exec (.copyFault k h) s = .next t ∧ t.mem = r.st.mem ∧
          (∀ y ∈ t.copies, y.agent = k → y.handle = h → y.removed = false → y.st = .faulted ∧ y.commit = r.cp.commit ∧
            y.reason = w.reason ∧ y.faultAddr = w.addr) ∧
          ∀ c₀, r.st.ctx? k = some c₀ → ∃ c' v, t.ctx? k = some c' ∧ c'.asyncs = c₀.asyncs ++ [⟨33, w.addr, v, w.floor, r.cp.seq⟩]) ∧
      (∀ x, s.copy? k h = some x → x.aborting = true → x.st ≠ .done → x.st ≠ .aborted → ∃ t y, exec (.copyAborted k h) s = .next t ∧
        (s.posts = [] → t.mem = s.mem) ∧ y ∈ t.copies ∧ y.agent = k ∧ y.handle = h ∧ y.st = .aborted))

/-- QSUB, its twin, LSTAT and TRIG (R78, R83 to R85): QSUB raises cause 27 under handler discipline and cause 36 with the queue and
the reason, where the twin answers twice the reason: 3 for a queue out of reach or closed to kernels, 4 unregistered, 2 in ERROR,
1 full (which QSUB waits out); otherwise the packet is written to its slot and WIDX advances. LSTAT reads a register of a queue in
reach, else 0. TRIG enters the log as a release, at the lowest free index, and never waits for one.

The model's choice, where it rests on one: the fields of the entry of TRIG (log entry 59), its index in a full log (105) and when KSUB is taken (62). -/
def Obligations.Submissions : Prop :=
  ∀ (b a d : BitVec 5) (f : BitVec 2) (s : State) (q : Nat) (x : Queue), q = (s.getX b).toNat → x = s.queue q →
    (s.cx.thread = false → Traps (.qsub b a d) s (exn 27 0)) ∧
    (∀ y, y = s.queue (s.getX a).toNat → Gives (.lstat a f d) s d (if s.reachesQueue s.cx.requester (s.getX a).toNat then
      (if f = 0 then s.qstat (s.getX a).toNat else if f = 1 then y.widx.setWidth 64 else y.erridx.setWidth 64) else 0)) ∧
    (∃ e, e.kind = .trig ∧ e.st = .sent ∧ e.strong = true ∧ e.scope = 2 ∧ e.count = .none ∧ (∀ x ∈ s.cx.log, x.idx ≠ e.idx ∨ s.cx.resident = false) ∧
      (∀ k, s.freeIdx s.cx.key.h = some k → e.idx = k) ∧
      Completes .trig s { s with cx := { s.cx with log := s.cx.log ++ [e] }, order := s.order + 1 } false) ∧
    (s.cx.thread = true → (s.getX a).toNat % 64 = 0 → s.cx.drained = true → ∀ t, s.reach .load (s.getX a) 64 = .ok t →
      t.kind = .localWin → isMmio t.pa = false → s.settled t (s.getX a) 64 → ∀ v, v = memRead s.mem t.pa 64 →
      ∀ why, why = (if s.reachesQueue s.cx.requester q = false ∨ s.kernelsSubmit q = false then 3 else if x.st = .unreg then 4
        else if x.st = .error then 2 else 0) →
      (why ≠ 0 → Traps (.qsub b a d) s (exn 36 (BitVec.ofNat 64 (q + why * 2 ^ 32))) ∧
        Gives (.qsubT b a d) s d (BitVec.ofNat 64 (2 * why))) ∧
      (why = 0 → (x.widx - x.ridx).toNat = x.size → exec (.qsub b a d) s = .next s ∧ Gives (.qsubT b a d) s d 2) ∧
      (why = 0 → (x.widx - x.ridx).toNat ≠ x.size → ∀ u,
        s.unitWrite (s.queueClient x) (x.base.toNat + 64 * (x.widx.toNat % x.size)) 64 v = .ok u →
        Completes (.qsub b a d) s ((u.setQueue { x with widx := x.widx + 1 }).setX d (x.widx.setWidth 64)) false ∧
        Completes (.qsubT b a d) s ((u.setQueue { x with widx := x.widx + 1 }).setX d
          (BitVec.ofNat 64 (1 + x.widx.toNat * 2 ^ 32))) false))

/-- LX.PROD, LX.FEED and LX.FEEDT (R245, R246, R249, R260). A misaligned descriptor raises cause 4, one outside SCR cause 35, a feed
of a byte outside the window cause 35 and a tile that no operand pair holds cause 24; BADDESC and FULL are answered as 4 and 2.
Each of the three completes where its fields are in order, the link exists and the side queue has room: it enters that queue
as QUEUED, with the next handle, which is answered with bit 0 set, and nothing else changes.

The model's choice, where it rests on one: a feed whose FTAG is no operand tag (log entry 113). -/
def Obligations.LinkIssue : Prop :=
  ∀ (aq rl : BitVec 1) (b a d : BitVec 5) (m : BitVec 3) (sc : BitVec 2) (s : State),
    let split (l : Link) : Bool := (s.engine l).split
    let answered (t : State) : Prop := t.cx.pc = s.cx.pc + 4 ∧ t.mem = s.mem ∧
      (s.cx.resident = true → t.cx.linkHandle = nextCount s.cx.linkHandle) ∧
      ∀ r, t.getX r = if r ≠ 0 ∧ r = d then BitVec.ofNat 64 (1 + s.cx.linkHandle * 2 ^ 32) else s.getX r
    let isNew (x : LinkCmd) (feed : Bool) (D : BitVec 512) (tile : Option MReg) (l : Link) (far : Bool) (half : Nat) : Prop :=
      x.owner = s.cx.key ∧ x.handle = s.cx.linkHandle ∧ x.feed = feed ∧ x.link = l ∧ x.far = far ∧ x.half = half ∧ x.desc = D ∧
        x.tile = tile ∧ x.st = .queued ∧ x.pos = 0 ∧ x.lvl = s.cx.level
    let prodOk (D : BitVec 512) (l : Link) : Prop := productFieldsOk D (split l) = true ∧ (pdHasBias D = true →
      regionOf (pdBias D) = .localWindow ∧ ∀ j < 4 * pdN D,
        ∃ o, bankPlace s.cx s.cx.level .load (pdBias D) ((pdBias D).toNat - localWindowBase + j) 1 = .ok o)
    let va := s.getX a
    (∀ i, i = .lxProd a d ∨ i = .lxFeed aq rl a sc d → (va.toNat % 64 ≠ 0 → Traps i s (exn 4 va)) ∧
      ∀ e, va.toNat % 64 = 0 → s.cx.scrOperand va 64 = .error e → Traps i s e) ∧
    (∀ o D, va.toNat % 64 = 0 → s.cx.scrOperand va 64 = .ok o → s.localOpen (s.cx.localPlace o) 64 = true →
      D = BitVec.ofNat 512 (memRead s.mem (s.cx.localPlace o) 64) →
      (linkFrom s.cx.key.h (pdLink D) = none → Gives (.lxProd a d) s d 4) ∧
      (∀ l far g q, linkFrom s.cx.key.h (pdLink D) = some (l, far, g) → q = (if split l && far then 1 else 0) →
        (¬ prodOk D l → Gives (.lxProd a d) s d 4) ∧
        (prodOk D l → 8 ≤ (s.sideQueue l far q).length → Gives (.lxProd a d) s d 2) ∧
        (prodOk D l → (s.sideQueue l far q).length < 8 → ∃ t x, exec (.lxProd a d) s = .next t ∧ answered t ∧
          t.links = s.links ++ [x] ∧ isNew x false D none l far q)) ∧
      (∀ v, s.cx.feedViolation D = some v → ∃ e, e.cause = 35 ∧ e.val = BitVec.ofNat 64 v ∧ Traps (.lxFeed aq rl a sc d) s e) ∧
      (s.cx.feedViolation D = none → ∀ f, f = feedHead D none →
        (linkFrom s.cx.key.h f.dir = none → Gives (.lxFeed aq rl a sc d) s d 4) ∧
        ∀ l far g, linkFrom s.cx.key.h f.dir = some (l, far, g) →
          (feedFieldsOk D none (split l) = false → Gives (.lxFeed aq rl a sc d) s d 4) ∧
          (feedFieldsOk D none (split l) = true → 8 ≤ (s.sideQueue l far f.half).length → Gives (.lxFeed aq rl a sc d) s d 2) ∧
          (feedFieldsOk D none (split l) = true → (s.sideQueue l far f.half).length < 8 → ∃ t x,
            exec (.lxFeed aq rl a sc d) s = .next t ∧ answered t ∧ t.links = s.links ++ [x] ∧ isNew x true D none l far f.half))) ∧
    (∀ t D f, t = s.getM m → D = (s.getX b).setWidth 512 → f = feedHead D (some t) →
      (isOperandTag t.tag = false → Traps (.lxFeedt aq rl b m sc d) s (exn 24 (BitVec.ofNat 64 (m.toNat + 32 + 256 * t.tag.toNat)))) ∧
      (isOperandTag t.tag = true → (linkFrom s.cx.key.h f.dir = none → Gives (.lxFeedt aq rl b m sc d) s d 4) ∧
        ∀ l far g, linkFrom s.cx.key.h f.dir = some (l, far, g) →
          (feedFieldsOk D (some t) (split l) = false → Gives (.lxFeedt aq rl b m sc d) s d 4) ∧
          (feedFieldsOk D (some t) (split l) = true → 8 ≤ (s.sideQueue l far f.half).length → Gives (.lxFeedt aq rl b m sc d) s d 2) ∧
          (feedFieldsOk D (some t) (split l) = true → (s.sideQueue l far f.half).length < 8 → ∃ u x,
            exec (.lxFeedt aq rl b m sc d) s = .next u ∧ answered u ∧ u.links = s.links ++ [x] ∧ isNew x true D (some t) l far f.half)))

/-- LX.WAIT, LX.DWAIT, their twins, LX.STAT and LX.ABORT (R261, R262, R266): a blocking form raises cause 27 under handler discipline; a
command that is over is answered with its status word and bit 0 after an acquire at core scope, a live one is waited for or answered 2; DWAIT compares the counter
at the local-window address; ABORT answers 2 when it is late, and otherwise ends the command ABORTED.

LX.EPI and LX.CFG (R263, R264): a misaligned table raises cause 4; NOLINK, FENCED and BUSY are answered as 6, 4 and 2; otherwise the
slot takes the 512 bytes. LX.CFG answers SPARES, RET, SPLIT and T, and changes the mode where nothing is queued or open.

The model's choice, where it rests on one: a feed aborted by its feeder (log entry 32) and that LX.DWAIT comes after own writes (55). -/
def Obligations.LinkWaits : Prop :=
  (
    ∀ (b a d : BitVec 5) (s : State) (h : Nat), h = (s.getX a).toNat % 2 ^ 32 →
      let status (x : LinkCmd) (low : Nat) : Word := BitVec.ofNat 64 (low + linkCode x.st * 256 +
        (if x.st = .ended then x.result else 0) * 4096 + (if x.feed then 0 else x.flags.toNat * 65536) + (if x.iov then 2 ^ 21 else 0) +
        (if x.feed then 2 ^ 23 else 0) + x.pos * 2 ^ 32)
      (s.cx.thread = false → Traps (.lxWait a d) s (exn 27 0) ∧ Traps (.lxDwait b a d) s (exn 27 0)) ∧
      (s.link? s.cx.key h = none → (s.cx.thread = true → Completes (.lxWait a d) s ((s.acquire 0).setX d 1) false) ∧
        Completes (.lxWaitT a d) s ((s.acquire 0).setX d 1) false ∧
        Gives (.lxStat a d) s d 0 ∧ Gives (.lxAbort a d) s d 2) ∧
      (∀ x, s.link? s.cx.key h = some x → Gives (.lxStat a d) s d (status x 0) ∧
        (x.st = .ended → (s.cx.thread = true → Completes (.lxWait a d) s ((s.acquire 0).setX d (status x 1)) false) ∧
          Completes (.lxWaitT a d) s ((s.acquire 0).setX d (status x 1)) false) ∧
        (x.st ≠ .ended → (s.cx.thread = true → exec (.lxWait a d) s = .next s) ∧ Gives (.lxWaitT a d) s d 2) ∧
        (x.st = .ended ∨ x.st = .delivering → Gives (.lxAbort a d) s d 2) ∧
        (x.st ≠ .ended → x.st ≠ .delivering → (∀ p, x.feed = true → s.productOf x = some p →
          p.st ≠ .delivering ∧ (p.owner, p.handle) ≠ (x.owner, x.handle)) → ∃ t y,
          exec (.lxAbort a d) s = .next t ∧ t.cx.pc = s.cx.pc + 4 ∧ t.mem = s.mem ∧ t.getX d = (if d = 0 then 0 else 1) ∧
          y ∈ t.links ∧ y.owner = x.owner ∧ y.handle = x.handle ∧ y.st = .ended ∧ y.result = 8)) ∧
      (∀ i, i = .lxDwaitT b a d ∨ (i = .lxDwait b a d ∧ s.cx.thread = true) →
        ((s.getX a).toNat % 8 ≠ 0 → Traps i s (exn 4 (s.getX a))) ∧
        ((s.getX a).toNat % 8 = 0 → regionOf (s.getX a) ≠ .localWindow → Traps i s ⟨35, s.getX a, 4, .T⟩) ∧
        ((s.getX a).toNat % 8 = 0 → regionOf (s.getX a) = .localWindow → ∀ p n,
          bankPlace s.cx s.cx.level .load (s.getX a) ((s.getX a).toNat - localWindowBase) 8 = .ok p →
          s.localOpen (siteAddr s.cx.key.h p) 8 = true →
          n = memRead s.mem (siteAddr s.cx.key.h p) 8 →
          ((s.getX b).toNat ≤ n → Completes i s ((s.acquire 1).setX d (BitVec.ofNat 64 (1 + n % 2 ^ 32 * 2 ^ 32))) false) ∧
          (n < (s.getX b).toNat → (i = .lxDwaitT b a d → Gives i s d 2) ∧ (i = .lxDwait b a d → exec i s = .next s))))) ∧
  (
    ∀ (b a d : BitVec 5) (s : State),
      ((s.getX a).toNat % 64 ≠ 0 → Traps (.lxEpi b a d) s (exn 4 (s.getX a))) ∧
      (∀ pl : Nat → Nat, (s.getX a).toNat % 64 = 0 → regionOf (s.getX a) = .localWindow → regionOf (s.getX a + 511) = .localWindow →
        (∀ j < 8, bankPlace s.cx s.cx.level .load (s.getX a + BitVec.ofNat 64 (64 * j)) ((s.getX a).toNat - localWindowBase + 64 * j) 64 = .ok (pl j)) →
        (∀ j < 8, s.localOpen (siteAddr s.cx.key.h (pl j)) 64 = true) →
        let o := linkFrom s.cx.key.h ((s.getX b).toNat % 4)
        let slot := (s.getX b).getLsbD 2
        (o = none → Gives (.lxEpi b a d) s d 6) ∧ ∀ l far g, o = some (l, far, g) →
          (linkOnDie l = false ∨ (s.engine l).retired = true → Gives (.lxEpi b a d) s d 6) ∧
          (linkOnDie l = true → (s.engine l).retired = false → (s.linkOpen l far s.cx.kid = false → Gives (.lxEpi b a d) s d 4) ∧
            (s.linkOpen l far s.cx.kid = true → (s.slotBusy l slot = true → Gives (.lxEpi b a d) s d 2) ∧
              (s.slotBusy l slot = false → ∃ t e, exec (.lxEpi b a d) s = .next t ∧ t.cx.pc = s.cx.pc + 4 ∧ t.mem = s.mem ∧
                t.getX d = (if d = 0 then 0 else 1) ∧ t.engine l = e ∧ e.split = (s.engine l).split ∧
                (∀ j < 8, (if slot then e.table1 else e.table0).toNat / 2 ^ (512 * j) % 2 ^ 512 =
                  memRead s.mem (siteAddr s.cx.key.h (pl j)) 64) ∧
                (if slot then e.table0 = (s.engine l).table0 else e.table1 = (s.engine l).table1))))) ∧
      (let o := linkFrom s.cx.key.h ((s.getX a).toNat % 4)
       let ask := (s.getX b).getLsbD 1
       let word (e : Engine) (low : Nat) : Word := BitVec.ofNat 64 (low + (if e.split then 256 else 0) + (if e.retired then 512 else 0) +
         e.spares * 1024)
       (o = none → Gives (.lxCfg b a d) s d 6) ∧ ∀ l far g e, o = some (l, far, g) → e = s.engine l →
         (linkOnDie l = false → Gives (.lxCfg b a d) s d 6) ∧
         (linkOnDie l = true → (s.linkOpen l far s.cx.kid = false → Gives (.lxCfg b a d) s d 4) ∧
           (s.linkOpen l far s.cx.kid = true → (ask = false → Gives (.lxCfg b a d) s d (word e 1)) ∧
             (ask = true → e.retired = true → Gives (.lxCfg b a d) s d (word e 6)) ∧
             (ask = true → e.retired = false → ((∃ x ∈ s.links, x.link = l ∧ x.st ≠ .ended) → Gives (.lxCfg b a d) s d (word e 2)) ∧
               ((∀ x ∈ s.links, x.link = l → x.st = .ended) → ∀ m, m = { e with split := (s.getX b).getLsbD 0 } →
                 Completes (.lxCfg b a d) s ((s.setEngine m).setX d (word m 1)) false))))))

/-- The life of a product (R250, R252, R254, R255, R257, R258, R269 to R272): opening checks it and ends it with the failing check's result
or opens it; its grant lets it run; consumed, each element is the epilogue of its cell's accumulator over the steps that its feeds
issued; delivery puts every element in its place of the window, writes LAST, adds 1 to ARR and ends it OK, where the rows that leave find
frames; it waits for a sink that is away, and for a frame. Feeds of one queue arrive in order. Each timer that runs out ends what
it bounds.

Matching and streaming (R250, R267, R269): a feed that agrees with the open product takes its side, and is paused from the start when
its context is away; one that disagrees ends both with FEED_MISMATCH. A port reads each byte of its feed once, alone or with the
first step that takes it, and issues its next step while its side is not OFF; its side is OFF once it is 48 steps ahead; the cells of a running product consume one step of both sides together; an open
product asks for its leave once both sides have a step.

The model's choice, where it rests on one: a step is read when it is issued (log entry 15), the pace of a port is open (77), and the feeds of a product that fails as it opens end with it (112). -/
def Obligations.Products : Prop :=
  (
    ∀ (s : State) (l : Link) (half : Nat) (k : Key) (h : Nat),
      let ends (i : Instr) (x : LinkCmd) (r : Nat) : Prop := ∃ t y, exec i s = .next t ∧ y ∈ t.links ∧ y.owner = x.owner ∧
        y.handle = x.handle ∧ y.st = .ended ∧ y.result = r
      (∀ x c, s.openProduct l half = none → s.nextProduct l half = some x → s.owner? x.owner = some c →
        (s.openReason c x ≠ 0 → ends (.productOpen l half) x (s.openReason c x)) ∧
        (s.openReason c x = 0 → s.biasHere x = false → exec (.productOpen l half) s = .next s) ∧
        (s.openReason c x = 0 → s.biasHere x = true → x.acq = false → c.behind = [] → (s.readBias c x.desc).2 = none →
          (∀ f ∈ s.links, f.feed = true → f.link = l → f.half = half → f.arrived = false) → ∃ t, exec (.productOpen l half) s = .next t ∧
          t.mem = s.mem ∧ ∀ y ∈ t.links, y.owner = x.owner → y.handle = x.handle → y.st = .opened ∧ y.bias = (s.readBias c x.desc).1)) ∧
      (∀ f, s.link? k h = some f → f.feed = true → f.arrived = false → f.st = .queued → s.feedAhead f = false →
        s.openProduct f.link f.half = none → ∃ t, exec (.feedArrival k h) s = .next t ∧ t.mem = s.mem ∧ ∀ y ∈ t.links, y.owner = k → y.handle = h → y.arrived = true) ∧
      (∀ f, s.link? k h = some f → s.feedAhead f = true → exec (.feedArrival k h) s = .next s) ∧
      (∀ p, s.openProduct l half = some p → p.st = .grant → ∃ t, exec (.productGrant l half) s = .next t ∧ t.mem = s.mem ∧
        ∀ y ∈ t.links, (y.owner = p.owner ∧ y.handle = p.handle) ∨ p.feedA = some (y.owner, y.handle) ∨
          p.feedB = some (y.owner, y.handle) → y.st = .running) ∧
      (∀ p a b, s.openProduct l half = some p → p.st = .running → s.matched p.feedA = some a → s.matched p.feedB = some b →
        (p.pos ≠ p.k → exec (.productDelivery l half) s = .next s) ∧
        (p.pos = p.k → ∃ t, exec (.productDelivery l half) s = .next t ∧ t.mem = s.mem ∧
          ∀ y ∈ t.links, y.owner = p.owner → y.handle = p.handle → y.st = .delivering ∧ y.out.length = pdM p.desc * pdN p.desc ∧
            ∀ e < pdM p.desc * pdN p.desc, y.out.getD e 0 = ((epilogueOf p (e % pdN p.desc)).apply
              (cell p a b (e / pdN p.desc) (e % pdN p.desc)).bits).bits)) ∧
      (∀ p c, s.openProduct l half = some p → p.st = .delivering → s.owner? p.owner = some c →
        (s.sinkWaits c p.desc = true → exec (.deliveryComplete l half) s = .next s) ∧
        ∀ g, s.sinkWaits c p.desc = false → s.sinkOf c p.desc = some g → p.out ≠ [] → ∀ e, e = pdM p.desc * pdN p.desc - p.out.length →
          e % pdN p.desc = 0 → s.badPlace (elemPlace g p.desc e) = false → s.roomFor p.owner.h g.leaf 2 = false →
          ∃ t, exec (.deliveryComplete l half) s = .next t ∧ t.mem = s.mem) ∧
      (∀ p c g, s.openProduct l half = some p → p.st = .delivering → s.owner? p.owner = some c → s.sinkWaits c p.desc = false →
        s.sinkOf c p.desc = some g → pdAdd p.desc = false → p.rel = false →
        (∀ i f, p.feedA = some i ∨ p.feedB = some i → s.link? i.1 i.2 = some f → f.rel = false) → Safe s →
        ∀ (w at0 n m : Nat) (pl : Nat → Nat), w = outBytes (pdOut p.desc) → at0 = g.localPlace (g.windowAt p.desc) →
          n = pdM p.desc * pdN p.desc → n = m + p.out.length →
          ((List.range' m (n - m)).filter fun e => e % pdN p.desc = 0).length ≤
            ((List.range 4).filter fun j => s.stamped p.owner.h g.leaf 2 (s.frame + j) < s.quotaOf g.leaf 2).length → (∀ e, pl e = elemPlace g p.desc e) →
          (∀ e, m ≤ e → e < n → s.badPlace (pl e) = false ∧ (at0 + 16 ≤ pl e ∨ pl e + w ≤ at0)) → s.badPlace at0 = false →
          (∀ e < n, ∀ f < n, e ≠ f → pl e + w ≤ pl f ∨ pl f + w ≤ pl e) →
          ends (.deliveryComplete l half) p 0 ∧ ∀ t, exec (.deliveryComplete l half) s = .next t →
            (∀ e, m ≤ e → e < n → memRead t.mem (pl e) w = p.out.getD (e - m) 0 % 256 ^ w) ∧
            memRead t.mem at0 8 = (memRead s.mem at0 8 + 1) % 2 ^ 64 ∧
            memRead t.mem (at0 + 8) 8 = pdTag p.desc + p.flags.toNat * 2 ^ 16 + (if p.iov then 2 ^ 21 else 0) ∧
            ∀ x, (x < at0 ∨ at0 + 16 ≤ x) → (∀ e, m ≤ e → e < n → x < pl e ∨ pl e + w ≤ x) → memGet t.mem x = memGet s.mem x) ∧
      (∀ p, s.openProduct l half = some p → p.st = .opened → ends (.rendezvousTimeout l half) p 2) ∧
      (∀ p c, s.openProduct l half = some p → p.st = .delivering → s.owner? p.owner = some c → s.sinkRetries c p.desc = true →
        ends (.sinkRetryTimeout l half) p 3) ∧
      (∀ f, s.link? k h = some f → f.feed = true → f.st = .queued → ends (.feedTimeout k h) f 10) ∧
      (∀ f p, s.link? k h = some f → s.productOf f = some p → f.paused = true → f.st ≠ .ended → p.st ≠ .delivering →
        ends (.pauseTimeout k h) p 2) ∧
      (∀ c f, s.ctx? k = some c → s.link? k h = some f → f.paused = true → c.holdsCore = true → ∃ t, exec (.feedResume k h) s = .next t ∧
        ∀ y ∈ t.links, y.owner = k → y.handle = h → y.paused = false) ∧
      (∀ p, s.links.find? (fun x => !x.feed && x.link = l && x.st = .running) = some p → ∃ t, exec (.residueMismatch l) s = .next t ∧
        t.mem = s.mem ∧ ((s.engine l).spares < 2 → t.links = s.links ∧ t.engine l = { s.engine l with spares := (s.engine l).spares + 1 }) ∧
        (2 ≤ (s.engine l).spares → (t.engine l).retired = true ∧ RasUnit.engine l ∈ t.sol.retired))) ∧
  (
    (∀ (s t : State) (p f : LinkCmd), s.link? p.owner p.handle = some p → s.link? f.owner f.handle = some f →
      (p.owner, p.handle) ≠ (f.owner, f.handle) → p.feed = false → f.feed = true → t = s.matchFeed p f →
      let a := feedsA p f.far
      (feedAgrees p f = true ↔ f.head.k = pdK p.desc ∧ f.head.lanes = (if a then pdM p.desc else pdN p.desc) ∧
        f.head.ftag = if a then pdA p.desc else pdB p.desc) ∧
      (feedAgrees p f = true → ∃ q g, t.link? p.owner p.handle = some q ∧ t.link? f.owner f.handle = some g ∧ g.st = .opened ∧
        g.paused = (s.owner? f.owner).any Ctx.feedsPause ∧ q.feedA = (if a then some (f.owner, f.handle) else p.feedA) ∧
        q.feedB = (if a then p.feedB else some (f.owner, f.handle)) ∧ q.st = p.st) ∧
      (feedAgrees p f = false → ∃ q ∈ t.links, q.owner = p.owner ∧ q.handle = p.handle ∧ q.st = .ended ∧ q.result = 1)) ∧
    (∀ (s : State) (k : Key) (h : Nat) (c : Ctx) (f p : LinkCmd), s.ctx? k = some c → s.link? k h = some f → s.productOf f = some p →
      (f.off = true ∨ f.paused = true → s.issueStep k h = s) ∧
      (f.paused = false → f.st ≠ .ended → f.pos < f.k → c.feedsPause = false → s.poweredSite k.h = true →
        (∀ d, s.owner? k = some d → d.behind = []) → f.acq = false ∨ f.pos ≠ 0 ∨ f.bytes ≠ [] →
        (f.off = false → p.st ≠ .delivering → s.stepFault c f f.pos = none →
          ∃ g, (s.issueStep k h).link? k h = some g ∧ g.pos = f.pos + 1 ∧ g.off = decide (p.pos + 48 ≤ f.pos + 1) ∧
            g.steps = f.steps ++ [feedStep (fun a => (s.feedByte c f a).toNat) f.desc f.tile f.pos] ∧
            (∀ t : State, ∀ a ∈ stepBytes f.desc f.tile f.pos, t.feedByte c g a = s.feedByte c f a) ∧
            ∀ x ∈ f.bytes, x ∈ g.bytes) ∧
        ∀ i a, f.feed = true → f.pos ≤ i → i < f.k → a ∈ stepBytes f.desc f.tile i → s.badPlace (c.feedPlace a) = false →
          ∃ g, (s.feedRead k h a).link? k h = some g ∧ g.pos = f.pos ∧ g.steps = f.steps ∧
            ∀ t : State, t.feedByte c g a = s.feedByte c f a)) ∧
    (∀ (s : State) (l : Link) (half : Nat) (p a b : LinkCmd), s.openProduct l half = some p → s.matched p.feedA = some a →
      s.matched p.feedB = some b → s.link? p.owner p.handle = some p →
      (p.st = .running → p.pos < p.k → p.pos < a.pos → p.pos < b.pos → ∃ q, (s.consumeStep l half).link? p.owner p.handle = some q ∧
        q.pos = p.pos + 1) ∧
      (p.st ≠ .running ∨ p.k ≤ p.pos ∨ a.pos ≤ p.pos ∨ b.pos ≤ p.pos → s.consumeStep l half = s) ∧
      (p.st = .opened → 1 ≤ a.pos → 1 ≤ b.pos → ∃ q, (s.stageProduct l half).link? p.owner p.handle = some q ∧ q.st = .grant) ∧
      (p.st = .opened → a.pos = 0 ∨ b.pos = 0 → s.stageProduct l half = s)))

/-- XOP and XCFG (R33, R156, R175, R181, R185 to R187): an opcode without a slot raises cause 25 with it; otherwise every enabled lane of
v[d] is the graph of its sources' lanes, under the image's tag and flags. DROP empties the slot, QUERY describes it or answers 0,
and LOAD without the right raises cause 35, and otherwise puts a checked image into a slot whose number it answers.

The model's choice, where it rests on one: the order of checks of one image (log entry 52), the value of cause 35 (133), an opcode that six bits do not hold (134), and what is read of an image with too many tables (135). -/
def Obligations.Engines : Prop :=
  ∀ (op : BitVec 6) (b a d : BitVec 5) (pg : BitVec 3) (s : State),
    (s.xslot? s.cx.key op.toNat = none → Traps (.xop op b a pg d) s (exn 25 (op.setWidth 64))) ∧
    (∀ x w n, s.xslot? s.cx.key op.toNat = some x → w = xWidth x.image → n = xLanes x.image →
      (xNsrc x.image < 2 → b = 0) → (xNsrc x.image < 1 → a = 0) →
      ∀ src : Nat → VReg, (∀ j, src j = if xNsrc x.image ≤ j then VReg.empty else if j = 0 then s.getV a else if j = 1 then s.getV b else s.getV d) →
      (∀ j < 3, j < xNsrc x.image → (src j).tag = BitVec.ofNat 4 (xItag x.image j)) →
      ∀ res : Nat → Nat × VFlags, (∀ i, res i = graph x.image s.cx.rm fun j => if j < 3 then elemOf w (src j).bits i else elemOf w 0 i) →
      ∃ r fl t, r.tag = BitVec.ofNat 4 (xOtag x.image) ∧ FlagsOf fl n (Enabled s pg) (fun i => (res i).2) ∧
        (∀ i < n, (Enabled s pg i → elemOf w r.bits i = (res i).1 % 2 ^ w) ∧ (¬ Enabled s pg i →
          elemOf w r.bits i = if (s.getV d).tag = r.tag then elemOf w (s.getV d).bits i else 0)) ∧
        Completes (.xop op b a pg d) s t true ∧ t.getV d = r ∧ t.cx.vflags = s.cx.vflags ||| fl.setWidth 64 ∧ t.mem = s.mem) ∧
    (∃ t, exec (.xcfgDrop a) s = .next t ∧ t.cx.pc = s.cx.pc + 4 ∧
      ∀ x, x ∈ t.slots ↔ x ∈ s.slots ∧ ¬ (x.owner = s.cx.key ∧ x.opcode = (s.getX a).toNat)) ∧
    (∃ t v, exec (.xcfgQuery a d) s = .next t ∧ t.cx.pc = s.cx.pc + 4 ∧ (∀ r, t.getX r = if r ≠ 0 ∧ r = d then v else s.getX r) ∧
      (s.xslot? s.cx.key (s.getX a).toNat = none → v = 0) ∧
      ∀ x, s.xslot? s.cx.key (s.getX a).toNat = some x → v = BitVec.ofNat 64 (2 ^ 63 + xItag x.image 2 * 2 ^ 28 + xItag x.image 1 * 2 ^ 24 +
        xItag x.image 0 * 2 ^ 20 + xOtag x.image * 2 ^ 16 + x.idx * 2 ^ 12 + xLw x.image * 2 ^ 10 + xNsrc x.image * 2 ^ 8 + xLat x.image)) ∧
    (s.leafGrants 6 = false → Traps (.xcfgLoad a d) s ⟨35, 0, 3, .D⟩) ∧
    (s.leafGrants 6 = true → ∀ n e t u img, n = (s.getX a).toNat →
      s.readMem .weak (s.cx.xTable + BitVec.ofNat 64 (8 * n)) 8 = .ok (e, t) → t.readImage (s.cx.xBase + BitVec.ofNat 64 (e % 2 ^ 48)) = .ok (img, u) →
      (64 ≤ n ∨ s.cx.xEntries ≤ n ∨ e < 2 ^ 63) → ∃ x, x.cause = 37 ∧ Traps (.xcfgLoad a d) s x) ∧
    (s.leafGrants 6 = true → ∀ n, n = (s.getX a).toNat → n < 64 → n < s.cx.xEntries → ∀ e t u img va,
      s.readMem .weak (s.cx.xTable + BitVec.ofNat 64 (8 * n)) 8 = .ok (e, t) → 2 ^ 63 ≤ e → va = s.cx.xBase + BitVec.ofNat 64 (e % 2 ^ 48) →
      va.toNat % 64 = 0 → t.readImage va = .ok (img, u) → imageFail img = none →
      ∃ v x, exec (.xcfgLoad a d) s = .next v ∧ v.cx.pc = s.cx.pc + 4 ∧ x ∈ v.slots ∧ x.owner = s.cx.key ∧ x.h = s.cx.key.h ∧
        x.opcode = n ∧ x.image = img ∧ v.getX d = if d = 0 then 0 else BitVec.ofNat 64 x.idx)

/-! ## Messages, activations and channels -/

/-- The five sending members (R286, R288, R295): cause 27 for a blocking form under handler discipline, 4 for a misaligned image, 35 for
one outside SCR or a destination outside the leaf; BADMSG is answered as 4; with the entries taken MSG.REPLY raises cause 28, a twin
answers 2 and the others wait; otherwise the image, with PAS, VN and SRC completed, enters the send queue under the next handle. (The core
has read nothing early, and has sent nothing to those 64 bytes that is on its way.)

MSG.POST, MSG.UNPOST, MSG.POLL and MSG.SPILL (R290, R296 to R298): a posted receive takes the oldest overflowed message it matches,
whose 64 bytes and count it writes, or is entered; UNPOST answers 2 when it is late; POLL answers the status words, and takes the
oldest waiting message into the landing slot; SPILL stores the oldest waiting messages and frees them. (Where an image is written, it is written at once: see
MessageTransit; and nothing that the core has sent to its own pool is on its way.) -/
def Obligations.Messages : Prop :=
  (
    let f : List ((BitVec 5 → BitVec 5 → BitVec 5 → Instr) × Bool × Bool × Bool) := [(.msgSend, false, false, false),
      (.msgSendT, false, false, true), (.msgPut, true, false, false), (.msgPutT, true, false, true), (.msgReply, false, true, false)]
    ∀ e ∈ f, ∀ (b a d : BitVec 5) (s : State) (i : Instr) (va dest : Word), i = e.1 b a d → va = s.getX a → dest = s.getX b →
      ∀ pas rpy twin, pas = e.2.1 → rpy = e.2.2.1 → twin = e.2.2.2 →
      (rpy = false → twin = false → s.cx.thread = false → Traps i s (exn 27 0)) ∧
      (rpy = true ∨ twin = true ∨ s.cx.thread = true →
        (va.toNat % 64 ≠ 0 → Traps i s (exn 4 va)) ∧
        (va.toNat % 64 = 0 → (∀ x, s.cx.scrOperand va 64 = .error x → Traps i s x) ∧ ∀ o, s.cx.scrOperand va 64 = .ok o →
          (s.cx.leafLen ≤ dest.toNat → Traps i s ⟨35, dest, 1, .D⟩) ∧
          (dest.toNat < s.cx.leafLen → s.cx.early = [] → s.localOpen (s.cx.localPlace o) 64 = true → ∀ img, img = BitVec.ofNat 512 (memRead s.mem (s.cx.localPlace o) 64) →
            ∀ good : Prop, (good ↔ (img.extractLsb' 10 6).toNat ≤ 56 ∧ img.extractLsb' 42 22 = 0) →
            (¬ good → Gives i s d 4) ∧
            (good → ∀ full : Prop, (full ↔ s.cx.sq = s.cx.msg.swin ∨ 16 ≤ s.sendQueue s.cx.key.h) →
              (full → (rpy = true → Traps i s (exn 28 (BitVec.ofNat 64 s.cx.sq))) ∧ (rpy = false → twin = true → Gives i s d 2) ∧
                (rpy = false → twin = false → exec i s = .next s)) ∧
              (¬ full → s.cx.drained = true → ∃ x, x.handle = s.cx.msgHandle ∧ x.dest = dest.toNat ∧ x.st = .queued ∧
                x.retry = (!rpy && !twin) ∧ x.img.getLsbD 8 = pas ∧ x.img.getLsbD 9 = rpy ∧ x.img.extractLsb' 32 10 = BitVec.ofNat 10 s.cx.rel ∧
                (∀ n, n ≠ 8 → n ≠ 9 → (n < 32 ∨ 42 ≤ n) → x.img.getLsbD n = img.getLsbD n) ∧
                Completes i s (({ s with cx := { s.cx with sends := s.cx.sends ++ [x], msgHandle := nextCount s.cx.msgHandle } } : State).setX d
                  (BitVec.ofNat 64 (1 + s.cx.msgHandle * 2 ^ 32))) false)))))) ∧
  (
    ∀ (b a d : BitVec 5) (s : State) (va w : Word) (h : Nat), va = s.getX a → w = s.getX b → h = va.toNat % 2 ^ 32 →
      let ok := BitVec.ofNat 64 (1 + s.cx.postHandle * 2 ^ 32)
      (va.toNat % 128 ≠ 0 → Traps (.msgPost b a d) s (exn 4 va)) ∧
      (va.toNat % 128 = 0 → (∀ x, s.cx.scrOperand va 128 = .error x → Traps (.msgPost b a d) s x) ∧
        ∀ o, s.cx.scrOperand va 128 = .ok o →
          (w.extractLsb' 34 30 ≠ 0 ∨ w.extractLsb' 26 4 ≠ 0 ∨ w.extractLsb' 32 2 = 0 → Gives (.msgPost b a d) s d 4) ∧
          (w.extractLsb' 34 30 = 0 → w.extractLsb' 26 4 = 0 → w.extractLsb' 32 2 ≠ 0 →
            (∀ img p, s.cx.overflow.find? (matchWord w) = some img → Safe s → s.apart = false → p = s.cx.localPlace o → ∃ t, exec (.msgPost b a d) s = .next t ∧
              t.cx.pc = s.cx.pc + 4 ∧ t.getX d = (if d = 0 then 0 else ok) ∧ memRead t.mem p 64 = img.toNat ∧
              memRead t.mem (p + 64) 8 = (memRead s.mem (p + 64) 8 + 1) % 2 ^ 64 ∧ MemSameBut s t p 72 ∧
              t.cx.overflow = s.cx.overflow.erase img) ∧
            (s.cx.overflow.find? (matchWord w) = none → ∀ n, n = (s.cx.posted.filter fun p => p.st = .posted).length →
              (32 ≤ n → Gives (.msgPost b a d) s d 2) ∧
              (n < 32 → ∃ t x, exec (.msgPost b a d) s = .next t ∧ t.cx.pc = s.cx.pc + 4 ∧ t.mem = s.mem ∧
                t.getX d = (if d = 0 then 0 else ok) ∧ x ∈ t.cx.posted ∧ x.handle = s.cx.postHandle ∧ x.buf = o ∧ x.want = w ∧ x.st = .posted)))) ∧
      ((∀ p ∈ s.cx.posted, p.handle = h → p.st ≠ .posted) → Gives (.msgUnpost a d) s d 2) ∧
      ((∃ p ∈ s.cx.posted, p.handle = h ∧ p.st = .posted) → ∃ t, exec (.msgUnpost a d) s = .next t ∧ t.cx.pc = s.cx.pc + 4 ∧ t.mem = s.mem ∧
        t.getX d = (if d = 0 then 0 else 1) ∧ ∀ p ∈ t.cx.posted, p.handle = h → p.st = .unposted) ∧
      (s.cx.sends.find? (fun x => x.handle = h) = none → Gives (.msgPoll a 0 d) s d 1) ∧
      (∀ x, s.cx.sends.find? (fun x => x.handle = h) = some x → Gives (.msgPoll a 0 d) s d (BitVec.ofNat 64
        ((if x.st = .accepted ∨ x.st = .refused ∨ x.st = .rejected then 1 else 2) + sendCode x.st * 256 + x.rej * 4096 +
          min 0xFFFF x.retries * 2 ^ 48))) ∧
      (s.cx.posted.find? (fun p => p.handle = h) = none → Gives (.msgPoll a 1 d) s d 1) ∧
      (∀ p, s.cx.posted.find? (fun p => p.handle = h) = some p → Gives (.msgPoll a 1 d) s d
        (match p.st with | .posted => 0x102 | .matched => 0x201 | .unposted => 0x301)) ∧
      (s.cx.waitingMail = [] → Gives (.msgPollTake d) s d 0) ∧
      (∀ img l p, s.cx.waitingMail = img :: l → Safe s → s.apart = false → p = s.cx.localPlace s.cx.landing → ∃ t, exec (.msgPollTake d) s = .next t ∧
        t.cx.pc = s.cx.pc + 4 ∧ memRead t.mem p 64 = img.toNat ∧ MemSameBut s t p 64 ∧ t.cx.waitingMail = l ∧
        t.getX d = if d = 0 then 0 else BitVec.ofNat 64 (img.toNat % 2 ^ 63 + 2 ^ 63)) ∧
      (va.toNat % 64 ≠ 0 → Traps (.msgSpill b a d) s (exn 6 va)) ∧
      (va.toNat % 64 = 0 → ∀ ms u, ms = s.cx.waitingMail.take w.toNat →
        u = ({ s with cx := (s.cx.takeMail ms.length).addSpilled ms.length } : State).setX d (BitVec.ofNat 64 ms.length) →
        ∀ bs : List (Word × Byte), bs = (ms.mapIdx fun i img => (List.range 64).map fun j =>
          (va + BitVec.ofNat 64 (64 * i + j), BitVec.ofNat 8 (img.toNat / 256 ^ j))).flatten → ∀ pl,
        (Safe s → s.ahead s.cx.key.h s.cx.key.h = [] → s.posts = [] → s.apart = false → BytesReach s none [.localWin] pl bs → StoresNow (.msgSpill b a d) s u pl bs) ∧
        (∀ ls : List Nat, (∀ x ∈ bs, x.1.toNat / 128 ∈ ls) → s.logRoom bs ls.length →
          s.roomFor (s.cx.bankSite ((bs.head?.map (·.1)).getD 0)) s.cx.leaf 0 = true → BytesReach s none [.siteWin, .glob] pl bs → StoresPost (.msgSpill b a d) s u pl bs)))

/-- Activations (R281, R282, R299): HDONE ends the running one at level K, frees the mailbox entry of its message, ends the reservation, and parks the context, or
begins its retirement under thread discipline; an event whose handler entry is valid starts the next one at the handler, with x10
and x11 as its kind gives and a message in the landing slot, and any other is discarded.

The model's choice, where it rests on one: HDONE of a composed thread (log entry 39). -/
def Obligations.Activations : Prop :=
  ∀ s : State,
    (∃ t, exec .hdone s = .next t ∧ t.cx.act = none ∧ t.cx.level = .K ∧ t.cx.pc = s.cx.pc ∧ t.cx.resv = none ∧
      (s.cx.thread = true → t.cx.status = .retiring) ∧ (s.cx.thread = false → t.cx.events ≠ [] → t.cx.status = .parked) ∧
      t.cx.mailbox = if s.cx.act.any (·.holdsMail) then s.cx.mailbox.filter (fun m => !m.started) else s.cx.mailbox) ∧
    ∀ k c e l, s.ctx? k = some c → c.events = e :: l → s.mayStart c = true →
      (c.stale e = true ∨ s.handler? c e.hnd = none → ∃ t c', exec (.activationStart k) s = .next t ∧ t.mem = s.mem ∧
        t.ctx? k = some c' ∧ c'.events = l ∧ c'.act = c.act ∧ c'.pc = c.pc) ∧
      (∀ pc, c.stale e = false → s.handler? c e.hnd = some pc → ∃ t c', exec (.activationStart k) s = .next t ∧ t.ctx? k = some c' ∧
        c'.pc = pc ∧ c'.status = .running ∧ c'.level = c.level ∧ c'.events = l ∧ c'.wdog.count = 0 ∧ c'.wdog.limit = c.wdog.reg.toNat ∧
        (∀ r : BitVec 5, r ≠ 10 → r ≠ 11 → c'.getX r = c.getX r) ∧ (∀ i ∈ t.l1, ∀ j < c.comp.n, i.h ≠ c.key.h + j) ∧
        (∀ img, e = .message img → Safe s → s.apart = false → (c'.getX 10).toNat = 1 + img.toNat % 256 * 2 ^ 8 + img.toNat / 2 ^ 16 % 2 ^ 16 * 2 ^ 16 +
            img.toNat / 2 ^ 32 % 1024 * 2 ^ 32 ∧ c'.getX 11 = localAddr c.landing ∧
          memRead t.mem (c.localPlace c.landing) 64 = img.toNat ∧ MemSameBut s t (c.localPlace c.landing) 64) ∧
        ((∀ img, e ≠ .message img) → t.mem = s.mem) ∧
        (∀ n g lo hi grain dep, e = .task n g lo hi grain dep → (c'.getX 10).toNat = 3 + g % 256 * 2 ^ 8 ∧
          c'.getX 11 = BitVec.ofNat 64 (n % 2 ^ 48) ∧ c'.range = ⟨true, lo, hi, grain, n⟩) ∧
        (∀ o g tag, e = .window o tag g → c'.getX 11 = localAddr o))

/-- Messages on their way (R14, R287 to R291, R339): a queued send is injected under its quota, after older ones of its pair; the oldest
of its pair arrives and is answered by the first row that fits. A reply lands in the posted receive it matches, else in the ring while
the ring has room, else it waits in the hold slot with cause 29; with the slot taken it stays in the network. An answer ends the send,
or sends it back to wait; a waiting send is queued again. An image is written at once, or doubleword by doubleword.

The model's choice, where it rests on one: flits and stamps (log entries 31 and 98), the order of a pair (11), its answers (110) and RETRY (33). -/
def Obligations.MessageTransit : Prop :=
  ∀ (s : State) (k : Key) (h : Nat) (c : Ctx) (x : Send), s.ctx? k = some c → c.send? h = some x →
    let becomes (i : Instr) (p : Send → Prop) : Prop := ∃ t c', exec i s = .next t ∧ t.ctx? k = some c' ∧ ∀ y ∈ c'.sends, y.handle = h → p y
    (∀ f, h < 2 ^ 32 → x.st = .queued → s.frameFor k.h c.leaf (if imgRpy x.img then 1 else 0) = some f →
      (c.sendsFirst x = false → exec (.packetInjection k h) s = .next s) ∧ (c.sendsFirst x = true →
      becomes (.packetInjection k h) fun y => y.st = .sent ∧ y.answer = none)) ∧
    (x.inFlight = true → s.firstOfPair c x = true → s.isHeld k h = false → ∀ g, g = c.leafBase + x.dest →
      (s.retries c.kid g = true → becomes (.messageArrival k h) fun y => y.answer = some .retry) ∧
      (s.retries c.kid g = false → s.ofKernel c.kid g = none → becomes (.messageArrival k h) fun y => y.answer = some (.reject 1)) ∧
      (∀ r, s.retries c.kid g = false → s.ofKernel c.kid g = some r → imgRpy x.img = false → imgPas x.img = false →
        (s.handler? r (imgHnd x.img) = none → becomes (.messageArrival k h) fun y => y.answer = some (.reject 2)) ∧
        ((s.handler? r (imgHnd x.img)).isSome → (r.mailbox.length = r.msg.mbox → becomes (.messageArrival k h) fun y => y.answer = some .refuse) ∧
          (r.mailbox.length ≠ r.msg.mbox → (becomes (.messageArrival k h) fun y => y.answer = some .accept) ∧
            ∀ t, exec (.messageArrival k h) s = .next t → ∃ r', t.ofKernel c.kid g = some r' ∧ r'.mailbox = r.mailbox ++ [⟨x.img, false⟩] ∧
              r'.events = if r.thread then r.events else r.events ++ [.message x.img]))) ∧
      (∀ r, s.retries c.kid g = false → s.ofKernel c.kid g = some r → imgRpy x.img = false → imgPas x.img = true → Safe s →
        (∀ p, r.postFor x.img = some p → s.poweredSite g = false → exec (.messageArrival k h) s = .next s) ∧
        (∀ p, r.postFor x.img = some p → s.poweredSite g = true →
          (becomes (.messageArrival k h) fun y => y.answer = some .accept) ∧ ∀ t, s.apart = false → exec (.messageArrival k h) s = .next t → memRead t.mem (r.localPlace p.buf) 64 = x.img.toNat ∧
            memRead t.mem (r.localPlace p.buf + 64) 8 = (memRead s.mem (r.localPlace p.buf + 64) 8 + 1) % 2 ^ 64) ∧
        (r.postFor x.img = none → r.overflow.length < 16 → becomes (.messageArrival k h) fun y => y.answer = some .accept) ∧
        (r.postFor x.img = none → 16 ≤ r.overflow.length → becomes (.messageArrival k h) fun y => y.answer = some .refuse)) ∧
      (∀ r, s.retries c.kid g = false → s.ofKernel c.kid g = some r → imgRpy x.img = true → s.poweredSite g = true → Safe s →
        ∀ lsz tail, lsz = (r.msg.rring.extractLsb' 24 4).toNat → tail = (r.msg.rrhead.extractLsb' 16 16).toNat →
        let room : Prop := lsz ≠ 0 ∧ (tail + 2 ^ 16 - (r.msg.rrhead.extractLsb' 0 16).toNat) % 2 ^ 16 < 2 ^ lsz
        (r.hold ≠ none → exec (.messageArrival k h) s = .next s) ∧
        (∀ p, r.hold = none → r.postFor x.img = some p → (becomes (.messageArrival k h) fun y => y.answer = some .accept) ∧
          ∀ t, s.apart = false → exec (.messageArrival k h) s = .next t → memRead t.mem (r.localPlace p.buf) 64 = x.img.toNat ∧
            memRead t.mem (r.localPlace p.buf + 64) 8 = (memRead s.mem (r.localPlace p.buf + 64) 8 + 1) % 2 ^ 64) ∧
        (r.hold = none → r.postFor x.img = none → room → (becomes (.messageArrival k h) fun y => y.answer = some .accept) ∧
          ∀ t, s.apart = false → exec (.messageArrival k h) s = .next t →
            memRead t.mem (r.localPlace (64 * ((r.msg.rring.extractLsb' 6 14).toNat + tail % 2 ^ lsz))) 64 = x.img.toNat ∧
            ∃ r', t.ofKernel c.kid g = some r' ∧ (r'.msg.rrhead.extractLsb' 16 16).toNat = (tail + 1) % 2 ^ 16) ∧
        (r.hold = none → r.postFor x.img = none → ¬ room → ∃ t r', exec (.messageArrival k h) s = .next t ∧ t.mem = s.mem ∧
          t.ofKernel c.kid g = some r' ∧ r'.hold = some ⟨k, h, x.img⟩ ∧
          r'.asyncs = r.asyncs ++ [⟨29, BitVec.ofNat 64 (2 + imgSrc x.img * 2 ^ 32), 0, .T, 0⟩]))) ∧
    (s.answerArrives c x = true → x.answer = some .accept → becomes (.messageAnswer k h) fun y => y.st = .accepted) ∧
    (∀ r, s.answerArrives c x = true → x.answer = some (.reject r) → becomes (.messageAnswer k h) fun y => y.st = .rejected ∧ y.rej = r) ∧
    (s.answerArrives c x = true → x.answer = some .refuse → x.retry = true → (∀ y ∈ c.sends, y.handle = h → y.retry = true) →
      becomes (.messageAnswer k h) fun y => y.st = .backoff) ∧
    (s.answerArrives c x = true → x.answer = some .refuse → (∀ y ∈ c.sends, y.handle = h → y.retry = false) → becomes (.messageAnswer k h) fun y => y.st = .refused) ∧
    (x.st = .backoff → becomes (.sendBackoffExpiry k h) fun y => y.st = .queued ∧ 0 < y.retries) ∧
    (x.answer = some .retry → becomes (.messageRetryResend k h) fun y => y.st = .queued ∧ y.answer = none) ∧
    ∀ (kind : PostKind) (pa : Nat) (img : BitVec 512), (s.apart = false → Safe s → memRead (s.writeImage kind k pa img).mem pa 64 = img.toNat ∧
        MemSameBut s (s.writeImage kind k pa img) pa 64) ∧
      (s.apart = true → ∃ ps, (s.writeImage kind k pa img).posts = s.posts ++ ps ∧ (s.writeImage kind k pa img).mem = s.mem ∧ ps.length = 8 ∧
        ∀ j < 8, ∃ p ∈ ps, p.kind = kind ∧ p.agent = k ∧ p.site = k.h ∧ p.pa = physOf (pa + 8 * j) ∧ p.n = 8 ∧ p.add = false ∧
          p.val = img.toNat / 256 ^ (8 * j) % 2 ^ 64)

/-- CH.OPEN, CH.CLOSE, CH.BIND and CH.STAT (R300, R303, R304, R306, R307): what refuses an opening raises cause 30; a send end opens OFF
and asks, a receive end opens with its buffer; closing a send end sends the marker, behind what it still holds, and closing a receive
end tells the peer; a binding is entered, replaced or ended, or its reason is answered.

CH.PUSH, CH.POP and their twins (R305): cause 27 under handler discipline for the blocking forms, cause 30 for no open end of the kind,
24 for an EMPTY source; a push appends the source with its tag, a pop takes the head, its tag and what its slot of the buffer holds, into v, whatever v held; on a closed
end the twin answers 4, and where it would wait 2.

The model's choice, where it rests on one: the slots of the buffer (log entry 30), the reason of CH.CLOSE (40), the bytes of an entry (99), and the order of cause 27 and 30 (123). -/
def Obligations.Channels : Prop :=
  (
    ∀ (b a d : BitVec 5) (q : BitVec 3) (f : BitVec 1) (s : State) (w : Word), w = s.getX a →
      let bad (n : Nat) : Prop := Traps (.chOpen b a q) s (exn 30 (BitVec.ofNat 64 (q.toNat + n * 4096)))
      ((s.cx.chan? q.toNat).isSome → bad 2) ∧
      (s.cx.chan? q.toNat = none → ∀ n, n = hops s.cx.key.h (s.cx.leafBase + cwPeer w) →
        (cwOk w n = false → bad 1) ∧ (cwOk w n = true → (s.cx.leafLen ≤ cwPeer w → bad 4) ∧ (cwPeer w < s.cx.leafLen →
          ∀ p, p = s.cx.leafBase + cwPeer w →
          (w.getLsbD 27 = true → ∃ ch, ch.q = q.toNat ∧ ch.sendEnd = true ∧ ch.off = true ∧ ch.entries = [] ∧ ch.rtag = w.extractLsb' 48 16 ∧
            ch.peer = cwPeer w ∧ ∃ u, Completes (.chOpen b a q) s u false ∧ u.sansTraffic = State.sansTraffic
              { s with cx := { s.cx with chans := s.cx.chans ++ [ch] }, str := s.str ++ [⟨s.cx.key, s.cx.kid, p, s.cx.rel, ch.rtag, .ask⟩] }) ∧
          (w.getLsbD 27 = false → (s.cx.openBuffer w (s.getX b) = none → bad 3) ∧ ∀ o, s.cx.openBuffer w (s.getX b) = some o →
            (s.cx.routeTaken w = true → bad 5) ∧ (s.cx.routeTaken w = false → ∃ t ch, exec (.chOpen b a q) s = .next t ∧
              t.cx.pc = s.cx.pc + 4 ∧ t.mem = s.mem ∧ t.cx.chans = s.cx.chans ++ [ch] ∧ ch.q = q.toNat ∧ ch.sendEnd = false ∧ ch.buf = o ∧
              ch.entries = [] ∧ ch.depth = cwDepth w ∧ ch.rtag = w.extractLsb' 48 16))))) ∧
      (s.cx.chan? q.toNat = none → Traps (.chClose q) s (exn 30 (BitVec.ofNat 64 q.toNat)) ∧ Gives (.chStat q d) s d 0) ∧
      (∀ ch, s.cx.chan? q.toNat = some ch → Gives (.chStat q d) s d (BitVec.ofNat 64 (2 ^ 63 + (if ch.sendEnd then 2 ^ 62 else 0) +
          (if ch.closed || (!ch.sendEnd && ch.marker && ch.entries.isEmpty) then 2 ^ 61 else 0) + (if ch.off then 2 ^ 60 else 0) +
          ch.peer * 2 ^ 48 + ch.rtag.toNat * 2 ^ 32 + ch.depth * 2 ^ 16 + ch.entries.length)) ∧
        ∃ t, exec (.chClose q) s = .next t ∧ t.cx.pc = s.cx.pc + 4 ∧ t.mem = s.mem ∧ t.cx.chans = s.cx.chans.filter (fun x => x.q ≠ q.toNat) ∧
          (ch.sendEnd = true → ch.entries = [] → t.str = s.str ++ [s.cx.strPacket ch .marker]) ∧
          (ch.sendEnd = true → ch.entries ≠ [] → t.cx.closing = s.cx.closing ++ [ch] ∧ t.str = s.str) ∧
          (ch.sendEnd = false → t.str = s.str ++ [s.cx.strPacket ch .closedNotice] ∧ ∀ x ∈ t.cx.bindings, x.src ≠ .route ch.rtag)) ∧
      (s.cx.bindSource (f = 1) w = none → Gives (.chBind b a f d) s d 2) ∧
      (∀ src h, s.cx.bindSource (f = 1) w = some src → h = (s.getX b).toNat % 256 → ((s.getX b).getLsbD 8 = true →
          (s.handler? s.cx h = none → Gives (.chBind b a f d) s d 4) ∧
          ((s.handler? s.cx h).isSome → (s.cx.boundTo src = none → 8 ≤ s.cx.bindings.length → Gives (.chBind b a f d) s d 6) ∧
            ((s.cx.boundTo src).isSome ∨ s.cx.bindings.length < 8 → ∃ t, exec (.chBind b a f d) s = .next t ∧ t.cx.pc = s.cx.pc + 4 ∧
              t.mem = s.mem ∧ t.getX d = (if d = 0 then 0 else 1) ∧ t.cx.boundTo src = some h))) ∧
        ((s.getX b).getLsbD 8 = false → (s.cx.boundTo src = none → Gives (.chBind b a f d) s d 2) ∧
          ((s.cx.boundTo src).isSome → Completes (.chBind b a f d) s
            (({ s with cx := { s.cx with bindings := s.cx.bindings.filter fun x => x.src ≠ src } } : State).setX d 1) false)))) ∧
  (
    ∀ (q : BitVec 3) (a b d : BitVec 5) (s : State) (twin : Bool),
      let push := if twin then Instr.chPushT q a d else .chPush q a
      let pop := if twin then Instr.chPopT b q d else .chPop q b
      let done (i : Instr) (u : State) : Prop := Completes i s (if twin then u.setX d 1 else u) false
      (twin = false → s.cx.thread = false → Traps push s (exn 27 0) ∧ Traps pop s (exn 27 0)) ∧
      (twin = true ∨ s.cx.thread = true →
        ((∀ ch, s.cx.chan? q.toNat = some ch → ch.sendEnd = false) → Traps push s (exn 30 (BitVec.ofNat 64 q.toNat))) ∧
        ((∀ ch, s.cx.chan? q.toNat = some ch → ch.sendEnd = true) → Traps pop s (exn 30 (BitVec.ofNat 64 q.toNat))) ∧
        (∀ ch, s.cx.chan? q.toNat = some ch → ch.sendEnd = true → ∀ e, e = s.getV a →
          (e.tag = 0 → Traps push s (exn 24 (BitVec.ofNat 64 (a.toNat + 0x10000)))) ∧
          (e.tag ≠ 0 → (ch.closed = true → if twin then Gives push s d 4 else Traps push s (exn 30 (BitVec.ofNat 64 (q.toNat + 3 * 256)))) ∧
            (ch.closed = false → (ch.entries.length < 4 → done push { s with cx := s.cx.setChan { ch with entries := ch.entries ++ [e] } }) ∧
              (4 ≤ ch.entries.length → if twin then Gives push s d 2 else exec push s = .next s)))) ∧
        (∀ ch, s.cx.chan? q.toNat = some ch → ch.sendEnd = false →
          (∀ e l, ch.entries = e :: l → ∃ t, exec pop s = .next t ∧ t.cx.pc = s.cx.pc + 4 ∧ t.mem = s.mem ∧ t.getV b = { e with bits := BitVec.ofNat 1024 (memRead s.mem (s.cx.slotPlace ch ch.head) 128) } ∧
            (∀ r, r ≠ b → t.getV r = s.getV r) ∧ (∀ r, t.getX r = if twin ∧ r ≠ 0 ∧ r = d then 1 else s.getX r) ∧
            ∃ x, t.cx.chan? q.toNat = some x ∧ x.entries = l ∧ x.head = (ch.head + 1) % ch.depth) ∧
          (ch.entries = [] → (ch.closed = true ∨ ch.marker = true →
              if twin then Gives pop s d 4 else Traps pop s (exn 30 (BitVec.ofNat 64 (q.toNat + 3 * 256)))) ∧
            (ch.closed = false → ch.marker = false → if twin then Gives pop s d 2 else exec pop s = .next s)))))

/-- Streams (R300, R301, R304): an ON send end injects its oldest entry; an entry that reaches its receive end joins it in the next slot of
its buffer, and OFF goes back when the occupancy reaches OFF; ON and OFF set the send end's state, a CLOSED notice closes it and discards what it holds, and a marker is
held by the receive end; an ask is answered ON by an open end with room; an end told NOTYET asks again.

The model's choice, where it rests on one: the slots of the buffer (log entry 30) and flits (31). -/
def Obligations.Streams : Prop :=
  ∀ (s : State) (k : Key) (q : Nat),
    (∀ c ch e l f, s.ctx? k = some c → c.closing.find? (fun x => x.q = q && !x.off) = none → c.chan? q = some ch → ch.sendEnd = true →
      c.closingRoute ch = false → ch.entries = e :: l → ch.off = false → s.frameFor k.h c.leaf 3 = some f → ∃ t c' x, exec (.packetInjection k (2 ^ 32 + q)) s = .next t ∧
        t.str = s.str ++ [c.strPacket ch (.entry e)] ∧ t.ctx? k = some c' ∧ c'.chan? q = some x ∧ x.entries = l) ∧
    (∀ p e c ch, s.strArrival k q false (fun | .entry _ => true | _ => false) = some p → p.payload = .entry e →
      (s.offStr p).ofKernel p.kid k.h = some c → c.endFor q false p = some ch → c.chan? q = some ch → Safe s →
      (s.poweredSite k.h = false → exec (.channelEntryArrival k q) s = .next s) ∧ (s.poweredSite k.h = true →
      ∀ a, a = c.slotPlace ch (ch.head + ch.entries.length) → ∃ t c' x, exec (.channelEntryArrival k q) s = .next t ∧
        memRead t.mem a 128 = e.bits.toNat ∧ MemSameBut s t a 128 ∧
        t.ofKernel p.kid k.h = some c' ∧ c'.chan? q = some x ∧ x.entries = ch.entries ++ [e] ∧
        (ch.entries.length + 1 = ch.offAt → x.off = true ∧ t.str = s.str.erase p ++ [c.strPacket ch (.flow false)]) ∧
        (ch.entries.length + 1 ≠ ch.offAt → x.off = ch.off ∧ t.str = s.str.erase p))) ∧
    (∀ p c ch on, s.strArrival k q true (fun | .flow _ => true | .notYet => true | _ => false) = some p → p.payload = .flow on →
      s.ofKernel p.kid k.h = some c → c.endFor q true p = some ch → ∃ t c', exec (.channelFlowSignal k q) s = .next t ∧
        t.ofKernel p.kid k.h = some c' ∧ { ch with off := !on } ∈ c'.ends ∧ t.str = s.str.erase p ∧
        ∀ x ∈ c'.ends, x.q = q → x.sendEnd = true → x.routes p = true → x.off = !on) ∧
    (∀ p c ch, s.strArrival k q true (fun | .closedNotice => true | _ => false) = some p → s.ofKernel p.kid k.h = some c →
      c.endFor q true p = some ch → ∃ t c', exec (.channelClosedNotice k q) s = .next t ∧ t.ofKernel p.kid k.h = some c' ∧
        (∀ x ∈ c'.chans, x.q = q → x.sendEnd = true → x.routes p = true → x.closed = true ∧ x.entries = []) ∧
        ∀ x ∈ c'.closing, x.q = q → x.sendEnd = true → x.routes p = false) ∧
    (∀ p c ch, s.strArrival k q false (fun | .marker => true | _ => false) = some p → s.ofKernel p.kid k.h = some c →
      c.endFor q false p = some ch → c.chan? q = some ch → ∃ t c' x, exec (.channelCloseMarker k q) s = .next t ∧
        t.ofKernel p.kid k.h = some c' ∧ c'.chan? q = some x ∧ x.marker = true ∧ x.entries = ch.entries) ∧
    (∀ c ch, s.ctx? k = some c → c.chan? q = some ch → ch.sendEnd = true → ch.askDue = true → ∃ t, exec (.channelAskRetry k q) s = .next t ∧
      t.str = s.str ++ [c.strPacket ch .ask]) ∧
    (∀ o p c ch, (s.ctx? k).bind (fun c => c.sendEnd? q) = some o → firstOnStr (fun p => p.payload = .ask && p.src = k && o.rtag = p.rtag &&
        !s.retries p.kid p.dest) s.str [] = some p → (s.offStr p).ofKernel p.kid p.dest = some c →
      c.chans.find? (fun ch => !ch.sendEnd && ch.routes p) = some ch → ch.entries.length ≤ ch.onAt →
      ∃ t, exec (.channelAsk k q) s = .next t ∧ t.str = s.str.erase p ++ [c.strPacket ch (.flow true)])

/-! ## Tasks and synchronization -/

/-- NODE.NEW, ENQ and ENQ.T (R317, R326, R329, R331): a misaligned record raises cause 4; a record that fails its checks, or that is live
already, is refused with reason 2; otherwise the node is registered, as NEW, or as READY with its entry in the pool. A depth above 8
is refused with reason 3, and a full table with reason 1, where the blocking form waits. (The record may be read: nothing that its
load comes after is on its way.)

NODE.LINK, NODE.ARM, NODE.DONE, TASK.CANCEL, TASK.STAT and RNG.NEXT (R327, R329, R330, R332): statuses 1 for success, 2 for FULL or LATE,
4 for BADNODE and 6 for NOTNEW; a link adds an edge and a pending predecessor; a node armed without predecessors is READY; a running
node that is cancelled only takes STOP; NODE.DONE finishes the node, at once or, without blocking, once what the thread wrote before
can be performed; TASK.STAT of the running activation shows its node, or at the launch start the packet that
launched the kernel (log entry 103); a claim takes at most a grain off the range register.

The model's choice, where it rests on one: what TASK.STAT shows of a launch (log entry 103). -/
def Obligations.NodeCommands : Prop :=
  (
    ∀ (a d : BitVec 5) (s : State) (va : Word), va = s.getX a →
      let dep := (s.cx.act.map (·.depth)).getD 0
      let enq (twin : Bool) := if twin then Instr.enqT a d else .enq a d
      (va.toNat % 64 ≠ 0 → Traps (.nodeNew a d) s (exn 4 va) ∧ (s.cx.thread = true → Traps (.enq a d) s (exn 4 va)) ∧
        Traps (.enqT a d) s (exn 4 va)) ∧
      (s.cx.thread = false → Traps (.enq a d) s (exn 27 0)) ∧
      ∀ t v u, va.toNat % 64 = 0 → s.reach .load va 64 = .ok t → t.kind = .glob → s.mayLoad .weak t va 64 1 = .ok () →
        s.loadWeak t va 64 1 = (v, u) →
        (∀ o, o = nodeOfRecord v va.toNat s.cx.leaf s.cx.kid s.cx.level dep none →
          (o = none → Completes (.nodeNew a d) s (u.setX d 4) false) ∧
          ∀ n, o = some n → ((u.node? n.id).isSome → Completes (.nodeNew a d) s (u.setX d 4) false) ∧
            (u.node? n.id = none → n.kind = .kernel → u.kernelAt n = false → Completes (.nodeNew a d) s (u.setX d 4) false) ∧
            (u.node? n.id = none → (n.kind = .kernel → u.kernelAt n = true) →
              (65536 ≤ (u.nodes.filter fun m => m.leaf = n.leaf).length → Completes (.nodeNew a d) s (u.setX d 2) false) ∧
              ((u.nodes.filter fun m => m.leaf = n.leaf).length < 65536 → n.st = .new ∧ n.pend = bytesAt v 6 2 ∧
                Completes (.nodeNew a d) s (({ u with nodes := u.nodes ++ [n] } : State).setX d 1) false))) ∧
        (∀ twin, twin = true ∨ s.cx.thread = true → ∀ o, o = nodeOfRecord v va.toNat s.cx.leaf s.cx.kid s.cx.level (dep + 1) none →
          (o = none → Completes (enq twin) s (u.setX d 4) false) ∧
          ∀ n, o = some n → ((u.node? n.id).isSome ∨ n.kind ≠ .range ∨ n.pend ≠ 0 ∨ n.nsucc ≠ 0 ∨ n.scap ≠ 0 →
              Completes (enq twin) s (u.setX d 4) false) ∧
            (u.node? n.id = none → n.kind = .range → n.pend = 0 → n.nsucc = 0 → n.scap = 0 →
              (8 < dep + 1 → Completes (enq twin) s (u.setX d 6) false) ∧
              (dep + 1 ≤ 8 → ∀ full, full = decide (65528 ≤ u.unreserved n.leaf) →
                ((full = true ∧ u.depthTaken n.leaf (dep + 1) = true) ∨ 65536 ≤ (u.nodes.filter fun m => m.leaf = n.leaf).length →
                  if twin then Completes (enq twin) s (u.setX d 2) false else exec (enq twin) s = .next s) ∧
                ((full = false ∨ u.depthTaken n.leaf (dep + 1) = false) → (u.nodes.filter fun m => m.leaf = n.leaf).length < 65536 →
                  u.cx.drained = true → Completes (enq twin) s
                    (({ u with nodes := u.nodes ++ [{ n with st := .ready, spawned := true }], ready := u.ready ++ [⟨n.leaf, none, n.id, n.lo, n.hi, n.prio, u.decision n.leaf, 0,
                        n.depth, full⟩] } : State).setX d 1) false))))) ∧
  (
    ∀ (b a d : BitVec 5) (s : State) (va vb : Word), va = s.getX a → vb = s.getX b →
      let r := s.cx.range
      let c := min r.grain (r.hi - r.lo)
      (va.toNat % 64 ≠ 0 → Traps (.nodeLink b a d) s (exn 4 va) ∧ Traps (.nodeArm a d) s (exn 4 va) ∧ Traps (.nodeDone a d) s (exn 4 va) ∧
        Traps (.taskCancel a d) s (exn 4 va) ∧ Traps (.taskStat a d) s (exn 4 va)) ∧
      (r.v = false ∨ r.lo = r.hi → Gives (.rngNext d) s d 0) ∧
      (r.v = true → r.lo ≠ r.hi → Completes (.rngNext d) s
        (({ s with cx := { s.cx with range := { r with lo := r.lo + c } } } : State).setX d (BitVec.ofNat 64 (c * 2 ^ 48 + r.lo))) false) ∧
      (va.toNat % 64 = 0 →
        (∀ o, o = (if va = 0 then (s.cx.act.bind (·.node)).bind s.node? else s.leafNode va) →
          (va = 0 → s.cx.act.any (fun x => x.kind ≠ 0) = true) → (o = none → Gives (.taskStat a d) s d 0) ∧
          ∀ n, o = some n → Gives (.taskStat a d) s d (BitVec.ofNat 64 ((match n.st with | .new => 1 | .waiting => 2 | .ready => 3 | .running => 4) *
            2 ^ 8 + (if n.stop then 2 ^ 12 else 0) + n.depth * 2 ^ 32 + n.pend * 2 ^ 48))) ∧
        (va = 0 → s.cx.act = none → Gives (.taskStat a d) s d 0) ∧
        (∀ k q i p, va = 0 → s.cx.act.any (fun x => x.kind = 0) = true → s.kernel? s.cx.kid = some k → k.node = none → k.queue = some (q, i) →
          (s.queue q).packets.find? (fun p => p.idx = i) = some p →
          Gives (.taskStat a d) s d (BitVec.ofNat 64 (4 * 2 ^ 8 + if p.stop then 2 ^ 12 else 0))) ∧
        (s.ownNode va = none → Gives (.nodeArm a d) s d 6 ∧ Gives (.nodeDone a d) s d 4) ∧
        (s.leafNode va = none → Gives (.taskCancel a d) s d 2) ∧
        (∀ n, s.leafNode va = some n → (n.st = .running → Completes (.taskCancel a d) s
            (({ s with nodes := s.nodes.map fun m => if m.id = n.id then { m with stop := true } else m } : State).setX d 2) false) ∧
          (n.st ≠ .running → Completes (.taskCancel a d) s ((s.finishNode n 1 0).setX d 1) false)) ∧
        (∀ n, s.ownNode va = some n → (n.st ≠ .new → Gives (.nodeArm a d) s d 6) ∧
          (n.st = .new → n.pend = 0 → Completes (.nodeArm a d) s (({ s with
            nodes := s.nodes.map fun m => if m.id = n.id then { m with st := .ready } else m
            ready := s.ready ++ [⟨n.leaf, none, n.id, n.lo, n.hi, n.prio, s.decision n.leaf, 0, n.depth, false⟩] } : State).setX d 1) false) ∧
          (n.st = .new → n.pend ≠ 0 → Completes (.nodeArm a d) s
            (({ s with nodes := s.nodes.map fun m => if m.id = n.id then { m with st := .waiting } else m } : State).setX d 1) false) ∧
          (n.kind ≠ .event → Gives (.nodeDone a d) s d 4) ∧ (n.kind = .event → n.st ≠ .running ∨ n.outcome ≠ none → Gives (.nodeDone a d) s d 2) ∧
          (n.kind = .event → n.st = .running → n.outcome = none → ∀ m, m = { n with cmds := [(s.cx.key, s.order)] } →
            (s.releaseNode m = none → Completes (.nodeDone a d) s (({ s with
              nodes := s.nodes.map fun y => if y.id = n.id then { m with outcome := some (0, 0) } else y
              order := s.order + 1 } : State).setX d 1) false) ∧
            ∀ t, s.releaseNode m = some t → Completes (.nodeDone a d) s ((t.finishNode m 0 0).setX d 1) false)) ∧
        (vb.toNat % 64 = 0 → (s.ownNode vb = none → Gives (.nodeLink b a d) s d 4) ∧
          ∀ y, s.ownNode vb = some y → (y.st ≠ .new → Gives (.nodeLink b a d) s d 6) ∧ (y.st = .new →
            (∀ st t, s.ownNode va = none → s.readMem ⟨false, false, true, 2⟩ (va + 2) 1 = .ok (st, t) →
              Completes (.nodeLink b a d) s (t.setX d (if st = 5 ∨ st = 6 ∨ st = 7 then 1 else 4)) false) ∧
            (∀ x, s.ownNode va = some x → (x.nsucc = x.scap ∨ y.pend = 65535 → Gives (.nodeLink b a d) s d 2) ∧
              (x.nsucc ≠ x.scap → y.pend ≠ 65535 → ∀ p tg k, p = BitVec.ofNat 64 (x.succ + 8 * x.nsucc) → s.resolve .store p 8 none = .ok tg →
                tg.kind = .siteWin ∨ tg.kind = .glob → s.freeIdx (s.cx.bankSite p) = some k → s.roomFor (s.cx.bankSite p) s.cx.leaf 0 = true → ∃ t e, exec (.nodeLink b a d) s = .next t ∧ t.mem = s.mem ∧
                t.cx.log = s.cx.log ++ [e] ∧ e.idx = k ∧ e.addr = p ∧ e.kind = .store ∧ e.st = .sent ∧ e.data = vb.setWidth 1024 ∧
                t.getX d = (if d = 0 then 0 else 1) ∧ ∀ m ∈ s.nodes, m.id = x.id → m.id ≠ y.id →
                  { m with nsucc := m.nsucc + 1 } ∈ t.nodes))))))

/-- Where a node finishes it leaves the live table and the pool, and each successor's count falls by its entries in the array: one that
waits and reaches 0 becomes READY (R318). A RANGE node finishes when no register, event, steal or entry holds a part of it (R323); any
other once its outcome is known; a release waits until what it covers is performed.

A dispatch decision takes the oldest entry of the highest priority that can be dispatched, each 256th of the lowest; the others wait
one decision more (R320); a node becomes RUNNING: a BARRIER is over, an EVENT waits for NODE.DONE, and a RANGE entry goes to a parked
context as a task event (R315, R321).

Stealing (R324, R325): an idle context takes the upper part of the largest range of its kernel, split at a grain; the half becomes a
task of the thief, or goes back where the thief is being saved or is gone; the victim drops its shadow, and a half that came back is an
entry of the pool.

PROD_NODE_REISSUE (R315): the next command of a running PROD node is issued; refused FULL it waits, and refused BADDESC the node
finishes with DETAIL 11.

The model's choice, where it rests on one: the index in the signal of a kernel that a node launched (log entry 76), a COPY node whose engine is full (89), the token of STEAL (97) and a GRAPH without room (102). -/
def Obligations.TaskPool : Prop :=
  (
    ∀ (s : State) (id : Nat) (n : Node), s.node? id = some n → n.id = id → n.st = .running →
      (n.kind = .range → s.rangeOver n = true) → (n.kind ≠ .range → n.outcome.isSome) →
      (s.releaseNode n = none → exec (.nodeFinish id) s = .next s) ∧
      ((s.releaseNode n).isSome → ∃ t, exec (.nodeFinish id) s = .next t ∧ t.node? id = none ∧ (∀ e ∈ t.ready, e.packet = none → e.node ≠ id) ∧
        (∀ u l r k, n.kind ≠ .range → n.outcome = some (r, k) → n.rel = false → s.writeRecord n r k = u → u.successors n = l →
          u.nodes = s.nodes → ∀ m j, s.node? j = some m → m.id = j → j ≠ id → ∃ m', t.node? j = some m' ∧ m'.pend = m.pend - l.count j ∧
            m'.st = if m.st = .waiting ∧ 0 < l.count j ∧ m.pend ≤ l.count j then .ready else m.st))) ∧
  (
    ∀ (s : State) (leaf : Nat), (s.pick leaf = none → exec (.dispatchDecision leaf) s = .next s) ∧
      ∀ e, s.pick leaf = some e → e ∈ s.ready ∧ e.leaf = leaf ∧ s.dispatchable e = true ∧
        (∀ x ∈ s.ready, x.leaf = leaf → s.dispatchable x = true → x.prio ≤ 3 →
          ((s.decision leaf + 1) % 256 ≠ 0 → x.prio ≤ e.prio) ∧ ((s.decision leaf + 1) % 256 = 0 → e.prio ≤ x.prio) ∧
          (x.prio = e.prio → e.age ≤ x.age)) ∧
        (∀ n, e.packet = none → s.node? e.node = some n → n.id = e.node → n.kind = .barrier ∨ n.kind = .event ∨ n.kind = .range →
          ∃ t, exec (.dispatchDecision leaf) s = .next t ∧ t.decision leaf = s.decision leaf + 1 ∧
            t.ready = (s.ready.erase e).map (fun x => if x.leaf = leaf then
              (if x.waited + 1 = 1024 ∧ x.prio < 3 then { x with prio := x.prio + 1, waited := 0 } else { x with waited := x.waited + 1 }) else x) ∧
            (∃ m, t.node? e.node = some m ∧ m.st = .running ∧ m.outcome = if n.kind = .barrier then some (0, 0) else n.outcome) ∧
            (n.kind = .range → ∀ k, s.rangeSite n = some k → ∀ c ∈ s.ctxs, c.key = k → c.resident = true → c.thread = false →
              { c with events := c.events ++ [.task n.id n.obj.toNat e.lo e.hi n.grain n.depth] } ∈ t.ctxs))) ∧
  (
    ∀ (s : State) (k : Key),
      (∀ c v r g, s.ctx? k = some c → c.idle = true → c.thread = false → s.stealing k = false → s.hasWork c = false → tabGet s.tokens k.h 0 < 16 → s.victim c = some v →
        r = v.range → g = (r.hi - r.lo + r.grain - 1) / r.grain → r.v = true → r.grain ≠ 0 →
        ∃ t, exec (.stealRequest k) s = .next t ∧
          t.steals = s.steals ++ [⟨v.key, k, r.node, r.lo + r.grain * ((g + 1) / 2), r.hi, .half⟩] ∧
          ∀ y ∈ t.ctxs, y.key = v.key → y.resident = true → y.range.hi = r.lo + r.grain * ((g + 1) / 2)) ∧
      (∀ x, s.steals.find? (fun x => x.thief = k && x.st = .half) = some x →
        (s.ctx? k = none → ∃ t, exec (.stealHalfArrival k) s = .next t ∧ { x with st := .returned } ∈ t.steals ∧ t.cx = s.cx) ∧
        (∀ c, s.ctx? k = some c →
          ((c.status = .saving ∨ c.saveReq.isSome ∨ tabGet s.power k.h .S0 = .S2 ∨ tabGet s.power k.h .S0 = .S3) →
            ∃ t, exec (.stealHalfArrival k) s = .next t ∧ { x with st := .returned } ∈ t.steals ∧ t.cx = s.cx) ∧
          (c.status ≠ .saving → c.saveReq = none → tabGet s.power k.h .S0 = .S0 → c.thread = false → ∃ t c', 
            exec (.stealHalfArrival k) s = .next t ∧ { x with st := .acked } ∈ t.steals ∧ t.ctx? k = some c' ∧
            c'.events = c.events ++ [s.stealEvent x]))) ∧
      (∀ x, s.steals.find? (fun x => x.victim = k && s.halfTaken x) = some x →
        exec (.stealAck k) s = .next { s with steals := s.steals.erase x }) ∧
      (∀ x n, s.steals.find? (fun x => x.victim = k && x.st = .returned) = some x → s.node? x.node = some n →
        exec (.stealReturn k) s = .next { s with
          steals := s.steals.erase x
          ready := s.ready ++ [⟨n.leaf, none, n.id, x.lo, x.hi, n.prio, s.decision n.leaf, 0, n.depth, false⟩] })) ∧
  (
    ∀ (s : State) (id : Nat) (n : Node) (x : ProdCmd) (l cmds : List ProdCmd), s.node? id = some n → n.kind = .prod → n.st = .running →
      n.outcome = none → n.cmds.length < 3 → s.prodCmds n = some cmds → cmds.drop n.cmds.length = x :: l →
      (s.issueProdCmd n x = .error 1 → exec (.prodNodeReissue id) s = .next s) ∧
      (s.issueProdCmd n x = .error 2 → ∃ t, exec (.prodNodeReissue id) s = .next t ∧ ∀ y ∈ t.nodes, y.id = id → y.outcome = some (2, 11)) ∧
      (∀ t, s.issueProdCmd n x = .ok t → l = [] → exec (.prodNodeReissue id) s = .next t))

/-- GBAR and GBAR.T (R333, R334): cause 27 under handler discipline for the blocking form, cause 35 for a group the caller is no member of;
an arrival is counted once, after a release, and the last one starts the next generation; the caller goes on, with an acquire, once
its generation is over, and until then the twin answers 2 and the other form keeps its arrival and waits.

The model's choice, where it rests on one: an arrival is kept (log entry 37). -/
def Obligations.GroupBarriers : Prop :=
  ∀ (a d : BitVec 5) (s : State) (twin : Bool) (w : Word), w = s.getX a →
    let i := if twin then Instr.gbarT a d else .gbar a
    let kernels (f : Group → Group) := s.kernels.map fun k => if k.kid = s.cx.kid then { k with groups := k.groups.modify w.toNat f } else k
    let ended (u : State) := (if twin then (u.acquire 1).setX d 1 else u.acquire 1)
    (twin = false → s.cx.thread = false → Traps i s (exn 27 0)) ∧
    (twin = true ∨ s.cx.thread = true → (s.groupOf w = none → Traps i s ⟨35, w, 6, .T⟩) ∧ ∀ x, s.groupOf w = some x →
      (s.cx.arrivedIn w.toNat = none → (s.cx.drained = false → exec i s = .next s) ∧
        (s.cx.drained = true →
          (x.arrivals + 1 = x.count → Completes i s (ended
            { s with kernels := kernels fun g => if g.arrivals + 1 = g.count then { g with generation := g.generation + 1, arrivals := 0 } else
                { g with arrivals := g.arrivals + 1 } }) false) ∧
          (x.arrivals + 1 ≠ x.count → ∀ u, u = { s with 
              kernels := kernels fun g => if g.arrivals + 1 = g.count then { g with generation := g.generation + 1, arrivals := 0 } else
                { g with arrivals := g.arrivals + 1 }
              cx := { s.cx with arrived := s.cx.arrived ++ [(w.toNat, x.generation)] } } →
            if twin then Completes i s (u.setX d 2) false else exec i s = .next u))) ∧
      (∀ g, s.cx.arrivedIn w.toNat = some g → (g = x.generation → if twin then Gives i s d 2 else exec i s = .next s) ∧
        (g ≠ x.generation → Completes i s
          (ended { s with cx := { s.cx with arrived := s.cx.arrived.filter fun p => p.1 ≠ w.toNat } }) false)))

/-- SEM.P, SEM.P.T, SEM.V and the retry (R333, R335): a misaligned address raises cause 6 and one of device type cause 7; a value of at least
1, with no earlier waiter, falls by one and the caller goes on; else the twin answers 2, and the other form takes one of 32 waiter
entries or tries again later; SEM.V raises the value, saturated, in the local window at once and elsewhere as a posted strong access.

MON.ARM, MON.WAIT and MON.WAIT.T (R333, R336): the watch of the context becomes one on the line, untriggered, and x[d] gets the doubleword,
with an acquire at span scope; a triggered watch ends the wait with its reason as status and an acquire, no watch ends it at once with
reason 3 (the status of MON.WAIT goes to x[d] as R333 lists it, log entry 85), and an untriggered one lets MON.WAIT wait and the twin answer 2.

The model's choice, where it rests on one: the reason of a lost watch (log entry 38). -/
def Obligations.SemaphoresAndWatches : Prop :=
  (
    ∀ (a d : BitVec 5) (s : State) (twin : Bool) (va : Word), va = s.getX a →
      let i := if twin then Instr.semPT a d else .semP a
      (twin = false → s.cx.thread = false → Traps i s (exn 27 0)) ∧
      (va.toNat % 8 ≠ 0 → (twin = true ∨ s.cx.thread = true → Traps i s (exn 6 va)) ∧ Traps (.semV a) s (exn 6 va)) ∧
      (∀ t, va.toNat % 8 = 0 → s.resolve .amo va 8 s.cx.tileco = .ok t →
        (t.kind = .device → (twin = true ∨ s.cx.thread = true → Traps i s (exn 7 va)) ∧ Traps (.semV a) s (exn 7 va)) ∧
        (t.kind ≠ .device → twin = true ∨ s.cx.thread = true → t.retry = false → s.cx.semWait = false → s.checkPlace .amo t va 8 = .ok () →
          s.mayGo t va 8 = .ok () → Safe s → ∀ first, first = (s.waiters.find? fun w => w.place = physOf t.pa && w.port = t.port) →
          (1 ≤ memRead s.mem t.pa 8 → (∀ w, first = some w → w.key = s.cx.key) → ∃ u, exec i s = .next u ∧ u.cx.pc = s.cx.pc + 4 ∧
            memRead u.mem t.pa 8 = memRead s.mem t.pa 8 - 1 ∧ MemSameBut s u t.pa 8 ∧
            u.waiters = s.waiters.filter (fun w => w.key ≠ s.cx.key) ∧ (∀ l ∈ u.l1, ∀ j < s.cx.comp.n, l.h ≠ s.cx.key.h + j) ∧
            ∀ r, u.getX r = if twin ∧ r ≠ 0 ∧ r = d then 1 else s.getX r) ∧
          ((memRead s.mem t.pa 8 = 0 ∨ ∃ w, first = some w ∧ w.key ≠ s.cx.key) → (twin = true → ∃ u : State, Completes i s (u.setX d 2) false ∧
              u.mem = s.mem ∧ u.sansMem.sansTraffic = s.sansMem.sansTraffic) ∧
            (twin = false → (∀ w ∈ s.waiters, w.key ≠ s.cx.key) → ∃ u, exec i s = .next u ∧ u.mem = s.mem ∧ u.cx.pc = s.cx.pc ∧
              ((s.waiters.filter fun w => w.port = t.port).length < 32 →
                u.waiters = s.waiters ++ [⟨s.cx.key, physOf t.pa, t.port⟩] ∧ u.cx.semWait = false) ∧
              (32 ≤ (s.waiters.filter fun w => w.port = t.port).length → u.waiters = s.waiters ∧ u.cx.semWait = true)))) ∧
        (s.mayIssue ⟨false, true, true, 1⟩ t va = true → Safe s →
          (t.kind = .localWin → s.checkPlace .amo t va 8 = .ok () → s.localOpen t.pa 8 = true → ∃ u, exec (.semV a) s = .next u ∧ u.cx.pc = s.cx.pc + 4 ∧
            memRead u.mem t.pa 8 = min (memRead s.mem t.pa 8 + 1) (2 ^ 64 - 1) ∧ MemSameBut s u t.pa 8 ∧
            u.sansCommit.sansMem.sansTraffic = s.sansCommit.sansMem.sansTraffic) ∧
          (t.kind = .siteWin ∨ t.kind = .glob → ∀ j, s.freeIdx (s.cx.bankSite va) = some j → ∃ u x, exec (.semV a) s = .next u ∧
            u.cx.pc = s.cx.pc + 4 ∧ u.mem = s.mem ∧ u.cx.log = s.cx.log ++ [x] ∧ x.idx = j ∧ x.addr = va ∧ x.kind = .semV ∧ x.strong = true ∧
            x.scope = 1 ∧ x.st = .sent ∧ u.sansCommit.sansLog.sansMem.sansTraffic = s.sansCommit.sansLog.sansMem.sansTraffic))) ∧
      ∀ k, ∃ u, exec (.semPRetry k) s = .next u ∧ u.mem = s.mem ∧ ∀ y ∈ u.ctxs, y.key = k → y.resident = true → y.semWait = false) ∧
  (
    ∀ (a d : BitVec 5) (s : State) (va : Word), va = s.getX a →
      let off : State := ({ s with cx := { s.cx with watch := none } } : State).acquire 1
      (va.toNat % 8 ≠ 0 → Traps (.monArm a d) s (exn 4 va)) ∧
      (∀ t, va.toNat % 8 = 0 → s.resolve .load va 8 s.cx.tileco = .ok t → (t.kind = .device → Traps (.monArm a d) s (exn 5 va)) ∧
        (t.kind ≠ .device → t.retry = false → s.checkPlace .load t va 8 = .ok () → s.settled t va 8 → ∃ u w, exec (.monArm a d) s = .next u ∧
          u.cx.pc = s.cx.pc + 4 ∧ u.mem = s.mem ∧ u.getX d = (if d = 0 then 0 else BitVec.ofNat 64 (memRead s.mem t.pa 8)) ∧
          (∀ r, r ≠ d → u.getX r = s.getX r) ∧ u.cx.watch = some w ∧ w.line = lineOf t.pa ∧ w.home = t.site ∧ w.va = va ∧ w.trig = none ∧
          ∀ l ∈ u.l1, ∀ j < s.cx.comp.n, l.h ≠ s.cx.key.h + j)) ∧
      (s.cx.thread = false → Traps (.monWait d) s (exn 27 0)) ∧
      (s.cx.watch = none → (s.cx.thread = true → Gives (.monWait d) s d (1 + 3 * 256)) ∧ Gives (.monWaitT d) s d (1 + 3 * 256)) ∧
      (∀ w, s.cx.watch = some w → (w.trig = none → (s.cx.thread = true → exec (.monWait d) s = .next s) ∧ Gives (.monWaitT d) s d 2) ∧
        ∀ r, w.trig = some r → (s.cx.thread = true → Completes (.monWait d) s (off.setX d (BitVec.ofNat 64 (1 + r * 256))) false) ∧
          Completes (.monWaitT d) s (off.setX d (BitVec.ofNat 64 (1 + r * 256))) false))

/-! ## Launch and partitions -/

/-- The four registers of a queue block that act (R65 to R68, R77): out of a requester's reach a write is discarded; a registration that passes
its checks makes the queue ACTIVE with both indices 0, while packets consumed before run on under a number of their own, and one that fails leaves it without registration and says why; a doorbell moves
WIDX, and one that passes the ring's size is an ERROR with reason 5; it comes through a function window
and marks the queue as fed by it; a cancelled packet that has not been dispatched leaves the queue, one not yet consumed is remembered, once, and its
signal reads CANCELLED at once, and one that is dispatched, and the running nodes of its graph, are asked to stop.

The model's choice, where it rests on one: what registration fixes (log entry 62), packets of an earlier registration under a number of 4096 or more (84), QWIDX afterwards (87), and the window that a doorbell row comes through (137). -/
def Obligations.QueueCommands : Prop :=
  ∀ (s : State) (q : Nat) (r : Requester) (n : BitVec 32) (x : Queue), x = s.queue q →
    let fed : Queue := { x with fed := x.fed || decide (x.st ≠ .unreg) }
    (s.reachesQueue r q = false → exec (.qcmdRegister q r) s = .next s ∧ exec (.qcmdUnregister q r) s = .next s ∧
      exec (.qwidxWrite q n r) s = .next s ∧ exec (.qcancelWrite q n r) s = .next s) ∧
    (s.reachesQueue r q = true →
      (∃ t, exec (.qcmdUnregister q r) s = .next t ∧ t.queue q = { x with st := .unreg, widx := x.ridx, cancelled := [] } ∧ t.mem = s.mem) ∧
      (∀ base cfg y why, base = s.reg (queueBlock q) → cfg = s.reg (queueBlock q + 8) → y = s.registration q r →
        why = (if base.toNat % 4096 ≠ 0 then 1 else if (cfg.toNat % 32 < 6 ∨ 16 < cfg.toNat % 32) then 3
          else if cfg.toNat / 64 % 4 = 0 ∨ r.acts.rank < cfg.toNat / 64 % 4 ∨ s.holds r rightQueues = false then 4
          else if s.ringMapped (s.queueClient y) base.toNat (64 * 2 ^ (cfg.toNat % 32)) = false then 2 else 0) →
        ∃ t, exec (.qcmdRegister q r) s = .next t ∧ t.mem = s.mem ∧
          (why ≠ 0 → t.queue q = { x with st := .unreg, widx := x.ridx, cancelled := [], reason := why }) ∧
          (why = 0 → t.queue q = y ∧ (x.packets ≠ [] → ∃ z ∈ t.queues, 4096 ≤ z.q ∧ z.packets = x.packets ∧ z.lvl = x.lvl ∧ z.leaf = x.leaf) ∧
            y.packets = [] ∧ y.st = .active ∧ y.reason = 0 ∧ y.ridx = 0 ∧ y.widx = 0 ∧ y.base = base ∧
            y.lsz = cfg.toNat % 32 ∧ y.lvl.rank = cfg.toNat / 64 % 4 ∧ y.ksub = cfg.getLsbD 5)) ∧
      (x.st ≠ .active ∨ n = x.widx → ∃ t, exec (.qwidxWrite q n r) s = .next t ∧ t.queue q = fed ∧ t.mem = s.mem) ∧
      (x.st = .active → n ≠ x.widx →
        (x.size < (n - x.widx).toNat ∨ x.size < (n - x.ridx).toNat → ∃ t, exec (.qwidxWrite q n r) s = .next t ∧
          t.queue q = { fed with st := .error, reason := 5, erridx := n }) ∧
        ((n - x.widx).toNat ≤ x.size → (n - x.ridx).toNat ≤ x.size → ∃ t, exec (.qwidxWrite q n r) s = .next t ∧
          t.queue q = { fed with widx := n } ∧ t.mem = s.mem)) ∧
      (∀ p, x.packets.find? (fun p => p.idx = n) = some p →
        ((p.st = .running ∨ p.st = .placing ∧ pktKind p.bytes = 2) → ∃ t, exec (.qcancelWrite q n r) s = .next t ∧ t.mem = s.mem ∧
          t.queue q = { x with packets := x.packets.map fun e => if e.idx = n then { e with stop := true } else e } ∧
          t.nodes = s.nodes.map fun m => if m.graph = some (q, n) then { m with stop := true } else m) ∧
        (¬ (p.st = .running ∨ p.st = .placing ∧ pktKind p.bytes = 2) → ∃ t, exec (.qcancelWrite q n r) s = .next t ∧
          t.queue q = { x with packets := x.packets.filter fun e => e.idx ≠ n } ∧ (∀ e ∈ t.ready, e.packet ≠ some (q, n)) ∧
          ∀ e ∈ t.placing, e.src ≠ .packet q n)) ∧
      (x.packets.find? (fun p => p.idx = n) = none → x.st ≠ .unreg → n ∉ x.cancelled → (n - x.ridx).toNat < (x.widx - x.ridx).toNat →
        ∃ t, exec (.qcancelWrite q n r) s = .next t ∧ t.queue q = { x with cancelled := n :: x.cancelled } ∧
          ∀ v sig tg, s.unitRead (s.queueClient x) (x.base.toNat + 64 * (n.toNat % x.size)) 64 = .ok v → sig = pktSig (BitVec.ofNat 512 v) →
            sig ≠ 0 → sig.toNat % 8 = 0 → Safe s → s.unitPlace (s.queueClient x) .store sig.toNat 8 = .ok tg → tg.kind ≠ .device →
            s.refusedAt tg 8 = none → memRead t.mem tg.pa 8 = 1 + n.toNat * 2 ^ 32 ∧ MemSameBut s t tg.pa 8) ∧
      (x.packets.find? (fun p => p.idx = n) = none → n ∈ x.cancelled → exec (.qcancelWrite q n r) s = .next s))

/-- A packet's way (R69 to R75, R319, R428): a cancelled head is passed over; else it is read once; unreadable it puts the queue in ERROR
with reason 6, out of order it is finished with status 3 in its completion signal, and otherwise it is consumed into the pool of its
leaf; a KERNEL is consumed with what it asks for, or finished with the status of the check that it fails, in a queue of no leaf 3. At
its dispatch a KERNEL waits for a span, a GRAPH for its arming walk, and a BARRIER is over; in a queue of no leaf it waits for packets of a
higher priority of the same walker. An armed graph's nodes without predecessors are READY.

The model's choice, where it rests on one: tables that do not translate (log entry 90), entries of a group table (91 and 92). -/
def Obligations.Packets : Prop :=
  ∀ (s : State) (q : Nat) (x : Queue) (cl : Client), x = s.queue q → cl = s.queueClient x →
    let slot := x.base.toNat + 64 * (x.ridx.toNat % x.size)
    let signalled (t : State) (p : BitVec 512) (idx : BitVec 32) (status : Nat) : Prop := ∀ sig tg, sig = pktSig p → sig ≠ 0 → sig.toNat % 8 = 0 →
      Safe s → s.unitPlace cl .store sig.toNat 8 = .ok tg → tg.kind ≠ .device → s.refusedAt tg 8 = none →
      memRead t.mem tg.pa 8 = status + idx.toNat * 2 ^ 32 ∧ MemSameBut s t tg.pa 8
    let ended (n : Nat) (p : BitVec 512) : Prop := ∃ t, exec (.packetFetch q) s = .next t ∧ signalled t p x.ridx n ∧
      (t.queue q).ridx = x.ridx + 1 ∧ (t.queue q).packets = x.packets
    let enters (j : Nat) (p : BitVec 512) (plan : Option KernelPlan) : Prop := ∃ t, exec (.packetFetch q) s = .next t ∧ t.mem = s.mem ∧
      t.queue q = { x with ridx := x.ridx + 1, packets := x.packets ++ [⟨x.ridx, p, .ready, none, plan, false, false⟩] } ∧
      t.ready = s.ready ++ [⟨j, some (q, x.ridx), 0, 0, 0, fld p 6 5, s.decision j, 0, 0, false⟩]
    (x.st ≠ .active ∨ x.ridx = x.widx → exec (.packetFetch q) s = .next s) ∧
    (x.st = .active → x.ridx ≠ x.widx → x.ridx ∈ x.cancelled → ∃ t, exec (.packetFetch q) s = .next t ∧ t.mem = s.mem ∧
      t.queue q = { x with ridx := x.ridx + 1, cancelled := x.cancelled.filter fun i => i ≠ x.ridx }) ∧
    (x.st = .active → x.ridx ≠ x.widx → x.ridx ∉ x.cancelled →
      (∀ e, s.unitRead cl slot 64 = .error e → ∃ t, exec (.packetFetch q) s = .next t ∧
        t.queue q = { x with st := .error, reason := 6, erridx := x.ridx }) ∧
      (∀ v p, s.unitRead cl slot 64 = .ok v → p = BitVec.ofNat 512 v →
        (packetOk p = false → ended 3 p) ∧
        (∀ j, packetOk p = true → p.toNat % 16 ≠ 1 → s.queueLeaf q = some j → enters j p none) ∧
        (packetOk p = true → p.toNat % 16 = 1 → s.queueLeaf q = none → ended 3 p) ∧
        (∀ j, packetOk p = true → p.toNat % 16 = 1 → s.queueLeaf q = some j → (∀ plan, s.plan cl j p = .ok plan → enters j p (some plan)) ∧
          (∀ n, s.plan cl j p = .error (.status n) → ended n p) ∧
          (∀ e, s.plan cl j p = .error (.fetch e) → ∃ t, exec (.packetFetch q) s = .next t ∧
            t.queue q = { x with st := .error, reason := 6, erridx := x.ridx })))) ∧
    (∀ p, s.nextPacket x = some p → s.queueLeaf q = none → s.leaflessAhead q p = true → exec (.packetDispatch q) s = .next s) ∧
    (∀ p, s.nextPacket x = some p →
      (s.queueLeaf q = none ∧ s.leaflessAhead q p = false ∨ ∃ j e, s.queueLeaf q = some j ∧ s.pick j = some e ∧ e.packet = some (q, p.idx)) →
      (∀ plan, pktKind p.bytes = 1 → p.plan = some plan → ∃ t, exec (.packetDispatch q) s = .next t ∧ t.mem = s.mem ∧
        t.placing = s.placing ++ [⟨(s.queueLeaf q).getD x.leaf, .packet q p.idx, x.lvl, plan⟩]) ∧
      (pktKind p.bytes = 2 → ∃ t, exec (.packetDispatch q) s = .next t ∧ t.mem = s.mem ∧
        ∀ y ∈ (t.queue q).packets, y.idx = p.idx → y.st = .placing) ∧
      (pktKind p.bytes = 3 → ∃ t, exec (.packetDispatch q) s = .next t ∧ signalled t p.bytes p.idx 0 ∧
        (t.queue q).packets = x.packets.filter fun e => e.idx ≠ p.idx) ∧
      (∀ a v tg, pktKind p.bytes = 4 → pktSig p.bytes = 0 → a = bytesAt p.bytes.toNat 8 8 → v = bytesAt p.bytes.toNat 16 8 → Safe s →
        s.unitPlace cl .store a 8 = .ok tg → tg.kind ≠ .device → s.refusedAt tg 8 = none → ∃ t, exec (.packetDispatch q) s = .next t ∧
        memRead t.mem tg.pa 8 = v ∧ MemSameBut s t tg.pa 8 ∧ (t.queue q).packets = x.packets.filter fun e => e.idx ≠ p.idx)) ∧
    (∀ p leaf, x.packets.find? (fun p => pktKind p.bytes = 2 && p.st = .placing) = some p → leaf = (s.queueLeaf q).getD (orphanPool q) →
      ∀ w, s.walkGraph cl leaf x.lvl (q, p.idx) graphFuel [bytesAt p.bytes.toNat 8 8] [] = w →
      (w = none → ∃ t, exec (.graphArm q) s = .next t ∧ signalled t p.bytes p.idx 3 ∧ t.nodes = s.nodes) ∧
      (∀ ns, w = some ns → (s.nodes.filter fun n => n.leaf = leaf).length + ns.length ≤ 65536 → ∃ t, exec (.graphArm q) s = .next t ∧ t.mem = s.mem ∧ ∀ n ∈ ns,
        (n.pend = 0 → (∀ m ∈ t.nodes, m.id = n.id → m.st = .ready) ∧ (∃ m ∈ t.nodes, m.id = n.id) ∧ ∃ e ∈ t.ready, e.node = n.id) ∧
        ((∀ m ∈ ns, m.id = n.id → m.pend ≠ 0) → { n with st := .waiting, stop := p.stop } ∈ t.nodes)))

/-- A kernel's way (R76, R95, R102, R370, R386, R390, R391, R404, R405): it is placed at the lowest base that has room for all its contexts,
once tenants run and its sites are awake; they start at its entry with their arguments in x10 to x13; a retiring context that has ended everything it started leaves its slot, and its accumulator
banks read zero; a kernel whose contexts are all gone completes its packet or its
node, or writes its own signal where it came with a migration, and a migration of it that runs is cancelled; a write of 1 to kend ends every context of the kernel.

The model's choice, where it rests on one: how KIDs are assigned (log entry 41), placement in order of dispatch (43), retired units (93), a leaf that is destroyed (94), and the index of the signal of a node launch (76). -/
def Obligations.Kernels : Prop :=
  ∀ s : State,
    (∀ leaf e p, s.placing.find? (fun e => e.leaf = leaf) = some e → p = e.plan →
      (s.firstFit leaf p.cores (banksOf p.pword) = none → exec (.kernelPlacement leaf) s = .next s) ∧
      (∀ base, s.firstFit leaf p.cores (banksOf p.pword) = some base → s.spanReady base p.cores = false →
        exec (.kernelPlacement leaf) s = .next s) ∧
      (∀ base kid, s.firstFit leaf p.cores (banksOf p.pword) = some base → s.spanReady base p.cores = true → kid = s.sol.kidNext →
        ∃ t k, exec (.kernelPlacement leaf) s = .next t ∧ t.placing = s.placing.erase e ∧ t.kernels = s.kernels ++ [k] ∧ k.kid = kid ∧
          k.leaf = leaf ∧ k.base = base ∧ k.len = p.cores ∧ k.ended = false ∧ t.sol.kidNext = kid % (2 ^ 32 - 1) + 1 ∧
          ∀ pos < p.cores, ∃ c ∈ t.ctxs, c.key.h = base + pos ∧ c.kid = kid ∧ c.status = .running ∧ c.level = .K ∧
            c.pc = p.obj + BitVec.ofNat 64 p.entry ∧ c.getX 10 = p.args ∧ c.getX 11 = BitVec.ofNat 64 pos ∧
            c.getX 12 = BitVec.ofNat 64 p.cores ∧ c.getX 13 = p.sig ∧ (∀ r : BitVec 5, r < 10 ∨ 13 < r → c.getX r = 0) ∧
            (∀ i : Fin 32, c.v.get i = ⟨0, 0⟩))) ∧
    (∀ k c, s.ctx? k = some c →
      (c.status ≠ .retiring ∨ s.quiesced c = false → exec (.contextRetire k) s = .next s) ∧
      (c.status = .retiring → s.quiesced c = true → ∃ t, exec (.contextRetire k) s = .next t ∧ t.ctx? k = none ∧
        ∀ a, memGet t.mem a = if c.inAcc a then 0 else memGet (s.landOf k).mem a)) ∧
    (∀ kid k, s.kernel? kid = some k → (s.kernelOver kid = false → exec (.kernelComplete kid) s = .next s) ∧
      (s.kernelOver kid = true → (∃ t, exec (.kernelComplete kid) s = .next t ∧ t.kernels = s.kernels.filter (fun x => x.kid ≠ kid) ∧
        (∀ m ∈ s.migs, m.kid = kid → m.st = .quiesce ∨ m.st = .check ∨ m.st = .transfer →
          { m with st := .refused, reason := 5 } ∈ t.migs) ∧
        ∀ q i p, k.queue = some (q, i) → (s.queue q).packets.find? (fun p => p.idx = i) = some p →
          (t.queue q).packets = (s.queue q).packets.filter (fun e => e.idx ≠ p.idx) ∧
          ∀ sig tg, sig = pktSig p.bytes → sig ≠ 0 → sig.toNat % 8 = 0 → Safe s →
            s.unitPlace (s.queueClient (s.queue q)) .store sig.toNat 8 = .ok tg → tg.kind ≠ .device → s.refusedAt tg 8 = none →
            memRead t.mem tg.pa 8 = (if k.ended then 4 else 0) + p.idx.toNat * 2 ^ 32) ∧
        (∀ n, k.queue = none → k.node = some n → ∃ t, exec (.kernelComplete kid) s = .next t ∧
          (∀ m ∈ t.nodes, m.id = n → m.outcome = some (if k.ended then (2, 4) else (0, 0))) ∧
          ∀ tg, k.sig ≠ 0 → k.sig.toNat % 8 = 0 → Safe s →
            s.unitPlace (s.clientFor k.lvl k.leaf (s.part (.leaf k.leaf)).parent) .store k.sig.toNat 8 = .ok tg → tg.kind ≠ .device →
            s.refusedAt tg 8 = none → memRead t.mem tg.pa 8 = if k.ended then 4 else 0) ∧
        (k.queue = none → k.node = none → ∃ t, exec (.kernelComplete kid) s = .next t ∧
          ∀ tg, k.sig ≠ 0 → k.sig.toNat % 8 = 0 → Safe s →
            s.unitPlace (s.clientFor k.lvl k.leaf (s.part (.leaf k.leaf)).parent) .store k.sig.toNat 8 = .ok tg → tg.kind ≠ .device →
            s.refusedAt tg 8 = none → memRead t.mem tg.pa 8 = (if k.ended then 4 else 0) + k.idx.toNat * 2 ^ 32))) ∧
    (∀ v : Word, (v.getLsbD 0 = false → exec (.kendWrite v) s = .next s) ∧
      (v.getLsbD 0 = true → (s.ctxs.map (·.key)).Nodup → ∃ t, exec (.kendWrite v) s = .next t ∧
        (∀ c ∈ t.ctxs, c.kid = s.cx.kid → c.status = .free) ∧ ∀ k ∈ t.kernels, k.kid = s.cx.kid → k.ended = true))

/-- The partition commands (R89 to R91, R93): discarded from a requester the block does not obey, ignored in the wrong state and before boot is done (R401); a command that
fails a check only sets REASON. A created span is ACTIVE with the staged values, inside its parent, within its rights, and apart from
every other span of its level; a destroyed one is CHANGING, and then FREE with its scratch discarded, a
first-level one once no leaf below it is left; a leaf's new mask takes effect with
interrupt 19 for its contexts where it lost a right.

Quotas and scratch ways (R125, R126, R310): a quota command applies the staged quotas, or says why not; l2way takes a legal value
that is not in force, while no transition runs, and is BUSY until the ways are changed and their scratch reads zero.

The model's choice, where it rests on one: discarded scratch reads 0 (log entry 4), a quota command without QOS (83), an ACTIVE parent (44), who takes interrupt 19 (45), dropped ways (66), the free test of quotas (75) and reserved bits (96). -/
def Obligations.Partitions : Prop :=
  (
    ∀ (s : State) (b : Block) (r : Requester) (p : Part) (g : Staged), p = s.part b → g = s.staged b r →
      (s.writesBlock b r = false → exec (.pcmdCreate b r) s = .next s ∧ exec (.pcmdDestroy b r) s = .next s ∧
        exec (.pcmdApply b r) s = .next s) ∧
      (s.sol.boot ≠ .done → exec (.pcmdCreate b r) s = .next s ∧ exec (.pcmdDestroy b r) s = .next s ∧ exec (.pcmdApply b r) s = .next s) ∧
      (p.st ≠ .free → exec (.pcmdCreate b r) s = .next s) ∧
      (p.st ≠ .active → exec (.pcmdDestroy b r) s = .next s ∧ exec (.pcmdApply b r) s = .next s) ∧
      (s.sol.boot = .done → s.writesBlock b r = true →
        (p.st = .free → ∀ why, why = s.pcmdReason b r 1 → ∃ t, exec (.pcmdCreate b r) s = .next t ∧ t.mem = s.mem ∧
          (why ≠ 0 → t.part b = { p with reason := why }) ∧
          (why = 0 → t.part b = ⟨b, .active, g.base, g.len, g.parent, g.rights, g.qfirst, g.qcnt, 0⟩ ∧
            1 ≤ g.len ∧ g.base + g.len ≤ 1024 ∧ g.qfirst + g.qcnt ≤ 4096 ∧
            (∀ y ∈ s.parts, sameLevel y.blk b = true → y.blk ≠ b → y.st ≠ .free → y.len ≠ 0 →
              y.base + y.len ≤ g.base ∨ g.base + g.len ≤ y.base) ∧
            ∀ j, b = .leaf j → ∀ up, up = s.part (.first g.parent) → up.st = .active ∧ up.base ≤ g.base ∧
              g.base + g.len ≤ up.base + up.len ∧ ∀ i, g.rights.getLsbD i = true → up.rights.getLsbD i = true)) ∧
        (p.st = .active → ∀ why, why = s.pcmdReason b r 2 → ∃ t, exec (.pcmdDestroy b r) s = .next t ∧ t.mem = s.mem ∧
          (why ≠ 0 → t.part b = { p with reason := why }) ∧
          (why = 0 → t.part b = { p with st := .changing, reason := 0 } ∧ s.nctx b = 0)) ∧
        (p.st = .active → ∀ why, why = s.pcmdReason b r 3 → ∃ t, exec (.pcmdApply b r) s = .next t ∧ t.mem = s.mem ∧
          (why ≠ 0 → t.part b = { p with reason := why }) ∧
          (why = 0 → t.part b = { p with qfirst := g.qfirst, qcnt := g.qcnt, rights := g.rights, reason := 0 } ∧
            ∀ j, b = .leaf j → p.rights &&& ~~~g.rights ≠ 0 → s.cx.status ≠ .free → s.cx.leaf = j →
              t.cx.irqs = pushIrq s.cx.irqs 19 .T (g.rights.setWidth 64)))) ∧
      (p.st ≠ .changing → exec (.spanDestroyComplete b) s = .next s) ∧
      (p.st = .changing → ∀ waits : Prop, (waits ↔ match b with | .first i => s.leavesOf i ≠ [] | .leaf _ => False) →
        (waits → exec (.spanDestroyComplete b) s = .next s) ∧
        (¬ waits → ∃ t, exec (.spanDestroyComplete b) s = .next t ∧ t.part b = { p with st := .free } ∧
          (∀ a, inScratch p.base p.len a = true → memGet t.mem a = 0) ∧
          ((∀ l ∈ s.slices, l.home < p.base ∨ p.base + p.len ≤ l.home) →
            ∀ a, inScratch p.base p.len a = false → memGet t.mem a = memGet s.mem a)))) ∧
  (
    ∀ s : State,
      (∀ j r v, v = (List.range 4).map (fun i => (s.reg (qosBlock j + 8 * i)).toNat % 2 ^ 13) →
        (s.ownsLeaf r j = false ∨ (r.acts ≠ .P ∧ r.acts ≠ .D) → exec (.qoscmdApply j r) s = .next s) ∧
        (s.ownsLeaf r j = true → r.acts = .P ∨ r.acts = .D → ∃ t, exec (.qoscmdApply j r) s = .next t ∧ t.mem = s.mem ∧
          (s.holds r rightQos = false → t.quotas j = { s.quotas j with reason := 3 }) ∧
          (s.holds r rightQos = true → (∃ x ∈ v, x < 32 ∨ 4096 < x) → t.quotas j = { s.quotas j with reason := 1 }) ∧
          (s.holds r rightQos = true → (∀ x ∈ v, 32 ≤ x ∧ x ≤ 4096) →
            t.quotas j = if Config.overcommitted (s.allQuotas j) then { s.quotas j with reason := 2 } else
              ⟨j, v.getD 0 32, v.getD 1 32, v.getD 2 32, v.getD 3 32, 0⟩))) ∧
      (∀ v : Word, ∀ w, w = s.leafWays s.cx.leaf →
        ∀ n, n = v.toNat % 32 →
        (14 < n ∨ v.toNat / 32 % 2 ^ 58 ≠ 0 ∨ w.target.isSome ∨ n = w.scrw → exec (.l2wayWrite v) s = .next s) ∧
        (n ≤ 14 → v.toNat / 32 % 2 ^ 58 = 0 → w.target = none → n ≠ w.scrw → ∃ t, exec (.l2wayWrite v) s = .next t ∧ t.mem = s.mem ∧
          ∃ x, t.leafWays s.cx.leaf = x ∧ x.scrw = w.scrw ∧ x.target = some n ∧ t.cx.pc = s.cx.pc)) ∧
      ∀ leaf w, w = s.leafWays leaf → (w.target = none ∨ s.oldCopiesDone w = false → exec (.l2wayTransitionComplete leaf) s = .next s) ∧
        ∀ n base len, w.target = some n → s.oldCopiesDone w = true → base = (s.part (.leaf leaf)).base → len = (s.part (.leaf leaf)).len →
          ∃ t, exec (.l2wayTransitionComplete leaf) s = .next t ∧ t.leafWays leaf = ⟨leaf, n, none, []⟩ ∧ t.cx = s.cx ∧
            (∀ a, scratchPlace base len (min n w.scrw * 2 ^ 17) (max n w.scrw * 2 ^ 17) a = true → memGet t.mem a = 0) ∧
            ((∀ l ∈ s.slices, l.home < base ∨ base + len ≤ l.home) →
              ∀ a, scratchPlace base len (min n w.scrw * 2 ^ 17) (max n w.scrw * 2 ^ 17) a = false → memGet t.mem a = memGet s.mem a))

/-- Copies through their control registers (R227, R234, R241, R376): RESTART lets a FAULTED copy go on, ABORT ends a queued one and stops a
started one, HOLD stops every copy of a slot, and is over, with C = S, once what they have read is written, one slot apart from the
other; REMOVE takes its held entries out of the queue, and REBUILD enqueues the staged entry, for
the removed copy that it names, or says why not.

Register writes that are steps of their own (R89, R133, R134, R152, R215): a workspace pointer of another level takes a place that fits
it, and is left alone by a write that raises; DROP frees the selected entry if it has failed; a partition block stages what a requester
that may write it writes, and a CSR is written as its map says, or not at all where it is read-only or missing.

The model's choice, where it rests on one: register writes as steps (log entries 57, 58 and 68), and staged entries of copies (101). -/
def Obligations.RegisterWrites : Prop :=
  (
    ∀ (s : State) (k : Key) (h : Nat), k = s.cx.key → h = fld s.cx.cpsel 31 0 →
      (s.copy? k h = none → exec .cpctlRestart s = .next s ∧ exec .cpctlAbort s = .next s) ∧
      (∀ x, s.copy? k h = some x →
        (x.st ≠ .faulted ∨ x.aborting = true → exec .cpctlRestart s = .next s) ∧
        (x.st = .faulted → x.aborting = false → ∃ t, exec .cpctlRestart s = .next t ∧ t.copy? k h = some
          { x with st := if s.placeFree x.h then .running else .queued, spec := x.commit, ahead := [], reason := 0, faultAddr := 0 }) ∧
        (x.ended = true → exec .cpctlAbort s = .next s) ∧
        (x.st = .queued ∨ x.st = .grant → ∃ t, exec .cpctlAbort s = .next t ∧ t.copy? k h = some { x with st := .aborted }) ∧
        (x.st = .running ∨ x.st = .faulted → ∃ t, exec .cpctlAbort s = .next t ∧ t.copy? k h = some { x with aborting := true })) ∧
      ∀ slot q, q = s.cqueue k.h →
        (∃ t, exec (.cqctlHold slot) s = .next t ∧ t.cqueue k.h = { q with busy := (q.busy ++ [slot]).eraseDups, result := 0 } ∧ t.mem = s.mem ∧
          t.copies = s.copies.map fun x => if x.agent = (⟨k.h, slot⟩ : Key) ∧ x.ended = false then { x with held := true } else x) ∧
        (∃ t, exec (.cqctlRemove slot) s = .next t ∧ t.cqueue k.h = { q with result := 0 } ∧ t.mem = s.mem ∧
          t.copies = s.copies.map fun x => if x.agent.h = k.h ∧ x.agent.slot % 8 = slot ∧ x.held = true ∧ x.ended = false then
            { x with removed := true } else x) ∧
        (∀ x bad, x = stagedCopy q slot s.order → bad = (copyDescOk x.kind x.desc = false ∨ copySize x.desc = 0 ∨ 2 ^ 24 < copySize x.desc ∨
            ∃ y ∈ s.engineQueue k.h, y.agent = x.agent ∧ y.handle = x.handle) →
          ∃ t, exec (.cqctlRebuild slot) s = .next t ∧ t.mem = s.mem ∧
            (bad → t.copies = s.copies ∧ t.cqueue k.h = { q with result := 2 }) ∧
            (¬ bad → s.copyRoom ⟨k.h, slot⟩ = false → t.copies = s.copies ∧ t.cqueue k.h = { q with result := 1 }) ∧
            (¬ bad → s.copyRoom ⟨k.h, slot⟩ = true → t.cqueue k.h = { q with result := 0 } ∧
              t.copies = (s.copies.filter fun z => some z ≠ s.removedCopy x) ++
                [{ x.rebuilt (s.removedCopy x) with st := if x.st = .running then .queued else x.st }])) ∧
        (∀ g c, c = s.cqueue g →
          (c.busy = [] → exec (.copyHoldComplete g) s = .next s) ∧
          ∀ ready : Nat → Prop, (∀ n, ready n ↔ ∀ x ∈ s.copies, x.h = g → x.agent.slot = n → x.held = true → x.st = .running → x.ahead = []) →
            ((∀ n ∈ c.busy, ¬ ready n) → ∃ t, exec (.copyHoldComplete g) s = .next t ∧ t.copies = s.copies ∧ t.copyQueues = s.copyQueues) ∧
            ∀ n ∈ c.busy, ready n → ∃ t, exec (.copyHoldComplete g) s = .next t ∧ (∀ m, m ∈ (t.cqueue g).busy ↔ m ∈ c.busy ∧ ¬ ready m) ∧
              (∀ p ∈ t.posts, p.agent ≠ ⟨g, n⟩) ∧
              ∀ y ∈ t.copies, y.h = g → y.agent.slot = n → y.held = true → y.st ≠ .faulted → y.spec = y.commit)) ∧
  (
    ∀ s : State,
      (∀ l v o, o = (match l with | .K | .T => Level.T | l => l) →
        (s.cx.level.rank < o.rank ∨ s.cx.level = l → Traps (.wspCsrWrite l v) s (exnIllegal s.wordAtPc)) ∧
        (o.rank ≤ s.cx.level.rank → s.cx.level ≠ l → (s.cx.wspFits l (v.toNat / 512 % 2048) = false → Traps (.wspCsrWrite l v) s ⟨35, v, 7, o⟩) ∧
          (s.cx.wspFits l (v.toNat / 512 % 2048) = true → ∃ t, exec (.wspCsrWrite l v) s = .next t ∧
            (∀ m, t.cx.wspOf m = if m = l then v &&& 0xFFE00 else s.cx.wspOf m) ∧ t.cx.x = s.cx.x ∧ t.cx.pc = s.cx.pc ∧ t.mem = s.mem))) ∧
      exec .oplctlDrop s = .next { s with cx := { s.cx with
        log := s.cx.log.filter fun e => !(e.idx = fld s.cx.oplsel 4 0 && !e.outstanding) } } ∧
      (∀ b o r v, o = 0 ∨ o = 8 ∨ o = 16 → (match b with | .leaf j => j < 64 | .first i => i < 16) →
        (s.writesBlock b r = false → exec (.registerWrite (blockAddr b + o) v r) s = .next s) ∧
        (s.writesBlock b r = true → ∃ t, exec (.registerWrite (blockAddr b + o) v r) s = .next t ∧ t.mem = s.mem ∧ t.parts = s.parts ∧
          ∀ a, t.reg a = if a = blockAddr b + o then
            (s.reg a &&& ~~~(partMask b o (r.acts = .D))) ||| (v &&& partMask b o (r.acts = .D)) else s.reg a)) ∧
      (∀ n v r, n < 4096 → (s.readCsr n = none ∨ n / 1024 = 3 → exec (.registerWrite n v r) s = .next s) ∧
        (s.readCsr n ≠ none → n / 1024 ≠ 3 → (∀ t, s.writeCsr s.wordAtPc n v = .ok t → exec (.registerWrite n v r) s = .next t) ∧
          ∀ e, s.writeCsr s.wordAtPc n v = .error e → Traps (.registerWrite n v r) s e)) ∧
      (∀ r, exec (.registerWrite 0x8C0 r ⟨.K, 0, 0⟩) s = .next { s with cx := { s.cx with vctl := r &&& 31 } }))

/-! ## Time, saving, debug and the outside -/

/-- Time (R185, R283, R309, R312, R355, R361): cycles advance NOW, and count against the watchdog of a context that holds the core at K
under handler discipline; a frame boundary reaches the next multiple of 4,096; a watchdog that has reached its limit posts cause 26 once; a bucket
regains one token. No register or byte of memory changes.

TRAP_ENTRY, XIRQ_WRITE and RESERVATION_AGING (R144, R360, R361, R394): a boundary takes what is due, an interrupt leaving its queue and an
asynchronous exception its list, and nothing in the middle of a pair or of a WFI that waits (R365: step commits it first); an external interrupt is held or let go by its source, within
reach; the oldest reservation of a home ages.

The model's choice, where it rests on one: time moves by events alone (log entry 8), contention is free (71), and the next cause 31 (107). -/
def Obligations.TimeAndBoundaries : Prop :=
  (
    ∀ (s : State) (n h : Nat),
      (∃ t, exec (.timerCompare n) s = .next t ∧ t.now = s.now + BitVec.ofNat 64 n ∧ t.mem = s.mem ∧ t.cx.x = s.cx.x ∧ t.cx.pc = s.cx.pc ∧
        t.cx.wdog.limit = s.cx.wdog.limit ∧ t.cx.wdog.count = s.cx.wdog.count + if s.cx.status = .running ∧ (∀ x, s.cx.halt = some x → x.halted = false) ∧
          s.cx.thread = false ∧ s.cx.level = .K then n else 0) ∧
      (∃ t, exec .frameBoundary s = .next t ∧ t.now.toNat % 4096 = 0 ∧ t.mem = s.mem ∧ t.cx.x = s.cx.x ∧ t.cx.pc = s.cx.pc ∧
        ∀ x, x ∈ t.stamps ↔ x ∈ s.stamps ∧ t.now.toNat / 4096 ≤ x.frame) ∧
      (∃ t, exec (.ctlTokenGain h) s = .next t ∧ { t with tokens := s.tokens } = s ∧
        ∀ g, tabGet t.tokens g 0 = if g = h then tabGet s.tokens h 0 - 1 else tabGet s.tokens g 0) ∧
      ∀ k c, s.ctx? k = some c →
        (c.thread = true ∨ c.wdog.limit = 0 ∨ c.wdog.count < c.wdog.limit ∨ c.holdsCore = false → exec (.watchdogExpiry k) s = .next s) ∧
        (c.thread = false → c.wdog.limit ≠ 0 → c.wdog.limit ≤ c.wdog.count → c.holdsCore = true → ∃ t c', exec (.watchdogExpiry k) s = .next t ∧
          t.mem = s.mem ∧ t.ctx? k = some c' ∧
          c' = { c with wdog := { c.wdog with limit := 0 }, asyncs := c.asyncs ++ [⟨26, BitVec.ofNat 64 c.wdog.limit, 0, .T, 0⟩] })) ∧
  (
    ∀ s : State,
      (s.canRun = false ∨ s.cx.hint ≠ none ∨ s.cx.waiting = true ∨ s.trapDue = none → exec .trapEntry s = .next s) ∧
      (s.canRun = true → s.cx.hint = none → s.cx.waiting = false → s.cx.comp.n ≤ 1 →
        (∀ l p, s.trapDue = some (.irq l p) → ∃ t, exec .trapEntry s = .next t ∧ t.cx.level = l ∧ (t.cx.tr l).epc = s.cx.pc ∧
          (t.cx.tr l).cause = BitVec.ofNat 64 (2 ^ 63 + p.code) ∧ (t.cx.tr l).val = p.val ∧ (t.cx.tr l).val2 = (if p.merged then 1 else 0) ∧
          t.cx.irqs = popIrq s.cx.irqs p.code p.floor) ∧
        (∀ a l, s.trapDue = some (.async a) → l = s.cx.route a.code false a.floor → ∃ t, exec .trapEntry s = .next t ∧ t.cx.level = l ∧
          (t.cx.tr l).epc = s.cx.pc ∧ (t.cx.tr l).cause = BitVec.ofNat 64 a.code ∧ (t.cx.tr l).val = a.val ∧ (t.cx.tr l).val2 = a.val2 ∧
          t.cx.asyncs = s.cx.asyncs.erase a)) ∧
      (∀ r v o, o = s.reached r (v.toNat / 2 ^ 16 % 1024) (v.toNat / 2 ^ 26 % 8) → (o = none → exec (.xirqWrite r v) s = .next s) ∧
        ∀ c, o = some c → ∃ t c', exec (.xirqWrite r v) s = .next t ∧ t.mem = s.mem ∧ t.ctx? c.key = some c' ∧ c'.x = c.x ∧
          (v.getLsbD 8 = true → (⟨r.acts, v.toNat % 256⟩ : ExtIrq) ∈ c'.ext) ∧
          (v.getLsbD 8 = false → c'.ext = c.ext.erase ⟨r.acts, v.toNat % 256⟩)) ∧
      (∀ h r, s.cx.resv = some r → r.home = h → r.aged = false →
        (∀ c ∈ s.others, ∀ x, c.resv = some x → x.home = h → x.aged = false → r.order ≤ x.order) →
        ∃ t, exec (.reservationAging h) s = .next t ∧ t.mem = s.mem ∧ t.cx = { s.cx with resv := some { r with aged := true } }))

/-- Saving and restoring (R372 to R374, R377, R378): a request is staged for P alone, and refused with a reason where none can start: for a
kernel that migrates 3, for a context that is on its way or retires 1, for none or a saved one 2; a composition that holds the site has
at most 64 instructions left and ends first, with LAST 3 (R202); at its save point the context stops, its copies held, and past a WFI that
it waits in (R365), without its reservation, and for a migration without its pins; drained, it goes to its image with its registers and its program counter, and its slot is free; with its slot and
banks free again, on a site that is awake, it runs on from there.

Migration (R382, R383): a start on a leaf without the kernel is refused with reason 1, and otherwise the kernel quiesces, with every context,
resident or saved, without its pins, and saved or asked to be; a cancel before the transfer ends it with reason 5; a quiescent kernel, once the products that it delivers have ended, is checked, and transferred or
refused; the transfer done, the kernel has left the module or belongs to the target leaf, under the KID that the walker assigns next. An
image that this module accepts as a destination brings its kernel under such a KID; one that it does not changes nothing.

The model's choice, where it rests on one: KIDs and refusals (log entry 41), the node table at a migration (128), the KiB moved are free (78), the slot of a restore (104) and the end of a composition (117). -/
def Obligations.SavesAndMigrations : Prop :=
  (
    ∀ (s : State) (h : Nat) (r : Requester) (k : Key),
      let sel := (s.reg (preemptBlock h)).toNat % 8
      let kind := (s.reg (preemptBlock h)).toNat / 256 % 4
      let told (t : State) (n : Nat) : Prop := t.reg (preemptBlock h + 0x10) = BitVec.ofNat 64 (n * 2 ^ 36)
      (r.acts ≠ .P → exec (.precmdSave h r) s = .next s ∧ exec (.precmdRestore h r) s = .next s) ∧
      (kind = 0 ∨ kind = 3 → exec (.precmdSave h r) s = .next s) ∧
      (r.acts = .P → kind = 1 ∨ kind = 2 →
        (s.slotCtx h sel = none → ∃ t, exec (.precmdSave h r) s = .next t ∧ told t 2) ∧
        ∀ c, s.slotCtx h sel = some c → (s.migrating c.kid = true → ∃ t, exec (.precmdSave h r) s = .next t ∧ told t 3) ∧
          (s.migrating c.kid = false → ∀ away : Prop, (away ↔ c.status = .saving ∨ c.status = .restoring ∨ c.status = .retiring ∨ c.saveReq ≠ none) →
            (away → ∃ t, exec (.precmdSave h r) s = .next t ∧ told t 1) ∧
            (¬ away → c.status = .saved → ∃ t, exec (.precmdSave h r) s = .next t ∧ told t 2) ∧
            (¬ away → c.status ≠ .saved → s.ctx? ⟨h, sel⟩ = some c → ∃ t c', exec (.precmdSave h r) s = .next t ∧ told t 0 ∧ t.mem = s.mem ∧
              t.ctx? ⟨h, sel⟩ = some c' ∧ c'.saveReq = some kind ∧ c'.x = c.x ∧ c'.pc = c.pc ∧ c'.status = c.status ∧
              ∀ o, s.claimant h = some o → s.ctx? o.key = some o → ∃ o' m, t.ctx? o.key = some o' ∧ o'.comp.due = some m ∧ m.1 ≤ 64))) ∧
      (r.acts = .P → (s.savedAt h sel = none → ∃ t, exec (.precmdRestore h r) s = .next t ∧ told t 2) ∧
        (∀ c, s.savedAt h sel = some c → c.status = .saved → s.migrating c.kid = false → ∃ t, exec (.precmdRestore h r) s = .next t ∧ told t 0 ∧
          t.mem = s.mem ∧ { c with status := .restoring } ∈ t.ctxs)) ∧
      (∀ c, s.ctx? k = some c → (c.saveReq = none ∨ s.dissolves k.h = false ∧ (s.savePoint c = false ∨ s.claimant k.h ≠ none) →
          exec (.saveStop k) s = .next s) ∧
        (c.saveReq ≠ none → ∀ o, s.claimant k.h = some o → s.ctx? o.key = some o → o.hint = none → ∃ t o', exec (.saveStop k) s = .next t ∧
          t.ctx? o.key = some o' ∧ o'.comp = { o.comp with n := 1, last := 3, due := none }) ∧
        (c.saveReq ≠ none → s.savePoint c = true → s.claimant k.h = none ∨ s.dissolves k.h = true → ∃ t c', exec (.saveStop k) s = .next t ∧
          t.ctx? k = some c' ∧ c'.status = .saving ∧ c'.x = c.x ∧ c'.pc = (if c.waiting then c.pc + 4 else c.pc) ∧
          c'.resv = none ∧ (s.migrating c.kid = true → c'.pins = []) ∧
          (∀ w ∈ t.waiters, w.key ≠ k) ∧ ∀ x ∈ t.copies, x.agent = k → x.ended = false → x.held = true) ∧
        (c.status ≠ .saving ∨ s.drainedForSave c = false → exec (.saveDrained k) s = .next s) ∧
        (c.status = .saving → s.drainedForSave c = true → ∃ t, exec (.saveDrained k) s = .next t ∧ t.ctx? k = none ∧
          (∀ x ∈ t.slots, x.owner ≠ k) ∧ ∃ c' ∈ t.ctxs, c'.status = .saved ∧ c'.key.h = k.h ∧ c'.key.slot % 8 = k.slot % 8 ∧ c'.x = c.x ∧
          c'.pc = c.pc ∧ c'.level = c.level ∧ c'.banks = c.banks ∧ c'.saveReq = none ∧ ∀ p ∈ t.posts, p.agent ≠ k)) ∧
      ∀ c, s.owner? k = some c → c.status = .restoring →
        ((s.ctx? ⟨k.h, k.slot % 8⟩ ≠ none ∨ (s.freeBanks k.h).length < c.banks.length ∨ s.poweredSite k.h = false) → exec (.restoreStart k) s = .next s) ∧
        (s.ctx? ⟨k.h, k.slot % 8⟩ = none → c.banks.length ≤ (s.freeBanks k.h).length → s.poweredSite k.h = true → ∃ t c', exec (.restoreStart k) s = .next t ∧
          c' ∈ t.ctxs ∧ c'.key = ⟨k.h, k.slot % 8⟩ ∧ c'.x = c.x ∧ c'.pc = c.pc ∧ c'.level = c.level ∧ c'.ident = c.ident ∧ c'.savedPool = [] ∧
          (c.act ≠ none → c'.status = .running))) ∧
  (
    ∀ (s : State) (leaf : Nat) (r : Requester) (m : Mig) (kid : Nat), m = s.mig leaf → kid = (s.reg (migBlock leaf)).toNat % 2 ^ 32 →
      let busy := m.st = .quiesce ∨ m.st = .check ∨ m.st = .transfer
      (s.writesMig leaf r = false ∨ busy → exec (.migcmdStart leaf r) s = .next s) ∧
      (s.writesMig leaf r = true → ¬ busy →
        ((∀ k ∈ s.kernels, k.kid = kid → k.leaf ≠ leaf) → ∃ t, exec (.migcmdStart leaf r) s = .next t ∧ t.mem = s.mem ∧
          t.mig leaf = { m with st := .refused, reason := 1, kib := 0 }) ∧
        ((∃ k ∈ s.kernels, k.kid = kid ∧ k.leaf = leaf) → ∃ t, exec (.migcmdStart leaf r) s = .next t ∧
          t.mig leaf = ⟨leaf, kid, s.reg (migBlock leaf + 8), .quiesce, 0, 0, s.capacity⟩ ∧
          ∀ c ∈ t.ctxs, c.kid = kid → c.status ≠ .free → c.pins = [] ∧ (c.status = .saved ∨ c.status = .saving ∨ c.saveReq = some 2))) ∧
      (s.writesMig leaf r = false ∨ ¬ (m.st = .quiesce ∨ m.st = .check) → exec (.migcmdCancel leaf r) s = .next s) ∧
      (s.writesMig leaf r = true → m.st = .quiesce ∨ m.st = .check → ∃ t, exec (.migcmdCancel leaf r) s = .next t ∧ t.mem = s.mem ∧
        t.mig leaf = { m with st := .refused, reason := 5 } ∧ ∀ c ∈ t.ctxs, c.kid = m.kid → c.status ≠ .free → c.saveReq = none ∨ c.status = .restoring) ∧
      (∀ a, (m.st ≠ .quiesce ∨ s.quiescent m.kid = false ∨ s.deliversFor m.kid = true → exec (.migrationCheck leaf a) s = .next s) ∧
        (m.st = .quiesce → s.quiescent m.kid = true → s.deliversFor m.kid = false → m.isLocal = false → ∃ t, exec (.migrationCheck leaf a) s = .next t ∧
          (t.mig leaf).st = (if a.reachable ∧ a.keyEqual ∧ classAtLeast a.capacity m.capacity ∧ a.roomFree then .transfer else .refused) ∧
          (a.reachable = false → (t.mig leaf).reason = 4) ∧ (a.reachable = true → a.keyEqual = false → (t.mig leaf).reason = 2))) ∧
      (∀ x, (s.acceptsImage x = false → s.migArrival x = s) ∧ (s.acceptsImage x = true →
        ∃ k ∈ (s.migArrival x).kernels, k.kid = s.sol.kidNext ∧ k.leaf = x.leaf ∧ k.base = (s.part (.leaf x.leaf)).base + (x.kernel.base - x.srcBase) ∧
          k.sig = x.kernel.sig ∧ k.queue = none ∧ k.node = none)) ∧
      ∀ ok, (m.st ≠ .transfer → exec (.migrationTransferDone leaf ok) s = .next s) ∧
        (m.st = .transfer → ∃ t, exec (.migrationTransferDone leaf ok) s = .next t ∧
          (ok = false → t.mig leaf = { m with st := .refused, reason := 4 }) ∧
          (ok = true → t.mig leaf = { m with st := .done } ∧ ∀ k, s.kernel? m.kid = some k →
            (m.isLocal = false → ∀ x ∈ t.kernels, x.kid ≠ m.kid) ∧
            (m.isLocal = true → ∀ b, b = (s.part (.leaf m.target)).base + (k.base - (s.part (.leaf k.leaf)).base) →
              ∃ n, (k.node = none → n = none) ∧ { k with leaf := m.target, base := b, kid := s.sol.kidNext, node := n } ∈ t.kernels))))

/-- Debug sessions (R405, R406): a session opens where the function holds DEBUG and the lifecycle allows it, else with reason 1, and is counted at platform level; it asks
the selected context to halt (a composition of another context that holds its site ends), resumes it or lets it take one step, and writes its registers, only while it holds it HALTED; closing it
lets every context it holds go on. A read of the inspection window changes nothing (R368).

The model's choice, where it rests on one: what a debug block reads when nothing is HALTED (log entry 35), and what is hidden (64). -/
def Obligations.DebugSessions : Prop :=
  ∀ (s : State) (f : Nat), f < 81 →
    let told (t : State) (n : Nat) : Prop := t.reg (debugBlock f + 0x10) = BitVec.ofNat 64 (n * 2 ^ 36)
    exec (.inspectionWindowRead f) s = .next s ∧
    (f ∈ s.sessions → exec (.dbgcmdOpen f) s = .next s) ∧
    (f ∉ s.sessions → ∃ t, exec (.dbgcmdOpen f) s = .next t ∧ t.mem = s.mem ∧ t.cx = s.cx ∧
      (s.holds (s.fnRequester f) rightDebug = false ∨ debugAllowed s.sol.lifecycle f = false → t.sessions = s.sessions ∧ told t 1) ∧
      (s.holds (s.fnRequester f) rightDebug = true → debugAllowed s.sol.lifecycle f = true → t.sessions = f :: s.sessions ∧ told t 0 ∧
        t.sol.debugSessions = s.sol.debugSessions + if f = 0 ∧ s.sol.lifecycle = .production then 1 else 0)) ∧
    (∃ t, exec (.dbgcmdClose f) s = .next t ∧ t.mem = s.mem ∧ f ∉ t.sessions ∧ (∀ g, g ≠ f → (g ∈ t.sessions ↔ g ∈ s.sessions)) ∧
      ∀ c ∈ t.ctxs, ∀ x, c.halt = some x → x.session ≠ f) ∧
    (f ∉ s.sessions → exec (.dbgcmdHalt f) s = .next s ∧ exec (.dbgcmdStep f) s = .next s) ∧
    (f ∈ s.sessions →
      (s.debugSiteIn f = false → ∃ t, exec (.dbgcmdHalt f) s = .next t ∧ told t 2 ∧ t.cx = s.cx) ∧
      (s.debugSiteIn f = true → s.debugGated f = true → ∃ t, exec (.dbgcmdHalt f) s = .next t ∧ told t 4 ∧ t.cx = s.cx) ∧
      (s.debugSiteIn f = true → s.debugGated f = false → ∀ c, s.debugCtx f = some c →
        (∀ x, c.halt = some x → ∃ t, exec (.dbgcmdHalt f) s = .next t ∧ told t (if x.session = f then 0 else 3) ∧ t.cx = s.cx) ∧
        (c.halt = none → ∃ t c', exec (.dbgcmdHalt f) s = .next t ∧ told t 0 ∧ t.ctx? c.key = some c' ∧
          c'.halt = some ⟨f, false, false, false, none⟩ ∧ c'.x = c.x ∧ c'.pc = c.pc)) ∧
      (s.debugHeld f = none → ∃ t, exec (.dbgcmdStep f) s = .next t ∧ told t 3 ∧ t.cx = s.cx)) ∧
    (s.debugHeld f = none → exec (.dbgcmdResume f) s = .next s ∧ ∀ v, exec (.dbgxvalWrite f v) s = .next s) ∧
    (∀ c x, s.debugHeld f = some c → c.halt = some x →
      (∃ t, exec (.dbgcmdResume f) s = .next t ∧ t.mem = s.mem ∧ t.ctx? c.key = some { c with halt := none, pc := x.pc.getD c.pc }) ∧
      (f ∈ s.sessions → ∃ t, exec (.dbgcmdStep f) s = .next t ∧ t.mem = s.mem ∧
        t.ctx? c.key = some { c with halt := some ⟨f, false, true, false, none⟩, pc := x.pc.getD c.pc }) ∧
      (∀ v i, i = BitVec.ofNat 5 (s.reg (debugBlock f + 0x20)).toNat → ∃ t c', exec (.dbgxvalWrite f v) s = .next t ∧ t.mem = s.mem ∧
        t.ctx? c.key = some c' ∧ (∀ j, c'.getX j = if j ≠ 0 ∧ j = i then v else c.getX j) ∧ c'.pc = c.pc))

/-- The switch block and the reduction slots (R398 to R400, R408): a command takes the staged values while none is unanswered; the switch
takes it once the leaf's site has a token (R312), and answers 1 where the allocation opens a slot or agrees with it, 3 where it has no
room to open one, and 2 otherwise; a contribution that the slot expects is held, one it
refuses changes nothing, and the last one, or the timeout, closes the slot, which tells a module outside SWMASK nothing. (That an allocation spends one token, of the leaf's first
site, is log entry 97.)

The model's choice, where it rests on one: the receiver and CONFLICT (log entry 42), one token for an allocation (97), the number of the module (79) and the rest of a message (80). -/
def Obligations.ReductionSlots : Prop :=
  ∀ (s : State) (leaf : Nat) (r : Requester) (b : SwitchBlock), b = s.swBlock leaf →
    (s.ownsLeaf r leaf = false ∨ b.pending ≠ none → exec (.swcmdAllocate leaf r) s = .next s) ∧
    (s.ownsLeaf r leaf = true → b.pending = none → ∃ t, exec (.swcmdAllocate leaf r) s = .next t ∧ t.mem = s.mem ∧
      t.swBlock leaf = ⟨leaf, 0, some (s.stagedAllocation leaf)⟩) ∧
    (b.pending = none → exec (.switchAllocationAnswer leaf) s = .next s) ∧
    (∀ a, b.pending = some a → s.ctlOpen (s.part (.leaf leaf)).base = false → exec (.switchAllocationAnswer leaf) s = .next s) ∧
    (∀ a o, b.pending = some a → s.ctlOpen (s.part (.leaf leaf)).base = true → o = s.switchSlot? a.slot →
      ∀ opens : Prop, (opens ↔ a.granted = true ∧ a.inRange = true ∧ ((o = none ∧ a.gen = 0) ∨
        ∃ x, o = some x ∧ a.agrees x = false ∧ x.closed = true ∧ a.gen = (x.gen + 1) % 64)) →
      ∃ t, exec (.switchAllocationAnswer leaf) s = .next t ∧ t.mem = s.mem ∧
      (opens → (Config.switchRoom s.tick = true → t.swBlock leaf = ⟨leaf, 1, none⟩ ∧ t.switchSlot? a.slot =
          some ⟨a.slot, a.gen, a.op, a.els, a.base, a.mask, a.tmo, [(leaf, a.rel, a.tag)], [], false⟩) ∧
        (Config.switchRoom s.tick = false → t.swBlock leaf = ⟨leaf, 3, none⟩ ∧ t.switchSlots = s.switchSlots)) ∧
      (∀ x, o = some x → a.granted = true → a.inRange = true → a.agrees x = true → t.swBlock leaf = ⟨leaf, 1, none⟩ ∧
        ∃ y, t.switchSlot? a.slot = some y ∧ y.words = x.words) ∧
      (¬ opens → (∀ x, o = some x → a.granted = false ∨ a.inRange = false ∨ a.agrees x = false) → t.swBlock leaf = ⟨leaf, 2, none⟩ ∧
        t.switchSlots = s.switchSlots)) ∧
    (∀ c x i, s.switchSlot? c.slot = some x → i = c.module - x.base →
      let told : Prop := x.base ≤ Config.moduleNumber ∧ Config.moduleNumber - x.base < 64 ∧
        x.mask.getLsbD (Config.moduleNumber - x.base) = true
      let fits := x.closed = false ∧ c.gen = x.gen ∧ x.base ≤ c.module ∧ i < 64 ∧ x.mask.getLsbD i = true ∧ c.element < x.els ∧
        c.op = (if x.op = 11 then 8 else x.op) ∧ x.word i c.element = none
      (¬ fits → exec (.switchContribution c) s = .next s) ∧
      (fits → ∀ y, y = { x with words := x.words ++ [⟨i, c.element, c.value⟩] } →
        (y.complete = false → ∃ t, exec (.switchContribution c) s = .next t ∧ t.mem = s.mem ∧ t.switchSlot? c.slot = some y) ∧
        (y.complete = true → s.receiverRetries y = false → ∃ t, exec (.switchContribution c) s = .next t ∧
          t.switchSlot? c.slot = some { x with closed := true, words := [] } ∧ (¬ told → t.mem = s.mem ∧ t.cx = s.cx)))) ∧
    (∀ n, s.switchSlot? n = none → exec (.switchSlotTimeout n) s = .next s) ∧
    ∀ n x, s.switchSlot? n = some x → (x.closed = true ∨ x.words = [] → exec (.switchSlotTimeout n) s = .next s) ∧
      (x.closed = false → x.words ≠ [] → s.receiverRetries x = false → ∃ t, exec (.switchSlotTimeout n) s = .next t ∧
        t.switchSlot? n = some { x with closed := true, words := [] })

/-- Peers and failed modules (R385, R395 to R397): a peer's read leaves the module as it is, and its write is performed where an entry grants
MEM and both stages translate it; any other leaves memory as it was. A module that misses its heartbeats loses every entry that names
it, once; the saves of its job's kernels follow, urgent ones of every context; a removed CXL port is remembered.

A peer's write to a queue (R81, R396): dropped unless an access-control entry admits it and the target partition holds PEER_LAUNCH; a
doorbell then moves WIDX, and a packet goes to its ring slot.

The model's choice, where it rests on one: the nearest entry and who sees it (log entry 34), a ring write that reaches no queue or slot (126), the partition of a queue (95), long writes (118), and what follows a failed module (36). -/
def Obligations.Peers : Prop :=
  (
    ∀ s : State,
      (∀ m l pa n, exec (.peerAccess m l (.read pa n)) s = .next s) ∧
      (∀ m l pa n v e k, s.nearestAcl m l ⟨2, fun e => (s.part (.leaf (fld e 75 70))).st ≠ .free⟩ = (e, k) →
        (k < 5 → ∃ t, exec (.peerAccess m l (.write pa n v)) s = .next t ∧ t.mem = s.mem ∧ t.cx.x = s.cx.x) ∧
        (5 ≤ k → (∀ w, s.peerPlace (fld e 75 70) .store pa n = .error w → exec (.peerAccess m l (.write pa n v)) s = .next s) ∧
          ∀ t, s.peerPlace (fld e 75 70) .store pa n = .ok t →
            (isMmio t.pa = true ∨ s.refusedAt t n ≠ none → exec (.peerAccess m l (.write pa n v)) s = .next s) ∧
            (isMmio t.pa = false → s.refusedAt t n = none → Safe s → ∃ u, exec (.peerAccess m l (.write pa n v)) s = .next u ∧
              memRead u.mem t.pa n = v.toNat % 256 ^ n ∧ MemSameBut s u t.pa n ∧ u.cx.x = s.cx.x))) ∧
      (∀ m, (m ∈ s.sol.failedModules → exec (.heartbeatMiss m) s = .next s) ∧
        (m ∉ s.sol.failedModules → ∃ t, exec (.heartbeatMiss m) s = .next t ∧ t.mem = s.mem ∧ t.cx = s.cx ∧
          t.sol = { s.sol with recovery := .fence, failedModules := s.sol.failedModules ++ [m] } ∧
          ∀ i < 256, t.acl i = if fld (s.acl i) 34 25 = m then (s.acl i) &&& ~~~1 else s.acl i)) ∧
      (∀ kids t, t = s.recover (.quiesce kids) → (s.sol.recovery ≠ .fence → t = s) ∧ (s.sol.recovery = .fence →
        t.mem = s.mem ∧ t.sol = { s.sol with recovery := .quiesce, job := kids } ∧ ∀ c ∈ t.ctxs, c.kid ∈ kids → c.status ≠ .free →
          c.status = .saved ∨ c.status = .saving ∨ c.saveReq = some 2)) ∧
      ∀ p, (4 ≤ p ∨ p ∈ s.sol.removedPorts → exec (.cxlDeviceRemoval p) s = .next s) ∧
        (p < 4 → p ∉ s.sol.removedPorts → exec (.cxlDeviceRemoval p) s =
          .next { s with sol := { s.sol with removedPorts := s.sol.removedPorts ++ [p] } })) ∧
  (
    ∀ (s : State) (m l q : Nat) (w : PeerWrite) (e : BitVec 128) (k : Nat),
      s.nearestAcl m l ⟨(match w with | .ring _ _ => 0 | .bell _ => 1), aclQueue q⟩ = (e, k) →
      let launch := (s.peerRights q).getLsbD 7
      (k < 5 ∨ launch = false → ∃ t, exec (.peerDoorbellWrite m l q w) s = .next t ∧ t.mem = s.mem ∧ t.queues = s.queues) ∧
      (5 ≤ k → launch = true → ∀ x, x = s.queue q →
        (∀ n, w = .bell n → x.st = .active → n ≠ x.widx → (n - x.widx).toNat ≤ x.size → (n - x.ridx).toNat ≤ x.size →
          ∃ t, exec (.peerDoorbellWrite m l q w) s = .next t ∧ t.queue q = { x with widx := n } ∧ t.mem = s.mem) ∧
        (∀ i p u, w = .ring i p → x.st ≠ .unreg →
          s.unitWrite (s.queueClient x) (x.base.toNat + 64 * (i.toNat % x.size)) 64 p.toNat = .ok u →
          exec (.peerDoorbellWrite m l q w) s = .next u)))

/-- Power and boot (R401, R402, R404, R405): an event for one of its contexts, or an access that needs it, wakes a site from S1 or S2, and from S3 the boot of
its units (that this is one step is log entry 129); a site that may be gated takes its state, and S3 loses its pool; boot
halts at the first step that fails, else it opens the P function; an attestation burns the next index until none is left, and signs its report with both keys; a loss of
power leaves what non-volatile memory and fuses hold, and a wipe clears the package.

Failures (R196, R202, R362, R384): a unit that RAS retires is remembered, and nothing else changes; a member that fails dissolves the composition
of the running context with LAST 2, and the owner takes cause 34 with the member, its code and the mask of the registers lost, all of them that member's (R196), a lost
site being retired.

The model's choice, where it rests on one: lost pools and memory read 0 (log entry 4), wakes from S3 (129), what survives a loss of power (54), the free values of a report (72), and cause 34 of a parked owner (100). -/
def Obligations.PowerAndBoot : Prop :=
  (
    ∀ s : State,
      (∀ h p, p = tabGet s.power h .S0 → ∀ due : Prop, (due ↔ p = .S3 ∨ (p = .S1 ∨ p = .S2) ∧
          ((∃ c ∈ s.ctxs, c.key.h = h ∧ c.status ≠ .free ∧ c.calls s.now = true) ∨ s.accessFor h = true)) →
        (¬ due → exec (.siteWake h) s = .next s) ∧
        (due → ∃ t, exec (.siteWake h) s = .next t ∧ { t with power := s.power } = s ∧
          ∀ g, tabGet t.power g .S0 = if g = h then .S0 else tabGet s.power g .S0)) ∧
      (∀ h p, (s.mayGate h p = false → exec (.siteGate h p) s = .next s) ∧
        (s.mayGate h p = true → ∃ t, exec (.siteGate h p) s = .next t ∧ t.cx = s.cx ∧
          (∀ g, tabGet t.power g .S0 = if g = h then p else tabGet s.power g .S0) ∧
          ∀ a, memGet t.mem a = if p = .S3 ∧ siteAddr h 0 ≤ a ∧ a < siteAddr h 0x100000 then 0 else memGet s.mem a)) ∧
      (∀ v : BootCheck, (s.sol.boot ≠ .reset → exec (.boot v) s = .next s) ∧
        (s.sol.boot = .reset → ∃ t, exec (.boot v) s = .next t ∧ t.mem = s.mem ∧ t.cx = s.cx ∧ t.sol.powered = true ∧
          t.sol.boot = (if v.solsticeOk = false then .halted 1 else if v.coreOk = false then .halted 2
            else if v.trainingOk = false then .halted 3 else .done) ∧ t.parts = [])) ∧
      (∀ r n, ∃ t, exec (.attestationRequest r n) s = .next t ∧ { t with sol := s.sol } = s ∧
        (2 ^ 20 ≤ s.sol.hssIndex → t.sol = { s.sol with exhausted := true }) ∧
        (s.sol.hssIndex < 2 ^ 20 → t.sol.hssIndex = s.sol.hssIndex + 1 ∧ ∃ x, t.sol.reports = s.sol.reports ++ [x] ∧ x.nonce = n ∧
          x.hssIndex = s.sol.hssIndex ∧ x.lifecycle = s.sol.lifecycle ∧ x.capacity = s.capacity ∧ x.debugSessions = s.sol.debugSessions ∧
          x.ecdsa = Config.ecdsaSignature x.content ∧ x.hss = Config.hssSignature x.hssIndex x.content)) ∧
      (∃ t, exec .powerLoss s = .next t ∧ t.cx = State.reset.cx ∧ t.others = [] ∧ t.parts = [] ∧ t.kernels = [] ∧ t.queues = [] ∧ t.now = 0 ∧
        t.sol.boot = .reset ∧ t.sol.powered = false ∧ t.sol.hssIndex = s.sol.hssIndex ∧ t.sol.lifecycle = s.sol.lifecycle ∧
        t.sol.retired = s.sol.retired ∧ ∀ a, memGet t.mem a = if outsidePackage a then memGet s.mem a else 0) ∧
      (s.sol.lifecycle ≠ .rma → exec .rmaWipe s = .next s) ∧
      (s.sol.lifecycle = .rma → ∃ t, exec .rmaWipe s = .next t ∧ t.sol = { s.sol with lifecycle := .rmaWiped } ∧
        ∀ a, memGet t.mem a = if outsidePackage a then memGet s.mem a else 0)) ∧
  (
    ∀ s : State,
      (∀ u, exec (.rasRetirement u) s = .next (if u ∈ s.sol.retired then s else
        { s with sol := { s.sol with retired := s.sol.retired ++ [u] } })) ∧
      ∀ k m f, s.cx.key = k → s.cx.status = .running →
        (s.cx.comp.n ≤ m ∨ s.cx.comp.n < 2 → exec (.siteFault k m f) s = .next s) ∧
        (m < s.cx.comp.n → 2 ≤ s.cx.comp.n → s.cx.first = none → ∃ t, exec (.siteFault k m f) s = .next t ∧ t.cx.comp.n = 1 ∧ t.cx.comp.last = 2 ∧
          t.cx.level = s.cx.route 34 false .T ∧ (∀ r, r = t.cx.tr t.cx.level → r.cause = 34 ∧
            r.val = BitVec.ofNat 64 (m + (if f.siteLost then 2 else 1) * 256) ∧ r.val2 = (f.mask &&& memberRegs s.cx.comp.n m).setWidth 64 ∧
            r.epc = (match s.cx.hint with | some h => h.addr | none => s.cx.pc)) ∧
          (f.siteLost = true → .site (k.h + m) ∈ t.sol.retired)))

/-! ## The whole machine -/

/-- What reset leaves (the reset columns of the register tables; R253): memory in its canonical form, nothing registered, placed or
partitioned, time 0, the CSRs of the running slot at their reset values, every quota 32, and both tables of every engine passing each value
through. -/
def Obligations.ResetState : Prop :=
  let s := State.reset
  Safe s ∧ s.now = 0 ∧ s.kernels = [] ∧ s.copies = [] ∧ s.links = [] ∧ s.cx.level = .K ∧ s.cx.status = .free ∧
    (∀ b, (s.part b).st = .free ∧ s.nctx b = 0) ∧ (∀ q, (s.queue q).st = .unreg ∧ (s.queue q).ridx = 0) ∧
    (∀ j, s.quotas j = ⟨j, 32, 32, 32, 32, 0⟩ ∧ s.l2way j = 0) ∧
    (∀ n ∈ [0x100, 0x104, 0x105, 0x140, 0x141, 0x142, 0x143, 0x144, 0x14B, 0x180, 0x200, 0x204, 0x205, 0x240, 0x241, 0x242, 0x243, 0x244,
        0x24B, 0x280, 0x300, 0x304, 0x305, 0x340, 0x341, 0x342, 0x343, 0x344, 0x34B, 0x380, 0x5D1, 0x5D2, 0x5D8, 0x5DA, 0x5E0, 0x5E9,
        0x5EA, 0x5EB, 0x5EC, 0x5F0, 0x5F1, 0x5F2, 0x5F9, 0x5FA, 0x7D8, 0x7D9, 0x7DA, 0x7DB, 0x7DC, 0x8C0, 0x8C1, 0xCC8, 0xCC9, 0xCCA],
      s.readCsr n = some 0) ∧
    (∀ n ∈ [0x5F8, 0x6D8, 0x7D0], s.readCsr n = some (BitVec.allOnes 64)) ∧ s.cx.comp.n = 1 ∧
    ∀ l, (s.engine l).spares = 0 ∧ (s.engine l).retired = false ∧ (s.engine l).split = false ∧ ∀ i < 64,
      (s.engine l).table0.toNat / 2 ^ (64 * i) % 2 ^ 64 = 0x800000003F800000 ∧
      (s.engine l).table1.toNat / 2 ^ (64 * i) % 2 ^ 64 = 0x800000003F800000

/-- Every step keeps the canonical form of memory: rising addresses, and no entry for a byte that reads as an unlisted one does. -/
def Obligations.StepKeepsMemory : Prop := ∀ s t : State, Safe s → step s = .next t → Safe t
end

