-- ==== Sys2Proof/Laws/Memory.lean ====
section
/-! SUPPORT. The laws of memory: read after write, what a write leaves alone, and the canonical form that every write keeps. -/

namespace Sys2Proof.Machine

/-! ## One byte -/

theorem memGet_memSet (m : List Host.Cell) (a b : Nat) (v : Byte) (lo : Nat) (h : memSorted lo m = true) :
    memGet (memSet m a v) b = if b = a then v else memGet m b := by
  induction m generalizing lo with
  | nil =>
    simp only [memSet]
    split
    · next hv => subst hv; split <;> rfl
    · simp only [memGet]
      split <;> split <;> simp_all
  | cons c r ih =>
    obtain ⟨k, w⟩ := c
    simp only [memSorted, Bool.and_eq_true, decide_eq_true_eq] at h
    obtain ⟨⟨_, _⟩, hr⟩ := h
    have above : ∀ x, x ≤ k → memGet r x = memDefault := fun x hx => by
      clear ih
      have gen : ∀ (l : List Host.Cell) (lo : Nat), memSorted lo l = true → x < lo → memGet l x = memDefault := by
        intro l
        induction l with
        | nil => intros; rfl
        | cons c l ihl =>
          intro lo hl hx
          obtain ⟨k', w'⟩ := c
          simp only [memSorted, Bool.and_eq_true, decide_eq_true_eq] at hl
          simp only [memGet]
          rw [if_neg (by omega)]
          exact ihl (k' + 1) hl.2 (by omega)
      exact gen r (k + 1) hr (by omega)
    simp only [memSet]
    split
    · next hlt =>
      split
      · next hv =>
        subst hv
        simp only [memGet]
        by_cases hb : b = a
        · subst hb
          rw [if_pos rfl, if_neg (by omega), above _ (by omega)]
        · rw [if_neg hb]
      · simp only [memGet]
        by_cases hb : b = a
        · subst hb; simp
        · rw [if_neg hb, if_neg (fun h => hb h.symm)]
    · split
      · next hnlt heq =>
        subst heq
        split
        · next hv =>
          subst hv
          by_cases hb : b = a
          · subst hb; rw [if_pos rfl, above _ (Nat.le_refl _)]
          · rw [if_neg hb]; simp only [memGet]; rw [if_neg (fun h => hb h.symm)]
        · simp only [memGet]
          by_cases hb : b = a
          · subst hb; rw [if_pos rfl, if_pos rfl]
          · rw [if_neg (fun h => hb h.symm), if_neg hb, if_neg (fun h => hb h.symm)]
      · next hnlt hne =>
        simp only [memGet]
        by_cases hk : k = b
        · subst hk; rw [if_pos rfl, if_neg (fun h => hne h.symm), if_pos rfl]
        · rw [if_neg hk, if_neg hk]; exact ih _ hr

theorem memSorted_mono {m : List Host.Cell} {lo lo' : Nat} (h : memSorted lo m = true) (hl : lo' ≤ lo) :
    memSorted lo' m = true := by
  cases m with
  | nil => rfl
  | cons c r =>
    obtain ⟨k, v⟩ := c
    simp only [memSorted, Bool.and_eq_true, decide_eq_true_eq] at h ⊢
    exact ⟨⟨by omega, h.1.2⟩, h.2⟩

theorem memSet_sorted (m : List Host.Cell) (a : Nat) (v : Byte) (lo : Nat) (h : memSorted lo m = true) (hl : lo ≤ a) :
    memSorted lo (memSet m a v) = true := by
  induction m generalizing lo with
  | nil => simp only [memSet]; split <;> simp_all [memSorted]
  | cons c r ih =>
    obtain ⟨k, w⟩ := c
    simp only [memSorted, Bool.and_eq_true, decide_eq_true_eq] at h
    obtain ⟨⟨hk, hw⟩, hr⟩ := h
    simp only [memSet]
    split
    · split
      · simp [memSorted, hk, hw, hr]
      · next hv =>
        simp only [memSorted, Bool.and_eq_true, decide_eq_true_eq]
        exact ⟨⟨hl, hv⟩, ⟨⟨by omega, hw⟩, hr⟩⟩
    · split
      · split
        · exact memSorted_mono hr (by omega)
        · next hv => simp only [memSorted, Bool.and_eq_true, decide_eq_true_eq]; exact ⟨⟨hk, hv⟩, hr⟩
      · simp only [memSorted, Bool.and_eq_true, decide_eq_true_eq]
        exact ⟨⟨hk, hw⟩, ih (k + 1) hr (by omega)⟩

/-- A byte written keeps the canonical form. -/
theorem memSet_wf {m : List Host.Cell} (a : Nat) (v : Byte) (h : Memory.wf m = true) : Memory.wf (memSet m a v) = true :=
  memSet_sorted m a v 0 h (Nat.zero_le _)

/-- A read after a write of one byte. -/
theorem memGet_set {m : List Host.Cell} (a b : Nat) (v : Byte) (h : Memory.wf m = true) :
    memGet (memSet m a v) b = if b = a then v else memGet m b := memGet_memSet m a b v 0 h

/-- Cells taken out of a memory leave it in canonical form. -/
theorem memSorted_filter (m : List Host.Cell) (p : Host.Cell → Bool) (lo : Nat) (h : memSorted lo m = true) :
    memSorted lo (m.filter p) = true := by
  induction m generalizing lo with
  | nil => rfl
  | cons c r ih =>
    obtain ⟨k, v⟩ := c
    simp only [memSorted, Bool.and_eq_true, decide_eq_true_eq] at h
    simp only [List.filter]
    split
    · simp only [memSorted, Bool.and_eq_true, decide_eq_true_eq]; exact ⟨h.1, ih _ h.2⟩
    · exact memSorted_mono (ih _ h.2) (by omega)

/-! ## Several bytes -/

/-- A write of bytes keeps the canonical form. -/
theorem memWrite_wf {m : List Host.Cell} (a n v : Nat) (h : Memory.wf m = true) : Memory.wf (memWrite m a n v) = true := by
  induction n generalizing m a v with
  | zero => exact h
  | succ n ih => exact ih _ _ (memSet_wf _ _ h)

/-- A write leaves every byte outside [a, a + n) alone. -/
theorem memWrite_other {m : List Host.Cell} (a n v b : Nat) (h : Memory.wf m = true) (hb : b < a ∨ a + n ≤ b) :
    memGet (memWrite m a n v) b = memGet m b := by
  induction n generalizing m a v with
  | zero => rfl
  | succ n ih =>
    simp only [memWrite]
    rw [ih _ _ (memSet_wf _ _ h) (by omega), memGet_set _ _ _ h, if_neg (by omega)]

theorem memRead_congr {m m' : List Host.Cell} (a n : Nat) (h : ∀ b, a ≤ b → b < a + n → memGet m b = memGet m' b) :
    memRead m a n = memRead m' a n := by
  induction n generalizing a with
  | zero => rfl
  | succ n ih =>
    simp only [memRead]
    rw [h a (Nat.le_refl _) (by omega), ih (a + 1) fun b h1 h2 => h b (by omega) (by omega)]

/-- A read after a write of the same bytes answers the value's low bytes. -/
theorem memRead_memWrite {m : List Host.Cell} (a n v : Nat) (h : Memory.wf m = true) :
    memRead (memWrite m a n v) a n = v % 256 ^ n := by
  induction n generalizing m a v with
  | zero => simp [memRead, Nat.mod_one]
  | succ n ih =>
    simp only [memRead, memWrite]
    rw [ih _ _ (memSet_wf _ _ h), memWrite_other _ _ _ _ (memSet_wf _ _ h) (by omega), memGet_set _ _ _ h, if_pos rfl,
      BitVec.toNat_ofNat, Nat.pow_succ' (n := n), Nat.mod_mul]

/-- A read is below 256 to the number of bytes. -/
theorem memRead_lt (m : List Host.Cell) (a n : Nat) : memRead m a n < 256 ^ n := by
  induction n generalizing a with
  | zero => simp [memRead]
  | succ n ih =>
    simp only [memRead]
    have h1 := ih (a + 1)
    have h2 := (memGet m a).isLt
    rw [Nat.pow_succ]
    omega

/-! ## Writes at a place -/

@[simp] theorem State.store_mem (s : State) (a n v : Nat) : (s.store a n v).mem = memWrite s.mem a n v := rfl

/-- A write at a place keeps the canonical form. -/
theorem State.store_wf {s : State} (a n v : Nat) (h : Memory.wf s.mem = true) : Memory.wf (s.store a n v).mem = true :=
  memWrite_wf a n v h

/-- The bytes of a posted store, one by one, keep the canonical form. -/
theorem State.storeCells_wf {s : State} (pa : Nat) (l : List Host.Cell) (h : Memory.wf s.mem = true) :
    Memory.wf (s.storeCells pa l).mem = true := by
  unfold State.storeCells
  induction l generalizing s with
  | nil => exact h
  | cons c l ih => exact ih (State.store_wf _ _ _ h)

end Sys2Proof.Machine
end

