-- ==== Sys2Proof/Laws/State.lean ====
section
/-! SUPPORT. One lemma for each field and each update of the state: what an update leaves alone is the same field of the state before. -/

namespace Sys2Proof.Machine

section updates

variable (s : State) (c : Ctx) (d : BitVec 5) (t : BitVec 3) (v pc : Word) (r : VReg) (m : MReg) (b : BitVec 128) (f : VFlags) (a n w : Nat)
  (q : Queue) (p : Part)

/-! ### State.setX -/

@[simp] theorem State.setX_cx : (s.setX d v).cx = s.cx.setX d v := rfl
@[simp] theorem State.setX_others : (s.setX d v).others = s.others := rfl
@[simp] theorem State.setX_turns : (s.setX d v).turns = s.turns := rfl
@[simp] theorem State.setX_mem : (s.setX d v).mem = s.mem := rfl
@[simp] theorem State.setX_now : (s.setX d v).now = s.now := rfl
@[simp] theorem State.setX_tick : (s.setX d v).tick = s.tick := rfl
@[simp] theorem State.setX_tatp : (s.setX d v).tatp = s.tatp := rfl
@[simp] theorem State.setX_datp : (s.setX d v).datp = s.datp := rfl
@[simp] theorem State.setX_patp : (s.setX d v).patp = s.patp := rfl
@[simp] theorem State.setX_order : (s.setX d v).order = s.order := rfl
@[simp] theorem State.setX_tlb : (s.setX d v).tlb = s.tlb := rfl
@[simp] theorem State.setX_ext : (s.setX d v).ext = s.ext := rfl
@[simp] theorem State.setX_walks : (s.setX d v).walks = s.walks := rfl
@[simp] theorem State.setX_invs : (s.setX d v).invs = s.invs := rfl
@[simp] theorem State.setX_l1 : (s.setX d v).l1 = s.l1 := rfl
@[simp] theorem State.setX_slices : (s.setX d v).slices = s.slices := rfl
@[simp] theorem State.setX_icache : (s.setX d v).icache = s.icache := rfl
@[simp] theorem State.setX_ways : (s.setX d v).ways = s.ways := rfl
@[simp] theorem State.setX_regs : (s.setX d v).regs = s.regs := rfl
@[simp] theorem State.setX_parts : (s.setX d v).parts = s.parts := rfl
@[simp] theorem State.setX_qos : (s.setX d v).qos = s.qos := rfl
@[simp] theorem State.setX_queues : (s.setX d v).queues = s.queues := rfl
@[simp] theorem State.setX_kernels : (s.setX d v).kernels = s.kernels := rfl
@[simp] theorem State.setX_nodes : (s.setX d v).nodes = s.nodes := rfl
@[simp] theorem State.setX_placing : (s.setX d v).placing = s.placing := rfl
@[simp] theorem State.setX_ready : (s.setX d v).ready = s.ready := rfl
@[simp] theorem State.setX_decisions : (s.setX d v).decisions = s.decisions := rfl
@[simp] theorem State.setX_steals : (s.setX d v).steals = s.steals := rfl
@[simp] theorem State.setX_copies : (s.setX d v).copies = s.copies := rfl
@[simp] theorem State.setX_copyQueues : (s.setX d v).copyQueues = s.copyQueues := rfl
@[simp] theorem State.setX_engines : (s.setX d v).engines = s.engines := rfl
@[simp] theorem State.setX_links : (s.setX d v).links = s.links := rfl
@[simp] theorem State.setX_slots : (s.setX d v).slots = s.slots := rfl
@[simp] theorem State.setX_str : (s.setX d v).str = s.str := rfl
@[simp] theorem State.setX_asks : (s.setX d v).asks = s.asks := rfl
@[simp] theorem State.setX_stamps : (s.setX d v).stamps = s.stamps := rfl
@[simp] theorem State.setX_tokens : (s.setX d v).tokens = s.tokens := rfl
@[simp] theorem State.setX_waiters : (s.setX d v).waiters = s.waiters := rfl
@[simp] theorem State.setX_switchSlots : (s.setX d v).switchSlots = s.switchSlots := rfl
@[simp] theorem State.setX_switchBlocks : (s.setX d v).switchBlocks = s.switchBlocks := rfl
@[simp] theorem State.setX_migs : (s.setX d v).migs = s.migs := rfl
@[simp] theorem State.setX_sessions : (s.setX d v).sessions = s.sessions := rfl
@[simp] theorem State.setX_power : (s.setX d v).power = s.power := rfl
@[simp] theorem State.setX_sol : (s.setX d v).sol = s.sol := rfl
@[simp] theorem State.setX_poison : (s.setX d v).poison = s.poison := rfl
@[simp] theorem State.setX_posts : (s.setX d v).posts = s.posts := rfl
@[simp] theorem State.setX_apart : (s.setX d v).apart = s.apart := rfl
@[simp] theorem State.setX_marks : (s.setX d v).marks = s.marks := rfl

/-! ### State.setV -/

@[simp] theorem State.setV_others : (s.setV d r).others = s.others := rfl
@[simp] theorem State.setV_turns : (s.setV d r).turns = s.turns := rfl
@[simp] theorem State.setV_mem : (s.setV d r).mem = s.mem := rfl
@[simp] theorem State.setV_now : (s.setV d r).now = s.now := rfl
@[simp] theorem State.setV_tick : (s.setV d r).tick = s.tick := rfl
@[simp] theorem State.setV_tatp : (s.setV d r).tatp = s.tatp := rfl
@[simp] theorem State.setV_datp : (s.setV d r).datp = s.datp := rfl
@[simp] theorem State.setV_patp : (s.setV d r).patp = s.patp := rfl
@[simp] theorem State.setV_order : (s.setV d r).order = s.order := rfl
@[simp] theorem State.setV_tlb : (s.setV d r).tlb = s.tlb := rfl
@[simp] theorem State.setV_ext : (s.setV d r).ext = s.ext := rfl
@[simp] theorem State.setV_walks : (s.setV d r).walks = s.walks := rfl
@[simp] theorem State.setV_invs : (s.setV d r).invs = s.invs := rfl
@[simp] theorem State.setV_l1 : (s.setV d r).l1 = s.l1 := rfl
@[simp] theorem State.setV_slices : (s.setV d r).slices = s.slices := rfl
@[simp] theorem State.setV_icache : (s.setV d r).icache = s.icache := rfl
@[simp] theorem State.setV_ways : (s.setV d r).ways = s.ways := rfl
@[simp] theorem State.setV_regs : (s.setV d r).regs = s.regs := rfl
@[simp] theorem State.setV_parts : (s.setV d r).parts = s.parts := rfl
@[simp] theorem State.setV_qos : (s.setV d r).qos = s.qos := rfl
@[simp] theorem State.setV_queues : (s.setV d r).queues = s.queues := rfl
@[simp] theorem State.setV_kernels : (s.setV d r).kernels = s.kernels := rfl
@[simp] theorem State.setV_nodes : (s.setV d r).nodes = s.nodes := rfl
@[simp] theorem State.setV_placing : (s.setV d r).placing = s.placing := rfl
@[simp] theorem State.setV_ready : (s.setV d r).ready = s.ready := rfl
@[simp] theorem State.setV_decisions : (s.setV d r).decisions = s.decisions := rfl
@[simp] theorem State.setV_steals : (s.setV d r).steals = s.steals := rfl
@[simp] theorem State.setV_copies : (s.setV d r).copies = s.copies := rfl
@[simp] theorem State.setV_copyQueues : (s.setV d r).copyQueues = s.copyQueues := rfl
@[simp] theorem State.setV_engines : (s.setV d r).engines = s.engines := rfl
@[simp] theorem State.setV_links : (s.setV d r).links = s.links := rfl
@[simp] theorem State.setV_slots : (s.setV d r).slots = s.slots := rfl
@[simp] theorem State.setV_str : (s.setV d r).str = s.str := rfl
@[simp] theorem State.setV_asks : (s.setV d r).asks = s.asks := rfl
@[simp] theorem State.setV_stamps : (s.setV d r).stamps = s.stamps := rfl
@[simp] theorem State.setV_tokens : (s.setV d r).tokens = s.tokens := rfl
@[simp] theorem State.setV_waiters : (s.setV d r).waiters = s.waiters := rfl
@[simp] theorem State.setV_switchSlots : (s.setV d r).switchSlots = s.switchSlots := rfl
@[simp] theorem State.setV_switchBlocks : (s.setV d r).switchBlocks = s.switchBlocks := rfl
@[simp] theorem State.setV_migs : (s.setV d r).migs = s.migs := rfl
@[simp] theorem State.setV_sessions : (s.setV d r).sessions = s.sessions := rfl
@[simp] theorem State.setV_power : (s.setV d r).power = s.power := rfl
@[simp] theorem State.setV_sol : (s.setV d r).sol = s.sol := rfl
@[simp] theorem State.setV_poison : (s.setV d r).poison = s.poison := rfl
@[simp] theorem State.setV_posts : (s.setV d r).posts = s.posts := rfl
@[simp] theorem State.setV_apart : (s.setV d r).apart = s.apart := rfl
@[simp] theorem State.setV_marks : (s.setV d r).marks = s.marks := rfl

/-! ### State.setM -/

@[simp] theorem State.setM_others : (s.setM t m).others = s.others := rfl
@[simp] theorem State.setM_turns : (s.setM t m).turns = s.turns := rfl
@[simp] theorem State.setM_mem : (s.setM t m).mem = s.mem := rfl
@[simp] theorem State.setM_now : (s.setM t m).now = s.now := rfl
@[simp] theorem State.setM_tick : (s.setM t m).tick = s.tick := rfl
@[simp] theorem State.setM_tatp : (s.setM t m).tatp = s.tatp := rfl
@[simp] theorem State.setM_datp : (s.setM t m).datp = s.datp := rfl
@[simp] theorem State.setM_patp : (s.setM t m).patp = s.patp := rfl
@[simp] theorem State.setM_order : (s.setM t m).order = s.order := rfl
@[simp] theorem State.setM_tlb : (s.setM t m).tlb = s.tlb := rfl
@[simp] theorem State.setM_ext : (s.setM t m).ext = s.ext := rfl
@[simp] theorem State.setM_walks : (s.setM t m).walks = s.walks := rfl
@[simp] theorem State.setM_invs : (s.setM t m).invs = s.invs := rfl
@[simp] theorem State.setM_l1 : (s.setM t m).l1 = s.l1 := rfl
@[simp] theorem State.setM_slices : (s.setM t m).slices = s.slices := rfl
@[simp] theorem State.setM_icache : (s.setM t m).icache = s.icache := rfl
@[simp] theorem State.setM_ways : (s.setM t m).ways = s.ways := rfl
@[simp] theorem State.setM_regs : (s.setM t m).regs = s.regs := rfl
@[simp] theorem State.setM_parts : (s.setM t m).parts = s.parts := rfl
@[simp] theorem State.setM_qos : (s.setM t m).qos = s.qos := rfl
@[simp] theorem State.setM_queues : (s.setM t m).queues = s.queues := rfl
@[simp] theorem State.setM_kernels : (s.setM t m).kernels = s.kernels := rfl
@[simp] theorem State.setM_nodes : (s.setM t m).nodes = s.nodes := rfl
@[simp] theorem State.setM_placing : (s.setM t m).placing = s.placing := rfl
@[simp] theorem State.setM_ready : (s.setM t m).ready = s.ready := rfl
@[simp] theorem State.setM_decisions : (s.setM t m).decisions = s.decisions := rfl
@[simp] theorem State.setM_steals : (s.setM t m).steals = s.steals := rfl
@[simp] theorem State.setM_copies : (s.setM t m).copies = s.copies := rfl
@[simp] theorem State.setM_copyQueues : (s.setM t m).copyQueues = s.copyQueues := rfl
@[simp] theorem State.setM_engines : (s.setM t m).engines = s.engines := rfl
@[simp] theorem State.setM_links : (s.setM t m).links = s.links := rfl
@[simp] theorem State.setM_slots : (s.setM t m).slots = s.slots := rfl
@[simp] theorem State.setM_str : (s.setM t m).str = s.str := rfl
@[simp] theorem State.setM_asks : (s.setM t m).asks = s.asks := rfl
@[simp] theorem State.setM_stamps : (s.setM t m).stamps = s.stamps := rfl
@[simp] theorem State.setM_tokens : (s.setM t m).tokens = s.tokens := rfl
@[simp] theorem State.setM_waiters : (s.setM t m).waiters = s.waiters := rfl
@[simp] theorem State.setM_switchSlots : (s.setM t m).switchSlots = s.switchSlots := rfl
@[simp] theorem State.setM_switchBlocks : (s.setM t m).switchBlocks = s.switchBlocks := rfl
@[simp] theorem State.setM_migs : (s.setM t m).migs = s.migs := rfl
@[simp] theorem State.setM_sessions : (s.setM t m).sessions = s.sessions := rfl
@[simp] theorem State.setM_power : (s.setM t m).power = s.power := rfl
@[simp] theorem State.setM_sol : (s.setM t m).sol = s.sol := rfl
@[simp] theorem State.setM_poison : (s.setM t m).poison = s.poison := rfl
@[simp] theorem State.setM_posts : (s.setM t m).posts = s.posts := rfl
@[simp] theorem State.setM_apart : (s.setM t m).apart = s.apart := rfl
@[simp] theorem State.setM_marks : (s.setM t m).marks = s.marks := rfl

/-! ### State.addFlags -/

@[simp] theorem State.addFlags_others : (s.addFlags f).others = s.others := rfl
@[simp] theorem State.addFlags_turns : (s.addFlags f).turns = s.turns := rfl
@[simp] theorem State.addFlags_mem : (s.addFlags f).mem = s.mem := rfl
@[simp] theorem State.addFlags_now : (s.addFlags f).now = s.now := rfl
@[simp] theorem State.addFlags_tick : (s.addFlags f).tick = s.tick := rfl
@[simp] theorem State.addFlags_tatp : (s.addFlags f).tatp = s.tatp := rfl
@[simp] theorem State.addFlags_datp : (s.addFlags f).datp = s.datp := rfl
@[simp] theorem State.addFlags_patp : (s.addFlags f).patp = s.patp := rfl
@[simp] theorem State.addFlags_order : (s.addFlags f).order = s.order := rfl
@[simp] theorem State.addFlags_tlb : (s.addFlags f).tlb = s.tlb := rfl
@[simp] theorem State.addFlags_ext : (s.addFlags f).ext = s.ext := rfl
@[simp] theorem State.addFlags_walks : (s.addFlags f).walks = s.walks := rfl
@[simp] theorem State.addFlags_invs : (s.addFlags f).invs = s.invs := rfl
@[simp] theorem State.addFlags_l1 : (s.addFlags f).l1 = s.l1 := rfl
@[simp] theorem State.addFlags_slices : (s.addFlags f).slices = s.slices := rfl
@[simp] theorem State.addFlags_icache : (s.addFlags f).icache = s.icache := rfl
@[simp] theorem State.addFlags_ways : (s.addFlags f).ways = s.ways := rfl
@[simp] theorem State.addFlags_regs : (s.addFlags f).regs = s.regs := rfl
@[simp] theorem State.addFlags_parts : (s.addFlags f).parts = s.parts := rfl
@[simp] theorem State.addFlags_qos : (s.addFlags f).qos = s.qos := rfl
@[simp] theorem State.addFlags_queues : (s.addFlags f).queues = s.queues := rfl
@[simp] theorem State.addFlags_kernels : (s.addFlags f).kernels = s.kernels := rfl
@[simp] theorem State.addFlags_nodes : (s.addFlags f).nodes = s.nodes := rfl
@[simp] theorem State.addFlags_placing : (s.addFlags f).placing = s.placing := rfl
@[simp] theorem State.addFlags_ready : (s.addFlags f).ready = s.ready := rfl
@[simp] theorem State.addFlags_decisions : (s.addFlags f).decisions = s.decisions := rfl
@[simp] theorem State.addFlags_steals : (s.addFlags f).steals = s.steals := rfl
@[simp] theorem State.addFlags_copies : (s.addFlags f).copies = s.copies := rfl
@[simp] theorem State.addFlags_copyQueues : (s.addFlags f).copyQueues = s.copyQueues := rfl
@[simp] theorem State.addFlags_engines : (s.addFlags f).engines = s.engines := rfl
@[simp] theorem State.addFlags_links : (s.addFlags f).links = s.links := rfl
@[simp] theorem State.addFlags_slots : (s.addFlags f).slots = s.slots := rfl
@[simp] theorem State.addFlags_str : (s.addFlags f).str = s.str := rfl
@[simp] theorem State.addFlags_asks : (s.addFlags f).asks = s.asks := rfl
@[simp] theorem State.addFlags_stamps : (s.addFlags f).stamps = s.stamps := rfl
@[simp] theorem State.addFlags_tokens : (s.addFlags f).tokens = s.tokens := rfl
@[simp] theorem State.addFlags_waiters : (s.addFlags f).waiters = s.waiters := rfl
@[simp] theorem State.addFlags_switchSlots : (s.addFlags f).switchSlots = s.switchSlots := rfl
@[simp] theorem State.addFlags_switchBlocks : (s.addFlags f).switchBlocks = s.switchBlocks := rfl
@[simp] theorem State.addFlags_migs : (s.addFlags f).migs = s.migs := rfl
@[simp] theorem State.addFlags_sessions : (s.addFlags f).sessions = s.sessions := rfl
@[simp] theorem State.addFlags_power : (s.addFlags f).power = s.power := rfl
@[simp] theorem State.addFlags_sol : (s.addFlags f).sol = s.sol := rfl
@[simp] theorem State.addFlags_poison : (s.addFlags f).poison = s.poison := rfl
@[simp] theorem State.addFlags_posts : (s.addFlags f).posts = s.posts := rfl
@[simp] theorem State.addFlags_apart : (s.addFlags f).apart = s.apart := rfl
@[simp] theorem State.addFlags_marks : (s.addFlags f).marks = s.marks := rfl

/-! ### State.advance -/

@[simp] theorem State.advance_cx : (s.advance).cx = s.cx.advance := rfl
@[simp] theorem State.advance_others : (s.advance).others = s.others := rfl
@[simp] theorem State.advance_turns : (s.advance).turns = s.turns := rfl
@[simp] theorem State.advance_mem : (s.advance).mem = s.mem := rfl
@[simp] theorem State.advance_now : (s.advance).now = s.now := rfl
@[simp] theorem State.advance_tick : (s.advance).tick = s.tick := rfl
@[simp] theorem State.advance_tatp : (s.advance).tatp = s.tatp := rfl
@[simp] theorem State.advance_datp : (s.advance).datp = s.datp := rfl
@[simp] theorem State.advance_patp : (s.advance).patp = s.patp := rfl
@[simp] theorem State.advance_order : (s.advance).order = s.order := rfl
@[simp] theorem State.advance_tlb : (s.advance).tlb = s.tlb := rfl
@[simp] theorem State.advance_ext : (s.advance).ext = s.ext := rfl
@[simp] theorem State.advance_walks : (s.advance).walks = s.walks := rfl
@[simp] theorem State.advance_invs : (s.advance).invs = s.invs := rfl
@[simp] theorem State.advance_l1 : (s.advance).l1 = s.l1 := rfl
@[simp] theorem State.advance_slices : (s.advance).slices = s.slices := rfl
@[simp] theorem State.advance_icache : (s.advance).icache = s.icache := rfl
@[simp] theorem State.advance_ways : (s.advance).ways = s.ways := rfl
@[simp] theorem State.advance_regs : (s.advance).regs = s.regs := rfl
@[simp] theorem State.advance_parts : (s.advance).parts = s.parts := rfl
@[simp] theorem State.advance_qos : (s.advance).qos = s.qos := rfl
@[simp] theorem State.advance_queues : (s.advance).queues = s.queues := rfl
@[simp] theorem State.advance_kernels : (s.advance).kernels = s.kernels := rfl
@[simp] theorem State.advance_nodes : (s.advance).nodes = s.nodes := rfl
@[simp] theorem State.advance_placing : (s.advance).placing = s.placing := rfl
@[simp] theorem State.advance_ready : (s.advance).ready = s.ready := rfl
@[simp] theorem State.advance_decisions : (s.advance).decisions = s.decisions := rfl
@[simp] theorem State.advance_steals : (s.advance).steals = s.steals := rfl
@[simp] theorem State.advance_copies : (s.advance).copies = s.copies := rfl
@[simp] theorem State.advance_copyQueues : (s.advance).copyQueues = s.copyQueues := rfl
@[simp] theorem State.advance_engines : (s.advance).engines = s.engines := rfl
@[simp] theorem State.advance_links : (s.advance).links = s.links := rfl
@[simp] theorem State.advance_slots : (s.advance).slots = s.slots := rfl
@[simp] theorem State.advance_str : (s.advance).str = s.str := rfl
@[simp] theorem State.advance_asks : (s.advance).asks = s.asks := rfl
@[simp] theorem State.advance_stamps : (s.advance).stamps = s.stamps := rfl
@[simp] theorem State.advance_tokens : (s.advance).tokens = s.tokens := rfl
@[simp] theorem State.advance_waiters : (s.advance).waiters = s.waiters := rfl
@[simp] theorem State.advance_switchSlots : (s.advance).switchSlots = s.switchSlots := rfl
@[simp] theorem State.advance_switchBlocks : (s.advance).switchBlocks = s.switchBlocks := rfl
@[simp] theorem State.advance_migs : (s.advance).migs = s.migs := rfl
@[simp] theorem State.advance_sessions : (s.advance).sessions = s.sessions := rfl
@[simp] theorem State.advance_power : (s.advance).power = s.power := rfl
@[simp] theorem State.advance_sol : (s.advance).sol = s.sol := rfl
@[simp] theorem State.advance_poison : (s.advance).poison = s.poison := rfl
@[simp] theorem State.advance_posts : (s.advance).posts = s.posts := rfl
@[simp] theorem State.advance_apart : (s.advance).apart = s.apart := rfl
@[simp] theorem State.advance_marks : (s.advance).marks = s.marks := rfl

/-! ### State.advanceV -/

@[simp] theorem State.advanceV_cx : (s.advanceV).cx = s.cx.advance.count 3 1 := rfl
@[simp] theorem State.advanceV_others : (s.advanceV).others = s.others := rfl
@[simp] theorem State.advanceV_turns : (s.advanceV).turns = s.turns := rfl
@[simp] theorem State.advanceV_mem : (s.advanceV).mem = s.mem := rfl
@[simp] theorem State.advanceV_now : (s.advanceV).now = s.now := rfl
@[simp] theorem State.advanceV_tick : (s.advanceV).tick = s.tick := rfl
@[simp] theorem State.advanceV_tatp : (s.advanceV).tatp = s.tatp := rfl
@[simp] theorem State.advanceV_datp : (s.advanceV).datp = s.datp := rfl
@[simp] theorem State.advanceV_patp : (s.advanceV).patp = s.patp := rfl
@[simp] theorem State.advanceV_order : (s.advanceV).order = s.order := rfl
@[simp] theorem State.advanceV_tlb : (s.advanceV).tlb = s.tlb := rfl
@[simp] theorem State.advanceV_ext : (s.advanceV).ext = s.ext := rfl
@[simp] theorem State.advanceV_walks : (s.advanceV).walks = s.walks := rfl
@[simp] theorem State.advanceV_invs : (s.advanceV).invs = s.invs := rfl
@[simp] theorem State.advanceV_l1 : (s.advanceV).l1 = s.l1 := rfl
@[simp] theorem State.advanceV_slices : (s.advanceV).slices = s.slices := rfl
@[simp] theorem State.advanceV_icache : (s.advanceV).icache = s.icache := rfl
@[simp] theorem State.advanceV_ways : (s.advanceV).ways = s.ways := rfl
@[simp] theorem State.advanceV_regs : (s.advanceV).regs = s.regs := rfl
@[simp] theorem State.advanceV_parts : (s.advanceV).parts = s.parts := rfl
@[simp] theorem State.advanceV_qos : (s.advanceV).qos = s.qos := rfl
@[simp] theorem State.advanceV_queues : (s.advanceV).queues = s.queues := rfl
@[simp] theorem State.advanceV_kernels : (s.advanceV).kernels = s.kernels := rfl
@[simp] theorem State.advanceV_nodes : (s.advanceV).nodes = s.nodes := rfl
@[simp] theorem State.advanceV_placing : (s.advanceV).placing = s.placing := rfl
@[simp] theorem State.advanceV_ready : (s.advanceV).ready = s.ready := rfl
@[simp] theorem State.advanceV_decisions : (s.advanceV).decisions = s.decisions := rfl
@[simp] theorem State.advanceV_steals : (s.advanceV).steals = s.steals := rfl
@[simp] theorem State.advanceV_copies : (s.advanceV).copies = s.copies := rfl
@[simp] theorem State.advanceV_copyQueues : (s.advanceV).copyQueues = s.copyQueues := rfl
@[simp] theorem State.advanceV_engines : (s.advanceV).engines = s.engines := rfl
@[simp] theorem State.advanceV_links : (s.advanceV).links = s.links := rfl
@[simp] theorem State.advanceV_slots : (s.advanceV).slots = s.slots := rfl
@[simp] theorem State.advanceV_str : (s.advanceV).str = s.str := rfl
@[simp] theorem State.advanceV_asks : (s.advanceV).asks = s.asks := rfl
@[simp] theorem State.advanceV_stamps : (s.advanceV).stamps = s.stamps := rfl
@[simp] theorem State.advanceV_tokens : (s.advanceV).tokens = s.tokens := rfl
@[simp] theorem State.advanceV_waiters : (s.advanceV).waiters = s.waiters := rfl
@[simp] theorem State.advanceV_switchSlots : (s.advanceV).switchSlots = s.switchSlots := rfl
@[simp] theorem State.advanceV_switchBlocks : (s.advanceV).switchBlocks = s.switchBlocks := rfl
@[simp] theorem State.advanceV_migs : (s.advanceV).migs = s.migs := rfl
@[simp] theorem State.advanceV_sessions : (s.advanceV).sessions = s.sessions := rfl
@[simp] theorem State.advanceV_power : (s.advanceV).power = s.power := rfl
@[simp] theorem State.advanceV_sol : (s.advanceV).sol = s.sol := rfl
@[simp] theorem State.advanceV_poison : (s.advanceV).poison = s.poison := rfl
@[simp] theorem State.advanceV_posts : (s.advanceV).posts = s.posts := rfl
@[simp] theorem State.advanceV_apart : (s.advanceV).apart = s.apart := rfl
@[simp] theorem State.advanceV_marks : (s.advanceV).marks = s.marks := rfl

/-! ### State.jump -/

@[simp] theorem State.jump_others : (s.jump pc).others = s.others := rfl
@[simp] theorem State.jump_turns : (s.jump pc).turns = s.turns := rfl
@[simp] theorem State.jump_mem : (s.jump pc).mem = s.mem := rfl
@[simp] theorem State.jump_now : (s.jump pc).now = s.now := rfl
@[simp] theorem State.jump_tick : (s.jump pc).tick = s.tick := rfl
@[simp] theorem State.jump_tatp : (s.jump pc).tatp = s.tatp := rfl
@[simp] theorem State.jump_datp : (s.jump pc).datp = s.datp := rfl
@[simp] theorem State.jump_patp : (s.jump pc).patp = s.patp := rfl
@[simp] theorem State.jump_order : (s.jump pc).order = s.order := rfl
@[simp] theorem State.jump_tlb : (s.jump pc).tlb = s.tlb := rfl
@[simp] theorem State.jump_ext : (s.jump pc).ext = s.ext := rfl
@[simp] theorem State.jump_walks : (s.jump pc).walks = s.walks := rfl
@[simp] theorem State.jump_invs : (s.jump pc).invs = s.invs := rfl
@[simp] theorem State.jump_l1 : (s.jump pc).l1 = s.l1 := rfl
@[simp] theorem State.jump_slices : (s.jump pc).slices = s.slices := rfl
@[simp] theorem State.jump_icache : (s.jump pc).icache = s.icache := rfl
@[simp] theorem State.jump_ways : (s.jump pc).ways = s.ways := rfl
@[simp] theorem State.jump_regs : (s.jump pc).regs = s.regs := rfl
@[simp] theorem State.jump_parts : (s.jump pc).parts = s.parts := rfl
@[simp] theorem State.jump_qos : (s.jump pc).qos = s.qos := rfl
@[simp] theorem State.jump_queues : (s.jump pc).queues = s.queues := rfl
@[simp] theorem State.jump_kernels : (s.jump pc).kernels = s.kernels := rfl
@[simp] theorem State.jump_nodes : (s.jump pc).nodes = s.nodes := rfl
@[simp] theorem State.jump_placing : (s.jump pc).placing = s.placing := rfl
@[simp] theorem State.jump_ready : (s.jump pc).ready = s.ready := rfl
@[simp] theorem State.jump_decisions : (s.jump pc).decisions = s.decisions := rfl
@[simp] theorem State.jump_steals : (s.jump pc).steals = s.steals := rfl
@[simp] theorem State.jump_copies : (s.jump pc).copies = s.copies := rfl
@[simp] theorem State.jump_copyQueues : (s.jump pc).copyQueues = s.copyQueues := rfl
@[simp] theorem State.jump_engines : (s.jump pc).engines = s.engines := rfl
@[simp] theorem State.jump_links : (s.jump pc).links = s.links := rfl
@[simp] theorem State.jump_slots : (s.jump pc).slots = s.slots := rfl
@[simp] theorem State.jump_str : (s.jump pc).str = s.str := rfl
@[simp] theorem State.jump_asks : (s.jump pc).asks = s.asks := rfl
@[simp] theorem State.jump_stamps : (s.jump pc).stamps = s.stamps := rfl
@[simp] theorem State.jump_tokens : (s.jump pc).tokens = s.tokens := rfl
@[simp] theorem State.jump_waiters : (s.jump pc).waiters = s.waiters := rfl
@[simp] theorem State.jump_switchSlots : (s.jump pc).switchSlots = s.switchSlots := rfl
@[simp] theorem State.jump_switchBlocks : (s.jump pc).switchBlocks = s.switchBlocks := rfl
@[simp] theorem State.jump_migs : (s.jump pc).migs = s.migs := rfl
@[simp] theorem State.jump_sessions : (s.jump pc).sessions = s.sessions := rfl
@[simp] theorem State.jump_power : (s.jump pc).power = s.power := rfl
@[simp] theorem State.jump_sol : (s.jump pc).sol = s.sol := rfl
@[simp] theorem State.jump_poison : (s.jump pc).poison = s.poison := rfl
@[simp] theorem State.jump_posts : (s.jump pc).posts = s.posts := rfl
@[simp] theorem State.jump_apart : (s.jump pc).apart = s.apart := rfl
@[simp] theorem State.jump_marks : (s.jump pc).marks = s.marks := rfl

/-! ### State.result -/

@[simp] theorem State.result_cx : (s.result d v).cx = (s.cx.setX d v).advance := rfl
@[simp] theorem State.result_others : (s.result d v).others = s.others := rfl
@[simp] theorem State.result_turns : (s.result d v).turns = s.turns := rfl
@[simp] theorem State.result_mem : (s.result d v).mem = s.mem := rfl
@[simp] theorem State.result_now : (s.result d v).now = s.now := rfl
@[simp] theorem State.result_tick : (s.result d v).tick = s.tick := rfl
@[simp] theorem State.result_tatp : (s.result d v).tatp = s.tatp := rfl
@[simp] theorem State.result_datp : (s.result d v).datp = s.datp := rfl
@[simp] theorem State.result_patp : (s.result d v).patp = s.patp := rfl
@[simp] theorem State.result_order : (s.result d v).order = s.order := rfl
@[simp] theorem State.result_tlb : (s.result d v).tlb = s.tlb := rfl
@[simp] theorem State.result_ext : (s.result d v).ext = s.ext := rfl
@[simp] theorem State.result_walks : (s.result d v).walks = s.walks := rfl
@[simp] theorem State.result_invs : (s.result d v).invs = s.invs := rfl
@[simp] theorem State.result_l1 : (s.result d v).l1 = s.l1 := rfl
@[simp] theorem State.result_slices : (s.result d v).slices = s.slices := rfl
@[simp] theorem State.result_icache : (s.result d v).icache = s.icache := rfl
@[simp] theorem State.result_ways : (s.result d v).ways = s.ways := rfl
@[simp] theorem State.result_regs : (s.result d v).regs = s.regs := rfl
@[simp] theorem State.result_parts : (s.result d v).parts = s.parts := rfl
@[simp] theorem State.result_qos : (s.result d v).qos = s.qos := rfl
@[simp] theorem State.result_queues : (s.result d v).queues = s.queues := rfl
@[simp] theorem State.result_kernels : (s.result d v).kernels = s.kernels := rfl
@[simp] theorem State.result_nodes : (s.result d v).nodes = s.nodes := rfl
@[simp] theorem State.result_placing : (s.result d v).placing = s.placing := rfl
@[simp] theorem State.result_ready : (s.result d v).ready = s.ready := rfl
@[simp] theorem State.result_decisions : (s.result d v).decisions = s.decisions := rfl
@[simp] theorem State.result_steals : (s.result d v).steals = s.steals := rfl
@[simp] theorem State.result_copies : (s.result d v).copies = s.copies := rfl
@[simp] theorem State.result_copyQueues : (s.result d v).copyQueues = s.copyQueues := rfl
@[simp] theorem State.result_engines : (s.result d v).engines = s.engines := rfl
@[simp] theorem State.result_links : (s.result d v).links = s.links := rfl
@[simp] theorem State.result_slots : (s.result d v).slots = s.slots := rfl
@[simp] theorem State.result_str : (s.result d v).str = s.str := rfl
@[simp] theorem State.result_asks : (s.result d v).asks = s.asks := rfl
@[simp] theorem State.result_stamps : (s.result d v).stamps = s.stamps := rfl
@[simp] theorem State.result_tokens : (s.result d v).tokens = s.tokens := rfl
@[simp] theorem State.result_waiters : (s.result d v).waiters = s.waiters := rfl
@[simp] theorem State.result_switchSlots : (s.result d v).switchSlots = s.switchSlots := rfl
@[simp] theorem State.result_switchBlocks : (s.result d v).switchBlocks = s.switchBlocks := rfl
@[simp] theorem State.result_migs : (s.result d v).migs = s.migs := rfl
@[simp] theorem State.result_sessions : (s.result d v).sessions = s.sessions := rfl
@[simp] theorem State.result_power : (s.result d v).power = s.power := rfl
@[simp] theorem State.result_sol : (s.result d v).sol = s.sol := rfl
@[simp] theorem State.result_poison : (s.result d v).poison = s.poison := rfl
@[simp] theorem State.result_posts : (s.result d v).posts = s.posts := rfl
@[simp] theorem State.result_apart : (s.result d v).apart = s.apart := rfl
@[simp] theorem State.result_marks : (s.result d v).marks = s.marks := rfl

/-! ### State.setP -/

@[simp] theorem State.setP_others : (s.setP t b).others = s.others := by unfold State.setP; split <;> rfl
@[simp] theorem State.setP_turns : (s.setP t b).turns = s.turns := by unfold State.setP; split <;> rfl
@[simp] theorem State.setP_mem : (s.setP t b).mem = s.mem := by unfold State.setP; split <;> rfl
@[simp] theorem State.setP_now : (s.setP t b).now = s.now := by unfold State.setP; split <;> rfl
@[simp] theorem State.setP_tick : (s.setP t b).tick = s.tick := by unfold State.setP; split <;> rfl
@[simp] theorem State.setP_tatp : (s.setP t b).tatp = s.tatp := by unfold State.setP; split <;> rfl
@[simp] theorem State.setP_datp : (s.setP t b).datp = s.datp := by unfold State.setP; split <;> rfl
@[simp] theorem State.setP_patp : (s.setP t b).patp = s.patp := by unfold State.setP; split <;> rfl
@[simp] theorem State.setP_order : (s.setP t b).order = s.order := by unfold State.setP; split <;> rfl
@[simp] theorem State.setP_tlb : (s.setP t b).tlb = s.tlb := by unfold State.setP; split <;> rfl
@[simp] theorem State.setP_ext : (s.setP t b).ext = s.ext := by unfold State.setP; split <;> rfl
@[simp] theorem State.setP_walks : (s.setP t b).walks = s.walks := by unfold State.setP; split <;> rfl
@[simp] theorem State.setP_invs : (s.setP t b).invs = s.invs := by unfold State.setP; split <;> rfl
@[simp] theorem State.setP_l1 : (s.setP t b).l1 = s.l1 := by unfold State.setP; split <;> rfl
@[simp] theorem State.setP_slices : (s.setP t b).slices = s.slices := by unfold State.setP; split <;> rfl
@[simp] theorem State.setP_icache : (s.setP t b).icache = s.icache := by unfold State.setP; split <;> rfl
@[simp] theorem State.setP_ways : (s.setP t b).ways = s.ways := by unfold State.setP; split <;> rfl
@[simp] theorem State.setP_regs : (s.setP t b).regs = s.regs := by unfold State.setP; split <;> rfl
@[simp] theorem State.setP_parts : (s.setP t b).parts = s.parts := by unfold State.setP; split <;> rfl
@[simp] theorem State.setP_qos : (s.setP t b).qos = s.qos := by unfold State.setP; split <;> rfl
@[simp] theorem State.setP_queues : (s.setP t b).queues = s.queues := by unfold State.setP; split <;> rfl
@[simp] theorem State.setP_kernels : (s.setP t b).kernels = s.kernels := by unfold State.setP; split <;> rfl
@[simp] theorem State.setP_nodes : (s.setP t b).nodes = s.nodes := by unfold State.setP; split <;> rfl
@[simp] theorem State.setP_placing : (s.setP t b).placing = s.placing := by unfold State.setP; split <;> rfl
@[simp] theorem State.setP_ready : (s.setP t b).ready = s.ready := by unfold State.setP; split <;> rfl
@[simp] theorem State.setP_decisions : (s.setP t b).decisions = s.decisions := by unfold State.setP; split <;> rfl
@[simp] theorem State.setP_steals : (s.setP t b).steals = s.steals := by unfold State.setP; split <;> rfl
@[simp] theorem State.setP_copies : (s.setP t b).copies = s.copies := by unfold State.setP; split <;> rfl
@[simp] theorem State.setP_copyQueues : (s.setP t b).copyQueues = s.copyQueues := by unfold State.setP; split <;> rfl
@[simp] theorem State.setP_engines : (s.setP t b).engines = s.engines := by unfold State.setP; split <;> rfl
@[simp] theorem State.setP_links : (s.setP t b).links = s.links := by unfold State.setP; split <;> rfl
@[simp] theorem State.setP_slots : (s.setP t b).slots = s.slots := by unfold State.setP; split <;> rfl
@[simp] theorem State.setP_str : (s.setP t b).str = s.str := by unfold State.setP; split <;> rfl
@[simp] theorem State.setP_asks : (s.setP t b).asks = s.asks := by unfold State.setP; split <;> rfl
@[simp] theorem State.setP_stamps : (s.setP t b).stamps = s.stamps := by unfold State.setP; split <;> rfl
@[simp] theorem State.setP_tokens : (s.setP t b).tokens = s.tokens := by unfold State.setP; split <;> rfl
@[simp] theorem State.setP_waiters : (s.setP t b).waiters = s.waiters := by unfold State.setP; split <;> rfl
@[simp] theorem State.setP_switchSlots : (s.setP t b).switchSlots = s.switchSlots := by unfold State.setP; split <;> rfl
@[simp] theorem State.setP_switchBlocks : (s.setP t b).switchBlocks = s.switchBlocks := by unfold State.setP; split <;> rfl
@[simp] theorem State.setP_migs : (s.setP t b).migs = s.migs := by unfold State.setP; split <;> rfl
@[simp] theorem State.setP_sessions : (s.setP t b).sessions = s.sessions := by unfold State.setP; split <;> rfl
@[simp] theorem State.setP_power : (s.setP t b).power = s.power := by unfold State.setP; split <;> rfl
@[simp] theorem State.setP_sol : (s.setP t b).sol = s.sol := by unfold State.setP; split <;> rfl
@[simp] theorem State.setP_poison : (s.setP t b).poison = s.poison := by unfold State.setP; split <;> rfl
@[simp] theorem State.setP_posts : (s.setP t b).posts = s.posts := by unfold State.setP; split <;> rfl
@[simp] theorem State.setP_apart : (s.setP t b).apart = s.apart := by unfold State.setP; split <;> rfl
@[simp] theorem State.setP_marks : (s.setP t b).marks = s.marks := by unfold State.setP; split <;> rfl

/-! ### State.store -/

@[simp] theorem State.store_turns : (s.store a n w).turns = s.turns := rfl
@[simp] theorem State.store_now : (s.store a n w).now = s.now := rfl
@[simp] theorem State.store_tick : (s.store a n w).tick = s.tick := rfl
@[simp] theorem State.store_tatp : (s.store a n w).tatp = s.tatp := rfl
@[simp] theorem State.store_datp : (s.store a n w).datp = s.datp := rfl
@[simp] theorem State.store_patp : (s.store a n w).patp = s.patp := rfl
@[simp] theorem State.store_order : (s.store a n w).order = s.order := rfl
@[simp] theorem State.store_tlb : (s.store a n w).tlb = s.tlb := rfl
@[simp] theorem State.store_ext : (s.store a n w).ext = s.ext := rfl
@[simp] theorem State.store_walks : (s.store a n w).walks = s.walks := rfl
@[simp] theorem State.store_invs : (s.store a n w).invs = s.invs := rfl
@[simp] theorem State.store_l1 : (s.store a n w).l1 = s.l1 := rfl
@[simp] theorem State.store_icache : (s.store a n w).icache = s.icache := rfl
@[simp] theorem State.store_ways : (s.store a n w).ways = s.ways := rfl
@[simp] theorem State.store_regs : (s.store a n w).regs = s.regs := rfl
@[simp] theorem State.store_parts : (s.store a n w).parts = s.parts := rfl
@[simp] theorem State.store_qos : (s.store a n w).qos = s.qos := rfl
@[simp] theorem State.store_queues : (s.store a n w).queues = s.queues := rfl
@[simp] theorem State.store_kernels : (s.store a n w).kernels = s.kernels := rfl
@[simp] theorem State.store_nodes : (s.store a n w).nodes = s.nodes := rfl
@[simp] theorem State.store_placing : (s.store a n w).placing = s.placing := rfl
@[simp] theorem State.store_ready : (s.store a n w).ready = s.ready := rfl
@[simp] theorem State.store_decisions : (s.store a n w).decisions = s.decisions := rfl
@[simp] theorem State.store_steals : (s.store a n w).steals = s.steals := rfl
@[simp] theorem State.store_copies : (s.store a n w).copies = s.copies := rfl
@[simp] theorem State.store_copyQueues : (s.store a n w).copyQueues = s.copyQueues := rfl
@[simp] theorem State.store_engines : (s.store a n w).engines = s.engines := rfl
@[simp] theorem State.store_links : (s.store a n w).links = s.links := rfl
@[simp] theorem State.store_slots : (s.store a n w).slots = s.slots := rfl
@[simp] theorem State.store_str : (s.store a n w).str = s.str := rfl
@[simp] theorem State.store_asks : (s.store a n w).asks = s.asks := rfl
@[simp] theorem State.store_stamps : (s.store a n w).stamps = s.stamps := rfl
@[simp] theorem State.store_tokens : (s.store a n w).tokens = s.tokens := rfl
@[simp] theorem State.store_waiters : (s.store a n w).waiters = s.waiters := rfl
@[simp] theorem State.store_switchSlots : (s.store a n w).switchSlots = s.switchSlots := rfl
@[simp] theorem State.store_switchBlocks : (s.store a n w).switchBlocks = s.switchBlocks := rfl
@[simp] theorem State.store_migs : (s.store a n w).migs = s.migs := rfl
@[simp] theorem State.store_sessions : (s.store a n w).sessions = s.sessions := rfl
@[simp] theorem State.store_power : (s.store a n w).power = s.power := rfl
@[simp] theorem State.store_sol : (s.store a n w).sol = s.sol := rfl
@[simp] theorem State.store_poison : (s.store a n w).poison = s.poison := rfl
@[simp] theorem State.store_posts : (s.store a n w).posts = s.posts := rfl
@[simp] theorem State.store_apart : (s.store a n w).apart = s.apart := rfl
@[simp] theorem State.store_marks : (s.store a n w).marks = s.marks := rfl

/-! ### State.setReg -/

@[simp] theorem State.setReg_cx : (s.setReg a v).cx = s.cx := rfl
@[simp] theorem State.setReg_others : (s.setReg a v).others = s.others := rfl
@[simp] theorem State.setReg_turns : (s.setReg a v).turns = s.turns := rfl
@[simp] theorem State.setReg_mem : (s.setReg a v).mem = s.mem := rfl
@[simp] theorem State.setReg_now : (s.setReg a v).now = s.now := rfl
@[simp] theorem State.setReg_tick : (s.setReg a v).tick = s.tick := rfl
@[simp] theorem State.setReg_tatp : (s.setReg a v).tatp = s.tatp := rfl
@[simp] theorem State.setReg_datp : (s.setReg a v).datp = s.datp := rfl
@[simp] theorem State.setReg_patp : (s.setReg a v).patp = s.patp := rfl
@[simp] theorem State.setReg_order : (s.setReg a v).order = s.order := rfl
@[simp] theorem State.setReg_tlb : (s.setReg a v).tlb = s.tlb := rfl
@[simp] theorem State.setReg_ext : (s.setReg a v).ext = s.ext := rfl
@[simp] theorem State.setReg_walks : (s.setReg a v).walks = s.walks := rfl
@[simp] theorem State.setReg_invs : (s.setReg a v).invs = s.invs := rfl
@[simp] theorem State.setReg_l1 : (s.setReg a v).l1 = s.l1 := rfl
@[simp] theorem State.setReg_slices : (s.setReg a v).slices = s.slices := rfl
@[simp] theorem State.setReg_icache : (s.setReg a v).icache = s.icache := rfl
@[simp] theorem State.setReg_ways : (s.setReg a v).ways = s.ways := rfl
@[simp] theorem State.setReg_parts : (s.setReg a v).parts = s.parts := rfl
@[simp] theorem State.setReg_qos : (s.setReg a v).qos = s.qos := rfl
@[simp] theorem State.setReg_queues : (s.setReg a v).queues = s.queues := rfl
@[simp] theorem State.setReg_kernels : (s.setReg a v).kernels = s.kernels := rfl
@[simp] theorem State.setReg_nodes : (s.setReg a v).nodes = s.nodes := rfl
@[simp] theorem State.setReg_placing : (s.setReg a v).placing = s.placing := rfl
@[simp] theorem State.setReg_ready : (s.setReg a v).ready = s.ready := rfl
@[simp] theorem State.setReg_decisions : (s.setReg a v).decisions = s.decisions := rfl
@[simp] theorem State.setReg_steals : (s.setReg a v).steals = s.steals := rfl
@[simp] theorem State.setReg_copies : (s.setReg a v).copies = s.copies := rfl
@[simp] theorem State.setReg_copyQueues : (s.setReg a v).copyQueues = s.copyQueues := rfl
@[simp] theorem State.setReg_engines : (s.setReg a v).engines = s.engines := rfl
@[simp] theorem State.setReg_links : (s.setReg a v).links = s.links := rfl
@[simp] theorem State.setReg_slots : (s.setReg a v).slots = s.slots := rfl
@[simp] theorem State.setReg_str : (s.setReg a v).str = s.str := rfl
@[simp] theorem State.setReg_asks : (s.setReg a v).asks = s.asks := rfl
@[simp] theorem State.setReg_stamps : (s.setReg a v).stamps = s.stamps := rfl
@[simp] theorem State.setReg_tokens : (s.setReg a v).tokens = s.tokens := rfl
@[simp] theorem State.setReg_waiters : (s.setReg a v).waiters = s.waiters := rfl
@[simp] theorem State.setReg_switchSlots : (s.setReg a v).switchSlots = s.switchSlots := rfl
@[simp] theorem State.setReg_switchBlocks : (s.setReg a v).switchBlocks = s.switchBlocks := rfl
@[simp] theorem State.setReg_migs : (s.setReg a v).migs = s.migs := rfl
@[simp] theorem State.setReg_sessions : (s.setReg a v).sessions = s.sessions := rfl
@[simp] theorem State.setReg_power : (s.setReg a v).power = s.power := rfl
@[simp] theorem State.setReg_sol : (s.setReg a v).sol = s.sol := rfl
@[simp] theorem State.setReg_poison : (s.setReg a v).poison = s.poison := rfl
@[simp] theorem State.setReg_posts : (s.setReg a v).posts = s.posts := rfl
@[simp] theorem State.setReg_apart : (s.setReg a v).apart = s.apart := rfl
@[simp] theorem State.setReg_marks : (s.setReg a v).marks = s.marks := rfl

/-! ### State.setQueue -/

@[simp] theorem State.setQueue_cx : (s.setQueue q).cx = s.cx := rfl
@[simp] theorem State.setQueue_others : (s.setQueue q).others = s.others := rfl
@[simp] theorem State.setQueue_turns : (s.setQueue q).turns = s.turns := rfl
@[simp] theorem State.setQueue_mem : (s.setQueue q).mem = s.mem := rfl
@[simp] theorem State.setQueue_now : (s.setQueue q).now = s.now := rfl
@[simp] theorem State.setQueue_tick : (s.setQueue q).tick = s.tick := rfl
@[simp] theorem State.setQueue_tatp : (s.setQueue q).tatp = s.tatp := rfl
@[simp] theorem State.setQueue_datp : (s.setQueue q).datp = s.datp := rfl
@[simp] theorem State.setQueue_patp : (s.setQueue q).patp = s.patp := rfl
@[simp] theorem State.setQueue_order : (s.setQueue q).order = s.order := rfl
@[simp] theorem State.setQueue_tlb : (s.setQueue q).tlb = s.tlb := rfl
@[simp] theorem State.setQueue_ext : (s.setQueue q).ext = s.ext := rfl
@[simp] theorem State.setQueue_walks : (s.setQueue q).walks = s.walks := rfl
@[simp] theorem State.setQueue_invs : (s.setQueue q).invs = s.invs := rfl
@[simp] theorem State.setQueue_l1 : (s.setQueue q).l1 = s.l1 := rfl
@[simp] theorem State.setQueue_slices : (s.setQueue q).slices = s.slices := rfl
@[simp] theorem State.setQueue_icache : (s.setQueue q).icache = s.icache := rfl
@[simp] theorem State.setQueue_ways : (s.setQueue q).ways = s.ways := rfl
@[simp] theorem State.setQueue_regs : (s.setQueue q).regs = s.regs := rfl
@[simp] theorem State.setQueue_parts : (s.setQueue q).parts = s.parts := rfl
@[simp] theorem State.setQueue_qos : (s.setQueue q).qos = s.qos := rfl
@[simp] theorem State.setQueue_kernels : (s.setQueue q).kernels = s.kernels := rfl
@[simp] theorem State.setQueue_nodes : (s.setQueue q).nodes = s.nodes := rfl
@[simp] theorem State.setQueue_placing : (s.setQueue q).placing = s.placing := rfl
@[simp] theorem State.setQueue_ready : (s.setQueue q).ready = s.ready := rfl
@[simp] theorem State.setQueue_decisions : (s.setQueue q).decisions = s.decisions := rfl
@[simp] theorem State.setQueue_steals : (s.setQueue q).steals = s.steals := rfl
@[simp] theorem State.setQueue_copies : (s.setQueue q).copies = s.copies := rfl
@[simp] theorem State.setQueue_copyQueues : (s.setQueue q).copyQueues = s.copyQueues := rfl
@[simp] theorem State.setQueue_engines : (s.setQueue q).engines = s.engines := rfl
@[simp] theorem State.setQueue_links : (s.setQueue q).links = s.links := rfl
@[simp] theorem State.setQueue_slots : (s.setQueue q).slots = s.slots := rfl
@[simp] theorem State.setQueue_str : (s.setQueue q).str = s.str := rfl
@[simp] theorem State.setQueue_asks : (s.setQueue q).asks = s.asks := rfl
@[simp] theorem State.setQueue_stamps : (s.setQueue q).stamps = s.stamps := rfl
@[simp] theorem State.setQueue_tokens : (s.setQueue q).tokens = s.tokens := rfl
@[simp] theorem State.setQueue_waiters : (s.setQueue q).waiters = s.waiters := rfl
@[simp] theorem State.setQueue_switchSlots : (s.setQueue q).switchSlots = s.switchSlots := rfl
@[simp] theorem State.setQueue_switchBlocks : (s.setQueue q).switchBlocks = s.switchBlocks := rfl
@[simp] theorem State.setQueue_migs : (s.setQueue q).migs = s.migs := rfl
@[simp] theorem State.setQueue_sessions : (s.setQueue q).sessions = s.sessions := rfl
@[simp] theorem State.setQueue_power : (s.setQueue q).power = s.power := rfl
@[simp] theorem State.setQueue_sol : (s.setQueue q).sol = s.sol := rfl
@[simp] theorem State.setQueue_poison : (s.setQueue q).poison = s.poison := rfl
@[simp] theorem State.setQueue_posts : (s.setQueue q).posts = s.posts := rfl
@[simp] theorem State.setQueue_apart : (s.setQueue q).apart = s.apart := rfl
@[simp] theorem State.setQueue_marks : (s.setQueue q).marks = s.marks := rfl

/-! ### State.setPart -/

@[simp] theorem State.setPart_cx : (s.setPart p).cx = s.cx := rfl
@[simp] theorem State.setPart_others : (s.setPart p).others = s.others := rfl
@[simp] theorem State.setPart_turns : (s.setPart p).turns = s.turns := rfl
@[simp] theorem State.setPart_mem : (s.setPart p).mem = s.mem := rfl
@[simp] theorem State.setPart_now : (s.setPart p).now = s.now := rfl
@[simp] theorem State.setPart_tick : (s.setPart p).tick = s.tick := rfl
@[simp] theorem State.setPart_tatp : (s.setPart p).tatp = s.tatp := rfl
@[simp] theorem State.setPart_datp : (s.setPart p).datp = s.datp := rfl
@[simp] theorem State.setPart_patp : (s.setPart p).patp = s.patp := rfl
@[simp] theorem State.setPart_order : (s.setPart p).order = s.order := rfl
@[simp] theorem State.setPart_tlb : (s.setPart p).tlb = s.tlb := rfl
@[simp] theorem State.setPart_ext : (s.setPart p).ext = s.ext := rfl
@[simp] theorem State.setPart_walks : (s.setPart p).walks = s.walks := rfl
@[simp] theorem State.setPart_invs : (s.setPart p).invs = s.invs := rfl
@[simp] theorem State.setPart_l1 : (s.setPart p).l1 = s.l1 := rfl
@[simp] theorem State.setPart_slices : (s.setPart p).slices = s.slices := rfl
@[simp] theorem State.setPart_icache : (s.setPart p).icache = s.icache := rfl
@[simp] theorem State.setPart_ways : (s.setPart p).ways = s.ways := rfl
@[simp] theorem State.setPart_regs : (s.setPart p).regs = s.regs := rfl
@[simp] theorem State.setPart_qos : (s.setPart p).qos = s.qos := rfl
@[simp] theorem State.setPart_queues : (s.setPart p).queues = s.queues := rfl
@[simp] theorem State.setPart_kernels : (s.setPart p).kernels = s.kernels := rfl
@[simp] theorem State.setPart_nodes : (s.setPart p).nodes = s.nodes := rfl
@[simp] theorem State.setPart_placing : (s.setPart p).placing = s.placing := rfl
@[simp] theorem State.setPart_ready : (s.setPart p).ready = s.ready := rfl
@[simp] theorem State.setPart_decisions : (s.setPart p).decisions = s.decisions := rfl
@[simp] theorem State.setPart_steals : (s.setPart p).steals = s.steals := rfl
@[simp] theorem State.setPart_copies : (s.setPart p).copies = s.copies := rfl
@[simp] theorem State.setPart_copyQueues : (s.setPart p).copyQueues = s.copyQueues := rfl
@[simp] theorem State.setPart_engines : (s.setPart p).engines = s.engines := rfl
@[simp] theorem State.setPart_links : (s.setPart p).links = s.links := rfl
@[simp] theorem State.setPart_slots : (s.setPart p).slots = s.slots := rfl
@[simp] theorem State.setPart_str : (s.setPart p).str = s.str := rfl
@[simp] theorem State.setPart_asks : (s.setPart p).asks = s.asks := rfl
@[simp] theorem State.setPart_stamps : (s.setPart p).stamps = s.stamps := rfl
@[simp] theorem State.setPart_tokens : (s.setPart p).tokens = s.tokens := rfl
@[simp] theorem State.setPart_waiters : (s.setPart p).waiters = s.waiters := rfl
@[simp] theorem State.setPart_switchSlots : (s.setPart p).switchSlots = s.switchSlots := rfl
@[simp] theorem State.setPart_switchBlocks : (s.setPart p).switchBlocks = s.switchBlocks := rfl
@[simp] theorem State.setPart_migs : (s.setPart p).migs = s.migs := rfl
@[simp] theorem State.setPart_sessions : (s.setPart p).sessions = s.sessions := rfl
@[simp] theorem State.setPart_power : (s.setPart p).power = s.power := rfl
@[simp] theorem State.setPart_sol : (s.setPart p).sol = s.sol := rfl
@[simp] theorem State.setPart_poison : (s.setPart p).poison = s.poison := rfl
@[simp] theorem State.setPart_posts : (s.setPart p).posts = s.posts := rfl
@[simp] theorem State.setPart_apart : (s.setPart p).apart = s.apart := rfl
@[simp] theorem State.setPart_marks : (s.setPart p).marks = s.marks := rfl

/-! ### Ctx.setX -/

@[simp] theorem Ctx.setX_key : (c.setX d v).key = c.key := by unfold Ctx.setX; split <;> rfl
@[simp] theorem Ctx.setX_kid : (c.setX d v).kid = c.kid := by unfold Ctx.setX; split <;> rfl
@[simp] theorem Ctx.setX_status : (c.setX d v).status = c.status := by unfold Ctx.setX; split <;> rfl
@[simp] theorem Ctx.setX_level : (c.setX d v).level = c.level := by unfold Ctx.setX; split <;> rfl
@[simp] theorem Ctx.setX_pc : (c.setX d v).pc = c.pc := by unfold Ctx.setX; split <;> rfl
@[simp] theorem Ctx.setX_hint : (c.setX d v).hint = c.hint := by unfold Ctx.setX; split <;> rfl
@[simp] theorem Ctx.setX_first : (c.setX d v).first = c.first := by unfold Ctx.setX; split <;> rfl
@[simp] theorem Ctx.setX_firsts : (c.setX d v).firsts = c.firsts := by unfold Ctx.setX; split <;> rfl
@[simp] theorem Ctx.setX_waiting : (c.setX d v).waiting = c.waiting := by unfold Ctx.setX; split <;> rfl
@[simp] theorem Ctx.setX_ident : (c.setX d v).ident = c.ident := by unfold Ctx.setX; split <;> rfl
@[simp] theorem Ctx.setX_banks : (c.setX d v).banks = c.banks := by unfold Ctx.setX; split <;> rfl
@[simp] theorem Ctx.setX_regBanks : (c.setX d v).regBanks = c.regBanks := by unfold Ctx.setX; split <;> rfl
@[simp] theorem Ctx.setX_accBanks : (c.setX d v).accBanks = c.accBanks := by unfold Ctx.setX; split <;> rfl
@[simp] theorem Ctx.setX_obj : (c.setX d v).obj = c.obj := by unfold Ctx.setX; split <;> rfl
@[simp] theorem Ctx.setX_thread : (c.setX d v).thread = c.thread := by unfold Ctx.setX; split <;> rfl
@[simp] theorem Ctx.setX_wsp : (c.setX d v).wsp = c.wsp := by unfold Ctx.setX; split <;> rfl
@[simp] theorem Ctx.setX_vctl : (c.setX d v).vctl = c.vctl := by unfold Ctx.setX; split <;> rfl
@[simp] theorem Ctx.setX_vflags : (c.setX d v).vflags = c.vflags := by unfold Ctx.setX; split <;> rfl
@[simp] theorem Ctx.setX_v : (c.setX d v).v = c.v := by unfold Ctx.setX; split <;> rfl
@[simp] theorem Ctx.setX_m : (c.setX d v).m = c.m := by unfold Ctx.setX; split <;> rfl
@[simp] theorem Ctx.setX_p : (c.setX d v).p = c.p := by unfold Ctx.setX; split <;> rfl
@[simp] theorem Ctx.setX_chans : (c.setX d v).chans = c.chans := by unfold Ctx.setX; split <;> rfl
@[simp] theorem Ctx.setX_closing : (c.setX d v).closing = c.closing := by unfold Ctx.setX; split <;> rfl
@[simp] theorem Ctx.setX_bindings : (c.setX d v).bindings = c.bindings := by unfold Ctx.setX; split <;> rfl
@[simp] theorem Ctx.setX_xtab : (c.setX d v).xtab = c.xtab := by unfold Ctx.setX; split <;> rfl
@[simp] theorem Ctx.setX_xbase : (c.setX d v).xbase = c.xbase := by unfold Ctx.setX; split <;> rfl
@[simp] theorem Ctx.setX_xprev : (c.setX d v).xprev = c.xprev := by unfold Ctx.setX; split <;> rfl
@[simp] theorem Ctx.setX_comp : (c.setX d v).comp = c.comp := by unfold Ctx.setX; split <;> rfl
@[simp] theorem Ctx.setX_oplsel : (c.setX d v).oplsel = c.oplsel := by unfold Ctx.setX; split <;> rfl
@[simp] theorem Ctx.setX_log : (c.setX d v).log = c.log := by unfold Ctx.setX; split <;> rfl
@[simp] theorem Ctx.setX_early : (c.setX d v).early = c.early := by unfold Ctx.setX; split <;> rfl
@[simp] theorem Ctx.setX_late : (c.setX d v).late = c.late := by unfold Ctx.setX; split <;> rfl
@[simp] theorem Ctx.setX_behind : (c.setX d v).behind = c.behind := by unfold Ctx.setX; split <;> rfl
@[simp] theorem Ctx.setX_bound : (c.setX d v).bound = c.bound := by unfold Ctx.setX; split <;> rfl
@[simp] theorem Ctx.setX_cpsel : (c.setX d v).cpsel = c.cpsel := by unfold Ctx.setX; split <;> rfl
@[simp] theorem Ctx.setX_copyHandle : (c.setX d v).copyHandle = c.copyHandle := by unfold Ctx.setX; split <;> rfl
@[simp] theorem Ctx.setX_linkHandle : (c.setX d v).linkHandle = c.linkHandle := by unfold Ctx.setX; split <;> rfl
@[simp] theorem Ctx.setX_msg : (c.setX d v).msg = c.msg := by unfold Ctx.setX; split <;> rfl
@[simp] theorem Ctx.setX_mailbox : (c.setX d v).mailbox = c.mailbox := by unfold Ctx.setX; split <;> rfl
@[simp] theorem Ctx.setX_overflow : (c.setX d v).overflow = c.overflow := by unfold Ctx.setX; split <;> rfl
@[simp] theorem Ctx.setX_hold : (c.setX d v).hold = c.hold := by unfold Ctx.setX; split <;> rfl
@[simp] theorem Ctx.setX_posted : (c.setX d v).posted = c.posted := by unfold Ctx.setX; split <;> rfl
@[simp] theorem Ctx.setX_sends : (c.setX d v).sends = c.sends := by unfold Ctx.setX; split <;> rfl
@[simp] theorem Ctx.setX_msgHandle : (c.setX d v).msgHandle = c.msgHandle := by unfold Ctx.setX; split <;> rfl
@[simp] theorem Ctx.setX_postHandle : (c.setX d v).postHandle = c.postHandle := by unfold Ctx.setX; split <;> rfl
@[simp] theorem Ctx.setX_act : (c.setX d v).act = c.act := by unfold Ctx.setX; split <;> rfl
@[simp] theorem Ctx.setX_events : (c.setX d v).events = c.events := by unfold Ctx.setX; split <;> rfl
@[simp] theorem Ctx.setX_wdog : (c.setX d v).wdog = c.wdog := by unfold Ctx.setX; split <;> rfl
@[simp] theorem Ctx.setX_range : (c.setX d v).range = c.range := by unfold Ctx.setX; split <;> rfl
@[simp] theorem Ctx.setX_tt : (c.setX d v).tt = c.tt := by unfold Ctx.setX; split <;> rfl
@[simp] theorem Ctx.setX_td : (c.setX d v).td = c.td := by unfold Ctx.setX; split <;> rfl
@[simp] theorem Ctx.setX_tp : (c.setX d v).tp = c.tp := by unfold Ctx.setX; split <;> rfl
@[simp] theorem Ctx.setX_irqs : (c.setX d v).irqs = c.irqs := by unfold Ctx.setX; split <;> rfl
@[simp] theorem Ctx.setX_ext : (c.setX d v).ext = c.ext := by unfold Ctx.setX; split <;> rfl
@[simp] theorem Ctx.setX_asyncs : (c.setX d v).asyncs = c.asyncs := by unfold Ctx.setX; split <;> rfl
@[simp] theorem Ctx.setX_pmc : (c.setX d v).pmc = c.pmc := by unfold Ctx.setX; split <;> rfl
@[simp] theorem Ctx.setX_pmsel : (c.setX d v).pmsel = c.pmsel := by unfold Ctx.setX; split <;> rfl
@[simp] theorem Ctx.setX_watch : (c.setX d v).watch = c.watch := by unfold Ctx.setX; split <;> rfl
@[simp] theorem Ctx.setX_semWait : (c.setX d v).semWait = c.semWait := by unfold Ctx.setX; split <;> rfl
@[simp] theorem Ctx.setX_resv : (c.setX d v).resv = c.resv := by unfold Ctx.setX; split <;> rfl
@[simp] theorem Ctx.setX_pins : (c.setX d v).pins = c.pins := by unfold Ctx.setX; split <;> rfl
@[simp] theorem Ctx.setX_arrived : (c.setX d v).arrived = c.arrived := by unfold Ctx.setX; split <;> rfl
@[simp] theorem Ctx.setX_halt : (c.setX d v).halt = c.halt := by unfold Ctx.setX; split <;> rfl
@[simp] theorem Ctx.setX_saveReq : (c.setX d v).saveReq = c.saveReq := by unfold Ctx.setX; split <;> rfl
@[simp] theorem Ctx.setX_savedPool : (c.setX d v).savedPool = c.savedPool := by unfold Ctx.setX; split <;> rfl

/-! ### Ctx.advance -/

@[simp] theorem Ctx.advance_key : (c.advance).key = c.key := rfl
@[simp] theorem Ctx.advance_kid : (c.advance).kid = c.kid := rfl
@[simp] theorem Ctx.advance_status : (c.advance).status = c.status := rfl
@[simp] theorem Ctx.advance_level : (c.advance).level = c.level := rfl
@[simp] theorem Ctx.advance_x : (c.advance).x = c.x := rfl
@[simp] theorem Ctx.advance_dirty : (c.advance).dirty = c.dirty := rfl
@[simp] theorem Ctx.advance_firsts : (c.advance).firsts = c.firsts := rfl
@[simp] theorem Ctx.advance_ident : (c.advance).ident = c.ident := rfl
@[simp] theorem Ctx.advance_banks : (c.advance).banks = c.banks := rfl
@[simp] theorem Ctx.advance_regBanks : (c.advance).regBanks = c.regBanks := rfl
@[simp] theorem Ctx.advance_accBanks : (c.advance).accBanks = c.accBanks := rfl
@[simp] theorem Ctx.advance_obj : (c.advance).obj = c.obj := rfl
@[simp] theorem Ctx.advance_thread : (c.advance).thread = c.thread := rfl
@[simp] theorem Ctx.advance_wsp : (c.advance).wsp = c.wsp := rfl
@[simp] theorem Ctx.advance_vctl : (c.advance).vctl = c.vctl := rfl
@[simp] theorem Ctx.advance_vflags : (c.advance).vflags = c.vflags := rfl
@[simp] theorem Ctx.advance_v : (c.advance).v = c.v := rfl
@[simp] theorem Ctx.advance_m : (c.advance).m = c.m := rfl
@[simp] theorem Ctx.advance_p : (c.advance).p = c.p := rfl
@[simp] theorem Ctx.advance_chans : (c.advance).chans = c.chans := rfl
@[simp] theorem Ctx.advance_closing : (c.advance).closing = c.closing := rfl
@[simp] theorem Ctx.advance_bindings : (c.advance).bindings = c.bindings := rfl
@[simp] theorem Ctx.advance_xtab : (c.advance).xtab = c.xtab := rfl
@[simp] theorem Ctx.advance_xbase : (c.advance).xbase = c.xbase := rfl
@[simp] theorem Ctx.advance_xprev : (c.advance).xprev = c.xprev := rfl
@[simp] theorem Ctx.advance_comp : (c.advance).comp = c.comp := rfl
@[simp] theorem Ctx.advance_oplsel : (c.advance).oplsel = c.oplsel := rfl
@[simp] theorem Ctx.advance_log : (c.advance).log = c.log := rfl
@[simp] theorem Ctx.advance_early : (c.advance).early = c.early := rfl
@[simp] theorem Ctx.advance_late : (c.advance).late = c.late := rfl
@[simp] theorem Ctx.advance_behind : (c.advance).behind = c.behind := rfl
@[simp] theorem Ctx.advance_bound : (c.advance).bound = c.bound := rfl
@[simp] theorem Ctx.advance_cpsel : (c.advance).cpsel = c.cpsel := rfl
@[simp] theorem Ctx.advance_copyHandle : (c.advance).copyHandle = c.copyHandle := rfl
@[simp] theorem Ctx.advance_linkHandle : (c.advance).linkHandle = c.linkHandle := rfl
@[simp] theorem Ctx.advance_msg : (c.advance).msg = c.msg := rfl
@[simp] theorem Ctx.advance_mailbox : (c.advance).mailbox = c.mailbox := rfl
@[simp] theorem Ctx.advance_overflow : (c.advance).overflow = c.overflow := rfl
@[simp] theorem Ctx.advance_hold : (c.advance).hold = c.hold := rfl
@[simp] theorem Ctx.advance_posted : (c.advance).posted = c.posted := rfl
@[simp] theorem Ctx.advance_sends : (c.advance).sends = c.sends := rfl
@[simp] theorem Ctx.advance_msgHandle : (c.advance).msgHandle = c.msgHandle := rfl
@[simp] theorem Ctx.advance_postHandle : (c.advance).postHandle = c.postHandle := rfl
@[simp] theorem Ctx.advance_act : (c.advance).act = c.act := rfl
@[simp] theorem Ctx.advance_events : (c.advance).events = c.events := rfl
@[simp] theorem Ctx.advance_wdog : (c.advance).wdog = c.wdog := rfl
@[simp] theorem Ctx.advance_range : (c.advance).range = c.range := rfl
@[simp] theorem Ctx.advance_tt : (c.advance).tt = c.tt := rfl
@[simp] theorem Ctx.advance_td : (c.advance).td = c.td := rfl
@[simp] theorem Ctx.advance_tp : (c.advance).tp = c.tp := rfl
@[simp] theorem Ctx.advance_ext : (c.advance).ext = c.ext := rfl
@[simp] theorem Ctx.advance_asyncs : (c.advance).asyncs = c.asyncs := rfl
@[simp] theorem Ctx.advance_pmsel : (c.advance).pmsel = c.pmsel := rfl
@[simp] theorem Ctx.advance_watch : (c.advance).watch = c.watch := rfl
@[simp] theorem Ctx.advance_semWait : (c.advance).semWait = c.semWait := rfl
@[simp] theorem Ctx.advance_resv : (c.advance).resv = c.resv := rfl
@[simp] theorem Ctx.advance_pins : (c.advance).pins = c.pins := rfl
@[simp] theorem Ctx.advance_arrived : (c.advance).arrived = c.arrived := rfl
@[simp] theorem Ctx.advance_saveReq : (c.advance).saveReq = c.saveReq := rfl
@[simp] theorem Ctx.advance_savedPool : (c.advance).savedPool = c.savedPool := rfl
@[simp] theorem Ctx.advance_pc : c.advance.pc = c.pc + 4 := rfl
@[simp] theorem Ctx.advance_hint : c.advance.hint = none := rfl
@[simp] theorem Ctx.advance_first : c.advance.first = none := rfl
@[simp] theorem Ctx.advance_waiting : c.advance.waiting = false := rfl

/-! ### Reading after writing -/

theorem get_set_eq {α : Type} {n : Nat} (u : Vector α n) (i : Nat) (h : i < n) (y : α) (j : Fin n) :
    (u.set i y h).get j = if i = j.val then y else u.get j := by
  show (u.set i y h)[j.val] = if i = j.val then y else u[j.val]
  exact Vector.getElem_set ..

/-- x[r] after x[d] is written (R31). -/
@[simp] theorem State.getX_setX (e : BitVec 5) : (s.setX d v).getX e = if e ≠ 0 ∧ e = d then v else s.getX e := by
  unfold State.getX State.setX Ctx.getX Ctx.setX
  by_cases h : e = 0
  · simp only [h, if_true, ne_eq, not_true_eq_false, false_and, if_false]
  · by_cases hd : e = d
    · subst hd
      simp only [h, if_false, ne_eq, not_false_eq_true, and_self, if_true]
      rw [get_set_eq, if_pos (by simp)]
    · have hn : ¬ d.toFin.val = e.toFin.val := fun hc => hd (BitVec.eq_of_toNat_eq hc.symm)
      simp only [h, hd, if_false, and_false]
      split
      · rfl
      · rw [get_set_eq, if_neg hn]

@[simp] theorem State.getX_advance : s.advance.getX d = s.getX d := rfl

/-- v[e] after v[d] is written. -/
@[simp] theorem State.getV_setV (e : BitVec 5) : (s.setV d r).getV e = if e = d then r else s.getV e := by
  unfold State.getV State.setV
  rw [get_set_eq]
  simp only [BitVec.val_toFin, ← BitVec.toNat_inj, eq_comm]

/-- m[e] after m[t] is written. -/
@[simp] theorem State.getM_setM (e : BitVec 3) : (s.setM t m).getM e = if e = t then m else s.getM e := by
  unfold State.getM State.setM
  rw [get_set_eq]
  simp only [BitVec.val_toFin, ← BitVec.toNat_inj, eq_comm]

end updates

end Sys2Proof.Machine
end

