-- ==== Sys2Proof/Laws/Ops.lean ====
section
/-! SUPPORT. What each shared operation can do, once: how an instruction ends, what a commit writes, what a store, a trap and a posted
access leave alone, and that each keeps memory canonical. -/

namespace Sys2Proof.Machine

/-! ## How an instruction ends -/

@[simp] theorem check_true (e : Exn) : check true e = .ok () := rfl
@[simp] theorem check_false (e : Exn) : check false e = .error (.trap e) := rfl
@[simp] theorem waitUntil_true : waitUntil true = .ok () := rfl
@[simp] theorem waitUntil_false : waitUntil false = .error .wait := rfl
@[simp] theorem tryExn_ok {α : Type} (a : α) : tryExn (.ok a) = .ok a := rfl
@[simp] theorem tryExn_error {α : Type} (e : Exn) :
    tryExn (.error e : Except Exn α) = .error (if e.onTable then .broken e e.val else .trap e) := rfl
@[simp] theorem finish_ok (s t : State) : s.finish (.ok t) = .next t := rfl
@[simp] theorem finish_wait (s : State) : s.finish (.error .wait) = .next s := rfl
@[simp] theorem finish_trap (s : State) (e : Exn) : s.finish (.error (.trap e)) = .next (s.raise e) := rfl
@[simp] theorem finish_behind (s : State) (src site : Nat) : s.finish (.error (.behind src site)) = .next (s.clearPath src site) := rfl

/-- An instruction answers the state its meaning gives, the state as it stands, the state in which its trap is taken, or the one in which
what it comes after has gone. -/
theorem finish_cases {s t : State} {r : Try State} (h : s.finish r = .next t) :
    r = .ok t ∨ (r = .error .wait ∧ t = s) ∨ (∃ e, r = .error (.trap e) ∧ t = s.raise e) ∨
      (∃ e u, r = .error (.broken e u) ∧ t = (s.mapCx fun c => c.irq 17 .P u).raise e) ∨
      ∃ src site, r = .error (.behind src site) ∧ t = s.clearPath src site := by
  match r, h with
  | .ok _, h => exact .inl (by injection h with h; rw [h])
  | .error .wait, h => exact .inr (.inl ⟨rfl, by injection h with h; exact h.symm⟩)
  | .error (.trap e), h => exact .inr (.inr (.inl ⟨e, rfl, by injection h with h; exact h.symm⟩))
  | .error (.broken e u), h => exact .inr (.inr (.inr (.inl ⟨e, u, rfl, by injection h with h; exact h.symm⟩)))
  | .error (.behind src site), h => exact .inr (.inr (.inr (.inr ⟨src, site, rfl, by injection h with h; exact h.symm⟩)))

/-- An exception is taken at its route, or one level up from a handler's first instruction, or stops the context at P (R356, R362). -/
theorem raise_cases (s : State) (e : Exn) : (∃ l, s.raise e = s.takeTrap l e.cause false e.val e.val2) ∨
    s.raise e = { s.retireUnit (.site s.cx.key.h) with cx := { s.cx with status := .failed } } := by
  unfold State.raise
  split
  · exact .inl ⟨_, rfl⟩
  · exact .inr rfl
  · exact .inl ⟨_, rfl⟩

/-! ## What a commit writes -/

/-- Counting looks only at the counters, their selections and the interrupt queue. -/
theorem Ctx.counted_sans (c : Ctx) (v : Bool) : (c.counted v).sansCommit = c.sansCommit := by
  cases v <;> rfl

theorem Ctx.advance_counted (c : Ctx) : c.advance.pmc = (c.counted false).pmc ∧ c.advance.irqs = (c.counted false).irqs := by
  unfold Ctx.advance Ctx.counted Ctx.committing
  cases c.hint <;> exact ⟨rfl, rfl⟩

/-- A commit over `u` (R153). -/
theorem State.advance_committed (u : State) : Committed u u.advance (u.cx.pc + 4) false :=
  ⟨rfl, rfl, rfl, rfl, u.cx.advance_counted.1, u.cx.advance_counted.2, rfl⟩

theorem State.advanceV_committed (u : State) : Committed u u.advanceV (u.cx.pc + 4) true := by
  refine ⟨rfl, rfl, rfl, rfl, ?_, ?_, rfl⟩ <;>
  · simp only [State.advanceV, Ctx.advance, Ctx.counted, Ctx.committing]
    cases u.cx.hint <;> rfl

theorem State.jump_committed (u : State) (t : Word) : Committed u (u.jump t) t false :=
  ⟨rfl, rfl, rfl, rfl, u.cx.advance_counted.1, u.cx.advance_counted.2, rfl⟩

theorem gives_of {i : Instr} {s : State} {d : BitVec 5} {v w : Word} (h : exec i s = .next (s.result d w)) (e : w = v) :
    Gives i s d v := by
  subst e
  refine ⟨_, h, ?_⟩
  have := (s.setX d w).advance_committed
  rwa [State.setX_cx, Ctx.setX_pc] at this


/-! ## Stores -/

theorem storeCells_mem (s : State) (pa : Nat) (l : List Host.Cell) :
    (s.storeCells pa l).mem = l.foldl (fun m c => memSet m (pa + c.1) c.2) s.mem := by
  unfold State.storeCells
  induction l generalizing s with
  | nil => rfl
  | cons c l ih =>
    simp only [List.foldl_cons]
    rw [ih]
    simp [State.store, memWrite]

theorem memWrite_as_cells (m : List Host.Cell) (pa n v j : Nat) :
    ((List.range' j n).map fun i => ((i, BitVec.ofNat 8 (v >>> (8 * i))) : Host.Cell)).foldl (fun m c => memSet m (pa + c.1) c.2) m
      = memWrite m (pa + j) n (v >>> (8 * j)) := by
  induction n generalizing m j with
  | zero => rfl
  | succ n ih =>
    simp only [List.range'_succ, List.map_cons, List.foldl_cons, memWrite]
    rw [ih]
    congr 1
    rw [Nat.mul_add, Nat.mul_one, Nat.shiftRight_add]
    rw [Nat.shiftRight_eq_div_pow (v >>> (8 * j)) 8]

theorem storeCells_value (s : State) (pa n v : Nat) : (s.storeCells pa (valueCells n v)).mem = memWrite s.mem pa n v := by
  rw [storeCells_mem, valueCells, List.range_eq_range']
  simpa using memWrite_as_cells s.mem pa n v 0

theorem touch_sans (a n : Nat) (c : Ctx) : (touchCtx a n c).sansMarks = c.sansMarks := rfl

theorem soil_home (a n : Nat) (l : SliceLine) : (l.soil a n).home = l.home := by unfold SliceLine.soil; rfl

theorem soil_line (a n : Nat) (l : SliceLine) : (l.soil a n).line = l.line := by unfold SliceLine.soil; rfl

theorem soil_way (a n : Nat) (l : SliceLine) : (l.soil a n).way = l.way := by unfold SliceLine.soil; rfl

theorem store_sansMem (s : State) (a n v : Nat) : (s.store a n v).sansMem = s.sansMem := by
  simp only [State.store, State.sansMem, touch_sans, List.map_map, Function.comp_def, soil_home, soil_line, soil_way]

theorem storeCells_sansMem (s : State) (pa : Nat) (l : List Host.Cell) : (s.storeCells pa l).sansMem = s.sansMem := by
  unfold State.storeCells
  induction l generalizing s with
  | nil => rfl
  | cons c l ih => simp only [List.foldl_cons]; rw [ih, store_sansMem]

theorem storeCells_pc (s : State) (pa : Nat) (l : List Host.Cell) : (s.storeCells pa l).cx.pc = s.cx.pc := by
  have h := congrArg (fun t : State => t.cx.pc) (storeCells_sansMem s pa l)
  exact h

theorem storeCells_l1 (s : State) (pa : Nat) (l : List Host.Cell) : (s.storeCells pa l).l1 = s.l1 := by
  unfold State.storeCells
  induction l generalizing s with
  | nil => rfl
  | cons c l ih => simp only [List.foldl_cons]; rw [ih]; rfl

/-! ## The canonical form of memory -/

theorem Safe.of_mem {s t : State} (h : Safe s) (e : t.mem = s.mem) : Safe t := by unfold Safe at *; rw [e]; exact h

theorem Safe.store {s : State} (h : Safe s) (a n v : Nat) : Safe (s.store a n v) := memWrite_wf a n v h

theorem Safe.storeCells {s : State} (h : Safe s) (pa : Nat) (l : List Host.Cell) : Safe (s.storeCells pa l) := State.storeCells_wf pa l h

theorem Safe.mapCx {s : State} (h : Safe s) (f : Ctx → Ctx) : Safe (s.mapCx f) := h

theorem Safe.mapCtx {s : State} (h : Safe s) (k : Key) (f : Ctx → Ctx) : Safe (s.mapCtx k f) := h

theorem Safe.countFor {s : State} (h : Safe s) (k : Key) (ev n : Nat) : Safe (s.countFor k ev n) := h.mapCtx k _

theorem Safe.countSlice {s : State} (h : Safe s) (k : Key) : Safe (s.countSlice k) := h.mapCtx k _

theorem Safe.writeBack {s : State} (h : Safe s) : Safe s.writeBack := by
  have key : ∀ (l : List Nat) (b : Nat) (t : State), Safe t → Safe (l.foldl (writeBackOne b) t) := by
    intro l b
    induction l with
    | nil => exact fun t ht => ht
    | cons i l ih =>
      intro t ht
      refine ih _ ?_
      unfold writeBackOne
      split
      · exact ht.store _ _ _
      · exact ht
  exact key _ _ s h

theorem Safe.gatherX {s : State} (h : Safe s) : Safe s.gatherX := by
  have key : ∀ (l : List Nat) (b : Nat) (t : State), Safe t →
      Safe (l.foldl (fun s i => s.store (b + 8 * i) 8 (s.cx.getX (BitVec.ofNat 5 i)).toNat) t) := by
    intro l b
    induction l with
    | nil => exact fun t ht => ht
    | cons i l ih => exact fun t ht => ih _ (ht.store _ _ _)
  unfold State.gatherX
  generalize List.range' 1 31 = l
  exact (key l _ s h).of_mem rfl

theorem Safe.toLevel {s : State} (h : Safe s) (l : Level) : Safe (s.toLevel l) := by
  unfold State.toLevel
  split
  · exact h
  · exact h.writeBack

theorem Safe.dissolve {s : State} (h : Safe s) (last : Nat) : Safe (s.dissolve last) := by
  have hg := h.gatherX
  unfold State.dissolve
  generalize s.gatherX = g at hg ⊢
  split
  · exact h
  · exact hg.of_mem rfl

theorem Safe.takeTrap {s : State} (h : Safe s) (l : Level) (code : Nat) (int : Bool) (val val2 : Word) :
    Safe (s.takeTrap l code int val val2) := (h.dissolve 2).toLevel l

theorem Safe.retireUnit {s : State} (h : Safe s) (u : RasUnit) : Safe (s.retireUnit u) := by
  unfold State.retireUnit
  split <;> exact h

theorem Safe.raise {s : State} (h : Safe s) (e : Exn) : Safe (s.raise e) := by
  rcases raise_cases s e with ⟨l, he⟩ | he <;> rw [he]
  · exact h.takeTrap ..
  · exact (h.retireUnit _).of_mem rfl

theorem Safe.enterLevel {s : State} (h : Safe s) (l : Level) : Safe (s.enterLevel l) := by
  unfold State.enterLevel
  split <;> exact h

theorem Safe.trapReturn {s : State} (h : Safe s) (l : Level) : Safe (s.trapReturn l) :=
  ((h.mapCx _).writeBack.enterLevel _).mapCx _

theorem Safe.applyEntry {s : State} (h : Safe s) (k : Key) (kid : Nat) (e : OpEntry) (pa : Nat) : Safe (s.applyEntry k kid e pa) := by
  unfold State.applyEntry
  cases e.kind
  · exact h.storeCells _ _
  · exact h.store _ _ _
  · exact (h.store _ _ _).countFor _ _ _
  · exact (h.store _ _ _).countFor _ _ _
  · exact h
  · exact h.store _ _ _

/-- What holds of every element's step of a fold from a safe state holds of the fold. -/
theorem Safe.foldl {α : Type} {f : State → α → State} (hf : ∀ t x, Safe t → Safe (f t x)) (l : List α) {s : State} (h : Safe s) :
    Safe (l.foldl f s) := by
  induction l generalizing s with
  | nil => exact h
  | cons x l ih => exact ih (hf s x h)

theorem Safe.sliceFill {s : State} (h : Safe s) (home line way : Nat) : Safe (s.sliceFill home line way) := by
  unfold State.sliceFill
  split
  · exact h
  · unfold Safe
    dsimp only
    exact memWrite_wf (slicePlace home (line * 128)) 128 (s.load (line * 128) 128) h

theorem Safe.sliceClean {s : State} (h : Safe s) (home line : Nat) : Safe (s.sliceClean home line) := by
  unfold State.sliceClean
  split
  · exact h
  · rename_i x _
    have key : ∀ (l : List Nat) (m : List Host.Cell), Memory.wf m = true → Memory.wf (l.foldl (fun m i =>
        if x.dirty.getLsbD i then memSet m (line * 128 + i) (memGet s.mem (slicePlace home (line * 128 + i))) else m) m) = true := by
      intro l
      induction l with
      | nil => exact fun m hm => hm
      | cons i l ih =>
        intro m hm
        refine ih _ ?_
        dsimp only
        split
        · exact memSet_wf _ _ hm
        · exact hm
    exact key _ _ h

theorem Safe.sliceEvict {s : State} (h : Safe s) (home line : Nat) : Safe (s.sliceEvict home line) := by
  unfold State.sliceEvict
  split
  · have hc := h.sliceClean home line
    generalize s.sliceClean home line = t at hc ⊢
    unfold Safe at hc ⊢
    dsimp only
    exact memWrite_wf (slicePlace home (line * 128)) 128 0 hc
  · exact h

theorem Safe.roomIn {s : State} (h : Safe s) (home : Nat) (ways : List Nat) (keep : Nat → Bool) : Safe (s.roomIn home ways keep).2 := by
  unfold State.roomIn
  split
  · exact h
  · split
    · exact h.sliceEvict ..
    · exact h

theorem Safe.sliceHold {s : State} (h : Safe s) (home line : Nat) (ways : List Nat) (keep : Nat → Bool) :
    Safe (s.sliceHold home line ways keep) := by
  have hr := h.roomIn home ways fun l => decide (l = line) || keep l
  unfold State.sliceHold
  generalize s.roomIn home ways (fun l => decide (l = line) || keep l) = r at hr ⊢
  dsimp only
  split
  · exact hr.sliceFill ..
  · split
    · exact h
    · exact hr

theorem Safe.together {s : State} (h : Safe s) (home pa n : Nat) : Safe (s.together home pa n) := by
  unfold State.together
  dsimp only
  split
  · exact h.foldl (fun t l ht => ht.sliceHold ..) _
  · exact h

theorem answerEntry_mem (s : State) (k : Key) (e : OpEntry) (st : OpState) : (s.answerEntry k e st).mem = s.mem := by
  unfold State.answerEntry State.stampNext State.stamp State.tickOrder State.mapCtx State.mapIf State.mapAll
  rfl

theorem Safe.answerEntry {s : State} (h : Safe s) (k : Key) (e : OpEntry) (st : OpState) : Safe (s.answerEntry k e st) :=
  h.of_mem (answerEntry_mem ..)

theorem Safe.perform {s : State} (h : Safe s) (k : Key) (e : OpEntry) : Safe (s.perform k e) := by
  have ht : ∀ pa, Safe (if e.kind = .laccAdd || e.kind = .laccClr then s.together e.site pa 72 else s) := fun pa => by
    split
    · exact h.together ..
    · exact h
  unfold State.perform
  split
  · exact h
  · split
    · exact h
    · exact h.answerEntry ..
    · split
      · exact h.answerEntry ..
      · dsimp only
        split
        · exact ((ht _).applyEntry _ _ _ _).answerEntry _ _ _ |>.countSlice _
        · exact ((ht _).applyEntry _ _ _ _).answerEntry _ _ _

theorem Safe.performDue {s : State} (h : Safe s) (k : Key) (e : OpEntry) : Safe (s.performDue k e) := by
  unfold State.performDue
  split
  · exact h
  · split
    · exact h.perform _ _
    · exact h

theorem Safe.flush {s : State} (h : Safe s) (src site : Nat) : Safe (s.flush src site) := h.foldl (fun _ _ ht => ht.performDue _ _) _

theorem Safe.landPost {s : State} (h : Safe s) (p : Post) : Safe (s.landPost p) := h.store _ _ _

theorem Safe.landWhere {s : State} (h : Safe s) (f : Post → Bool) : Safe (s.landWhere f) := h.foldl (fun _ _ ht => ht.landPost _) _

theorem Safe.takeAnswers {s : State} (h : Safe s) (site src : Nat) : Safe (s.takeAnswers site src) := by
  refine h.foldl (fun t x ht => ?_) _
  split
  · exact ht
  · exact ht.mapCtx _ _

theorem Safe.clearPath {s : State} (h : Safe s) (src site : Nat) : Safe (s.clearPath src site) :=
  ((h.flush src site).landWhere _).takeAnswers site src

/-- With nothing on its way, what lands changes nothing. -/
theorem landWhere_nil {s : State} (h : s.posts = []) (f : Post → Bool) : s.landWhere f = s := by
  unfold State.landWhere
  rw [h]
  rfl

/-- An instruction keeps memory canonical where the state its meaning answers does. -/
theorem Safe.finish {s t : State} {r : Try State} (hs : Safe s) (hr : ∀ u, r = .ok u → Safe u) (h : s.finish r = .next t) : Safe t := by
  rcases finish_cases h with h | ⟨-, h⟩ | ⟨e, -, h⟩ | ⟨e, u, -, h⟩ | ⟨a, b, -, h⟩
  · exact hr t h
  · rw [h]; exact hs
  · rw [h]; exact hs.raise e
  · rw [h]; exact (hs.mapCx _).raise e
  · rw [h]; exact hs.clearPath a b

end Sys2Proof.Machine
end

