-- ==== Sys2Proof/Laws/PerInstr.lean ====
section
/-! SUPPORT. For every instruction: the major opcode's rows, asked with the fields of its word, give it back. -/

namespace Sys2Proof.Laws.RoundTrip

open Sys2Proof

/-- The fields of an instruction's word decode to it: no bit of an operand is dropped or misplaced, and no other row takes the word. -/
def Statement (i : Instr) : Prop := ∀ x, encodeFields i = some x → rawDecode x = some i

/-! ## Parts of fields -/

theorem join {n : Nat} (x : BitVec n) (k m j : Nat) : x.extractLsb' (j + k) m ++ x.extractLsb' j k = x.extractLsb' j (m + k) := by
  ext i hi
  simp only [BitVec.getElem_append, BitVec.getElem_extractLsb']
  split
  · rfl
  · congr 1; omega
@[simp] theorem join12 (r : BitVec 12) : r.extractLsb' 5 7 ++ r.extractLsb' 0 5 = r := (join r 5 7 0).trans BitVec.extractLsb'_eq_self
@[simp] theorem join6 (r : BitVec 6) : r.extractLsb' 5 1 ++ r.extractLsb' 0 5 = r := (join r 5 1 0).trans BitVec.extractLsb'_eq_self
@[simp] theorem join20 (r : BitVec 20) : r.extractLsb' 13 7 ++ r.extractLsb' 8 5 ++ r.extractLsb' 3 5 ++ r.extractLsb' 0 3 = r := by
  have h1 := join r 5 7 8
  have h2 := join r 5 12 3
  have h3 := join r 3 17 0
  exact (congrArg (fun y => y ++ r.extractLsb' 3 5 ++ r.extractLsb' 0 3) h1).trans ((congrArg (· ++ r.extractLsb' 0 3) h2).trans (h3.trans BitVec.extractLsb'_eq_self))
theorem low {n m : Nat} (x : BitVec n) (y : BitVec m) : (x ++ y).extractLsb' 0 m = y := by
  rw [BitVec.extractLsb'_append_eq_of_add_le (by omega)]; exact BitVec.extractLsb'_eq_self
theorem high {n m : Nat} (x : BitVec n) (y : BitVec m) : (x ++ y).extractLsb' m n = x := by
  rw [BitVec.extractLsb'_append_eq_of_le (by omega)]; simp
@[simp] theorem branch (o : BitVec 12) : branchOff (branchHi o) (branchLo o) = o := by
  unfold branchOff branchHi branchLo
  rw [show BitVec.extractLsb' 6 1 (BitVec.extractLsb' 11 1 o ++ BitVec.extractLsb' 4 6 o) = BitVec.extractLsb' 11 1 o from high _ _,
   show BitVec.extractLsb' 0 6 (BitVec.extractLsb' 11 1 o ++ BitVec.extractLsb' 4 6 o) = BitVec.extractLsb' 4 6 o from low _ _,
   show BitVec.extractLsb' 1 4 (BitVec.extractLsb' 0 4 o ++ BitVec.extractLsb' 10 1 o) = BitVec.extractLsb' 0 4 o from high _ _,
   show BitVec.extractLsb' 0 1 (BitVec.extractLsb' 0 4 o ++ BitVec.extractLsb' 10 1 o) = BitVec.extractLsb' 10 1 o from low _ _]
  exact (congrArg (fun y => y ++ o.extractLsb' 4 6 ++ o.extractLsb' 0 4) (join o 1 1 10)).trans ((congrArg (· ++ o.extractLsb' 0 4) (join o 6 2 4)).trans ((join o 4 8 0).trans BitVec.extractLsb'_eq_self))
@[simp] theorem jalJoin (o : BitVec 20) : jalOff (jalRaw o) = o := by
  unfold jalOff jalRaw
  generalize h1 : BitVec.extractLsb' 19 1 o = p
  generalize h2 : BitVec.extractLsb' 0 10 o = q
  generalize h3 : BitVec.extractLsb' 10 1 o = r
  generalize h4 : BitVec.extractLsb' 11 8 o = t
  rw [show BitVec.extractLsb' 19 1 (p ++ q ++ r ++ t) = p by
        rw [BitVec.extractLsb'_append_eq_of_le (by decide), BitVec.extractLsb'_append_eq_of_le (by decide),
          BitVec.extractLsb'_append_eq_of_le (by decide)]; exact BitVec.extractLsb'_eq_self,
    show BitVec.extractLsb' 0 8 (p ++ q ++ r ++ t) = t from low _ _,
    show BitVec.extractLsb' 8 1 (p ++ q ++ r ++ t) = r by
        rw [BitVec.extractLsb'_append_eq_of_le (by decide)]; exact low _ _,
    show BitVec.extractLsb' 9 10 (p ++ q ++ r ++ t) = q by
        rw [BitVec.extractLsb'_append_eq_of_le (by decide), BitVec.extractLsb'_append_eq_of_le (by decide)]; exact low _ _]
  subst h1 h2 h3 h4
  exact (congrArg (fun y => y ++ o.extractLsb' 10 1 ++ o.extractLsb' 0 10) (join o 11 1 8 |> fun _ => join o 8 1 11)).trans
    ((congrArg (· ++ o.extractLsb' 0 10) (join o 1 9 10)).trans ((join o 10 10 0).trans BitVec.extractLsb'_eq_self))

/-! ## Cuts: the fields of a concatenation -/

@[simp] theorem cut0 : ∀ (a : BitVec 1) (b : BitVec 2), BitVec.extractLsb' (n := 3) 0 1 (a ++ b) = b.extractLsb' 0 1 := by decide
@[simp] theorem cut1 : ∀ (a : BitVec 1) (b : BitVec 2), BitVec.extractLsb' (n := 3) 0 2 (a ++ b) = b := by decide
@[simp] theorem cut2 : ∀ (a : BitVec 1) (b : BitVec 2), BitVec.extractLsb' (n := 3) 1 2 (a ++ b) = a ++ b.extractLsb' 1 1 := by decide
@[simp] theorem cut3 : ∀ (a : BitVec 1) (b : BitVec 2), BitVec.extractLsb' (n := 3) 2 1 (a ++ b) = a := by decide
@[simp] theorem cut4 : ∀ (a : BitVec 1) (b : BitVec 2) (c : BitVec 2), BitVec.extractLsb' (n := 5) 0 2 (a ++ b ++ c) = c := by decide
@[simp] theorem cut5 : ∀ (a : BitVec 1) (b : BitVec 2) (c : BitVec 2), BitVec.extractLsb' (n := 5) 2 2 (a ++ b ++ c) = b := by decide
@[simp] theorem cut6 : ∀ (a : BitVec 1) (b : BitVec 2) (c : BitVec 2), BitVec.extractLsb' (n := 5) 4 1 (a ++ b ++ c) = a := by decide
@[simp] theorem cut7 : ∀ (a : BitVec 1) (b : BitVec 4), BitVec.extractLsb' (n := 5) 0 3 (a ++ b) = b.extractLsb' 0 3 := by decide
@[simp] theorem cut8 : ∀ (a : BitVec 1) (b : BitVec 4), BitVec.extractLsb' (n := 5) 0 4 (a ++ b) = b := by decide
@[simp] theorem cut9 : ∀ (a : BitVec 1) (b : BitVec 4), BitVec.extractLsb' (n := 5) 3 2 (a ++ b) = a ++ b.extractLsb' 3 1 := by decide
@[simp] theorem cut10 : ∀ (a : BitVec 1) (b : BitVec 4), BitVec.extractLsb' (n := 5) 4 1 (a ++ b) = a := by decide
@[simp] theorem cut11 : ∀ (a : BitVec 2) (b : BitVec 1), BitVec.extractLsb' (n := 3) 0 1 (a ++ b) = b := by decide
@[simp] theorem cut12 : ∀ (a : BitVec 2) (b : BitVec 1), BitVec.extractLsb' (n := 3) 0 2 (a ++ b) = a.extractLsb' 0 1 ++ b := by decide
@[simp] theorem cut13 : ∀ (a : BitVec 2) (b : BitVec 1), BitVec.extractLsb' (n := 3) 1 2 (a ++ b) = a := by decide
@[simp] theorem cut14 : ∀ (a : BitVec 2) (b : BitVec 1), BitVec.extractLsb' (n := 3) 2 1 (a ++ b) = a.extractLsb' 1 1 := by decide
@[simp] theorem cut15 : ∀ (a : BitVec 2) (b : BitVec 1) (c : BitVec 4), BitVec.extractLsb' (n := 7) 0 4 (a ++ b ++ c) = c := by decide
@[simp] theorem cut16 : ∀ (a : BitVec 2) (b : BitVec 1) (c : BitVec 4), BitVec.extractLsb' (n := 7) 0 5 (a ++ b ++ c) = b ++ c := by decide
@[simp] theorem cut17 : ∀ (a : BitVec 2) (b : BitVec 1) (c : BitVec 4), BitVec.extractLsb' (n := 7) 4 1 (a ++ b ++ c) = b := by decide
@[simp] theorem cut18 : ∀ (a : BitVec 2) (b : BitVec 1) (c : BitVec 4), BitVec.extractLsb' (n := 7) 5 2 (a ++ b ++ c) = a := by decide
@[simp] theorem cut19 : ∀ (a : BitVec 2) (b : BitVec 2) (c : BitVec 3), BitVec.extractLsb' (n := 7) 0 3 (a ++ b ++ c) = c := by decide
@[simp] theorem cut20 : ∀ (a : BitVec 2) (b : BitVec 2) (c : BitVec 3), BitVec.extractLsb' (n := 7) 0 5 (a ++ b ++ c) = b ++ c := by decide
@[simp] theorem cut21 : ∀ (a : BitVec 2) (b : BitVec 2) (c : BitVec 3), BitVec.extractLsb' (n := 7) 3 2 (a ++ b ++ c) = b := by decide
@[simp] theorem cut22 : ∀ (a : BitVec 2) (b : BitVec 2) (c : BitVec 3), BitVec.extractLsb' (n := 7) 5 2 (a ++ b ++ c) = a := by decide
@[simp] theorem cut23 : ∀ (a : BitVec 2) (b : BitVec 3), BitVec.extractLsb' (n := 5) 0 3 (a ++ b) = b := by decide
@[simp] theorem cut24 : ∀ (a : BitVec 2) (b : BitVec 3), BitVec.extractLsb' (n := 5) 0 4 (a ++ b) = a.extractLsb' 0 1 ++ b := by decide
@[simp] theorem cut25 : ∀ (a : BitVec 2) (b : BitVec 3), BitVec.extractLsb' (n := 5) 3 2 (a ++ b) = a := by decide
@[simp] theorem cut26 : ∀ (a : BitVec 2) (b : BitVec 3), BitVec.extractLsb' (n := 5) 4 1 (a ++ b) = a.extractLsb' 1 1 := by decide
@[simp] theorem cut27 : ∀ (a : BitVec 2) (b : BitVec 5), BitVec.extractLsb' (n := 7) 0 3 (a ++ b) = b.extractLsb' 0 3 := by decide
@[simp] theorem cut28 : ∀ (a : BitVec 2) (b : BitVec 5), BitVec.extractLsb' (n := 7) 0 4 (a ++ b) = b.extractLsb' 0 4 := by decide
@[simp] theorem cut29 : ∀ (a : BitVec 2) (b : BitVec 5), BitVec.extractLsb' (n := 7) 0 5 (a ++ b) = b := by decide
@[simp] theorem cut30 : ∀ (a : BitVec 2) (b : BitVec 5), BitVec.extractLsb' (n := 7) 3 2 (a ++ b) = b.extractLsb' 3 2 := by decide
@[simp] theorem cut31 : ∀ (a : BitVec 2) (b : BitVec 5), BitVec.extractLsb' (n := 7) 4 1 (a ++ b) = b.extractLsb' 4 1 := by decide
@[simp] theorem cut32 : ∀ (a : BitVec 2) (b : BitVec 5), BitVec.extractLsb' (n := 7) 5 2 (a ++ b) = a := by decide
@[simp] theorem cut33 : ∀ (a : BitVec 3) (b : BitVec 1) (c : BitVec 1), BitVec.extractLsb' (n := 5) 0 1 (a ++ b ++ c) = c := by decide
@[simp] theorem cut34 : ∀ (a : BitVec 3) (b : BitVec 1) (c : BitVec 1), BitVec.extractLsb' (n := 5) 1 1 (a ++ b ++ c) = b := by decide
@[simp] theorem cut35 : ∀ (a : BitVec 3) (b : BitVec 1) (c : BitVec 1), BitVec.extractLsb' (n := 5) 2 3 (a ++ b ++ c) = a := by decide
@[simp] theorem cut36 : ∀ (a : BitVec 3) (b : BitVec 1) (c : BitVec 1) (d : BitVec 2), BitVec.extractLsb' (n := 7) 0 2 (a ++ b ++ c ++ d) = d := by decide
@[simp] theorem cut37 : ∀ (a : BitVec 3) (b : BitVec 1) (c : BitVec 1) (d : BitVec 2), BitVec.extractLsb' (n := 7) 2 1 (a ++ b ++ c ++ d) = c := by decide
@[simp] theorem cut38 : ∀ (a : BitVec 3) (b : BitVec 1) (c : BitVec 1) (d : BitVec 2), BitVec.extractLsb' (n := 7) 3 1 (a ++ b ++ c ++ d) = b := by decide
@[simp] theorem cut39 : ∀ (a : BitVec 3) (b : BitVec 1) (c : BitVec 1) (d : BitVec 2), BitVec.extractLsb' (n := 7) 4 3 (a ++ b ++ c ++ d) = a := by decide
@[simp] theorem cut40 : ∀ (a : BitVec 3) (b : BitVec 2), BitVec.extractLsb' (n := 5) 0 2 (a ++ b) = b := by decide
@[simp] theorem cut41 : ∀ (a : BitVec 3) (b : BitVec 2), BitVec.extractLsb' (n := 5) 2 3 (a ++ b) = a := by decide
@[simp] theorem cut42 : ∀ (a : BitVec 4) (b : BitVec 1) (c : BitVec 1) (d : BitVec 1), BitVec.extractLsb' (n := 7) 0 1 (a ++ b ++ c ++ d) = d := by decide
@[simp] theorem cut43 : ∀ (a : BitVec 4) (b : BitVec 1) (c : BitVec 1) (d : BitVec 1), BitVec.extractLsb' (n := 7) 1 1 (a ++ b ++ c ++ d) = c := by decide
@[simp] theorem cut44 : ∀ (a : BitVec 4) (b : BitVec 1) (c : BitVec 1) (d : BitVec 1), BitVec.extractLsb' (n := 7) 2 1 (a ++ b ++ c ++ d) = b := by decide
@[simp] theorem cut45 : ∀ (a : BitVec 4) (b : BitVec 1) (c : BitVec 1) (d : BitVec 1), BitVec.extractLsb' (n := 7) 3 4 (a ++ b ++ c ++ d) = a := by decide
@[simp] theorem cut46 : ∀ (a : BitVec 4) (b : BitVec 3), BitVec.extractLsb' (n := 7) 0 3 (a ++ b) = b := by decide
@[simp] theorem cut47 : ∀ (a : BitVec 4) (b : BitVec 3), BitVec.extractLsb' (n := 7) 3 4 (a ++ b) = a := by decide
@[simp] theorem cut48 : ∀ (a : BitVec 5) (b : BitVec 1) (c : BitVec 1), BitVec.extractLsb' (n := 7) 0 1 (a ++ b ++ c) = c := by decide
@[simp] theorem cut49 : ∀ (a : BitVec 5) (b : BitVec 1) (c : BitVec 1), BitVec.extractLsb' (n := 7) 1 1 (a ++ b ++ c) = b := by decide
@[simp] theorem cut50 : ∀ (a : BitVec 5) (b : BitVec 1) (c : BitVec 1), BitVec.extractLsb' (n := 7) 2 5 (a ++ b ++ c) = a := by decide
@[simp] theorem cut51 : ∀ (a : BitVec 6) (b : BitVec 1), BitVec.extractLsb' (n := 7) 0 1 (a ++ b) = b := by decide
@[simp] theorem cut52 : ∀ (a : BitVec 6) (b : BitVec 1), BitVec.extractLsb' (n := 7) 1 6 (a ++ b) = a := by decide
@[simp] theorem join4 : ∀ p : BitVec 4, p.extractLsb' 1 3 ++ p.extractLsb' 0 1 = p := by decide
@[simp] theorem join2 : ∀ c : BitVec 2, c.extractLsb' 1 1 ++ c.extractLsb' 0 1 = c := by decide
@[simp] theorem join10 (r : BitVec 10) : r.extractLsb' 3 7 ++ r.extractLsb' 0 3 = r := (join r 3 7 0).trans BitVec.extractLsb'_eq_self
@[simp] theorem join10' (r : BitVec 10) : r.extractLsb' 8 2 ++ r.extractLsb' 3 5 ++ r.extractLsb' 0 3 = r :=
  (congrArg (· ++ r.extractLsb' 0 3) (join r 5 2 3)).trans (join10 r)
theorem top8 : ∀ (x : BitVec 4) (y : BitVec 3), (x ++ y : BitVec 7) = 8#7 ↔ x = 1#4 ∧ y = 0#3 := by decide
theorem top16 : ∀ (x : BitVec 4) (y : BitVec 3), (x ++ y : BitVec 7) = 16#7 ↔ x = 2#4 ∧ y = 0#3 := by decide
theorem top80 : ∀ (x : BitVec 4) (y : BitVec 3), (x ++ y : BitVec 7) = 80#7 ↔ x = 10#4 ∧ y = 0#3 := by decide
theorem top88 : ∀ (x : BitVec 4) (y : BitVec 3), (x ++ y : BitVec 7) = 88#7 ↔ x = 11#4 ∧ y = 0#3 := by decide
theorem zero61 : ∀ (x : BitVec 6) (y : BitVec 1), (x ++ y : BitVec 7) = 0#7 ↔ x = 0#6 ∧ y = 0#1 := by decide
theorem four23 : ∀ (x : BitVec 2) (y : BitVec 3), (x ++ y : BitVec 5) = 4#5 ↔ x = 0#2 ∧ y = 4#3 := by decide
theorem zero4 : ∀ (x : BitVec 4) (y z w : BitVec 1), (x ++ y ++ z ++ w : BitVec 7) = 0#7 ↔ x = 0#4 ∧ y = 0#1 ∧ z = 0#1 ∧ w = 0#1 := by decide

/-! ## The instructions -/

theorem lui (imm : BitVec 20) (d : BitVec 5) : Statement (.lui imm d) := by
  rintro x ⟨⟩
  simp [rawDecode, rawLui]

theorem auipc (imm : BitVec 20) (d : BitVec 5) : Statement (.auipc imm d) := by
  rintro x ⟨⟩
  simp [rawDecode, rawAuipc]

theorem jal (imm : BitVec 20) (d : BitVec 5) : Statement (.jal imm d) := by
  rintro x ⟨⟩
  simp [rawDecode, rawJal]

theorem jalr (imm : BitVec 12) (a : BitVec 5) (d : BitVec 5) : Statement (.jalr imm a d) := by
  rintro x ⟨⟩
  simp [rawDecode, rawJalr]

theorem beq (b : BitVec 5) (a : BitVec 5) (off : BitVec 12) : Statement (.beq b a off) := by
  rintro x ⟨⟩
  simp [rawDecode, rawBranch]

theorem bne (b : BitVec 5) (a : BitVec 5) (off : BitVec 12) : Statement (.bne b a off) := by
  rintro x ⟨⟩
  simp [rawDecode, rawBranch]

theorem blt (b : BitVec 5) (a : BitVec 5) (off : BitVec 12) : Statement (.blt b a off) := by
  rintro x ⟨⟩
  simp [rawDecode, rawBranch]

theorem bge (b : BitVec 5) (a : BitVec 5) (off : BitVec 12) : Statement (.bge b a off) := by
  rintro x ⟨⟩
  simp [rawDecode, rawBranch]

theorem bltu (b : BitVec 5) (a : BitVec 5) (off : BitVec 12) : Statement (.bltu b a off) := by
  rintro x ⟨⟩
  simp [rawDecode, rawBranch]

theorem bgeu (b : BitVec 5) (a : BitVec 5) (off : BitVec 12) : Statement (.bgeu b a off) := by
  rintro x ⟨⟩
  simp [rawDecode, rawBranch]

theorem lb (imm : BitVec 12) (a : BitVec 5) (d : BitVec 5) : Statement (.lb imm a d) := by
  rintro x ⟨⟩
  simp [rawDecode, rawLoad]

theorem lh (imm : BitVec 12) (a : BitVec 5) (d : BitVec 5) : Statement (.lh imm a d) := by
  rintro x ⟨⟩
  simp [rawDecode, rawLoad]

theorem lw (imm : BitVec 12) (a : BitVec 5) (d : BitVec 5) : Statement (.lw imm a d) := by
  rintro x ⟨⟩
  simp [rawDecode, rawLoad]

theorem ld (imm : BitVec 12) (a : BitVec 5) (d : BitVec 5) : Statement (.ld imm a d) := by
  rintro x ⟨⟩
  simp [rawDecode, rawLoad]

theorem lbu (imm : BitVec 12) (a : BitVec 5) (d : BitVec 5) : Statement (.lbu imm a d) := by
  rintro x ⟨⟩
  simp [rawDecode, rawLoad]

theorem lhu (imm : BitVec 12) (a : BitVec 5) (d : BitVec 5) : Statement (.lhu imm a d) := by
  rintro x ⟨⟩
  simp [rawDecode, rawLoad]

theorem lwu (imm : BitVec 12) (a : BitVec 5) (d : BitVec 5) : Statement (.lwu imm a d) := by
  rintro x ⟨⟩
  simp [rawDecode, rawLoad]

theorem sb (b : BitVec 5) (a : BitVec 5) (imm : BitVec 12) : Statement (.sb b a imm) := by
  rintro x ⟨⟩
  simp [rawDecode, rawStore]

theorem sh (b : BitVec 5) (a : BitVec 5) (imm : BitVec 12) : Statement (.sh b a imm) := by
  rintro x ⟨⟩
  simp [rawDecode, rawStore]

theorem sw (b : BitVec 5) (a : BitVec 5) (imm : BitVec 12) : Statement (.sw b a imm) := by
  rintro x ⟨⟩
  simp [rawDecode, rawStore]

theorem sd (b : BitVec 5) (a : BitVec 5) (imm : BitVec 12) : Statement (.sd b a imm) := by
  rintro x ⟨⟩
  simp [rawDecode, rawStore]

theorem add (b : BitVec 5) (a : BitVec 5) (d : BitVec 5) : Statement (.add b a d) := by
  rintro x ⟨⟩
  simp [rawDecode, rawOp]

theorem sll (b : BitVec 5) (a : BitVec 5) (d : BitVec 5) : Statement (.sll b a d) := by
  rintro x ⟨⟩
  simp [rawDecode, rawOp]

theorem slt (b : BitVec 5) (a : BitVec 5) (d : BitVec 5) : Statement (.slt b a d) := by
  rintro x ⟨⟩
  simp [rawDecode, rawOp]

theorem sltu (b : BitVec 5) (a : BitVec 5) (d : BitVec 5) : Statement (.sltu b a d) := by
  rintro x ⟨⟩
  simp [rawDecode, rawOp]

theorem xor (b : BitVec 5) (a : BitVec 5) (d : BitVec 5) : Statement (.xor b a d) := by
  rintro x ⟨⟩
  simp [rawDecode, rawOp]

theorem srl (b : BitVec 5) (a : BitVec 5) (d : BitVec 5) : Statement (.srl b a d) := by
  rintro x ⟨⟩
  simp [rawDecode, rawOp]

theorem or (b : BitVec 5) (a : BitVec 5) (d : BitVec 5) : Statement (.or b a d) := by
  rintro x ⟨⟩
  simp [rawDecode, rawOp]

theorem and (b : BitVec 5) (a : BitVec 5) (d : BitVec 5) : Statement (.and b a d) := by
  rintro x ⟨⟩
  simp [rawDecode, rawOp]

theorem sub (b : BitVec 5) (a : BitVec 5) (d : BitVec 5) : Statement (.sub b a d) := by
  rintro x ⟨⟩
  simp [rawDecode, rawOp]

theorem xnor (b : BitVec 5) (a : BitVec 5) (d : BitVec 5) : Statement (.xnor b a d) := by
  rintro x ⟨⟩
  simp [rawDecode, rawOp]

theorem sra (b : BitVec 5) (a : BitVec 5) (d : BitVec 5) : Statement (.sra b a d) := by
  rintro x ⟨⟩
  simp [rawDecode, rawOp]

theorem orn (b : BitVec 5) (a : BitVec 5) (d : BitVec 5) : Statement (.orn b a d) := by
  rintro x ⟨⟩
  simp [rawDecode, rawOp]

theorem andn (b : BitVec 5) (a : BitVec 5) (d : BitVec 5) : Statement (.andn b a d) := by
  rintro x ⟨⟩
  simp [rawDecode, rawOp]

theorem mul (b : BitVec 5) (a : BitVec 5) (d : BitVec 5) : Statement (.mul b a d) := by
  rintro x ⟨⟩
  simp [rawDecode, rawOp]

theorem mulh (b : BitVec 5) (a : BitVec 5) (d : BitVec 5) : Statement (.mulh b a d) := by
  rintro x ⟨⟩
  simp [rawDecode, rawOp]

theorem mulhsu (b : BitVec 5) (a : BitVec 5) (d : BitVec 5) : Statement (.mulhsu b a d) := by
  rintro x ⟨⟩
  simp [rawDecode, rawOp]

theorem mulhu (b : BitVec 5) (a : BitVec 5) (d : BitVec 5) : Statement (.mulhu b a d) := by
  rintro x ⟨⟩
  simp [rawDecode, rawOp]

theorem div (b : BitVec 5) (a : BitVec 5) (d : BitVec 5) : Statement (.div b a d) := by
  rintro x ⟨⟩
  simp [rawDecode, rawOp]

theorem divu (b : BitVec 5) (a : BitVec 5) (d : BitVec 5) : Statement (.divu b a d) := by
  rintro x ⟨⟩
  simp [rawDecode, rawOp]

theorem rem (b : BitVec 5) (a : BitVec 5) (d : BitVec 5) : Statement (.rem b a d) := by
  rintro x ⟨⟩
  simp [rawDecode, rawOp]

theorem remu (b : BitVec 5) (a : BitVec 5) (d : BitVec 5) : Statement (.remu b a d) := by
  rintro x ⟨⟩
  simp [rawDecode, rawOp]

theorem sh1add (b : BitVec 5) (a : BitVec 5) (d : BitVec 5) : Statement (.sh1add b a d) := by
  rintro x ⟨⟩
  simp [rawDecode, rawOp]

theorem sh2add (b : BitVec 5) (a : BitVec 5) (d : BitVec 5) : Statement (.sh2add b a d) := by
  rintro x ⟨⟩
  simp [rawDecode, rawOp]

theorem sh3add (b : BitVec 5) (a : BitVec 5) (d : BitVec 5) : Statement (.sh3add b a d) := by
  rintro x ⟨⟩
  simp [rawDecode, rawOp]

theorem min (b : BitVec 5) (a : BitVec 5) (d : BitVec 5) : Statement (.min b a d) := by
  rintro x ⟨⟩
  simp [rawDecode, rawOp]

theorem minu (b : BitVec 5) (a : BitVec 5) (d : BitVec 5) : Statement (.minu b a d) := by
  rintro x ⟨⟩
  simp [rawDecode, rawOp]

theorem max (b : BitVec 5) (a : BitVec 5) (d : BitVec 5) : Statement (.max b a d) := by
  rintro x ⟨⟩
  simp [rawDecode, rawOp]

theorem maxu (b : BitVec 5) (a : BitVec 5) (d : BitVec 5) : Statement (.maxu b a d) := by
  rintro x ⟨⟩
  simp [rawDecode, rawOp]

theorem rol (b : BitVec 5) (a : BitVec 5) (d : BitVec 5) : Statement (.rol b a d) := by
  rintro x ⟨⟩
  simp [rawDecode, rawOp]

theorem ror (b : BitVec 5) (a : BitVec 5) (d : BitVec 5) : Statement (.ror b a d) := by
  rintro x ⟨⟩
  simp [rawDecode, rawOp]

theorem addw (b : BitVec 5) (a : BitVec 5) (d : BitVec 5) : Statement (.addw b a d) := by
  rintro x ⟨⟩
  simp [rawDecode, rawOp32]

theorem sllw (b : BitVec 5) (a : BitVec 5) (d : BitVec 5) : Statement (.sllw b a d) := by
  rintro x ⟨⟩
  simp [rawDecode, rawOp32]

theorem srlw (b : BitVec 5) (a : BitVec 5) (d : BitVec 5) : Statement (.srlw b a d) := by
  rintro x ⟨⟩
  simp [rawDecode, rawOp32]

theorem subw (b : BitVec 5) (a : BitVec 5) (d : BitVec 5) : Statement (.subw b a d) := by
  rintro x ⟨⟩
  simp [rawDecode, rawOp32]

theorem sraw (b : BitVec 5) (a : BitVec 5) (d : BitVec 5) : Statement (.sraw b a d) := by
  rintro x ⟨⟩
  simp [rawDecode, rawOp32]

theorem mulw (b : BitVec 5) (a : BitVec 5) (d : BitVec 5) : Statement (.mulw b a d) := by
  rintro x ⟨⟩
  simp [rawDecode, rawOp32]

theorem divw (b : BitVec 5) (a : BitVec 5) (d : BitVec 5) : Statement (.divw b a d) := by
  rintro x ⟨⟩
  simp [rawDecode, rawOp32]

theorem divuw (b : BitVec 5) (a : BitVec 5) (d : BitVec 5) : Statement (.divuw b a d) := by
  rintro x ⟨⟩
  simp [rawDecode, rawOp32]

theorem remw (b : BitVec 5) (a : BitVec 5) (d : BitVec 5) : Statement (.remw b a d) := by
  rintro x ⟨⟩
  simp [rawDecode, rawOp32]

theorem remuw (b : BitVec 5) (a : BitVec 5) (d : BitVec 5) : Statement (.remuw b a d) := by
  rintro x ⟨⟩
  simp [rawDecode, rawOp32]

theorem sh1addUw (b : BitVec 5) (a : BitVec 5) (d : BitVec 5) : Statement (.sh1addUw b a d) := by
  rintro x ⟨⟩
  simp [rawDecode, rawOp32]

theorem sh2addUw (b : BitVec 5) (a : BitVec 5) (d : BitVec 5) : Statement (.sh2addUw b a d) := by
  rintro x ⟨⟩
  simp [rawDecode, rawOp32]

theorem sh3addUw (b : BitVec 5) (a : BitVec 5) (d : BitVec 5) : Statement (.sh3addUw b a d) := by
  rintro x ⟨⟩
  simp [rawDecode, rawOp32]

theorem addUw (b : BitVec 5) (a : BitVec 5) (d : BitVec 5) : Statement (.addUw b a d) := by
  rintro x ⟨⟩
  simp [rawDecode, rawOp32]

theorem zextH (a : BitVec 5) (d : BitVec 5) : Statement (.zextH a d) := by
  rintro x ⟨⟩
  simp [rawDecode, rawOp32]

theorem rolw (b : BitVec 5) (a : BitVec 5) (d : BitVec 5) : Statement (.rolw b a d) := by
  rintro x ⟨⟩
  simp [rawDecode, rawOp32]

theorem rorw (b : BitVec 5) (a : BitVec 5) (d : BitVec 5) : Statement (.rorw b a d) := by
  rintro x ⟨⟩
  simp [rawDecode, rawOp32]

theorem addi (imm : BitVec 12) (a : BitVec 5) (d : BitVec 5) : Statement (.addi imm a d) := by
  rintro x ⟨⟩
  simp [rawDecode, rawOpImm]

theorem slti (imm : BitVec 12) (a : BitVec 5) (d : BitVec 5) : Statement (.slti imm a d) := by
  rintro x ⟨⟩
  simp [rawDecode, rawOpImm]

theorem sltiu (imm : BitVec 12) (a : BitVec 5) (d : BitVec 5) : Statement (.sltiu imm a d) := by
  rintro x ⟨⟩
  simp [rawDecode, rawOpImm]

theorem xori (imm : BitVec 12) (a : BitVec 5) (d : BitVec 5) : Statement (.xori imm a d) := by
  rintro x ⟨⟩
  simp [rawDecode, rawOpImm]

theorem ori (imm : BitVec 12) (a : BitVec 5) (d : BitVec 5) : Statement (.ori imm a d) := by
  rintro x ⟨⟩
  simp [rawDecode, rawOpImm]

theorem andi (imm : BitVec 12) (a : BitVec 5) (d : BitVec 5) : Statement (.andi imm a d) := by
  rintro x ⟨⟩
  simp [rawDecode, rawOpImm]

theorem slli (sh : BitVec 6) (a : BitVec 5) (d : BitVec 5) : Statement (.slli sh a d) := by
  rintro x ⟨⟩
  simp [rawDecode, rawOpImm]

theorem srli (sh : BitVec 6) (a : BitVec 5) (d : BitVec 5) : Statement (.srli sh a d) := by
  rintro x ⟨⟩
  simp [rawDecode, rawOpImm]

theorem srai (sh : BitVec 6) (a : BitVec 5) (d : BitVec 5) : Statement (.srai sh a d) := by
  rintro x ⟨⟩
  simp [rawDecode, rawOpImm]

theorem rori (sh : BitVec 6) (a : BitVec 5) (d : BitVec 5) : Statement (.rori sh a d) := by
  rintro x ⟨⟩
  simp [rawDecode, rawOpImm]

theorem clz (a : BitVec 5) (d : BitVec 5) : Statement (.clz a d) := by
  rintro x ⟨⟩
  simp [rawDecode, rawOpImm]

theorem ctz (a : BitVec 5) (d : BitVec 5) : Statement (.ctz a d) := by
  rintro x ⟨⟩
  simp [rawDecode, rawOpImm]

theorem cpop (a : BitVec 5) (d : BitVec 5) : Statement (.cpop a d) := by
  rintro x ⟨⟩
  simp [rawDecode, rawOpImm]

theorem sextB (a : BitVec 5) (d : BitVec 5) : Statement (.sextB a d) := by
  rintro x ⟨⟩
  simp [rawDecode, rawOpImm]

theorem sextH (a : BitVec 5) (d : BitVec 5) : Statement (.sextH a d) := by
  rintro x ⟨⟩
  simp [rawDecode, rawOpImm]

theorem rev8 (a : BitVec 5) (d : BitVec 5) : Statement (.rev8 a d) := by
  rintro x ⟨⟩
  simp [rawDecode, rawOpImm]

theorem addiw (imm : BitVec 12) (a : BitVec 5) (d : BitVec 5) : Statement (.addiw imm a d) := by
  rintro x ⟨⟩
  simp [rawDecode, rawOpImm32]

theorem slliw (sh : BitVec 5) (a : BitVec 5) (d : BitVec 5) : Statement (.slliw sh a d) := by
  rintro x ⟨⟩
  simp [rawDecode, rawOpImm32]

theorem srliw (sh : BitVec 5) (a : BitVec 5) (d : BitVec 5) : Statement (.srliw sh a d) := by
  rintro x ⟨⟩
  simp [rawDecode, rawOpImm32]

theorem sraiw (sh : BitVec 5) (a : BitVec 5) (d : BitVec 5) : Statement (.sraiw sh a d) := by
  rintro x ⟨⟩
  simp [rawDecode, rawOpImm32]

theorem roriw (sh : BitVec 5) (a : BitVec 5) (d : BitVec 5) : Statement (.roriw sh a d) := by
  rintro x ⟨⟩
  simp [rawDecode, rawOpImm32]

theorem slliUw (sh : BitVec 6) (a : BitVec 5) (d : BitVec 5) : Statement (.slliUw sh a d) := by
  rintro x ⟨⟩
  simp [rawDecode, rawOpImm32, zero61]

theorem clzw (a : BitVec 5) (d : BitVec 5) : Statement (.clzw a d) := by
  rintro x ⟨⟩
  simp [rawDecode, rawOpImm32]

theorem ctzw (a : BitVec 5) (d : BitVec 5) : Statement (.ctzw a d) := by
  rintro x ⟨⟩
  simp [rawDecode, rawOpImm32]

theorem cpopw (a : BitVec 5) (d : BitVec 5) : Statement (.cpopw a d) := by
  rintro x ⟨⟩
  simp [rawDecode, rawOpImm32]

theorem lr (aq : BitVec 1) (rl : BitVec 1) (a : BitVec 5) (w : BitVec 1) (d : BitVec 5) : Statement (.lr aq rl a w d) := by
  rintro x ⟨⟩
  simp [rawDecode, rawAmo]

theorem sc (aq : BitVec 1) (rl : BitVec 1) (b : BitVec 5) (a : BitVec 5) (w : BitVec 1) (d : BitVec 5) : Statement (.sc aq rl b a w d) := by
  rintro x ⟨⟩
  simp [rawDecode, rawAmo]

theorem amoswap (aq : BitVec 1) (rl : BitVec 1) (b : BitVec 5) (a : BitVec 5) (w : BitVec 1) (d : BitVec 5) : Statement (.amoswap aq rl b a w d) := by
  rintro x ⟨⟩
  simp [rawDecode, rawAmo]

theorem amoadd (aq : BitVec 1) (rl : BitVec 1) (b : BitVec 5) (a : BitVec 5) (w : BitVec 1) (d : BitVec 5) : Statement (.amoadd aq rl b a w d) := by
  rintro x ⟨⟩
  simp [rawDecode, rawAmo]

theorem amoxor (aq : BitVec 1) (rl : BitVec 1) (b : BitVec 5) (a : BitVec 5) (w : BitVec 1) (d : BitVec 5) : Statement (.amoxor aq rl b a w d) := by
  rintro x ⟨⟩
  simp [rawDecode, rawAmo]

theorem amoand (aq : BitVec 1) (rl : BitVec 1) (b : BitVec 5) (a : BitVec 5) (w : BitVec 1) (d : BitVec 5) : Statement (.amoand aq rl b a w d) := by
  rintro x ⟨⟩
  simp [rawDecode, rawAmo]

theorem amoor (aq : BitVec 1) (rl : BitVec 1) (b : BitVec 5) (a : BitVec 5) (w : BitVec 1) (d : BitVec 5) : Statement (.amoor aq rl b a w d) := by
  rintro x ⟨⟩
  simp [rawDecode, rawAmo]

theorem amomin (aq : BitVec 1) (rl : BitVec 1) (b : BitVec 5) (a : BitVec 5) (w : BitVec 1) (d : BitVec 5) : Statement (.amomin aq rl b a w d) := by
  rintro x ⟨⟩
  simp [rawDecode, rawAmo]

theorem amomax (aq : BitVec 1) (rl : BitVec 1) (b : BitVec 5) (a : BitVec 5) (w : BitVec 1) (d : BitVec 5) : Statement (.amomax aq rl b a w d) := by
  rintro x ⟨⟩
  simp [rawDecode, rawAmo]

theorem amominu (aq : BitVec 1) (rl : BitVec 1) (b : BitVec 5) (a : BitVec 5) (w : BitVec 1) (d : BitVec 5) : Statement (.amominu aq rl b a w d) := by
  rintro x ⟨⟩
  simp [rawDecode, rawAmo]

theorem amomaxu (aq : BitVec 1) (rl : BitVec 1) (b : BitVec 5) (a : BitVec 5) (w : BitVec 1) (d : BitVec 5) : Statement (.amomaxu aq rl b a w d) := by
  rintro x ⟨⟩
  simp [rawDecode, rawAmo]

theorem fence (p : BitVec 4) (c : BitVec 4) : Statement (.fence p c) := by
  rintro x ⟨⟩
  simp [rawDecode, rawMiscMem, join4]

theorem fenceTso : Statement .fenceTso := by
  rintro x ⟨⟩
  simp [rawDecode, rawMiscMem]

theorem fenceI : Statement .fenceI := by
  rintro x ⟨⟩
  simp [rawDecode, rawMiscMem]

theorem ecall : Statement .ecall := by
  rintro x ⟨⟩
  simp [rawDecode, rawSystem]

theorem ebreak : Statement .ebreak := by
  rintro x ⟨⟩
  simp [rawDecode, rawSystem]

theorem csrrw (c : BitVec 12) (a : BitVec 5) (d : BitVec 5) : Statement (.csrrw c a d) := by
  rintro x ⟨⟩
  simp [rawDecode, rawSystem]

theorem csrrs (c : BitVec 12) (a : BitVec 5) (d : BitVec 5) : Statement (.csrrs c a d) := by
  rintro x ⟨⟩
  simp [rawDecode, rawSystem]

theorem csrrc (c : BitVec 12) (a : BitVec 5) (d : BitVec 5) : Statement (.csrrc c a d) := by
  rintro x ⟨⟩
  simp [rawDecode, rawSystem]

theorem csrrwi (c : BitVec 12) (u : BitVec 5) (d : BitVec 5) : Statement (.csrrwi c u d) := by
  rintro x ⟨⟩
  simp [rawDecode, rawSystem]

theorem csrrsi (c : BitVec 12) (u : BitVec 5) (d : BitVec 5) : Statement (.csrrsi c u d) := by
  rintro x ⟨⟩
  simp [rawDecode, rawSystem]

theorem csrrci (c : BitVec 12) (u : BitVec 5) (d : BitVec 5) : Statement (.csrrci c u d) := by
  rintro x ⟨⟩
  simp [rawDecode, rawSystem]

theorem hnop (p : BitVec 20) : Statement (.hnop p) := by
  rintro x ⟨⟩
  simp [rawDecode, rawHint]

theorem hwide (p : BitVec 20) : Statement (.hwide p) := by
  rintro x ⟨⟩
  simp [rawDecode, rawHint]

theorem hscope (t : BitVec 1) (c : BitVec 2) (o : BitVec 2) : Statement (.hscope t c o) := by
  rintro x ⟨⟩
  simp [rawDecode, rawHint, join2]

theorem hwait (w : BitVec 2) : Statement (.hwait w) := by
  rintro x ⟨⟩
  simp [rawDecode, rawHint]

theorem hpred (p : BitVec 3) : Statement (.hpred p) := by
  rintro x ⟨⟩
  simp [rawDecode, rawHint]

theorem hbrh (p : BitVec 20) : Statement (.hbrh p) := by
  rintro x ⟨⟩
  simp [rawDecode, rawHint]

theorem hprio (p : BitVec 2) : Statement (.hprio p) := by
  rintro x ⟨⟩
  simp [rawDecode, rawHint]

theorem hstream (p : BitVec 2) : Statement (.hstream p) := by
  rintro x ⟨⟩
  simp [rawDecode, rawHint]

theorem htileco (rl : BitVec 10) (c : BitVec 10) : Statement (.htileco rl c) := by
  rintro x ⟨⟩
  simp [rawDecode, rawHint, join10, join10']

theorem qsub (b : BitVec 5) (a : BitVec 5) (d : BitVec 5) : Statement (.qsub b a d) := by
  rintro x ⟨⟩
  simp [rawDecode, rawTask]

theorem qsubT (b : BitVec 5) (a : BitVec 5) (d : BitVec 5) : Statement (.qsubT b a d) := by
  rintro x ⟨⟩
  simp [rawDecode, rawTask]

theorem trig : Statement .trig := by
  rintro x ⟨⟩
  simp [rawDecode, rawTask]

theorem lstat (a : BitVec 5) (f : BitVec 2) (d : BitVec 5) : Statement (.lstat a f d) := by
  rintro x ⟨⟩
  simp [rawDecode, rawTask]

theorem tlbInv (b : BitVec 5) (a : BitVec 5) (rl : BitVec 2) (s : BitVec 2) : Statement (.tlbInv b a rl s) := by
  rintro x ⟨⟩
  simp [rawDecode, rawSystem]

theorem tlbSync : Statement .tlbSync := by
  rintro x ⟨⟩
  simp [rawDecode, rawSystem]

theorem vadd (pg : BitVec 3) (b : BitVec 5) (a : BitVec 5) (f : BitVec 2) (d : BitVec 5) : Statement (.vadd pg b a f d) := by
  rintro x ⟨⟩
  simp [rawDecode, rawVint]

theorem vsub (pg : BitVec 3) (b : BitVec 5) (a : BitVec 5) (f : BitVec 2) (d : BitVec 5) : Statement (.vsub pg b a f d) := by
  rintro x ⟨⟩
  simp [rawDecode, rawVint]

theorem vmul (pg : BitVec 3) (b : BitVec 5) (a : BitVec 5) (f : BitVec 2) (d : BitVec 5) : Statement (.vmul pg b a f d) := by
  rintro x ⟨⟩
  simp [rawDecode, rawVint]

theorem vmulh (pg : BitVec 3) (b : BitVec 5) (a : BitVec 5) (s : BitVec 1) (f : BitVec 2) (d : BitVec 5) : Statement (.vmulh pg b a s f d) := by
  rintro x ⟨⟩
  simp [rawDecode, rawVint]

theorem vmin (pg : BitVec 3) (b : BitVec 5) (a : BitVec 5) (s : BitVec 1) (f : BitVec 2) (d : BitVec 5) : Statement (.vmin pg b a s f d) := by
  rintro x ⟨⟩
  simp [rawDecode, rawVint]

theorem vmax (pg : BitVec 3) (b : BitVec 5) (a : BitVec 5) (s : BitVec 1) (f : BitVec 2) (d : BitVec 5) : Statement (.vmax pg b a s f d) := by
  rintro x ⟨⟩
  simp [rawDecode, rawVint]

theorem vabs (pg : BitVec 3) (a : BitVec 5) (d : BitVec 5) : Statement (.vabs pg a d) := by
  rintro x ⟨⟩
  simp [rawDecode, rawVint]

theorem vand (pg : BitVec 3) (b : BitVec 5) (a : BitVec 5) (f : BitVec 2) (d : BitVec 5) : Statement (.vand pg b a f d) := by
  rintro x ⟨⟩
  simp [rawDecode, rawVint]

theorem vor (pg : BitVec 3) (b : BitVec 5) (a : BitVec 5) (f : BitVec 2) (d : BitVec 5) : Statement (.vor pg b a f d) := by
  rintro x ⟨⟩
  simp [rawDecode, rawVint]

theorem vxor (pg : BitVec 3) (b : BitVec 5) (a : BitVec 5) (f : BitVec 2) (d : BitVec 5) : Statement (.vxor pg b a f d) := by
  rintro x ⟨⟩
  simp [rawDecode, rawVint]

theorem vsll (pg : BitVec 3) (b : BitVec 5) (a : BitVec 5) (f : BitVec 2) (d : BitVec 5) : Statement (.vsll pg b a f d) := by
  rintro x ⟨⟩
  simp [rawDecode, rawVint]

theorem vsrl (pg : BitVec 3) (b : BitVec 5) (a : BitVec 5) (f : BitVec 2) (d : BitVec 5) : Statement (.vsrl pg b a f d) := by
  rintro x ⟨⟩
  simp [rawDecode, rawVint]

theorem vsra (pg : BitVec 3) (b : BitVec 5) (a : BitVec 5) (f : BitVec 2) (d : BitVec 5) : Statement (.vsra pg b a f d) := by
  rintro x ⟨⟩
  simp [rawDecode, rawVint]

theorem vcmp (c : BitVec 3) (b : BitVec 5) (a : BitVec 5) (f : BitVec 2) (d : BitVec 5) : Statement (.vcmp c b a f d) := by
  rintro x ⟨⟩
  simp [rawDecode, rawVint]

theorem vsel (c : BitVec 3) (b : BitVec 5) (a : BitVec 5) (f : BitVec 2) (d : BitVec 5) : Statement (.vsel c b a f d) := by
  rintro x ⟨⟩
  simp [rawDecode, rawVint]

theorem vsadd (pg : BitVec 3) (b : BitVec 5) (a : BitVec 5) (s : BitVec 1) (f : BitVec 2) (d : BitVec 5) : Statement (.vsadd pg b a s f d) := by
  rintro x ⟨⟩
  simp [rawDecode, rawVint]

theorem vfadd (pg : BitVec 3) (b : BitVec 5) (a : BitVec 5) (f : BitVec 2) (d : BitVec 5) : Statement (.vfadd pg b a f d) := by
  rintro x ⟨⟩
  simp [rawDecode, rawVflt]

theorem vfsub (pg : BitVec 3) (b : BitVec 5) (a : BitVec 5) (f : BitVec 2) (d : BitVec 5) : Statement (.vfsub pg b a f d) := by
  rintro x ⟨⟩
  simp [rawDecode, rawVflt]

theorem vfmul (pg : BitVec 3) (b : BitVec 5) (a : BitVec 5) (f : BitVec 2) (d : BitVec 5) : Statement (.vfmul pg b a f d) := by
  rintro x ⟨⟩
  simp [rawDecode, rawVflt]

theorem vfma (pg : BitVec 3) (b : BitVec 5) (a : BitVec 5) (f : BitVec 2) (d : BitVec 5) : Statement (.vfma pg b a f d) := by
  rintro x ⟨⟩
  simp [rawDecode, rawVflt]

theorem vfmin (pg : BitVec 3) (b : BitVec 5) (a : BitVec 5) (f : BitVec 2) (d : BitVec 5) : Statement (.vfmin pg b a f d) := by
  rintro x ⟨⟩
  simp [rawDecode, rawVflt]

theorem vfmax (pg : BitVec 3) (b : BitVec 5) (a : BitVec 5) (f : BitVec 2) (d : BitVec 5) : Statement (.vfmax pg b a f d) := by
  rintro x ⟨⟩
  simp [rawDecode, rawVflt]

theorem vfmaxabs (pg : BitVec 3) (b : BitVec 5) (a : BitVec 5) (f : BitVec 2) (d : BitVec 5) : Statement (.vfmaxabs pg b a f d) := by
  rintro x ⟨⟩
  simp [rawDecode, rawVflt]

theorem vfabs (pg : BitVec 3) (a : BitVec 5) (d : BitVec 5) : Statement (.vfabs pg a d) := by
  rintro x ⟨⟩
  simp [rawDecode, rawVflt]

theorem vfneg (pg : BitVec 3) (a : BitVec 5) (d : BitVec 5) : Statement (.vfneg pg a d) := by
  rintro x ⟨⟩
  simp [rawDecode, rawVflt]

theorem vfcmp (c : BitVec 3) (b : BitVec 5) (a : BitVec 5) (f : BitVec 2) (d : BitVec 5) : Statement (.vfcmp c b a f d) := by
  rintro x ⟨⟩
  simp [rawDecode, rawVflt]

theorem vfclass (pg : BitVec 3) (a : BitVec 5) (d : BitVec 5) : Statement (.vfclass pg a d) := by
  rintro x ⟨⟩
  simp [rawDecode, rawVflt]

theorem vfrcp (pg : BitVec 3) (a : BitVec 5) (d : BitVec 5) : Statement (.vfrcp pg a d) := by
  rintro x ⟨⟩
  simp [rawDecode, rawVflt]

theorem vfrsq (pg : BitVec 3) (a : BitVec 5) (d : BitVec 5) : Statement (.vfrsq pg a d) := by
  rintro x ⟨⟩
  simp [rawDecode, rawVflt]

theorem vfexp2 (pg : BitVec 3) (a : BitVec 5) (d : BitVec 5) : Statement (.vfexp2 pg a d) := by
  rintro x ⟨⟩
  simp [rawDecode, rawVflt]

theorem vflog2 (pg : BitVec 3) (a : BitVec 5) (d : BitVec 5) : Statement (.vflog2 pg a d) := by
  rintro x ⟨⟩
  simp [rawDecode, rawVflt]

theorem vfdiv (pg : BitVec 3) (b : BitVec 5) (a : BitVec 5) (f : BitVec 2) (d : BitVec 5) : Statement (.vfdiv pg b a f d) := by
  rintro x ⟨⟩
  simp [rawDecode, rawVflt]

theorem vcvt (pg : BitVec 3) (t : BitVec 1) (f : BitVec 4) (a : BitVec 5) (u : BitVec 1) (j : BitVec 2) (d : BitVec 5) : Statement (.vcvt pg t f a u j d) := by
  rintro x ⟨⟩
  simp [rawDecode, rawVmisc]

theorem vpack (a : BitVec 5) (j : BitVec 1) (d : BitVec 5) : Statement (.vpack a j d) := by
  rintro x ⟨⟩
  simp [rawDecode, rawVmisc]

theorem vunpack (f : BitVec 4) (a : BitVec 5) (j : BitVec 1) (d : BitVec 5) : Statement (.vunpack f a j d) := by
  rintro x ⟨⟩
  simp [rawDecode, rawVmisc]

theorem vdq (pg : BitVec 3) (b : BitVec 5) (a : BitVec 5) (j : BitVec 2) (d : BitVec 5) : Statement (.vdq pg b a j d) := by
  rintro x ⟨⟩
  simp [rawDecode, rawVmisc, top8, top16]

theorem vredsum (pg : BitVec 3) (a : BitVec 5) (s : BitVec 1) (d : BitVec 5) : Statement (.vredsum pg a s d) := by
  rintro x ⟨⟩
  simp [rawDecode, rawVmisc, top8, top16]

theorem vredmax (pg : BitVec 3) (a : BitVec 5) (s : BitVec 1) (d : BitVec 5) : Statement (.vredmax pg a s d) := by
  rintro x ⟨⟩
  simp [rawDecode, rawVmisc, top8, top16]

theorem vredmin (pg : BitVec 3) (a : BitVec 5) (s : BitVec 1) (d : BitVec 5) : Statement (.vredmin pg a s d) := by
  rintro x ⟨⟩
  simp [rawDecode, rawVmisc, top8, top16]

theorem vperm (pg : BitVec 3) (b : BitVec 5) (a : BitVec 5) (d : BitVec 5) : Statement (.vperm pg b a d) := by
  rintro x ⟨⟩
  simp [rawDecode, rawVmisc, top8, top16]

theorem vslide (pg : BitVec 3) (b : BitVec 5) (a : BitVec 5) (f : BitVec 2) (d : BitVec 5) : Statement (.vslide pg b a f d) := by
  rintro x ⟨⟩
  simp [rawDecode, rawVmisc, top8, top16]

theorem vbcast (pg : BitVec 3) (f : BitVec 4) (a : BitVec 5) (d : BitVec 5) : Statement (.vbcast pg f a d) := by
  rintro x ⟨⟩
  simp [rawDecode, rawVmisc, top8, top16]

theorem vmvXv (b : BitVec 5) (a : BitVec 5) (u : BitVec 1) (d : BitVec 5) : Statement (.vmvXv b a u d) := by
  rintro x ⟨⟩
  simp [rawDecode, rawVmisc]

theorem vmvVx (b : BitVec 5) (a : BitVec 5) (d : BitVec 5) : Statement (.vmvVx b a d) := by
  rintro x ⟨⟩
  simp [rawDecode, rawVmisc]

theorem vlut (pg : BitVec 3) (b : BitVec 5) (a : BitVec 5) (j : BitVec 2) (d : BitVec 5) : Statement (.vlut pg b a j d) := by
  rintro x ⟨⟩
  simp [rawDecode, rawVmisc, top8, top16, top80, top88]

theorem vsettag (f : BitVec 4) (a : BitVec 5) (d : BitVec 5) : Statement (.vsettag f a d) := by
  rintro x ⟨⟩
  simp [rawDecode, rawVmisc]

theorem vtag (a : BitVec 5) (d : BitVec 5) : Statement (.vtag a d) := by
  rintro x ⟨⟩
  simp [rawDecode, rawVmisc]

theorem pand (b : BitVec 3) (a : BitVec 3) (d : BitVec 3) : Statement (.pand b a d) := by
  rintro x ⟨⟩
  simp [rawDecode, rawVmisc]

theorem por (b : BitVec 3) (a : BitVec 3) (d : BitVec 3) : Statement (.por b a d) := by
  rintro x ⟨⟩
  simp [rawDecode, rawVmisc]

theorem pxor (b : BitVec 3) (a : BitVec 3) (d : BitVec 3) : Statement (.pxor b a d) := by
  rintro x ⟨⟩
  simp [rawDecode, rawVmisc]

theorem pnot (a : BitVec 3) (d : BitVec 3) : Statement (.pnot a d) := by
  rintro x ⟨⟩
  simp [rawDecode, rawVmisc]

theorem pcnt (a : BitVec 3) (d : BitVec 5) : Statement (.pcnt a d) := by
  rintro x ⟨⟩
  simp [rawDecode, rawVmisc]

theorem pfirst (a : BitVec 3) (d : BitVec 5) : Statement (.pfirst a d) := by
  rintro x ⟨⟩
  simp [rawDecode, rawVmisc]

theorem tzero (f : BitVec 4) (d : BitVec 3) : Statement (.tzero f d) := by
  rintro x ⟨⟩
  simp [rawDecode, rawTile]

theorem tmov (a : BitVec 3) (d : BitVec 3) : Statement (.tmov a d) := by
  rintro x ⟨⟩
  simp [rawDecode, rawTile]

theorem ttrans (a : BitVec 3) (d : BitVec 3) : Statement (.ttrans a d) := by
  rintro x ⟨⟩
  simp [rawDecode, rawTile]

theorem tcvt (f : BitVec 4) (a : BitVec 3) (rl : BitVec 3) (d : BitVec 3) : Statement (.tcvt f a rl d) := by
  rintro x ⟨⟩
  simp [rawDecode, rawTile]

theorem tcvtSat (f : BitVec 4) (a : BitVec 3) (rl : BitVec 3) (d : BitVec 3) : Statement (.tcvtSat f a rl d) := by
  rintro x ⟨⟩
  simp [rawDecode, rawTile]

theorem tcvtNosat (f : BitVec 4) (a : BitVec 3) (rl : BitVec 3) (d : BitVec 3) : Statement (.tcvtNosat f a rl d) := by
  rintro x ⟨⟩
  simp [rawDecode, rawTile]

theorem tqset (a : BitVec 3) (d : BitVec 3) : Statement (.tqset a d) := by
  rintro x ⟨⟩
  simp [rawDecode, rawTile]

theorem tpick (b : BitVec 5) (a : BitVec 3) (c : BitVec 1) (d : BitVec 5) : Statement (.tpick b a c d) := by
  rintro x ⟨⟩
  simp [rawDecode, rawTile]

theorem tplace (b : BitVec 5) (a : BitVec 5) (c : BitVec 1) (d : BitVec 3) : Statement (.tplace b a c d) := by
  rintro x ⟨⟩
  simp [rawDecode, rawTile]

theorem ttagSet (f : BitVec 4) (d : BitVec 3) : Statement (.ttagSet f d) := by
  rintro x ⟨⟩
  simp [rawDecode, rawTile]

theorem ttagRead (a : BitVec 3) (d : BitVec 5) : Statement (.ttagRead a d) := by
  rintro x ⟨⟩
  simp [rawDecode, rawTile]

theorem xop (s : BitVec 6) (b : BitVec 5) (a : BitVec 5) (pg : BitVec 3) (d : BitVec 5) : Statement (.xop s b a pg d) := by
  rintro x ⟨⟩
  simp [rawDecode, rawXop]

theorem xcfgLoad (a : BitVec 5) (d : BitVec 5) : Statement (.xcfgLoad a d) := by
  rintro x ⟨⟩
  simp [rawDecode, rawXop]

theorem xcfgDrop (a : BitVec 5) : Statement (.xcfgDrop a) := by
  rintro x ⟨⟩
  simp [rawDecode, rawXop]

theorem xcfgQuery (a : BitVec 5) (d : BitVec 5) : Statement (.xcfgQuery a d) := by
  rintro x ⟨⟩
  simp [rawDecode, rawXop]

theorem compose (b : BitVec 2) (d : BitVec 5) : Statement (.compose b d) := by
  rintro x ⟨⟩
  simp [rawDecode, rawBind]

theorem release (d : BitVec 5) : Statement (.release d) := by
  rintro x ⟨⟩
  simp [rawDecode, rawBind]

theorem cstat (d : BitVec 5) : Statement (.cstat d) := by
  rintro x ⟨⟩
  simp [rawDecode, rawBind]

theorem vld (w : BitVec 2) (imm : BitVec 5) (t : BitVec 4) (a : BitVec 5) (d : BitVec 5) : Statement (.vld w imm t a d) := by
  rintro x ⟨⟩
  simp [rawDecode, rawVld]

theorem vlds (w : BitVec 2) (t : BitVec 4) (b : BitVec 5) (a : BitVec 5) (d : BitVec 5) : Statement (.vlds w t b a d) := by
  rintro x ⟨⟩
  simp [rawDecode, rawVld]

theorem vldx (w : BitVec 2) (t : BitVec 4) (b : BitVec 5) (a : BitVec 5) (d : BitVec 5) : Statement (.vldx w t b a d) := by
  rintro x ⟨⟩
  simp [rawDecode, rawVld]

theorem tld (w : BitVec 2) (a : BitVec 5) (d : BitVec 3) : Statement (.tld w a d) := by
  rintro x ⟨⟩
  simp [rawDecode, rawVld]

theorem vst (w : BitVec 2) (imm : BitVec 5) (a : BitVec 5) (d : BitVec 5) : Statement (.vst w imm a d) := by
  rintro x ⟨⟩
  simp [rawDecode, rawVst]

theorem vsts (w : BitVec 2) (b : BitVec 5) (a : BitVec 5) (d : BitVec 5) : Statement (.vsts w b a d) := by
  rintro x ⟨⟩
  simp [rawDecode, rawVst]

theorem vstx (w : BitVec 2) (b : BitVec 5) (a : BitVec 5) (d : BitVec 5) : Statement (.vstx w b a d) := by
  rintro x ⟨⟩
  simp [rawDecode, rawVst]

theorem tst (w : BitVec 2) (a : BitVec 5) (d : BitVec 3) : Statement (.tst w a d) := by
  rintro x ⟨⟩
  simp [rawDecode, rawVst]

theorem ldS (w : BitVec 2) (s : BitVec 2) (b : BitVec 5) (a : BitVec 5) (f : BitVec 3) (d : BitVec 5) : Statement (.ldS w s b a f d) := by
  rintro x ⟨⟩
  simp [rawDecode, rawSmem]

theorem stS (w : BitVec 2) (s : BitVec 2) (b : BitVec 5) (a : BitVec 5) (f : BitVec 2) : Statement (.stS w s b a f) := by
  rintro x ⟨⟩
  simp [rawDecode, rawSmem]

theorem ldAcq (w : BitVec 2) (s : BitVec 2) (b : BitVec 5) (a : BitVec 5) (f : BitVec 3) (d : BitVec 5) : Statement (.ldAcq w s b a f d) := by
  rintro x ⟨⟩
  simp [rawDecode, rawSmem]

theorem stRel (w : BitVec 2) (s : BitVec 2) (b : BitVec 5) (a : BitVec 5) (f : BitVec 2) : Statement (.stRel w s b a f) := by
  rintro x ⟨⟩
  simp [rawDecode, rawSmem]

theorem red (w : BitVec 2) (b : BitVec 5) (a : BitVec 5) (z : BitVec 1) (c : BitVec 5) : Statement (.red w b a z c) := by
  rintro x ⟨⟩
  simp [rawDecode, rawSmem]

theorem amof (w : BitVec 2) (s : BitVec 2) (b : BitVec 5) (a : BitVec 5) (f : BitVec 3) (d : BitVec 5) : Statement (.amof w s b a f d) := by
  rintro x ⟨⟩
  simp [rawDecode, rawSmem, four23]

theorem laccAdd (w : BitVec 2) (b : BitVec 5) (a : BitVec 5) (p : BitVec 1) : Statement (.laccAdd w b a p) := by
  rintro x ⟨⟩
  simp [rawDecode, rawSmem]

theorem laccRnd (w : BitVec 2) (a : BitVec 5) (f : BitVec 1) (d : BitVec 5) : Statement (.laccRnd w a f d) := by
  rintro x ⟨⟩
  simp [rawDecode, rawSmem]

theorem laccClr (w : BitVec 2) (a : BitVec 5) : Statement (.laccClr w a) := by
  rintro x ⟨⟩
  simp [rawDecode, rawSmem]

theorem pin (w : BitVec 2) (a : BitVec 5) (d : BitVec 5) : Statement (.pin w a d) := by
  rintro x ⟨⟩
  simp [rawDecode, rawSmem]

theorem unpin (w : BitVec 2) (a : BitVec 5) (d : BitVec 5) : Statement (.unpin w a d) := by
  rintro x ⟨⟩
  simp [rawDecode, rawSmem]

theorem cwait (w : BitVec 2) (b : BitVec 5) : Statement (.cwait w b) := by
  rintro x ⟨⟩
  simp [rawDecode, rawSmem]

theorem xcopy1d (aq : BitVec 1) (rl : BitVec 1) (b : BitVec 5) (a : BitVec 5) (s : BitVec 2) (d : BitVec 5) : Statement (.xcopy1d aq rl b a s d) := by
  rintro x ⟨⟩
  simp [rawDecode, rawXcopy]

theorem xcopy2d (aq : BitVec 1) (rl : BitVec 1) (a : BitVec 5) (s : BitVec 2) (d : BitVec 5) : Statement (.xcopy2d aq rl a s d) := by
  rintro x ⟨⟩
  simp [rawDecode, rawXcopy]

theorem xcopyTile (aq : BitVec 1) (rl : BitVec 1) (a : BitVec 5) (s : BitVec 2) (d : BitVec 5) : Statement (.xcopyTile aq rl a s d) := by
  rintro x ⟨⟩
  simp [rawDecode, rawXcopy]

theorem xcopyGath (aq : BitVec 1) (rl : BitVec 1) (a : BitVec 5) (s : BitVec 2) (d : BitVec 5) : Statement (.xcopyGath aq rl a s d) := by
  rintro x ⟨⟩
  simp [rawDecode, rawXcopy]

theorem xcopyWait (a : BitVec 5) (d : BitVec 5) : Statement (.xcopyWait a d) := by
  rintro x ⟨⟩
  simp [rawDecode, rawXcopy]

theorem xcopyWaitT (a : BitVec 5) (d : BitVec 5) : Statement (.xcopyWaitT a d) := by
  rintro x ⟨⟩
  simp [rawDecode, rawXcopy]

theorem xcopyStat (a : BitVec 5) (d : BitVec 5) : Statement (.xcopyStat a d) := by
  rintro x ⟨⟩
  simp [rawDecode, rawXcopy]

theorem xcopyAbort (a : BitVec 5) (d : BitVec 5) : Statement (.xcopyAbort a d) := by
  rintro x ⟨⟩
  simp [rawDecode, rawXcopy]

theorem lxProd (a : BitVec 5) (d : BitVec 5) : Statement (.lxProd a d) := by
  rintro x ⟨⟩
  simp [rawDecode, rawLink]

theorem lxFeed (aq : BitVec 1) (rl : BitVec 1) (a : BitVec 5) (s : BitVec 2) (d : BitVec 5) : Statement (.lxFeed aq rl a s d) := by
  rintro x ⟨⟩
  simp [rawDecode, rawLink, zero4]

theorem lxFeedt (aq : BitVec 1) (rl : BitVec 1) (b : BitVec 5) (a : BitVec 3) (s : BitVec 2) (d : BitVec 5) : Statement (.lxFeedt aq rl b a s d) := by
  rintro x ⟨⟩
  simp [rawDecode, rawLink, zero4]

theorem lxWait (a : BitVec 5) (d : BitVec 5) : Statement (.lxWait a d) := by
  rintro x ⟨⟩
  simp [rawDecode, rawLink]

theorem lxWaitT (a : BitVec 5) (d : BitVec 5) : Statement (.lxWaitT a d) := by
  rintro x ⟨⟩
  simp [rawDecode, rawLink]

theorem lxDwait (b : BitVec 5) (a : BitVec 5) (d : BitVec 5) : Statement (.lxDwait b a d) := by
  rintro x ⟨⟩
  simp [rawDecode, rawLink]

theorem lxDwaitT (b : BitVec 5) (a : BitVec 5) (d : BitVec 5) : Statement (.lxDwaitT b a d) := by
  rintro x ⟨⟩
  simp [rawDecode, rawLink]

theorem lxStat (a : BitVec 5) (d : BitVec 5) : Statement (.lxStat a d) := by
  rintro x ⟨⟩
  simp [rawDecode, rawLink]

theorem lxAbort (a : BitVec 5) (d : BitVec 5) : Statement (.lxAbort a d) := by
  rintro x ⟨⟩
  simp [rawDecode, rawLink]

theorem lxEpi (b : BitVec 5) (a : BitVec 5) (d : BitVec 5) : Statement (.lxEpi b a d) := by
  rintro x ⟨⟩
  simp [rawDecode, rawLink]

theorem lxCfg (b : BitVec 5) (a : BitVec 5) (d : BitVec 5) : Statement (.lxCfg b a d) := by
  rintro x ⟨⟩
  simp [rawDecode, rawLink]

theorem msgSend (b : BitVec 5) (a : BitVec 5) (d : BitVec 5) : Statement (.msgSend b a d) := by
  rintro x ⟨⟩
  simp [rawDecode, rawMsg]

theorem msgSendT (b : BitVec 5) (a : BitVec 5) (d : BitVec 5) : Statement (.msgSendT b a d) := by
  rintro x ⟨⟩
  simp [rawDecode, rawMsg]

theorem msgPut (b : BitVec 5) (a : BitVec 5) (d : BitVec 5) : Statement (.msgPut b a d) := by
  rintro x ⟨⟩
  simp [rawDecode, rawMsg]

theorem msgPutT (b : BitVec 5) (a : BitVec 5) (d : BitVec 5) : Statement (.msgPutT b a d) := by
  rintro x ⟨⟩
  simp [rawDecode, rawMsg]

theorem msgReply (b : BitVec 5) (a : BitVec 5) (d : BitVec 5) : Statement (.msgReply b a d) := by
  rintro x ⟨⟩
  simp [rawDecode, rawMsg]

theorem msgPost (b : BitVec 5) (a : BitVec 5) (d : BitVec 5) : Statement (.msgPost b a d) := by
  rintro x ⟨⟩
  simp [rawDecode, rawMsg]

theorem msgUnpost (a : BitVec 5) (d : BitVec 5) : Statement (.msgUnpost a d) := by
  rintro x ⟨⟩
  simp [rawDecode, rawMsg]

theorem msgPoll (a : BitVec 5) (f : BitVec 1) (d : BitVec 5) : Statement (.msgPoll a f d) := by
  rintro x ⟨⟩
  simp [rawDecode, rawMsg]

theorem msgPollTake (d : BitVec 5) : Statement (.msgPollTake d) := by
  rintro x ⟨⟩
  simp [rawDecode, rawMsg]

theorem msgSpill (b : BitVec 5) (a : BitVec 5) (d : BitVec 5) : Statement (.msgSpill b a d) := by
  rintro x ⟨⟩
  simp [rawDecode, rawMsg]

theorem hdone : Statement .hdone := by
  rintro x ⟨⟩
  simp [rawDecode, rawMsg]

theorem chOpen (b : BitVec 5) (a : BitVec 5) (d : BitVec 3) : Statement (.chOpen b a d) := by
  rintro x ⟨⟩
  simp [rawDecode, rawChan]

theorem chClose (a : BitVec 3) : Statement (.chClose a) := by
  rintro x ⟨⟩
  simp [rawDecode, rawChan]

theorem chPush (b : BitVec 3) (a : BitVec 5) : Statement (.chPush b a) := by
  rintro x ⟨⟩
  simp [rawDecode, rawChan]

theorem chPushT (b : BitVec 3) (a : BitVec 5) (d : BitVec 5) : Statement (.chPushT b a d) := by
  rintro x ⟨⟩
  simp [rawDecode, rawChan]

theorem chPop (a : BitVec 3) (d : BitVec 5) : Statement (.chPop a d) := by
  rintro x ⟨⟩
  simp [rawDecode, rawChan]

theorem chPopT (b : BitVec 5) (a : BitVec 3) (d : BitVec 5) : Statement (.chPopT b a d) := by
  rintro x ⟨⟩
  simp [rawDecode, rawChan]

theorem chBind (b : BitVec 5) (a : BitVec 5) (f : BitVec 1) (d : BitVec 5) : Statement (.chBind b a f d) := by
  rintro x ⟨⟩
  simp [rawDecode, rawChan]

theorem chStat (a : BitVec 3) (d : BitVec 5) : Statement (.chStat a d) := by
  rintro x ⟨⟩
  simp [rawDecode, rawChan]

theorem nodeNew (a : BitVec 5) (d : BitVec 5) : Statement (.nodeNew a d) := by
  rintro x ⟨⟩
  simp [rawDecode, rawTask]

theorem nodeLink (b : BitVec 5) (a : BitVec 5) (d : BitVec 5) : Statement (.nodeLink b a d) := by
  rintro x ⟨⟩
  simp [rawDecode, rawTask]

theorem nodeArm (a : BitVec 5) (d : BitVec 5) : Statement (.nodeArm a d) := by
  rintro x ⟨⟩
  simp [rawDecode, rawTask]

theorem nodeDone (a : BitVec 5) (d : BitVec 5) : Statement (.nodeDone a d) := by
  rintro x ⟨⟩
  simp [rawDecode, rawTask]

theorem rngNext (d : BitVec 5) : Statement (.rngNext d) := by
  rintro x ⟨⟩
  simp [rawDecode, rawTask]

theorem enq (a : BitVec 5) (d : BitVec 5) : Statement (.enq a d) := by
  rintro x ⟨⟩
  simp [rawDecode, rawTask]

theorem enqT (a : BitVec 5) (d : BitVec 5) : Statement (.enqT a d) := by
  rintro x ⟨⟩
  simp [rawDecode, rawTask]

theorem taskCancel (a : BitVec 5) (d : BitVec 5) : Statement (.taskCancel a d) := by
  rintro x ⟨⟩
  simp [rawDecode, rawTask]

theorem taskStat (a : BitVec 5) (d : BitVec 5) : Statement (.taskStat a d) := by
  rintro x ⟨⟩
  simp [rawDecode, rawTask]

theorem gbar (a : BitVec 5) : Statement (.gbar a) := by
  rintro x ⟨⟩
  simp [rawDecode, rawSync]

theorem gbarT (a : BitVec 5) (d : BitVec 5) : Statement (.gbarT a d) := by
  rintro x ⟨⟩
  simp [rawDecode, rawSync]

theorem semP (a : BitVec 5) : Statement (.semP a) := by
  rintro x ⟨⟩
  simp [rawDecode, rawSync]

theorem semPT (a : BitVec 5) (d : BitVec 5) : Statement (.semPT a d) := by
  rintro x ⟨⟩
  simp [rawDecode, rawSync]

theorem semV (a : BitVec 5) : Statement (.semV a) := by
  rintro x ⟨⟩
  simp [rawDecode, rawSync]

theorem monArm (a : BitVec 5) (d : BitVec 5) : Statement (.monArm a d) := by
  rintro x ⟨⟩
  simp [rawDecode, rawSync]

theorem monWait (d : BitVec 5) : Statement (.monWait d) := by
  rintro x ⟨⟩
  simp [rawDecode, rawSync]

theorem monWaitT (d : BitVec 5) : Statement (.monWaitT d) := by
  rintro x ⟨⟩
  simp [rawDecode, rawSync]

theorem tret : Statement .tret := by
  rintro x ⟨⟩
  simp [rawDecode, rawSystem]

theorem dret : Statement .dret := by
  rintro x ⟨⟩
  simp [rawDecode, rawSystem]

theorem pret : Statement .pret := by
  rintro x ⟨⟩
  simp [rawDecode, rawSystem]

theorem wfi : Statement .wfi := by
  rintro x ⟨⟩
  simp [rawDecode, rawSystem]

theorem wspSw (a : BitVec 5) (d : BitVec 5) : Statement (.wspSw a d) := by
  rintro x ⟨⟩
  simp [rawDecode, rawSystem]

theorem bindWb : Statement .bindWb := by
  rintro x ⟨⟩
  simp [rawDecode, rawSystem]

theorem inspect (b : BitVec 5) (a : BitVec 5) (d : BitVec 5) : Statement (.inspect b a d) := by
  rintro x ⟨⟩
  simp [rawDecode, rawSystem]

theorem qcmdRegister (q : Nat) (r : Requester) : Statement (.qcmdRegister q r) := nofun

theorem qcmdUnregister (q : Nat) (r : Requester) : Statement (.qcmdUnregister q r) := nofun

theorem qwidxWrite (q : Nat) (n : BitVec 32) (r : Requester) : Statement (.qwidxWrite q n r) := nofun

theorem qcancelWrite (q : Nat) (n : BitVec 32) (r : Requester) : Statement (.qcancelWrite q n r) := nofun

theorem packetFetch (q : Nat) : Statement (.packetFetch q) := nofun

theorem packetDispatch (q : Nat) : Statement (.packetDispatch q) := nofun

theorem kernelPlacement (leaf : Nat) : Statement (.kernelPlacement leaf) := nofun

theorem graphArm (q : Nat) : Statement (.graphArm q) := nofun

theorem peerDoorbellWrite (srcMod : Nat) (srcLeaf : Nat) (q : Nat) (w : PeerWrite) : Statement (.peerDoorbellWrite srcMod srcLeaf q w) := nofun

theorem contextRetire (k : Key) : Statement (.contextRetire k) := nofun

theorem kernelComplete (kid : Nat) : Statement (.kernelComplete kid) := nofun

theorem pcmdCreate (blk : Block) (r : Requester) : Statement (.pcmdCreate blk r) := nofun

theorem pcmdDestroy (blk : Block) (r : Requester) : Statement (.pcmdDestroy blk r) := nofun

theorem pcmdApply (blk : Block) (r : Requester) : Statement (.pcmdApply blk r) := nofun

theorem spanDestroyComplete (blk : Block) : Statement (.spanDestroyComplete blk) := nofun

theorem qoscmdApply (leaf : Nat) (r : Requester) : Statement (.qoscmdApply leaf r) := nofun

theorem pageWalkComplete (k : Key) (acc : Access) (va : Word) : Statement (.pageWalkComplete k acc va) := nofun

theorem tlbInvComplete (k : Key) : Statement (.tlbInvComplete k) := nofun

theorem l2wayWrite (value : Word) : Statement (.l2wayWrite value) := nofun

theorem l2wayTransitionComplete (leaf : Nat) : Statement (.l2wayTransitionComplete leaf) := nofun

theorem wspCsrWrite (l : Level) (value : Word) : Statement (.wspCsrWrite l value) := nofun

theorem kendWrite (value : Word) : Statement (.kendWrite value) := nofun

theorem oplctlDrop : Statement .oplctlDrop := nofun

theorem cpctlRestart : Statement .cpctlRestart := nofun

theorem cpctlAbort : Statement .cpctlAbort := nofun

theorem cqctlHold (slot : Nat) : Statement (.cqctlHold slot) := nofun

theorem cqctlRemove (slot : Nat) : Statement (.cqctlRemove slot) := nofun

theorem cqctlRebuild (slot : Nat) : Statement (.cqctlRebuild slot) := nofun

theorem copyHoldComplete (h : Nat) : Statement (.copyHoldComplete h) := nofun

theorem registerWrite (addr : Nat) (value : Word) (r : Requester) : Statement (.registerWrite addr value r) := nofun

theorem watchdogExpiry (k : Key) : Statement (.watchdogExpiry k) := nofun

theorem timerCompare (cycles : Nat) : Statement (.timerCompare cycles) := nofun

theorem frameBoundary : Statement .frameBoundary := nofun

theorem ctlTokenGain (h : Nat) : Statement (.ctlTokenGain h) := nofun

theorem rendezvousTimeout (l : Link) (half : Nat) : Statement (.rendezvousTimeout l half) := nofun

theorem pauseTimeout (k : Key) (handle : Nat) : Statement (.pauseTimeout k handle) := nofun

theorem feedTimeout (k : Key) (handle : Nat) : Statement (.feedTimeout k handle) := nofun

theorem sinkRetryTimeout (l : Link) (half : Nat) : Statement (.sinkRetryTimeout l half) := nofun

theorem sendBackoffExpiry (k : Key) (handle : Nat) : Statement (.sendBackoffExpiry k handle) := nofun

theorem messageRetryResend (k : Key) (handle : Nat) : Statement (.messageRetryResend k handle) := nofun

theorem siteWindowRetry (k : Key) (idx : Nat) : Statement (.siteWindowRetry k idx) := nofun

theorem channelAskRetry (k : Key) (q : Nat) : Statement (.channelAskRetry k q) := nofun

theorem semPRetry (k : Key) : Statement (.semPRetry k) := nofun

theorem prodNodeReissue (node : Nat) : Statement (.prodNodeReissue node) := nofun

theorem switchSlotTimeout (slot : Nat) : Statement (.switchSlotTimeout slot) := nofun

theorem heartbeatMiss (module : Nat) : Statement (.heartbeatMiss module) := nofun

theorem trapEntry : Statement .trapEntry := nofun

theorem xirqWrite (r : Requester) (value : Word) : Statement (.xirqWrite r value) := nofun

theorem homeAccess (k : Key) (idx : Nat) : Statement (.homeAccess k idx) := nofun

theorem storeAck (k : Key) (idx : Nat) : Statement (.storeAck k idx) := nofun

theorem lateFailure (k : Key) (idx : Nat) (why : LateReason) : Statement (.lateFailure k idx why) := nofun

theorem copyStart (h : Nat) : Statement (.copyStart h) := nofun

theorem copyGrant (k : Key) (handle : Nat) : Statement (.copyGrant k handle) := nofun

theorem copyComplete (k : Key) (handle : Nat) : Statement (.copyComplete k handle) := nofun

theorem copyFault (k : Key) (handle : Nat) : Statement (.copyFault k handle) := nofun

theorem copyAborted (k : Key) (handle : Nat) : Statement (.copyAborted k handle) := nofun

theorem productOpen (l : Link) (half : Nat) : Statement (.productOpen l half) := nofun

theorem feedArrival (k : Key) (handle : Nat) : Statement (.feedArrival k handle) := nofun

theorem productGrant (l : Link) (half : Nat) : Statement (.productGrant l half) := nofun

theorem productDelivery (l : Link) (half : Nat) : Statement (.productDelivery l half) := nofun

theorem deliveryComplete (l : Link) (half : Nat) : Statement (.deliveryComplete l half) := nofun

theorem residueMismatch (l : Link) : Statement (.residueMismatch l) := nofun

theorem feedResume (k : Key) (handle : Nat) : Statement (.feedResume k handle) := nofun

theorem packetInjection (k : Key) (handle : Nat) : Statement (.packetInjection k handle) := nofun

theorem messageArrival (k : Key) (handle : Nat) : Statement (.messageArrival k handle) := nofun

theorem replyHoldRelease (k : Key) : Statement (.replyHoldRelease k) := nofun

theorem messageAnswer (k : Key) (handle : Nat) : Statement (.messageAnswer k handle) := nofun

theorem activationStart (k : Key) : Statement (.activationStart k) := nofun

theorem channelEntryArrival (k : Key) (q : Nat) : Statement (.channelEntryArrival k q) := nofun

theorem channelFlowSignal (k : Key) (q : Nat) : Statement (.channelFlowSignal k q) := nofun

theorem channelAsk (k : Key) (q : Nat) : Statement (.channelAsk k q) := nofun

theorem channelCloseMarker (k : Key) (q : Nat) : Statement (.channelCloseMarker k q) := nofun

theorem channelClosedNotice (k : Key) (q : Nat) : Statement (.channelClosedNotice k q) := nofun

theorem dispatchDecision (leaf : Nat) : Statement (.dispatchDecision leaf) := nofun

theorem nodeFinish (node : Nat) : Statement (.nodeFinish node) := nofun

theorem stealRequest (thief : Key) : Statement (.stealRequest thief) := nofun

theorem stealHalfArrival (thief : Key) : Statement (.stealHalfArrival thief) := nofun

theorem stealAck (victim : Key) : Statement (.stealAck victim) := nofun

theorem stealReturn (victim : Key) : Statement (.stealReturn victim) := nofun

theorem precmdSave (h : Nat) (r : Requester) : Statement (.precmdSave h r) := nofun

theorem precmdRestore (h : Nat) (r : Requester) : Statement (.precmdRestore h r) := nofun

theorem saveStop (k : Key) : Statement (.saveStop k) := nofun

theorem saveDrained (k : Key) : Statement (.saveDrained k) := nofun

theorem restoreStart (k : Key) : Statement (.restoreStart k) := nofun

theorem migcmdStart (leaf : Nat) (r : Requester) : Statement (.migcmdStart leaf r) := nofun

theorem migcmdCancel (leaf : Nat) (r : Requester) : Statement (.migcmdCancel leaf r) := nofun

theorem migrationCheck (leaf : Nat) (answer : MigAnswer) : Statement (.migrationCheck leaf answer) := nofun

theorem migrationTransferDone (leaf : Nat) (ok : Bool) : Statement (.migrationTransferDone leaf ok) := nofun

theorem dbgcmdOpen (f : Nat) : Statement (.dbgcmdOpen f) := nofun

theorem dbgcmdClose (f : Nat) : Statement (.dbgcmdClose f) := nofun

theorem dbgcmdHalt (f : Nat) : Statement (.dbgcmdHalt f) := nofun

theorem dbgcmdResume (f : Nat) : Statement (.dbgcmdResume f) := nofun

theorem dbgcmdStep (f : Nat) : Statement (.dbgcmdStep f) := nofun

theorem dbgxvalWrite (f : Nat) (value : Word) : Statement (.dbgxvalWrite f value) := nofun

theorem inspectionWindowRead (f : Nat) : Statement (.inspectionWindowRead f) := nofun

theorem swcmdAllocate (leaf : Nat) (r : Requester) : Statement (.swcmdAllocate leaf r) := nofun

theorem switchAllocationAnswer (leaf : Nat) : Statement (.switchAllocationAnswer leaf) := nofun

theorem switchContribution (c : Contribution) : Statement (.switchContribution c) := nofun

theorem peerAccess (srcMod : Nat) (srcLeaf : Nat) (a : PeerReq) : Statement (.peerAccess srcMod srcLeaf a) := nofun

theorem siteWake (h : Nat) : Statement (.siteWake h) := nofun

theorem siteGate (h : Nat) (target : PowerState) : Statement (.siteGate h target) := nofun

theorem boot (verified : BootCheck) : Statement (.boot verified) := nofun

theorem attestationRequest (r : Requester) (nonce : BitVec 256) : Statement (.attestationRequest r nonce) := nofun

theorem cxlDeviceRemoval (port : Nat) : Statement (.cxlDeviceRemoval port) := nofun

theorem illegalInstruction (word : BitVec 32) : Statement (.illegalInstruction word) := nofun

theorem fetchFault (f : FetchFault) : Statement (.fetchFault f) := nofun

theorem siteFault (k : Key) (member : Nat) (f : SiteFailure) : Statement (.siteFault k member f) := nofun

theorem rasRetirement (u : RasUnit) : Statement (.rasRetirement u) := nofun

theorem powerLoss : Statement .powerLoss := nofun

theorem rmaWipe : Statement .rmaWipe := nofun

theorem reservationAging (h : Nat) : Statement (.reservationAging h) := nofun

end Sys2Proof.Laws.RoundTrip
end

