-- ==== Sys2Proof/Tests/Slice0.lean ====
section
/-! SUPPORT. Tests: words decode to their instructions, ill-formed terms are refused, single steps give what the spec says, and the hypotheses of the
statements are met. -/

open Sys2Proof Sys2Proof.Machine

section Tests

set_option Elab.async false

/-! ## Words -/

theorem test_words_lui : ∀ e ∈ ([
    (0x8C5A3537, .lui 0x8c5a3 10)] : List (IWord × Instr)), decode e.1 = .ok e.2 := by decide +kernel

theorem test_words_auipc : ∀ e ∈ ([
    (0x8C5A3517, .auipc 0x8c5a3 10)] : List (IWord × Instr)), decode e.1 = .ok e.2 := by decide +kernel

theorem test_words_jal : ∀ e ∈ ([
    (0xB471856F, .jal 0x8c5a3 10)] : List (IWord × Instr)), decode e.1 = .ok e.2 := by decide +kernel

theorem test_words_jalr : ∀ e ∈ ([
    (0xA5C58567, .jalr 0xa5c 11 10)] : List (IWord × Instr)), decode e.1 = .ok e.2 := by decide +kernel

theorem test_words_branch : ∀ e ∈ ([
    (0xCAD58C63, .beq 13 11 0xa5c),
    (0xCAD59C63, .bne 13 11 0xa5c),
    (0xCAD5CC63, .blt 13 11 0xa5c),
    (0xCAD5DC63, .bge 13 11 0xa5c),
    (0xCAD5EC63, .bltu 13 11 0xa5c),
    (0xCAD5FC63, .bgeu 13 11 0xa5c)] : List (IWord × Instr)), decode e.1 = .ok e.2 := by decide +kernel

theorem test_words_load : ∀ e ∈ ([
    (0xA5C58503, .lb 0xa5c 11 10),
    (0xA5C59503, .lh 0xa5c 11 10),
    (0xA5C5A503, .lw 0xa5c 11 10),
    (0xA5C5B503, .ld 0xa5c 11 10),
    (0xA5C5C503, .lbu 0xa5c 11 10),
    (0xA5C5D503, .lhu 0xa5c 11 10),
    (0xA5C5E503, .lwu 0xa5c 11 10)] : List (IWord × Instr)), decode e.1 = .ok e.2 := by decide +kernel

theorem test_words_store : ∀ e ∈ ([
    (0xA4D58E23, .sb 13 11 0xa5c),
    (0xA4D59E23, .sh 13 11 0xa5c),
    (0xA4D5AE23, .sw 13 11 0xa5c),
    (0xA4D5BE23, .sd 13 11 0xa5c)] : List (IWord × Instr)), decode e.1 = .ok e.2 := by decide +kernel

theorem test_words_op : ∀ e ∈ ([
    (0x00D58533, .add 13 11 10),
    (0x00D59533, .sll 13 11 10),
    (0x00D5A533, .slt 13 11 10),
    (0x00D5B533, .sltu 13 11 10),
    (0x00D5C533, .xor 13 11 10),
    (0x00D5D533, .srl 13 11 10),
    (0x00D5E533, .or 13 11 10),
    (0x00D5F533, .and 13 11 10),
    (0x40D58533, .sub 13 11 10),
    (0x40D5C533, .xnor 13 11 10),
    (0x40D5D533, .sra 13 11 10),
    (0x40D5E533, .orn 13 11 10),
    (0x40D5F533, .andn 13 11 10),
    (0x02D58533, .mul 13 11 10),
    (0x02D59533, .mulh 13 11 10),
    (0x02D5A533, .mulhsu 13 11 10),
    (0x02D5B533, .mulhu 13 11 10),
    (0x02D5C533, .div 13 11 10),
    (0x02D5D533, .divu 13 11 10),
    (0x02D5E533, .rem 13 11 10),
    (0x02D5F533, .remu 13 11 10),
    (0x20D5A533, .sh1add 13 11 10),
    (0x20D5C533, .sh2add 13 11 10),
    (0x20D5E533, .sh3add 13 11 10),
    (0x0AD5C533, .min 13 11 10),
    (0x0AD5D533, .minu 13 11 10),
    (0x0AD5E533, .max 13 11 10),
    (0x0AD5F533, .maxu 13 11 10),
    (0x60D59533, .rol 13 11 10),
    (0x60D5D533, .ror 13 11 10)] : List (IWord × Instr)), decode e.1 = .ok e.2 := by decide +kernel

theorem test_words_op32 : ∀ e ∈ ([
    (0x00D5853B, .addw 13 11 10),
    (0x00D5953B, .sllw 13 11 10),
    (0x00D5D53B, .srlw 13 11 10),
    (0x40D5853B, .subw 13 11 10),
    (0x40D5D53B, .sraw 13 11 10),
    (0x02D5853B, .mulw 13 11 10),
    (0x02D5C53B, .divw 13 11 10),
    (0x02D5D53B, .divuw 13 11 10),
    (0x02D5E53B, .remw 13 11 10),
    (0x02D5F53B, .remuw 13 11 10),
    (0x20D5A53B, .sh1addUw 13 11 10),
    (0x20D5C53B, .sh2addUw 13 11 10),
    (0x20D5E53B, .sh3addUw 13 11 10),
    (0x08D5853B, .addUw 13 11 10),
    (0x0805C53B, .zextH 11 10),
    (0x60D5953B, .rolw 13 11 10),
    (0x60D5D53B, .rorw 13 11 10)] : List (IWord × Instr)), decode e.1 = .ok e.2 := by decide +kernel

theorem test_words_opImm : ∀ e ∈ ([
    (0xA5C58513, .addi 0xa5c 11 10),
    (0xA5C5A513, .slti 0xa5c 11 10),
    (0xA5C5B513, .sltiu 0xa5c 11 10),
    (0xA5C5C513, .xori 0xa5c 11 10),
    (0xA5C5E513, .ori 0xa5c 11 10),
    (0xA5C5F513, .andi 0xa5c 11 10),
    (0x02559513, .slli 0x25 11 10),
    (0x0255D513, .srli 0x25 11 10),
    (0x4255D513, .srai 0x25 11 10),
    (0x6255D513, .rori 0x25 11 10),
    (0x60059513, .clz 11 10),
    (0x60159513, .ctz 11 10),
    (0x60259513, .cpop 11 10),
    (0x60459513, .sextB 11 10),
    (0x60559513, .sextH 11 10),
    (0x6B85D513, .rev8 11 10)] : List (IWord × Instr)), decode e.1 = .ok e.2 := by decide +kernel

theorem test_words_opImm32 : ∀ e ∈ ([
    (0xA5C5851B, .addiw 0xa5c 11 10),
    (0x0155951B, .slliw 21 11 10),
    (0x0155D51B, .srliw 21 11 10),
    (0x4155D51B, .sraiw 21 11 10),
    (0x6155D51B, .roriw 21 11 10),
    (0x0A55951B, .slliUw 0x25 11 10),
    (0x6005951B, .clzw 11 10),
    (0x6015951B, .ctzw 11 10),
    (0x6025951B, .cpopw 11 10)] : List (IWord × Instr)), decode e.1 = .ok e.2 := by decide +kernel

theorem test_words_amo : ∀ e ∈ ([
    (0x1605B52F, .lr 1 1 11 1 10),
    (0x1ED5B52F, .sc 1 1 13 11 1 10),
    (0x0ED5B52F, .amoswap 1 1 13 11 1 10),
    (0x06D5B52F, .amoadd 1 1 13 11 1 10),
    (0x26D5B52F, .amoxor 1 1 13 11 1 10),
    (0x66D5B52F, .amoand 1 1 13 11 1 10),
    (0x46D5B52F, .amoor 1 1 13 11 1 10),
    (0x86D5B52F, .amomin 1 1 13 11 1 10),
    (0xA6D5B52F, .amomax 1 1 13 11 1 10),
    (0xC6D5B52F, .amominu 1 1 13 11 1 10),
    (0xE6D5B52F, .amomaxu 1 1 13 11 1 10)] : List (IWord × Instr)), decode e.1 = .ok e.2 := by decide +kernel

theorem test_words_fence : ∀ e ∈ ([
    (0x0D60000F, .fence 13 6),
    (0x8330000F, .fenceTso),
    (0x0000100F, .fenceI)] : List (IWord × Instr)), decode e.1 = .ok e.2 := by decide +kernel

theorem test_words_system : ∀ e ∈ ([
    (0x00000073, .ecall),
    (0x00100073, .ebreak),
    (0x8C159573, .csrrw 0x8c1 11 10),
    (0x8C15A573, .csrrs 0x8c1 11 10),
    (0x8C15B573, .csrrc 0x8c1 11 10),
    (0x8C1B5573, .csrrwi 0x8c1 22 10),
    (0x8C1B6573, .csrrsi 0x8c1 22 10),
    (0x8C1B7573, .csrrci 0x8c1 22 10),
    (0x12D586F3, .tlbInv 13 11 3 1),
    (0x16000073, .tlbSync),
    (0x10200073, .tret),
    (0x20200073, .dret),
    (0x30200073, .pret),
    (0x10500073, .wfi),
    (0x18058573, .wspSw 11 10),
    (0x1A000073, .bindWb),
    (0x1CD58573, .inspect 13 11 10)] : List (IWord × Instr)), decode e.1 = .ok e.2 := by decide +kernel

theorem test_words_hint : ∀ e ∈ ([
    (0xB5A6D01F, .hnop 0xb5a6d),
    (0xB5A6D09F, .hwide 0xb5a6d),
    (0x0001B11F, .hscope 1 2 3),
    (0x0000119F, .hwait 1),
    (0x0000521F, .hpred 5),
    (0x8ABCD29F, .hbrh 0x8abcd),
    (0x0000131F, .hprio 1),
    (0x0000239F, .hstream 2),
    (0x9B53641F, .htileco 0x26d 0x136)] : List (IWord × Instr)), decode e.1 = .ok e.2 := by decide +kernel

theorem test_words_task : ∀ e ∈ ([
    (0x00D5853F, .qsub 13 11 10),
    (0x02D5853F, .qsubT 13 11 10),
    (0x0400003F, .trig),
    (0x0605953F, .lstat 11 1 10),
    (0x2005853F, .nodeNew 11 10),
    (0x22D5853F, .nodeLink 13 11 10),
    (0x2405853F, .nodeArm 11 10),
    (0x2605853F, .nodeDone 11 10),
    (0x2800053F, .rngNext 10),
    (0x2A05853F, .enq 11 10),
    (0x2C05853F, .enqT 11 10),
    (0x2E05853F, .taskCancel 11 10),
    (0x3005853F, .taskStat 11 10)] : List (IWord × Instr)), decode e.1 = .ok e.2 := by decide +kernel

theorem test_words_vectorInt : ∀ e ∈ ([
    (0x06D5A553, .vadd 3 13 11 2 10),
    (0x16D5A553, .vsub 3 13 11 2 10),
    (0x26D5A553, .vmul 3 13 11 2 10),
    (0x36D5E553, .vmulh 3 13 11 1 2 10),
    (0x46D5E553, .vmin 3 13 11 1 2 10),
    (0x56D5E553, .vmax 3 13 11 1 2 10),
    (0x66058553, .vabs 3 11 10),
    (0x76D5A553, .vand 3 13 11 2 10),
    (0x86D5A553, .vor 3 13 11 2 10),
    (0x96D5A553, .vxor 3 13 11 2 10),
    (0xA6D5A553, .vsll 3 13 11 2 10),
    (0xB6D5A553, .vsrl 3 13 11 2 10),
    (0xC6D5A553, .vsra 3 13 11 2 10),
    (0xDAD5A2D3, .vcmp 5 13 11 2 5),
    (0xEAD5A553, .vsel 5 13 11 2 10),
    (0xF6D5E553, .vsadd 3 13 11 1 2 10)] : List (IWord × Instr)), decode e.1 = .ok e.2 := by decide +kernel

theorem test_words_vectorFloat : ∀ e ∈ ([
    (0x06D5A543, .vfadd 3 13 11 2 10),
    (0x16D5A543, .vfsub 3 13 11 2 10),
    (0x26D5A543, .vfmul 3 13 11 2 10),
    (0x36D5A543, .vfma 3 13 11 2 10),
    (0x46D5A543, .vfmin 3 13 11 2 10),
    (0x56D5A543, .vfmax 3 13 11 2 10),
    (0x66D5A543, .vfmaxabs 3 13 11 2 10),
    (0x76058543, .vfabs 3 11 10),
    (0x86058543, .vfneg 3 11 10),
    (0x9AD5A2C3, .vfcmp 5 13 11 2 5),
    (0xA6058543, .vfclass 3 11 10),
    (0xB6058543, .vfrcp 3 11 10),
    (0xC6058543, .vfrsq 3 11 10),
    (0xD6058543, .vfexp2 3 11 10),
    (0xE6058543, .vflog2 3 11 10),
    (0xF6D5A543, .vfdiv 3 13 11 2 10)] : List (IWord × Instr)), decode e.1 = .ok e.2 := by decide +kernel

theorem test_words_vectorMisc : ∀ e ∈ ([
    (0x0795F557, .vcvt 3 1 9 11 1 3 10),
    (0x10059557, .vpack 11 1 10),
    (0x20D59557, .vunpack 13 11 1 10),
    (0x36D59557, .vdq 3 13 11 1 10),
    (0x4605C557, .vredsum 3 11 1 10),
    (0x5605C557, .vredmax 3 11 1 10),
    (0x6605C557, .vredmin 3 11 1 10),
    (0x76D58557, .vperm 3 13 11 10),
    (0x86D5A557, .vslide 3 13 11 2 10),
    (0x96958557, .vbcast 3 9 11 10),
    (0xA0D5D557, .vmvXv 13 11 1 10),
    (0xB0D59557, .vmvVx 13 11 10),
    (0xC6D59557, .vlut 3 13 11 1 10),
    (0xD0958557, .vsettag 9 11 10),
    (0xE0058557, .vtag 11 10),
    (0xF03302D7, .pand 3 6 5),
    (0xF23302D7, .por 3 6 5),
    (0xF43302D7, .pxor 3 6 5),
    (0xF60302D7, .pnot 6 5),
    (0xF8030557, .pcnt 6 10),
    (0xFA030557, .pfirst 6 10)] : List (IWord × Instr)), decode e.1 = .ok e.2 := by decide +kernel

theorem test_words_tile : ∀ e ∈ ([
    (0x009002FB, .tzero 9 5),
    (0x020302FB, .tmov 6 5),
    (0x040302FB, .ttrans 6 5),
    (0x069362FB, .tcvt 9 6 6 5),
    (0x109362FB, .tcvtSat 9 6 6 5),
    (0x129362FB, .tcvtNosat 9 6 6 5),
    (0x080302FB, .tqset 6 5),
    (0x0AD3157B, .tpick 13 6 1 10),
    (0x0CD592FB, .tplace 13 11 1 5),
    (0x0E9002FB, .ttagSet 9 5),
    (0x0E03157B, .ttagRead 6 10)] : List (IWord × Instr)), decode e.1 = .ok e.2 := by decide +kernel

theorem test_words_custom : ∀ e ∈ ([
    (0xB4D5B577, .xop 0x2d 13 11 3 10),
    (0x02058577, .xcfgLoad 11 10),
    (0x06058077, .xcfgDrop 11),
    (0x0A058577, .xcfgQuery 11 10)] : List (IWord × Instr)), decode e.1 = .ok e.2 := by decide +kernel

theorem test_words_bind : ∀ e ∈ ([
    (0x0010055B, .compose 1 10),
    (0x0200055B, .release 10),
    (0x0400055B, .cstat 10)] : List (IWord × Instr)), decode e.1 = .ok e.2 := by decide +kernel

theorem test_words_vectorLoad : ∀ e ∈ ([
    (0x6C458507, .vld 1 22 4 11 10),
    (0x48D59507, .vlds 1 4 13 11 10),
    (0x48D5A507, .vldx 1 4 13 11 10),
    (0x4005B287, .tld 1 11 5)] : List (IWord × Instr)), decode e.1 = .ok e.2 := by decide +kernel

theorem test_words_vectorStore : ∀ e ∈ ([
    (0x6C058527, .vst 1 22 11 10),
    (0x40D59527, .vsts 1 13 11 10),
    (0x40D5A527, .vstx 1 13 11 10),
    (0x4005B2A7, .tst 1 11 5)] : List (IWord × Instr)), decode e.1 = .ok e.2 := by decide +kernel

theorem test_words_memory : ∀ e ∈ ([
    (0x50D5D54F, .ldS 1 1 13 11 5 10),
    (0x52D5A04F, .stS 1 1 13 11 2),
    (0x54D5D54F, .ldAcq 1 1 13 11 5 10),
    (0x56D5A04F, .stRel 1 1 13 11 2),
    (0x48D5A4CF, .red 1 13 11 0 9),
    (0x5AD5D54F, .amof 1 1 13 11 5 10),
    (0x4CD5B04F, .laccAdd 1 13 11 1),
    (0x4C05D54F, .laccRnd 1 11 1 10),
    (0x4C05E04F, .laccClr 1 11),
    (0x4E05C54F, .pin 1 11 10),
    (0x4E05D54F, .unpin 1 11 10),
    (0x8ED0604F, .cwait 2 13)] : List (IWord × Instr)), decode e.1 = .ok e.2 := by decide +kernel

theorem test_words_copy : ∀ e ∈ ([
    (0x18D5954B, .xcopy1d 1 1 13 11 1 10),
    (0x3805954B, .xcopy2d 1 1 11 1 10),
    (0x5805954B, .xcopyTile 1 1 11 1 10),
    (0x7805954B, .xcopyGath 1 1 11 1 10),
    (0x8005854B, .xcopyWait 11 10),
    (0xA005854B, .xcopyWaitT 11 10),
    (0xC005854B, .xcopyStat 11 10),
    (0xE005854B, .xcopyAbort 11 10)] : List (IWord × Instr)), decode e.1 = .ok e.2 := by decide +kernel

theorem test_words_link : ∀ e ∈ ([
    (0x00058547, .lxProd 11 10),
    (0x1C059547, .lxFeed 1 1 11 1 10),
    (0x2CD31547, .lxFeedt 1 1 13 6 1 10),
    (0x30058547, .lxWait 11 10),
    (0x40058547, .lxWaitT 11 10),
    (0x50D58547, .lxDwait 13 11 10),
    (0x60D58547, .lxDwaitT 13 11 10),
    (0x70058547, .lxStat 11 10),
    (0x80058547, .lxAbort 11 10),
    (0x90D58547, .lxEpi 13 11 10),
    (0xA0D58547, .lxCfg 13 11 10)] : List (IWord × Instr)), decode e.1 = .ok e.2 := by decide +kernel

theorem test_words_message : ∀ e ∈ ([
    (0x00D5852B, .msgSend 13 11 10),
    (0x02D5852B, .msgSendT 13 11 10),
    (0x04D5852B, .msgPut 13 11 10),
    (0x06D5852B, .msgPutT 13 11 10),
    (0x08D5852B, .msgReply 13 11 10),
    (0x0AD5852B, .msgPost 13 11 10),
    (0x0C05852B, .msgUnpost 11 10),
    (0x0E05952B, .msgPoll 11 1 10),
    (0x0E00252B, .msgPollTake 10),
    (0x10D5852B, .msgSpill 13 11 10),
    (0x1200002B, .hdone)] : List (IWord × Instr)), decode e.1 = .ok e.2 := by decide +kernel

theorem test_words_channel : ∀ e ∈ ([
    (0x00D5828B, .chOpen 13 11 5),
    (0x0203000B, .chClose 6),
    (0x0435800B, .chPush 3 11),
    (0x0635850B, .chPushT 3 11 10),
    (0x0803050B, .chPop 6 10),
    (0x0AD3050B, .chPopT 13 6 10),
    (0x0CD5950B, .chBind 13 11 1 10),
    (0x0E03050B, .chStat 6 10)] : List (IWord × Instr)), decode e.1 = .ok e.2 := by decide +kernel

theorem test_words_sync : ∀ e ∈ ([
    (0x0005806B, .gbar 11),
    (0x0205856B, .gbarT 11 10),
    (0x0405806B, .semP 11),
    (0x0605856B, .semPT 11 10),
    (0x0805806B, .semV 11),
    (0x0A05856B, .monArm 11 10),
    (0x0C00006B, .monWait 0),
    (0x0C0003EB, .monWait 7),
    (0x0E00056B, .monWaitT 10)] : List (IWord × Instr)), decode e.1 = .ok e.2 := by decide +kernel


/-! ## Ill-formed terms -/

/-- One ill-formed term for each check of an instruction with a word. -/
theorem test_ill_formed_words : ∀ i ∈ ([
    .hbrh 0x90000, .hbrh 0x00100, .hstream 3, .lstat 0 3 0, .vadd 0 8 0 3 0, .vsub 0 8 0 3 0, .vmul 0 8 0 3 0, .vmulh 0 8 0 0 3 0,
    .vmin 0 8 0 0 3 0, .vmax 0 8 0 0 3 0, .vand 0 8 0 3 0, .vor 0 8 0 3 0, .vxor 0 8 0 3 0, .vsll 0 8 0 3 0, .vsrl 0 8 0 3 0,
    .vsra 0 8 0 3 0, .vcmp 0 8 0 3 0, .vcmp 0 0 0 0 8, .vsel 0 8 0 3 0, .vsadd 0 8 0 0 3 0] : List Instr), i.wf = false := by decide +kernel

theorem test_ill_formed_vectors : ∀ i ∈ ([
    .vfadd 0 8 0 3 0, .vfsub 0 8 0 3 0, .vfmul 0 8 0 3 0, .vfma 0 8 0 3 0, .vfmin 0 8 0 3 0, .vfmax 0 8 0 3 0, .vfmaxabs 0 8 0 3 0,
    .vfcmp 0 8 0 3 0, .vfcmp 0 0 0 0 8, .vfdiv 0 8 0 3 0, .vcvt 0 0 0 0 0 0 0, .vcvt 0 0 15 0 0 0 0, .vunpack 10 0 0 0, .vunpack 11 0 1 0,
    .vslide 0 0 0 3 0, .vbcast 0 0 0 0, .tzero 1 0, .tcvt 14 0 0 0, .tcvt 7 0 1 0, .tcvtSat 6 0 0 0, .tcvtNosat 7 0 3 0, .ttagSet 1 0] :
    List Instr), i.wf = false := by decide +kernel

theorem test_ill_formed_commands : ∀ i ∈ ([
    .compose 0 0, .vld 0 0 0 0 0, .vlds 0 0 0 0 0, .vlds 0 1 0 0 0, .vldx 0 0 0 0 0, .ldS 0 0 0 0 7 0, .ldAcq 0 0 0 0 7 0, .red 0 0 0 0 11,
    .red 0 0 0 1 8, .amof 0 0 0 0 1 0, .amof 0 0 0 0 7 0, .cwait 0 0, .xcopy1d 0 0 0 0 1 0, .xcopy2d 0 0 0 1 0, .xcopyTile 0 0 0 1 0,
    .xcopyGath 0 0 0 1 0, .lxFeed 0 0 0 1 0, .lxFeedt 0 0 0 0 1 0] : List Instr), i.wf = false := by decide +kernel

/-- One ill-formed term for each bound of a step without a word, past its last value. -/
theorem test_ill_formed_steps : ∀ i ∈ ([
    .qcmdRegister 4096 ⟨.P, 0, 0⟩, .qcmdUnregister 0 ⟨.T, 64, 0⟩, .qwidxWrite 0 0 ⟨.D, 0, 16⟩, .qcancelWrite 4096 0 ⟨.P, 0, 0⟩, .packetFetch 4096,
    .kernelPlacement 64, .peerDoorbellWrite 1024 0 0 (.bell 0), .peerDoorbellWrite 0 64 0 (.bell 0),
    .contextRetire ⟨1024, 0⟩, .contextRetire ⟨0, 8⟩, .kernelComplete (2 ^ 32), .pcmdCreate (.leaf 64) ⟨.P, 0, 0⟩,
    .pcmdDestroy (.first 16) ⟨.P, 0, 0⟩, .pcmdApply (.leaf 64) ⟨.P, 0, 0⟩, .spanDestroyComplete (.first 16), .qoscmdApply 64 ⟨.P, 0, 0⟩,
    .pageWalkComplete ⟨0, 8⟩ .load 0, .tlbInvComplete ⟨0, 8⟩, .l2wayTransitionComplete 64, .cqctlHold 8, .cqctlRemove 8, .cqctlRebuild 8,
    .copyHoldComplete 1024, .registerWrite (2 ^ 52) 0 ⟨.P, 0, 0⟩, .watchdogExpiry ⟨0, 8⟩, .ctlTokenGain 1024,
    .rendezvousTimeout ⟨0, .E⟩ 2, .pauseTimeout ⟨0, 0⟩ (2 ^ 32), .feedTimeout ⟨0, 8⟩ 0, .sinkRetryTimeout ⟨1024, .N⟩ 0,
    .sendBackoffExpiry ⟨0, 0⟩ (2 ^ 32), .messageRetryResend ⟨0, 8⟩ 0, .siteWindowRetry ⟨0, 0⟩ 32, .channelAskRetry ⟨0, 0⟩ 8, .semPRetry ⟨0, 8⟩,
    .prodNodeReissue (2 ^ 54), .switchSlotTimeout 256, .heartbeatMiss 1024, .xirqWrite ⟨.T, 64, 0⟩ 0] : List Instr), i.wf = false := by
  decide +kernel

theorem test_ill_formed_events : ∀ i ∈ ([
    .homeAccess ⟨0, 0⟩ 32, .storeAck ⟨0, 8⟩ 0, .lateFailure ⟨0, 0⟩ 32 .poison, .copyStart 1024, .copyGrant ⟨0, 0⟩ (2 ^ 32),
    .copyComplete ⟨0, 8⟩ 0, .copyFault ⟨0, 0⟩ (2 ^ 32), .copyAborted ⟨0, 8⟩ 0, .productOpen ⟨0, .E⟩ 2, .feedArrival ⟨0, 0⟩ (2 ^ 32),
    .productGrant ⟨0, .E⟩ 2, .productDelivery ⟨1024, .E⟩ 0, .deliveryComplete ⟨0, .E⟩ 2, .residueMismatch ⟨1024, .E⟩,
    .feedResume ⟨0, 0⟩ (2 ^ 32), .packetInjection ⟨0, 0⟩ (2 ^ 32 + 8), .messageArrival ⟨0, 0⟩ (2 ^ 32), .replyHoldRelease ⟨0, 8⟩,
    .messageAnswer ⟨0, 8⟩ 0, .activationStart ⟨0, 8⟩, .channelEntryArrival ⟨0, 0⟩ 8, .channelFlowSignal ⟨0, 0⟩ 8, .channelAsk ⟨0, 0⟩ 8,
    .channelCloseMarker ⟨0, 0⟩ 8, .channelClosedNotice ⟨0, 0⟩ 8, .dispatchDecision 4160, .nodeFinish (2 ^ 61), .stealRequest ⟨0, 8⟩,
    .stealHalfArrival ⟨0, 8⟩, .stealAck ⟨0, 8⟩, .stealReturn ⟨0, 8⟩, .precmdSave 1024 ⟨.P, 0, 0⟩, .precmdRestore 1024 ⟨.P, 0, 0⟩,
    .saveStop ⟨0, 8⟩, .saveDrained ⟨0, 8⟩, .restoreStart ⟨1024, 0⟩, .migcmdStart 64 ⟨.P, 0, 0⟩, .migcmdCancel 64 ⟨.P, 0, 0⟩,
    .migrationCheck 64 ⟨true, true, 0, true⟩, .migrationTransferDone 64 true, .dbgcmdOpen 81, .dbgcmdClose 81, .dbgcmdHalt 81, .dbgcmdResume 81,
    .dbgcmdStep 81, .dbgxvalWrite 81 0, .inspectionWindowRead 81, .swcmdAllocate 64 ⟨.P, 0, 0⟩, .switchAllocationAnswer 64,
    .peerAccess 1024 0 (.read 0 1), .siteWake 1024, .siteGate 1024 .S2, .attestationRequest ⟨.T, 64, 0⟩ 0, .cxlDeviceRemoval 4,
    .siteFault ⟨0, 0⟩ 8 ⟨true, 0⟩, .reservationAging 1024] : List Instr), i.wf = false := by decide +kernel

/-- Words whose reserved fields R24, R27 or their cards refuse. -/
theorem test_refused_words : (decode 0x00000000).toOption.isNone = true ∧ (decode 0xFFFFFFFF).toOption.isNone = true ∧
    (decode 0x0000017F).toOption.isNone = true ∧ (decode 0x06C5853F).toOption.isNone = true := by decide +kernel
/-! ## A small machine

Leaf 0 spans the sites 0 to 15 with every right; kernel 1 spans the sites 0 to 3. Its context at site 0 runs under thread discipline, with banks
0 REG, 1 to 4 ACC and 5 to 15 SCR; its context at site 1 is parked under handler discipline. -/

/-- The x registers of `lab`: a local-window address in r1, one of site 1 in r2, one of global memory in r3, a misaligned one in r4, the local window's
landing place in r5, and small numbers after them. -/
def labX (i : Fin 32) : Word := match i.val with
  | 0 => 0 | 1 => localAddr 0x60000 | 2 => BitVec.ofNat 64 0xFFFFFF0000460000 | 3 => 0x40000 | 4 => 0x40001 | 5 => localAddr 0x70000 | n => BitVec.ofNat 64 n

/-- A context of kernel 1 at a site. -/
def labCtx (h : Nat) : Ctx :=
  { Ctx.blank ⟨h, 0⟩ with
    kid := 1
    status := .running
    thread := true
    pc := 0x1000
    x := Vector.ofFn labX
    banks := List.range 16
    regBanks := 1
    accBanks := 4
    ident := identOf h h 0 4 0 16 1 0 0 0 0x41 []
    msg := ⟨0, 0x50180, 0, 0, 0, 4, 4⟩ }

/-- The machine of these tests. -/
def lab : State :=
  { State.reset with
    cx := labCtx 0
    others := [{ labCtx 1 with status := .parked, thread := false }]
    parts := [⟨.first 0, .active, 0, 16, 0, 0x3FF, 0, 16, 0⟩, ⟨.leaf 0, .active, 0, 16, 0, 0x3FF, 0, 16, 0⟩]
    kernels := [⟨1, 0, 0, 4, 0x1000, 0, 0, .T, none, 0, none, 0, 0, [], false⟩]
    sol := { State.reset.sol with boot := .done } }

/-- `lab` with v[i] of tag i for each tag, and tiles of INT8, BF16 and QC4 in m1 to m3. -/
def labV : State :=
  { lab with cx := { lab.cx with
    v := Vector.ofFn fun i => ⟨BitVec.ofNat 4 (i.val % 16), BitVec.ofNat 1024 (3 ^ 600)⟩
    m := Vector.ofFn fun i => match i.val with
      | 1 => ⟨2, BitVec.ofNat 65536 0x01020304, 0⟩ | 2 => ⟨7, BitVec.ofNat 65536 0x3F803F80, 0⟩ | 3 => ⟨14, 0, 0⟩ | _ => MReg.empty } }

/-- `labV` with a receive end in q1 that holds one INT8 entry, and a send end, off, in q2. -/
def labChan : State :=
  { labV with cx := { labV.cx with chans :=
    [⟨1, false, 1, 7, 16, 12, 4, 0x60800, 0, [labV.getV 2], false, false, false, false⟩, ⟨2, true, 1, 8, 0, 0, 0, 0, 0, [], true, false, false, false⟩] } }

/-- `labV` with the descriptor of an INT8 tile of one row at the address in r5. -/
def labTile : State := { labV with mem := memWrite [] (lab.cx.localPlace 0x70000) 64 (2 ^ 232 + 2 * 2 ^ 224 + 64 * 2 ^ 192 + (localAddr 0x60000).toNat) }

/-- `lab` at a level, its T workspace in the scratchpad. -/
def labAt (l : Level) : State := { lab with cx := { lab.cx with level := l, wsp := ⟨0x400, 0x60000, 0x400, 0x800⟩ } }

/-- `lab` composed with the site 1. -/
def labPair : State := { lab with cx := { lab.cx with comp := ⟨2, 0, 0, none⟩ }, others := [] }

/-- `lab` with the word of ADDI x6, x7, 5 at the program counter, and no copy of it. -/
def labFetch : State := { lab with mem := memWrite [] 0x1000 4 0x00538313 }
/-! ## The hypotheses of the statements are met -/

/-- `lab` with a hint pending. -/
def labHint (kind : Nat) (payload : BitVec 20) : State := { lab with cx := { lab.cx with hint := some ⟨kind, payload, 0xFFC⟩ } }

/-- An entry of the operand log: a sent doubleword store to site 1. -/
def labEntry : OpEntry :=
  ⟨0, 0xFFFFFF0000460000, .store, 0, 8, 0, false, 0x1122334455667788, [(0, 0x88), (7, 0x11)], 8, 52776562720768, 1, .scs, .sent, .K, 0, 0, 0, false, false⟩

/-- `lab` with that entry. -/
def labSent : State := { lab with cx := { lab.cx with log := [labEntry] } }

theorem lab_safe : Safe lab := rfl

theorem lab_settled : lab.settled ⟨0x40000, .glob, 0, 0, false⟩ (lab.getX 3) 8 := by
  refine ⟨rfl, ?_⟩
  decide +kernel

/-- Both clauses of an immediate form (O5). -/
theorem witness_ImmediateForms : lab.cx.hint = none ∧ (labHint 1 0x80000).cx.hint = some ⟨1, 0x80000, 0xFFC⟩ := ⟨rfl, rfl⟩

/-- A target whose bit 1 is clear, and one whose bit 1 is set, of JAL and JALR; a taken and an untaken branch. -/
theorem witness_JumpsAndBranches :
    (lab.cx.pc + ((4 : BitVec 20).signExtend 64 <<< 1)).getLsbD 1 = false ∧ (lab.cx.pc + ((1 : BitVec 20).signExtend 64 <<< 1)).getLsbD 1 = true ∧
    (BitVec.ofNat 64 ((lab.getX 3 + lab.imm 1).toNat / 2 * 2)).getLsbD 1 = false ∧
    (BitVec.ofNat 64 ((lab.getX 3 + lab.imm 3).toNat / 2 * 2)).getLsbD 1 = true ∧ lab.getX 6 = lab.getX 6 ∧ lab.getX 6 ≠ lab.getX 7 := by
  decide +kernel

/-- One byte off a doubleword, by a load, a store and an AMO. -/
theorem witness_MisalignedAccesses : lab.cx.waitMet lab.cx.waitHint 0 = true ∧ (lab.getX 3 + lab.imm 1).toNat % 8 ≠ 0 ∧
    (lab.getX 3 + lab.imm 1).toNat % 2 ≠ 0 ∧ (lab.getX 4).toNat % (if (1 : BitVec 1) = 1 then 8 else 4) ≠ 0 := by decide +kernel

/-- The last byte of the local window's scratchpad, a global doubleword with no copy, and one with a copy. -/
theorem witness_ScalarLoads : (lab.getX 1 + lab.imm 0).toNat % 8 = 0 ∧ lab.reach .load (lab.getX 1 + lab.imm 0) 8 =
      .ok ⟨52776558526464, .localWin, 0, 0, false⟩ ∧ isMmio 52776558526464 = false ∧ (lab.getX 4).toNat % 2 ≠ 0 ∧
    lab.mayLoad lab.cx.scopeOf ⟨52776558526464, .localWin, 0, 0, false⟩ (lab.getX 1 + lab.imm 0) 8 8 = .ok () ∧
    lab.mayLoad lab.cx.scopeOf ⟨0x40000, .glob, 0, 0, false⟩ (lab.getX 3) 8 8 = .ok () ∧ lab.cx.early = [] ∧
    lab.reach .load (lab.getX 3) 8 = .ok ⟨0x40000, .glob, 0, 0, false⟩ ∧ isPeer 0x40000 = false ∧
    lab.copyOf (lab.cx.bankSite (lab.getX 3)) (0x40000 / 128) = none ∧
    ({ lab with l1 := [⟨0, 0x800, 7⟩] } : State).copyOf (lab.cx.bankSite (lab.getX 3)) (0x40000 / 128) = some ⟨0, 0x800, 7⟩ := by
  decide +kernel

/-- A store of each kind of place. -/
theorem witness_ScalarStores : lab.cx.mayLeave lab.cx.scopeOf = true ∧ lab.freeIdx (lab.cx.bankSite (lab.getX 1)) = some 0 ∧
    lab.localOpen 52776558526464 8 = true ∧ lab.mayIssue lab.cx.scopeOf ⟨0x40000, .glob, 0, 0, false⟩ (lab.getX 3) = true ∧
    lab.storeTarget (lab.getX 1) 8 lab.cx.tileco = .ok ⟨52776558526464, .localWin, 0, 0, false⟩ ∧
    lab.storeTarget (lab.getX 2) 8 lab.cx.tileco = .ok ⟨52776562720768, .siteWin, 1, 0, false⟩ ∧
    lab.storeTarget (lab.getX 3) 8 lab.cx.tileco = .ok ⟨0x40000, .glob, 0, 0, false⟩ ∧
    isMmio 52776558526464 = false ∧ isMmio 52776562720768 = false := by decide +kernel

/-- `labEntry` as an access of another kind and width. -/
def labKind (k : OpKind) (n : Nat) : OpEntry := { labEntry with kind := k, len := n, cells := [] }

/-- `lab` with one entry in its log. -/
def labPosted (e : OpEntry) : State := { lab with cx := { lab.cx with log := [e] } }

/-- A store that may be performed and may fail, and one that may not fail of its peer. -/
theorem witness_PostedStoreLife : Safe labSent ∧ labSent.entry? ⟨0, 0⟩ 0 = some (labSent.cx, labEntry) ∧
    labSent.mayPerform labSent.cx labEntry = true ∧ labEntry.toSwitch = false ∧ labSent.placeEntry labSent.cx labEntry = .at 52776562720768 ∧
    labSent.entryRefused labEntry 52776562720768 = none ∧ (labEntry.cells.map (·.1)).Nodup ∧ regionOf labEntry.addr = .siteWindow ∧
    labSent.failsNow labSent.cx labEntry .poison = true ∧ labSent.failsNow labSent.cx labEntry .rejected = false := by
  refine ⟨rfl, ?_⟩
  decide +kernel

/-- A posted access of each other kind may be performed. -/
theorem witness_PostedStoreLife_kinds :
    ∀ e ∈ [labKind .red 8, labKind .laccAdd 72, labKind .laccClr 72, labKind .semV 8, labKind .trig 8],
      Safe (labPosted e) ∧ (labPosted e).entry? ⟨0, 0⟩ 0 = some ((labPosted e).cx, e) ∧
      (labPosted e).mayPerform (labPosted e).cx e = true ∧ e.toSwitch = false ∧
      (labPosted e).placeEntry (labPosted e).cx e = .at 52776562720768 ∧ (labPosted e).entryRefused e 52776562720768 = none := by
  unfold Safe
  decide +kernel

/-- A performed access whose acknowledgement is next on its pair, an entry that nothing fails, and a reply in the hold slot that lands in the
reply ring. -/
theorem witness_PostedStoreLife_ends :
    let e := { labEntry with st := .performed }
    let r : HeldReply := ⟨⟨1, 0⟩, 3, 0⟩
    let s : State := { lab with cx := { lab.cx with hold := some r, msg := ⟨0, 0x50180, 0x02051000, 0, 0, 4, 4⟩ } }
    (labPosted e).entry? ⟨0, 0⟩ 0 = some ((labPosted e).cx, e) ∧ (labPosted e).entryAnswered e = true ∧
    (∀ why ∈ [LateReason.rejected, .poison, .retired], (labPosted e).failsNow (labPosted e).cx e why = false) ∧
    s.ctx? ⟨0, 0⟩ = some s.cx ∧ (s.landReply s.cx r.img).isSome = true := by decide +kernel

/-- A doubleword in the local window and one in global memory. -/
theorem witness_Amos : Safe lab ∧ lab.settled ⟨0x40000, .glob, 0, 0, false⟩ (lab.getX 3) 8 ∧ (lab.getX 1).toNat % 8 = 0 ∧
    lab.rmwTarget (lab.getX 1) 8 = .ok ⟨52776558526464, .localWin, 0, 0, false⟩ ∧
    lab.rmwTarget (lab.getX 3) 4 = .ok ⟨0x40000, .glob, 0, 0, false⟩ ∧ lab.cx.mayLeave (lab.cx.amoOrder true true) = true ∧
    lab.cx.mayLeave ⟨false, false, true, 3⟩ = true ∧ (lab.getX 4).toNat % 4 ≠ 0 := by
  refine ⟨lab_safe, lab_settled, ?_⟩
  decide +kernel

/-- Room for a reservation, and a reservation that an SC finds. -/
theorem witness_LoadReserved : lab.resolve .load (lab.getX 3) 8 lab.cx.tileco = .ok ⟨0x40000, .glob, 0, 0, false⟩ ∧
    lab.checkPlace .load ⟨0x40000, .glob, 0, 0, false⟩ (lab.getX 3) 8 = .ok () ∧
    (lab.resvRoom (⟨0x40000, .glob, 0, 0, false⟩ : Target).resvHome).any
      (fun r => r.cx.early.isEmpty && (r.mayGo ⟨0x40000, .glob, 0, 0, false⟩ (lab.getX 3) 8).toOption.isSome) = true ∧
    lab.cx.mayLeave (lab.cx.amoOrder true true) = true ∧ lab.cx.resv = none ∧
    lab.rmwTarget (lab.getX 3) 8 = .ok ⟨0x40000, .glob, 0, 0, false⟩ := by decide +kernel

/-- LD.S, LD.ACQ, ST.S and ST.REL in the local window and elsewhere, and the order with a strong store outstanding. -/
theorem witness_StrongAccesses : lab.reach .load (lab.getX 3 + lab.getX 0) 8 = .ok ⟨0x40000, .glob, 0, 0, false⟩ ∧
    (lab.getX 3 + lab.getX 0).toNat % 8 = 0 ∧ lab.cx.early = [] ∧
    lab.mayGo ⟨0x40000, .glob, 0, 0, false⟩ (lab.getX 3 + lab.getX 0) 8 = .ok () ∧ (lab.getX 3 + lab.getX 7).toNat % 8 ≠ 0 ∧
    lab.storeTarget (lab.getX 1) 8 lab.cx.tileco = .ok ⟨52776558526464, .localWin, 0, 0, false⟩ ∧
    lab.storeTarget (lab.getX 2) 8 lab.cx.tileco = .ok ⟨52776562720768, .siteWin, 1, 0, false⟩ ∧
    lab.mayIssue ⟨false, true, true, 3⟩ ⟨52776558526464, .localWin, 0, 0, false⟩ (lab.getX 1) = true ∧
    lab.mayIssue ⟨false, true, true, 3⟩ ⟨52776562720768, .siteWin, 1, 0, false⟩ (lab.getX 2) = true ∧
    lab.localOpen 52776558526464 8 = true ∧ lab.freeIdx (lab.cx.bankSite (lab.getX 2)) = some 0 ∧
    lab.cx.mayLeave ⟨false, true, true, 3⟩ = true ∧ labSent.cx.mayLeave ⟨false, true, true, 3⟩ = false := by decide +kernel

/-- RED and LACC at once and posted, an operand that LACC.ADD refuses, and one it takes. -/
theorem witness_PostedReductions : lab.postedTarget (lab.getX 1) 8 = .ok ⟨52776558526464, .localWin, 0, 0, false⟩ ∧
    lab.postedTarget (lab.getX 2) 8 = .ok ⟨52776562720768, .siteWin, 1, 0, false⟩ ∧
    lab.laccTarget (lab.getX 1) = .ok ⟨52776558526464, .localWin, 0, 0, false⟩ ∧ laccRefuses true (0x7FF0000000000000) = true ∧
    laccRefuses true (0x3FF0000000000000) = false ∧ lab.resolve .load (lab.getX 1) 72 none = .ok ⟨52776558526464, .localWin, 0, 0, false⟩ ∧
    lab.laccWhole .load ⟨52776558526464, .localWin, 0, 0, false⟩ (lab.getX 1) = true ∧ lab.localOpen 52776558526464 72 = true ∧
    lab.roomFor (lab.cx.bankSite (lab.getX 2)) lab.cx.leaf 0 = true ∧ lab.freeIdx (lab.cx.bankSite (lab.getX 2)) = some 0 ∧
    lab.cx.early = [] ∧ lab.mayGo ⟨52776558526464, .localWin, 0, 0, false⟩ (lab.getX 1) 72 = .ok () ∧
    lab.checkPlace .load ⟨52776558526464, .localWin, 0, 0, false⟩ (lab.getX 1) 72 = .ok () := by decide +kernel

/-- PIN in a window and of a global line; a fence that is met and one that waits. -/
theorem witness_PinsAndFences : lab.cx.waitMet 3 (lab.getX 0).toNat = true ∧ regionOf (lab.getX 1) = .localWindow ∧
    regionOf (lab.getX 2) = .siteWindow ∧ regionOf (lab.getX 3) = .global ∧
    lab.resolve .load (lab.getX 3) 1 lab.cx.tileco = .ok ⟨0x40000, .glob, 0, 0, false⟩ ∧ lab.pinReason (0x40000 / 128) 0 = 0 ∧
    lab.cx.pinsLine (0x40000 / 128) = false ∧ isPeer 0x40000 = false ∧
    lab.cx.drained = true ∧ labSent.cx.drained = false := by decide +kernel
/-- An INT source with a vector, a scalar, an immediate and a channel operand; a vector operand of another tag. -/
theorem witness_VectorInteger : (labV.getV 2).tag = 2 ∧ (labV.getV 1).tag = 1 ∧ isInt (labV.getV 2).tag = true ∧
    (∀ o ∈ [(0 : BitVec 2), 1, 2], (labV.operandB o (labV.getV 2).tag 2).toOption.isSome = true) ∧
    (labV.getV 18).tag = (labV.getV 2).tag ∧ (labV.getV 3).tag ≠ (labV.getV 2).tag ∧
    (labChan.popSource 1).toOption.any (fun e => e.1.tag = 2) = true := by decide +kernel

/-- A source of no tag, of BITS and of FP32. -/
theorem witness_TagTraps : (labV.getV 0).tag = 0 ∧ (labV.getV 1).tag = 1 ∧ (labV.getV 6).tag = 6 ∧ isTileTag (labV.getM 0).tag = false := by
  decide +kernel

/-- A source of each VFLT tag, with an operand, and a third source of its tag. -/
theorem witness_VectorFloat : (∀ t ∈ [(6 : BitVec 5), 7, 8], isVflt (labV.getV t).tag = true ∧ (labV.getV (t + 16)).tag = (labV.getV t).tag ∧
    (labV.operandB 0 (labV.getV t).tag (t + 16)).toOption.isSome = true) ∧ labV.cx.vctl.toNat % 4 = 0 := by decide +kernel

/-- A source for each conversion, packing and reduction; no NaN is lost where the target holds NaNs. -/
theorem witness_VectorConversions : isNumeric (labV.getV 6).tag = true ∧ (labV.getV 11).tag = 11 ∧ (labV.getV 13).tag = 13 ∧
    (labV.getV 1).tag = 1 ∧ (labV.getV 14).tag = 14 ∧ nanLost labV.cx 6 7 ((labV.getV 6).elem 0) = false ∧
    nanLost labV.cx 6 13 0x7FC00000 = false ∧ isInt (labV.getV 5).tag = true ∧ isVflt (labV.getV 8).tag = true := by decide +kernel

/-- A permutation's index of the tag it needs, a slide out of range, a lookup, and a register that keeps its bits under a new tag. -/
theorem witness_VectorMoves : (labV.getV 6).tag ≠ 0 ∧ (labV.getV 4).tag = indexTag (labV.getV 6).tag ∧ (labV.getV 2).tag = 2 ∧
    (labV.getV 3).tag ≠ 1 ∧ (∃ i < 128, (BitVec.allOnes 128).getLsbD i = true) ∧ (∀ i < 128, (0 : BitVec 128).getLsbD i = false) := by
  decide +kernel

/-- Tiles of a tag each form takes, and a vector for TPLACE of the tile's tag and of another. -/
theorem witness_TileMoves : isTileTag (labV.getM 1).tag = true ∧ (labV.getM 1).tag ≠ 14 ∧ isTileTag (labV.getV 2).tag = true ∧
    (labV.getM 1).tag = (labV.getV 2).tag ∧ (labV.getM 2).tag ≠ (labV.getV 2).tag ∧ isTileTag 8 = true ∧
    tagWidth 8 = tagWidth (labV.getM 2).tag ∧ labV.cx.vctl.getLsbD 3 = false ∧ (labV.getM 2).tag = 7 := by decide +kernel

/-- An element of a load that is misaligned, one that does not translate, and one that is placed; a whole-register load of BITS. -/
theorem witness_VectorLoads : lab.cacheRoom (lab.cx.bankSite (lab.getX 1)) (tagElems 4) ∧ lab.cx.waitMet 3 0 = true ∧ lab.enabled 0 = true ∧ (lab.getX 4).toNat % 4 ≠ 0 ∧
    (lab.resolve .load (localAddr 0x100) 4 lab.cx.tileco).toOption = none ∧ (∀ k < 32, k < tagElems 4 →
      (lab.getX 1 + BitVec.ofNat 64 (k * 4)).toNat % 4 = 0 ∧ lab.resolve .load (lab.getX 1 + BitVec.ofNat 64 (k * 4)) 4 lab.cx.tileco =
        .ok ⟨52776558526464 + 4 * k, .localWin, 0, 0, false⟩ ∧ isMmio (52776558526464 + 4 * k) = false ∧
      lab.checkPlace .load ⟨52776558526464 + 4 * k, .localWin, 0, 0, false⟩ (lab.getX 1 + BitVec.ofNat 64 (k * 4)) 4 = .ok () ∧
      lab.mayGo ⟨52776558526464 + 4 * k, .localWin, 0, 0, false⟩ (lab.getX 1) 4 = .ok () ∧
      lab.foreign (physOf (52776558526464 + 4 * k)) 4 = none ∧ (52776558526464 + 4 * k) % 128 + 4 ≤ 128) ∧
    lab.cx.early = [] ∧ tagElems 4 = 32 := by
  unfold State.cacheRoom
  decide +kernel

/-- Each byte of a whole-register load of BITS in the scratchpad. -/
theorem witness_VectorLoads_bits : lab.enabled 0 = true ∧ lab.cx.early = [] ∧ lab.ahead lab.cx.key.h lab.cx.key.h = [] ∧ lab.posts = [] ∧
    ∀ j < 128, lab.resolve .load (lab.getX 1 + BitVec.ofNat 64 j) 1 lab.cx.tileco = .ok ⟨52776558526464 + j, .localWin, 0, 0, false⟩ ∧
      isMmio (52776558526464 + j) = false ∧
      lab.checkPlace .load ⟨52776558526464 + j, .localWin, 0, 0, false⟩ (lab.getX 1 + BitVec.ofNat 64 j) 1 = .ok () := by
  decide +kernel

/-- The bytes of a store of INT32 elements in the local window reach their places, and so do those of one in a site window. -/
theorem witness_VectorStores : (labV.getV 0).tag = 0 ∧ (labV.getV 1).tag.toNat ≤ 1 ∧ 1 < (labV.getV 4).tag.toNat ∧
    BytesReach labV labV.cx.tileco [.localWin] (fun v => v.toNat - (localAddr 0x60000).toNat + 52776558526464) [(localAddr 0x60000, 1), (localAddr 0x60001, 2)] ∧
    BytesReach labV labV.cx.tileco [.siteWin, .glob] (fun v => v.toNat - (labV.getX 2).toNat + 52776562720768) [(labV.getX 2, 1), (labV.getX 2 + 1, 2)] := by
  refine ⟨by decide +kernel, by decide +kernel, by decide +kernel, ?_, ?_⟩ <;>
    (unfold BytesReach
     simp only [List.mem_cons, List.not_mem_nil, or_false, forall_eq_or_imp, forall_eq])
  · exact ⟨⟨⟨by decide +kernel, ⟨52776558526464, .localWin, 0, 0, false⟩, by decide +kernel⟩,
      ⟨by decide +kernel, ⟨52776558526465, .localWin, 0, 0, false⟩, by decide +kernel⟩⟩, by decide +kernel⟩
  · exact ⟨⟨⟨by decide +kernel, ⟨52776562720768, .siteWin, 1, 0, false⟩, by decide +kernel⟩,
      ⟨by decide +kernel, ⟨52776562720769, .siteWin, 1, 0, false⟩, by decide +kernel⟩⟩, by decide +kernel⟩

/-- Nothing is ahead of a store at once, and the log has room for one of one line. -/
theorem witness_VectorStores_room : labV.ahead labV.cx.key.h labV.cx.key.h = [] ∧ labV.posts = [] ∧ labV.apart = false ∧
    labV.logRoom [(labV.getX 2, 1)] 1 ∧ labTile.logRoom [(labV.getX 2, 1)] 1 ∧ labTile.ahead labTile.cx.key.h labTile.cx.key.h = [] ∧
    labTile.posts = [] ∧ labTile.apart = false ∧ labV.roomFor (labV.cx.bankSite (labV.getX 2)) labV.cx.leaf 0 = true ∧
    labTile.roomFor (labTile.cx.bankSite (labV.getX 2)) labTile.cx.leaf 0 = true := by
  unfold State.logRoom
  decide +kernel

/-- A descriptor in order, of an INT8 tile of one row at the scratchpad, one out of order, and a misaligned one; the row and the tile's tag. -/
theorem witness_TileAccesses : labTile.readTileDesc 5 = .ok (⟨localAddr 0x60000, 0, 0, 64, 2, 1, false, 0, 0⟩, labTile) ∧
    (lab.getX 5).toNat % 64 = 0 ∧ (lab.getX 4).toNat % 64 ≠ 0 ∧ tileDesc 0 = none ∧
    labTile.placeAll .load none (lines (localAddr 0x60000) 64 0) =
      .ok [⟨⟨localAddr 0x60000, 64, 0⟩, ⟨52776558526464, .localWin, 0, 0, false⟩⟩] ∧
    labTile.checkPlace .load ⟨52776558526464, .localWin, 0, 0, false⟩ (localAddr 0x60000) 64 = .ok () ∧ labTile.cx.early = [] ∧
    labTile.mayGo ⟨52776558526464, .localWin, 0, 0, false⟩ (localAddr 0x60000) 64 = .ok () ∧
    labTile.foreign (physOf 52776558526464) 64 = none ∧
    lab.reach .load (lab.getX 5) 64 = .ok ⟨lab.cx.localPlace 0x70000, .localWin, 0, 0, false⟩ ∧
    lab.mayLoad .weak ⟨lab.cx.localPlace 0x70000, .localWin, 0, 0, false⟩ (lab.getX 5) 64 1 = .ok () ∧
    tileDesc (lab.loadAt .weak ⟨lab.cx.localPlace 0x70000, .localWin, 0, 0, false⟩ (lab.getX 5) 64 1).1 = none ∧
    (labTile.getM 1).tag = 2 ∧ (labTile.getM 2).tag ≠ 2 ∧ labTile.cacheRoom (labTile.cx.bankSite (localAddr 0x60000)) 256 ∧
    regionOf (localAddr 0x60000 + BitVec.ofNat 64 63) = regionOf (localAddr 0x60000) := by
  unfold State.cacheRoom
  decide +kernel
/-- The fetch of a word that no block holds, before a step with nothing due; a hint that the word takes, and one it does not. -/
theorem witness_StepRunsDecoded : labFetch.turns = [] ∧ labFetch.posts = [] ∧ labFetch.cx.comp.due = none ∧ labFetch.canRun = true ∧ labFetch.cx.waiting = false ∧
    ({ labFetch with cx := { labFetch.cx with waiting := true } } : State).canRun = true ∧ labFetch.cx.hint = none ∧ labFetch.boundary = none ∧
    labFetch.fetchPlace labFetch.cx.pc = .ok 0x1000 ∧ labFetch.blockOf (labFetch.cx.fetchSite labFetch.cx.pc.toNat) (0x1000 / 64) = none ∧
    labFetch.fetchWord (labFetch.cx.fetchSite labFetch.cx.pc.toNat) 0x1000 = 0x00538313 ∧ decode 0x00538313 = .ok (.addi 5 7 6) ∧
    (decode 0x00000000).toOption = none ∧ takes ⟨1, 0, 0xFFC⟩ 0x00538313 = true ∧ takes ⟨5, 0, 0xFFC⟩ 0x00538313 = false ∧
    takes ⟨4, 1, 0xFFC⟩ 0x00538313 = true ∧ (labHint 4 1).cx.suppressed 0x00538313 = true ∧
    (labHint 4 0).cx.suppressed 0x00538313 = false := by decide +kernel

/-- A lone core at the level of the trap and below it, and each mark of R362. -/
theorem witness_TakingATrap : lab.cx.comp.n ≤ 1 ∧ Level.T ≠ .K ∧ 63 < 64 ∧ (labAt .T).cx.level = .T ∧ lab.cx.level ≠ .T ∧
    lab.cx.first = none ∧ ({ lab.cx with first := some .P } : Ctx).first = some .P ∧ Safe lab := by
  unfold Safe
  decide +kernel

/-- Each level, with no hint pending and no handler begun. -/
theorem witness_Calls : lab.cx.level = .K ∧ (labAt .T).cx.level = .T ∧ (labAt .D).cx.level = .D ∧ (labAt .P).cx.level = .P ∧
    (labAt .P).cx.first = none ∧ (labAt .P).cx.hint = none := by decide +kernel

/-- A return at its own level, to another and to the same one, and one at another level. -/
theorem witness_TrapReturns : (labAt .T).cx.level = .T ∧ (labAt .D).cx.level ≠ .T ∧ Safe (labAt .T) ∧
    ((labAt .T).cx.tr .T).status.extractLsb' 10 2 = 0 ∧
    (({ (labAt .T).cx with tt := { TrapRegs.reset with status := 0x400 } } : Ctx).tr .T).status.extractLsb' 10 2 = 1 := by
  unfold Safe
  decide +kernel

/-- A number without a CSR, a CSR above the level, a read-only one that is read and that would be written, and one that is written. -/
theorem witness_CsrAccesses : lab.readCsr 0x5D3 = none ∧ (lab.readCsr 0x380).isSome = true ∧
    lab.cx.level.rank < ((0x380 : BitVec 12).extractLsb' 8 2).toNat ∧ (0xCC0 : BitVec 12).extractLsb' 10 2 = 3 ∧
    ((0xCC0 : BitVec 12).extractLsb' 8 2).toNat ≤ lab.cx.level.rank ∧ (lab.readCsr 0xCC0).isSome = true ∧ lab.readCsr 0x8C0 = some 0 ∧
    ((0x8C0 : BitVec 12).extractLsb' 8 2).toNat ≤ lab.cx.level.rank ∧ ((0x7D8 : BitVec 12).extractLsb' 8 2).toNat ≤ (labAt .P).cx.level.rank := by
  decide +kernel

/-- WFI that wakes and one that waits; a workspace that fits and one that does not; TLB.INV at T, TLB.SYNC with and without a removal, a removal
that may complete, and a walk that succeeds. -/
theorem witness_SystemInstructions : (labAt .T).cx.wakes 0 = false ∧
    ({ (labAt .T).cx with tt := { TrapRegs.reset with swi := true }, tp := { TrapRegs.reset with ie := 2 } } : Ctx).wakes 0 = true ∧
    (labAt .T).cx.halt = none ∧ (labAt .T).cx.wspFits .T (0x60200 / 512) = true ∧
    (labAt .T).cx.wspFits .T 2047 = false ∧ (labAt .T).cx.drained = true ∧ ((labAt .T).invTarget 0).toOption.isSome = true ∧
    (∀ i ∈ (labAt .T).invs, i.key ≠ (labAt .T).cx.key) ∧ (labAt .T).ctx? ⟨0, 0⟩ = some (labAt .T).cx ∧ regionOf 0x40000 = .global ∧
    ((labAt .T).missFound (labAt .T).cx.client 0x40000).xlat?.isSome = true ∧ tabGet (labAt .T).tokens 0 0 < 16 ∧
    (labAt .T).cx.saveReq = none ∧ (∀ l ∈ (labAt .T).slices, l.dirty = 0) := by decide +kernel

/-- A removal that may complete. -/
theorem witness_SystemInstructions_removal : let i : TlbInv := ⟨⟨0, 0⟩, [1], 0, 0, none⟩
    ({ lab with invs := [i] } : State).invs.find? (fun j => j.key = ⟨0, 0⟩) = some i ∧ ({ lab with invs := [i] } : State).invPerformed i = true := by
  decide +kernel

/-- With the right and without it, a lone core and a pair; sites that are aligned and inside the kernel, and sites that are not; a partner that
can be taken, and one that cannot. -/
theorem witness_Composing : lab.leafGrants 5 = true ∧ ({ lab with parts := [] } : State).leafGrants 5 = false ∧ 2 ≤ labPair.cx.comp.n ∧
    lab.cx.comp.n < 2 ∧ (lab.cx.key.h % 2 = 0 ∧ lab.cx.kbase ≤ lab.cx.rel ∧ lab.cx.rel + 2 ≤ lab.cx.kbase + lab.cx.klen) ∧
    ¬ lab.cx.rel + 8 ≤ lab.cx.kbase + lab.cx.klen ∧ ({ lab with others := [{ labCtx 1 with thread := false }] } : State).available lab.cx.key 1 = false ∧
    (∀ j < 2, ({ lab with others := [] } : State).available lab.cx.key (lab.cx.key.h + j) = true) ∧ lab.cx.resident = true ∧
    (∀ c ∈ lab.others, c.dirty = 0) ∧ lab.cx.level = .K ∧
    (labAt .T).cx.level ≠ .K := by decide +kernel
/-- A copy of context 0 at site 0, 3 INT8 elements, in a state. -/
def labCopy (st : CopyState) : Copy :=
  ⟨0, ⟨0, 0⟩, 1, .d1, copyDesc1D (localAddr 0x60000) (localAddr 0x70000) 3, false, false, 0, st, 0, 0, 0, 0, .K, false, false, false, false, 0, none, 0, [], false⟩

/-- `lab` with that copy. -/
def labCopies (st : CopyState) : State := { lab with copies := [labCopy st] }

/-- A count of the one-dimensional form, at both ends and past them; a descriptor in order, and one that is not; a full queue; and a descriptor in
the local window. -/
theorem witness_CopyCommands : (lab.getX 0).toNat = 0 ∧ 2 ^ 24 < (lab.getX 1).toNat ∧ (lab.getX 6).toNat = 6 ∧
    copyDescOk .d1 (copyDesc1D (localAddr 0x60000) (localAddr 0x70000) 1) = true ∧
    copyDescOk .d2 (copyDesc1D (localAddr 0x60000) (localAddr 0x70000) (2 ^ 24)) = true ∧
    copyDescOk .gath (copyDesc1D 1 2 3 ||| 0x1000000000000000000000000000000000000000000000000000000000000000000000000000000000000000000000000) = false ∧
    lab.copyRoom lab.cx.key = true ∧ ({ lab with copies := List.replicate 8 (labCopy .queued) } : State).copyRoom lab.cx.key = false ∧
    lab.reach .load (lab.getX 1) 64 = .ok ⟨52776558526464, .localWin, 0, 0, false⟩ ∧ (lab.getX 4).toNat % 64 ≠ 0 ∧ lab.cx.thread = true ∧
    lab.mayLoad .weak ⟨52776558526464, .localWin, 0, 0, false⟩ (lab.getX 1) 64 1 = .ok () ∧
    lab.cx.resident = true ∧ lab.copy? ⟨0, 0⟩ 6 = none ∧ (labCopies .done).copy? ⟨0, 0⟩ 1 = some (labCopy .done) ∧
    (labCopies .running).copy? ⟨0, 0⟩ 1 = some (labCopy .running) := by decide +kernel

/-- The last element of a copy, its places in the local window, and each end of a copy. -/
theorem witness_CopyRuns : Safe lab ∧ lab.rowIndex lab.cx (labCopy .running) 0 = .ok 0 ∧
    lab.copyPlace lab.cx .K .load 0 (localAddr 0x60002) (localAddr 0x60002) 1 none = .ok ⟨52776558526466, .localWin, 0, 0, false⟩ ∧
    lab.copyPlace lab.cx .K .store 1 (localAddr 0x70002) (localAddr 0x70002) 1 none = .ok ⟨52776558592002, .localWin, 0, 0, false⟩ ∧
    2 / cdElems (labCopy .running).desc = 0 ∧ 2 % cdElems (labCopy .running).desc = 2 ∧
    (labCopies .queued).nextCopy 0 = some (labCopy .queued) ∧ (labCopies .queued).placeFree 0 = true ∧
    (labCopies .grant).copy? ⟨0, 0⟩ 1 = some (labCopy .grant) ∧ (labCopies .grant).oldestCopy 0 = some (labCopy .grant) ∧
    (labCopies .grant).againCopy 0 = none ∧
    ({ lab with copies := labCopy .grant :: (List.range 4).map fun j => { labCopy .running with handle := 2 + j } } : State).placeFree 0 = false ∧
    (labCopies .running).activeCopy ⟨0, 0⟩ 1 false = some (lab.cx, ⟨labCopies .running, labCopy .running, none⟩) ∧
    (CopyEnd.accepted (CopyEnd.finish lab.cx) ⟨labCopies .running, labCopy .running, none⟩).bar = none ∧
    (CopyEnd.accepted (CopyEnd.finish lab.cx) ⟨{ labCopies .running with poison := [52776558592002 / 128] }, labCopy .running, none⟩).bar =
      some (.stop ⟨2, 1, localAddr 0x70000, 0, .P, some 52776558133248⟩) ∧
    ({ lab with copies := [{ labCopy .faulted with aborting := true }] } : State).copy? ⟨0, 0⟩ 1 = some { labCopy .faulted with aborting := true } := by
  unfold Safe
  decide +kernel

/-- A registered queue with KSUB whose ring lies in global memory: with room, full, and in ERROR. -/
def labQueue (st : QState) (widx : BitVec 32) : State :=
  { lab with queues := [⟨6, st, 0, 0, widx, 0, 0x80000, 6, .T, true, 0, 0, 17, false, [], []⟩] }

/-- A queue out of reach, one not registered, one in ERROR, a full one, one with room, a packet in the local window, and room for TRIG. -/
theorem witness_Submissions : lab.cx.thread = true ∧ lab.freeIdx lab.cx.key.h = some 0 ∧ lab.reachesQueue lab.cx.requester 6 = true ∧
    lab.reachesQueue lab.cx.requester 16 = false ∧ ((labQueue .active 1).queue 6).ksub = true ∧ (lab.queue 6).ksub = false ∧
    ((labQueue .error 1).queue 6).st = .error ∧ (labQueue .active 64).reachesQueue lab.cx.requester 6 = true ∧
    (((labQueue .active 64).queue 6).widx - ((labQueue .active 64).queue 6).ridx).toNat = ((labQueue .active 64).queue 6).size ∧
    (((labQueue .active 63).queue 6).widx - ((labQueue .active 63).queue 6).ridx).toNat ≠ ((labQueue .active 63).queue 6).size ∧
    lab.reach .load (lab.getX 1) 64 = .ok ⟨52776558526464, .localWin, 0, 0, false⟩ ∧ lab.cx.drained = true ∧ lab.cx.early = [] ∧
    lab.mayGo ⟨52776558526464, .localWin, 0, 0, false⟩ (lab.getX 1) 64 = .ok () := by decide +kernel

/-- A product of one row, one column and one step, INT8 by INT8 to INT32, under tag 7 on the link named by DIR 1. -/
def labDesc : BitVec 512 := BitVec.ofNat 512 (1 + 2 ^ 8 + 7 * 2 ^ 16 + 2 ^ 32 + 2 * 2 ^ 64 + 2 * 2 ^ 72 + 4 * 2 ^ 80 + 2 ^ 88)

/-- A feed of one lane and one step for that tag, from the address in r1, along DIR 1. -/
def labFeed : BitVec 512 := BitVec.ofNat 512 ((localAddr 0x60000).toNat + 2 ^ 224 + 7 * 2 ^ 256 + 2 * 2 ^ 272 + 2 ^ 280 + 2 * 2 ^ 288)

/-- The side-queue entries of a product at the near end of the link and of a feed at each end. -/
def labProd (st : LinkState) : LinkCmd :=
  ⟨⟨0, 0⟩, 1, .K, false, ⟨0, .N⟩, false, 0, labDesc, none, false, false, 0, st, 0, 0, 0, false, 0, false, false, false, [], [], none, none, 0, 0, [], false, none⟩
def labSide (far : Bool) (st : LinkState) : LinkCmd :=
  ⟨⟨if far then 1 else 0, 0⟩, 2, .K, true, ⟨0, .N⟩, far, 0, labFeed, none, false, false, 0, st, 0, 1, 0, false, 1, true, false, false, [0], [], none, none, 0, 0, [], false, none⟩

/-- `lab` with a product and its two feeds. -/
def labLinks (p f : LinkState) : State :=
  { lab with links := [{ labProd p with feedA := some (⟨0, 0⟩, 2), feedB := some (⟨1, 0⟩, 2) }, labSide false f, labSide true f] }

/-- A link, and a direction without one; fields in order and out of it; a full queue and one with room; a descriptor inside SCR and one outside. -/
theorem witness_LinkIssue : linkFrom 0 2 = none ∧ linkFrom 0 1 = some (⟨0, .N⟩, false, 1) ∧ productFieldsOk labDesc false = true ∧
    productFieldsOk labDesc true = false ∧ feedFieldsOk labFeed none false = true ∧ feedFieldsOk 0 none true = false ∧
    lab.cx.feedViolation labFeed = none ∧ lab.cx.feedViolation (labFeed ^^^ 0x9C000) = some 0xFFFFFFFFFFFFC000 ∧
    (lab.sideQueue ⟨0, .N⟩ false 0).length < 8 ∧
    8 ≤ (({ lab with links := List.replicate 8 (labProd .queued) } : State).sideQueue ⟨0, .N⟩ false 0).length ∧
    (lab.cx.scrOperand (lab.getX 1) 64).toOption.isSome = true ∧ (lab.cx.scrOperand (lab.getX 3) 64).toOption.isSome = false ∧
    isOperandTag 2 = true ∧ isOperandTag 0 = false := by decide +kernel

/-- `labV` with a descriptor at the address in r1, and in r7 the FEEDT word of one lane and one step under tag 7 along DIR 1. -/
def labIssue (d : BitVec 512) : State :=
  { labV with
    mem := memWrite [] (lab.cx.localPlace 0x60000) 64 d.toNat
    cx := { labV.cx with x := Vector.ofFn fun i => if i.val = 7 then 7 + 2 ^ 16 + 2 ^ 24 + 2 ^ 32 else labX i } }

/-- A product, a feed and a feed of a tile that meet every condition of a command's issue, together. -/
theorem witness_LinkIssue_completes :
    (∃ l far g o, (labIssue labDesc).cx.scrOperand ((labIssue labDesc).getX 1) 64 = .ok o ∧
      (labIssue labDesc).localOpen ((labIssue labDesc).cx.localPlace o) 64 = true ∧
      BitVec.ofNat 512 (memRead (labIssue labDesc).mem ((labIssue labDesc).cx.localPlace o) 64) = labDesc ∧ pdHasBias labDesc = false ∧
      linkFrom (labIssue labDesc).cx.key.h (pdLink labDesc) = some (l, far, g) ∧
      productFieldsOk labDesc ((labIssue labDesc).engine l).split = true ∧ ((labIssue labDesc).sideQueue l far 0).length < 8) ∧
    (∃ l far g o, (labIssue labFeed).cx.scrOperand ((labIssue labFeed).getX 1) 64 = .ok o ∧
      (labIssue labFeed).localOpen ((labIssue labFeed).cx.localPlace o) 64 = true ∧
      BitVec.ofNat 512 (memRead (labIssue labFeed).mem ((labIssue labFeed).cx.localPlace o) 64) = labFeed ∧
      (labIssue labFeed).cx.feedViolation labFeed = none ∧
      linkFrom (labIssue labFeed).cx.key.h (feedHead labFeed none).dir = some (l, far, g) ∧
      feedFieldsOk labFeed none ((labIssue labFeed).engine l).split = true ∧
      ((labIssue labFeed).sideQueue l far (feedHead labFeed none).half).length < 8) ∧
    (∃ l far g D t, D = ((labIssue 0).getX 7).setWidth 512 ∧ t = (labIssue 0).getM 1 ∧ isOperandTag t.tag = true ∧
      linkFrom (labIssue 0).cx.key.h (feedHead D (some t)).dir = some (l, far, g) ∧
      feedFieldsOk D (some t) ((labIssue 0).engine l).split = true ∧
      ((labIssue 0).sideQueue l far (feedHead D (some t)).half).length < 8) := by
  refine ⟨⟨⟨0, .N⟩, false, 1, 0x60000, ?_⟩, ⟨⟨0, .N⟩, false, 1, 0x60000, ?_⟩, ⟨⟨0, .N⟩, false, 1, _, _, rfl, rfl, ?_⟩⟩
  · decide +kernel
  · decide +kernel
  · decide +kernel

/-- A command that is over, one that is not, one that is DELIVERING and a feed; a counter at its address; a table in the local window; links that
are open, shut and idle. -/
theorem witness_LinkWaits : lab.cx.thread = true ∧ lab.link? ⟨0, 0⟩ 6 = none ∧ ({ lab with links := [labProd .ended] } : State).link? ⟨0, 0⟩ 1 = some (labProd .ended) ∧
    ({ lab with links := [labProd .delivering] } : State).link? ⟨0, 0⟩ 1 = some (labProd .delivering) ∧
    ((labLinks .running .running).link? ⟨0, 0⟩ 2).isSome = true ∧ ((labLinks .running .running).productOf (labSide false .running)).isSome = true ∧
    bankPlace lab.cx .K .load (lab.getX 1) ((lab.getX 1).toNat - localWindowBase) 8 = .ok 0x60000 ∧
    (lab.getX 0).toNat ≤ memRead lab.mem (siteAddr 0 0x60000) 8 ∧ memRead lab.mem (siteAddr 0 0x60000) 8 < (lab.getX 6).toNat ∧
    lab.localOpen (siteAddr 0 0x60000) 8 = true ∧ (∀ j < 8, lab.localOpen (siteAddr 0 (0x60000 + 64 * j)) 64 = true) ∧
    (∀ j < 8, bankPlace lab.cx .K .load (lab.getX 1 + BitVec.ofNat 64 (64 * j)) ((lab.getX 1).toNat - localWindowBase + 64 * j) 64 =
      .ok (0x60000 + 64 * j)) ∧
    linkOnDie ⟨0, .N⟩ = true ∧ lab.linkOpen ⟨0, .N⟩ false 1 = true ∧ lab.linkOpen ⟨0, .E⟩ false 1 = false ∧ lab.slotBusy ⟨0, .N⟩ false = false ∧
    (labLinks .running .running).linkOpen ⟨0, .N⟩ false 1 = true ∧ (lab.engine ⟨0, .N⟩).retired = false := by
  decide +kernel

/-- A product that opens, one that waits for its grant, one that runs with its feeds staged, and one that is delivered. -/
theorem witness_Products : Safe lab ∧ ({ lab with links := [labProd .queued] } : State).nextProduct ⟨0, .N⟩ 0 = some (labProd .queued) ∧
    ({ lab with links := [labProd .queued] } : State).openProduct ⟨0, .N⟩ 0 = none ∧ lab.openReason lab.cx (labProd .queued) = 0 ∧
    ({ lab with others := [] } : State).openReason lab.cx (labProd .queued) = 4 ∧
    ({ lab with links := [{ labSide false .queued with arrived := false }] } : State).openProduct ⟨0, .N⟩ 0 = none ∧
    ((labLinks .grant .opened).openProduct ⟨0, .N⟩ 0).isSome = true ∧
    (∀ s ∈ [labLinks .running .running], ∃ p ∈ s.links, s.openProduct ⟨0, .N⟩ 0 = some p ∧ p.st = .running ∧
      (s.matched p.feedA).isSome = true ∧ (s.matched p.feedB).isSome = true ∧ s.stepFault lab.cx (labSide false .running) 0 = none ∧
      s.sinkRetries lab.cx p.desc = false ∧ s.sinkOf lab.cx p.desc = some lab.cx ∧ 0 < pdN p.desc ∧
      s.badPlace (lab.cx.localPlace (lab.cx.windowAt p.desc + 128)) = false) ∧
    ({ lab with links := [labProd .delivering] } : State).openProduct ⟨0, .N⟩ 0 = some (labProd .delivering) ∧
    ({ lab with links := [labProd .opened] } : State).openProduct ⟨0, .N⟩ 0 = some (labProd .opened) ∧
    feedAgrees (labProd .opened) (labSide false .queued) = true ∧
    feedAgrees (labProd .opened) { labSide false .queued with desc := labFeed ^^^ (2 ^ 280 * 3) } = false := by
  unfold Safe
  decide +kernel

/-- A product whose feeds have issued its step, before and after the cells consume it, and one whose element waits for its place. -/
theorem witness_ProductLife :
    (∀ s, s = labLinks .running .running → ∃ p a b, s.openProduct ⟨0, .N⟩ 0 = some p ∧ s.link? p.owner p.handle = some p ∧
      s.matched p.feedA = some a ∧ s.matched p.feedB = some b ∧ p.pos < p.k ∧ p.pos < a.pos ∧ p.pos < b.pos) ∧
    (∀ s p, p = { labProd .running with feedA := some (⟨0, 0⟩, 2), feedB := some (⟨1, 0⟩, 2), pos := 1 } →
      s = ({ lab with links := [p, labSide false .running, labSide true .running] } : State) →
      s.openProduct ⟨0, .N⟩ 0 = some p ∧ p.pos = p.k ∧ (s.matched p.feedA).isSome = true ∧ (s.matched p.feedB).isSome = true) ∧
    (∀ s p, p = { labProd .delivering with feedA := some (⟨0, 0⟩, 2), feedB := some (⟨1, 0⟩, 2), out := [0x3F800000] } →
      s = ({ lab with links := [p, labSide false .running, labSide true .running] } : State) →
      s.openProduct ⟨0, .N⟩ 0 = some p ∧ s.owner? p.owner = some lab.cx ∧ s.sinkRetries lab.cx p.desc = false ∧
      s.sinkOf lab.cx p.desc = some lab.cx ∧ pdAdd p.desc = false ∧ p.rel = false ∧
      (∀ i ∈ [p.feedA, p.feedB], (s.matched i).any (·.rel) = false) ∧ pdM p.desc * pdN p.desc = 0 + p.out.length ∧
      s.badPlace (elemPlace lab.cx p.desc 0) = false ∧ s.badPlace (lab.cx.localPlace (lab.cx.windowAt p.desc)) = false ∧
      lab.cx.localPlace (lab.cx.windowAt p.desc) + 16 ≤ elemPlace lab.cx p.desc 0 ∧ s.sinkWaits lab.cx p.desc = false ∧
      0 % pdN p.desc = 0 ∧ ((List.range' 0 1).filter fun e => e % pdN p.desc = 0).length ≤
        ((List.range 4).filter fun j => s.stamped p.owner.h lab.cx.leaf 2 (s.frame + j) < s.quotaOf lab.cx.leaf 2).length) := by
  refine ⟨?_, ?_, ?_⟩
  · rintro s rfl
    exact ⟨_, _, _, rfl, rfl, rfl, rfl, by decide +kernel⟩
  · rintro s p rfl rfl
    decide +kernel
  · rintro s p rfl rfl
    decide +kernel

/-- A product whose bias is at hand and one whose owner is away; a feed that arrives, and one behind another of its queue; a delivery whose sink is
away, and one that finds no frame; a feed that waits and one that is paused; an engine with a spare row left and one with none. -/
theorem witness_ProductLife_waits :
    (∀ s x, x = { labProd .queued with desc := labDesc ||| BitVec.ofNat 512 (2 * 2 ^ 112 + (localAddr 0x60000).toNat * 2 ^ 192) } →
      s = ({ lab with links := [x] } : State) → s.openProduct ⟨0, .N⟩ 0 = none ∧ s.nextProduct ⟨0, .N⟩ 0 = some x ∧ s.owner? x.owner = some lab.cx ∧
      s.openReason lab.cx x = 0 ∧ s.biasHere x = true ∧ x.acq = false ∧ lab.cx.behind = [] ∧ (s.readBias lab.cx x.desc).2 = none ∧
      ({ s with power := [(0, .S1)] } : State).openReason lab.cx x = 0 ∧ ({ s with power := [(0, .S1)] } : State).biasHere x = false) ∧
    (∀ s f, f = { labSide false .queued with arrived := false } → s = ({ lab with links := [f] } : State) → s.link? ⟨0, 0⟩ 2 = some f ∧ f.feed = true ∧
      s.feedAhead f = false ∧ s.openProduct f.link f.half = none) ∧
    (∀ s e f, e = { labSide false .queued with arrived := false } → f = { e with handle := 3, order := 2 } →
      s = ({ lab with links := [e, f] } : State) → s.link? ⟨0, 0⟩ 3 = some f ∧ s.feedAhead f = true) ∧
    (∀ s p, p = { labProd .delivering with out := [0x3F800000] } → s = ({ lab with links := [p] } : State) →
      ({ s with power := [(0, .S1)] } : State).sinkWaits lab.cx p.desc = true ∧ s.sinkWaits lab.cx p.desc = false ∧ p.out ≠ [] ∧
      (pdM p.desc * pdN p.desc - p.out.length) % pdN p.desc = 0 ∧ s.badPlace (elemPlace lab.cx p.desc 0) = false ∧
      ({ s with stamps := (List.range 4).map fun j => ⟨0, 0, 2, s.frame + j, 32⟩ } : State).roomFor p.owner.h lab.cx.leaf 2 = false ∧
      ({ s with cx := { lab.cx with status := .saving } } : State).sinkRetries lab.cx p.desc = true) ∧
    (∀ s f, f = { labSide false .opened with paused := true } →
      s = ({ lab with links := [{ labProd .opened with feedA := some (⟨0, 0⟩, 2) }, f] } : State) → s.link? ⟨0, 0⟩ 2 = some f ∧
      (s.productOf f).any (·.st = .opened) = true ∧ s.ctx? ⟨0, 0⟩ = some lab.cx ∧ lab.cx.holdsCore = true) ∧
    (lab.engine ⟨0, .N⟩).spares < 2 ∧ 2 ≤ (({ lab with engines := [{ lab.engine ⟨0, .N⟩ with spares := 2 }] } : State).engine ⟨0, .N⟩).spares ∧
    ((labLinks .running .running).links.find? fun x => !x.feed && x.link = ⟨0, .N⟩ && x.st = .running).isSome = true := by
  refine ⟨?_, ?_, ?_, ?_, ?_, by decide +kernel⟩ <;> (intros; subst_vars; decide +kernel)

/-- An open product and a feed that waits for it; a feed whose port may issue, one whose side is OFF and one paused; an open product with a step of
both sides and one without. -/
theorem witness_FeedMatching :
    (∀ s p f, p = labProd .opened → f = labSide false .queued → s = ({ lab with links := [p, f] } : State) →
      s.link? p.owner p.handle = some p ∧ s.link? f.owner f.handle = some f ∧ (p.owner, p.handle) ≠ (f.owner, f.handle) ∧ p.feed = false ∧ f.feed = true ∧ feedAgrees p f = true) ∧
    (∀ s f, f = { labSide false .running with pos := 0, steps := [] } →
      s = ({ lab with links := [{ labProd .running with feedA := some (⟨0, 0⟩, 2) }, f] } : State) →
      s.ctx? ⟨0, 0⟩ = some lab.cx ∧ s.link? ⟨0, 0⟩ 2 = some f ∧ (s.productOf f).any (·.st = .running) = true ∧ f.off = false ∧
      f.paused = false ∧ f.pos < f.k ∧ f.acq = false ∧ s.stepFault lab.cx f f.pos = none ∧ f.st ≠ .ended ∧ (s.productOf f).any (·.st = .delivering) = false ∧
      lab.cx.feedsPause = false ∧ s.poweredSite 0 = true ∧ (s.owner? ⟨0, 0⟩).any (·.behind ≠ []) = false ∧
      (localAddr 0x60000).toNat ∈ stepBytes f.desc f.tile f.pos ∧ s.badPlace (lab.cx.feedPlace (localAddr 0x60000).toNat) = false) ∧
    (∀ s, s = labLinks .opened .opened → ∃ p a b, s.openProduct ⟨0, .N⟩ 0 = some p ∧ p.st = .opened ∧ s.matched p.feedA = some a ∧
      s.matched p.feedB = some b ∧ 1 ≤ a.pos ∧ 1 ≤ b.pos ∧ s.link? p.owner p.handle = some p) ∧
    (∀ s p, p = { labProd .opened with feedA := some (⟨0, 0⟩, 2), feedB := some (⟨1, 0⟩, 2) } →
      s = ({ lab with links := [p, { labSide false .opened with pos := 0 }, labSide true .opened] } : State) →
      s.openProduct ⟨0, .N⟩ 0 = some p ∧ (s.matched p.feedA).any (·.pos = 0) = true ∧ (s.matched p.feedB).isSome = true) := by
  refine ⟨?_, ?_, ?_, ?_⟩
  · rintro s p f rfl rfl rfl
    decide +kernel
  · rintro s f rfl rfl
    decide +kernel
  · rintro s rfl
    exact ⟨_, _, _, rfl, rfl, rfl, rfl, by decide +kernel⟩
  · rintro s p rfl rfl
    decide +kernel
/-- An image of one cell, an INT32 addition of its two sources. -/
def labImage : XImage := BitVec.ofNat 15360 (0x52545341 + 2 ^ 32 + 2 * 2 ^ 64 + 2 ^ 72 + 2 * 2 ^ 80 + 4 * 2 ^ 96 + 4 * 2 ^ 104 + 4 * 2 ^ 120 +
  384 * 2 ^ 160 + (1 + 17 * 2 ^ 8 + 18 * 2 ^ 16) * 2 ^ 512 + 2 ^ 2576)

/-- `labV` with that image under opcode 4 in memory, its lines in the first-level cache, and under opcode 5 in a slot. -/
def labAster : State :=
  { labV with
    slots := [⟨0, 0, ⟨0, 0⟩, 5, labImage, 0⟩]
    mem := memWrite (memWrite [] 0x2020 8 (2 ^ 63)) 0x3000 384 (labImage.toNat % 2 ^ 3072)
    l1 := ⟨0, 0x40, BitVec.ofNat 1024 (2 ^ 319)⟩ :: (List.range 3).map fun i => ⟨0, 0x60 + i, labImage.extractLsb' (1024 * i) 1024⟩
    cx := { labV.cx with xtab := 8 * 2 ^ 57 + 0x2000, xbase := 0x3000 } }

/-- A custom opcode with a slot and one without; an image in order behind its table entry; the right to load, and a leaf without it. -/
theorem witness_Engines : lab.xslot? ⟨0, 0⟩ 5 = none ∧ (labAster.xslot? ⟨0, 0⟩ 5).isSome = true ∧ xNsrc labImage = 2 ∧
    (labAster.getV 4).tag = BitVec.ofNat 4 (xItag labImage 0) ∧ (labAster.getV 20).tag = BitVec.ofNat 4 (xItag labImage 1) ∧
    ({ lab with parts := [] } : State).leafGrants 6 = false ∧ lab.leafGrants 6 = true ∧ imageFail labImage = none ∧ 4 < labAster.cx.xEntries ∧
    (labAster.readMem .weak (labAster.cx.xTable + 32) 8).toOption.map (fun v => (v.1, (v.2.readImage 0x3000).toOption.map (·.1))) =
      some (2 ^ 63, some labImage) := by
  decide +kernel

/-- A message for site 1 of handler 1, active and passive. -/
def labMsg (rpy pas : Bool) : BitVec 512 := imgComplete 1 pas rpy 0

/-- `lab` with a live send of that message, and a table that gives handler 1 an address. -/
def labSend (img : BitVec 512) (st : SendState) (answer : Option SendAnswer) : State :=
  { lab with
    mem := memWrite [] 0x2008 8 (2 ^ 32 + 0x100)
    cx := { lab.cx with sends := [⟨1, 1, img, true, st, 0, 0, 0, 0, answer, 0⟩] }
    others := [{ labCtx 1 with status := .parked, thread := false, msg := ⟨4 * 2 ^ 55 + 0x2000, 0x50180, 0, 0, 0, 4, 4⟩ }] }

/-- A descriptor in SCR and one outside; a destination inside the leaf and beyond it; a window with room and a full one; a posted receive that waits
and one that has ended; a waiting message; and a match word in order. -/
theorem witness_Messages : lab.cx.thread = true ∧ (lab.cx.scrOperand (lab.getX 1) 128).toOption.isSome = true ∧
    (lab.cx.scrOperand (lab.getX 3) 64).toOption.isSome = false ∧ (lab.getX 15).toNat < lab.cx.leafLen ∧ lab.cx.leafLen ≤ (lab.getX 16).toNat ∧
    ((0 : BitVec 512).extractLsb' 10 6).toNat ≤ 56 ∧ ¬ ((BitVec.ofNat 512 (57 * 2 ^ 10)).extractLsb' 10 6).toNat ≤ 56 ∧
    lab.cx.sq ≠ lab.cx.msg.swin ∧ ¬ 16 ≤ lab.sendQueue lab.cx.key.h ∧
    ({ lab with cx := { lab.cx with msg := { lab.cx.msg with swin := 0 } } } : State).cx.sq = 0 ∧ lab.cx.drained = true ∧
    lab.cx.overflow.find? (matchWord 0x1C0000000) = none ∧ lab.cx.early = [] ∧ lab.localOpen (lab.cx.localPlace 0x60000) 64 = true ∧ lab.apart = false ∧ lab.posts = [] ∧
    ([labMsg false true].find? (matchWord 0x1C0000000)).isSome = true ∧
    (0x1C0000000 : Word).extractLsb' 34 30 = 0 ∧ (0x104000000 : Word).extractLsb' 26 4 ≠ 0 ∧ (0x100000000 : Word).extractLsb' 26 4 = 0 ∧
    (0x100000000 : Word).extractLsb' 32 2 ≠ 0 ∧ lab.cx.waitingMail = [] ∧
    ({ lab.cx with mailbox := [⟨labMsg false false, false⟩] } : Ctx).waitingMail = [labMsg false false] ∧ Safe lab := by
  unfold Safe
  decide +kernel

/-- The context of site 1 with an event of each kind. -/
def labEvents (e : Event) : State :=
  { labSend (labMsg false false) .sent none with others := (labSend (labMsg false false) .sent none).others.map fun c => { c with events := [e] } }

/-- An event whose handler entry is valid, of each kind, and one that has nothing to start. -/
theorem witness_Activations : lab.cx.thread = true ∧ (∀ e ∈ [Event.message (labMsg false false), .task 0x10000 1 0 8 1 1, .window 0x10000 7 1],
      (labEvents e).apart = false ∧ ((labEvents e).ctx? ⟨1, 0⟩).any fun c => decide (c.events = [e]) && (labEvents e).mayStart c && !c.stale e &&
        decide ((labEvents e).handler? c e.hnd = some 0x100)) ∧ (labCtx 1).stale (.channel 1 1) = true ∧
    (labSend 0 .sent none).handler? (labCtx 1) 4 = none := by decide +kernel

/-- The receiver of `labSend`, with a reply ring of four slots. -/
def labTo : Ctx :=
  { labCtx 1 with status := .parked, thread := false, msg := ⟨4 * 2 ^ 55 + 0x2000, 0x50180, 0x02051000, 0, 0, 4, 4⟩ }

/-- A message is on its way to `r`, the oldest of its pair, and `p` holds of the state, the send and the receiver. -/
def labArrives (img : BitVec 512) (r : Ctx) (p : State → Send → Ctx → Bool) : Bool :=
  let s := { labSend img .sent none with others := [r] }
  (s.ctx? ⟨0, 0⟩).any fun c => (c.send? 1).any fun x => x.inFlight && s.firstOfPair c x && !s.isHeld ⟨0, 0⟩ 1 && !s.retries c.kid 1 &&
    (s.ofKernel c.kid 1).any (p s x)

/-- Queued sends that go first of their pair and that wait, with a frame; one whose destination is saved, and one whose destination is absent. -/
theorem witness_MessageTransit :
    (let s := labSend (labMsg false false) .queued none
     (s.ctx? ⟨0, 0⟩).any fun c => (c.send? 1).any fun x => decide (x.st = .queued) && c.sendsFirst x && decide (s.frameFor 0 c.leaf 0 = some 0)) ∧
    (let x : Send := ⟨1, 1, labMsg false false, true, .queued, 0, 0, 0, 0, none, 0⟩
     let c : Ctx := { lab.cx with sends := [x, { x with handle := 2 }] }
     c.send? 2 = some { x with handle := 2 } ∧ c.sendsFirst { x with handle := 2 } = false) ∧
    ({ lab with others := [{ labCtx 1 with status := .saved }] } : State).retries 1 1 = true ∧
    lab.retries 1 2 = false ∧ lab.ofKernel 1 2 = none := by decide +kernel

/-- Each row of an active, a passive and a reply message's arrival. -/
theorem witness_MessageTransit_rows :
    labArrives (labMsg false false) labTo (fun s x r => (s.handler? r (imgHnd x.img)).isSome && decide (r.mailbox.length ≠ r.msg.mbox)) = true ∧
    labArrives (labMsg false false) { labTo with msg := { labTo.msg with mbox := 0 } } (fun _ _ r => decide (r.mailbox.length = r.msg.mbox)) = true ∧
    labArrives (labMsg false false) { labTo with msg := { labTo.msg with hndtab := 0 } } (fun s x r => decide (s.handler? r (imgHnd x.img) = none)) = true ∧
    labArrives (labMsg false true) { labTo with posted := [⟨1, 0x50000, 0x1C0000000, .posted⟩] }
      (fun s x r => (r.postFor x.img).isSome && s.poweredSite 1 && !({ s with power := [(1, .S1)] } : State).poweredSite 1 && !s.apart) = true ∧
    labArrives (labMsg false true) labTo (fun _ x r => decide (r.postFor x.img = none) && decide (r.overflow.length < 16)) = true ∧
    labArrives (labMsg false true) { labTo with overflow := List.replicate 16 0 } (fun _ _ r => decide (16 ≤ r.overflow.length)) = true ∧
    labArrives (labMsg true false) { labTo with hold := some ⟨⟨2, 0⟩, 1, 0⟩ } (fun s x r => imgRpy x.img && s.poweredSite 1 && r.hold.isSome) = true ∧
    labArrives (labMsg true false) { labTo with posted := [⟨1, 0x50000, 0x2C0000000, .posted⟩] }
      (fun _ x r => decide (r.hold = none) && (r.postFor x.img).isSome) = true ∧
    labArrives (labMsg true false) labTo (fun _ x r => decide (r.hold = none) && decide (r.postFor x.img = none) &&
      decide (r.msg.rring.extractLsb' 24 4 = 2) && decide (r.msg.rrhead = 0)) = true ∧
    labArrives (labMsg true false) { labTo with msg := { labTo.msg with rrhead := 0x40000 } } (fun _ x r => decide (r.hold = none) &&
      decide (r.postFor x.img = none) && decide (r.msg.rrhead.extractLsb' 16 16 = 4) && decide (r.msg.rrhead.extractLsb' 0 16 = 0)) = true := by
  decide +kernel

/-- A send with an answer, and what its context says of it. -/
def labAnswered (st : SendState) (retry : Bool) (a : SendAnswer) : Bool :=
  let x : Send := ⟨1, 1, labMsg false false, retry, st, 0, 0, 0, 0, some a, 0⟩
  let s : State := { lab with cx := { lab.cx with sends := [x] } }
  (s.ctx? ⟨0, 0⟩).any fun c => decide (c.send? 1 = some x) && s.answerArrives c x

/-- An answer of each kind that arrives, a send that waits, one that met RETRY, and an image written at once and in parts. -/
theorem witness_MessageTransit_answers : (∀ a ∈ [SendAnswer.accept, .reject 1, .refuse], labAnswered .sent true a = true) ∧
    labAnswered .sent false .refuse = true ∧
    (let c := (labSend (labMsg false false) .backoff none).cx
     (c.send? 1).any fun x => decide (x.st = .backoff)) ∧
    (let c := (labSend (labMsg false false) .sent (some .retry)).cx
     (c.send? 1).any fun x => decide (x.answer = some .retry)) ∧
    lab.apart = false ∧ ({ lab with apart := true } : State).apart = true := by decide +kernel

/-- Words of a send end and of a receive end, in order and not; a buffer, none, and a route that is taken; a binding's source, bound and not. -/
theorem witness_Channels : labChan.cx.chan? 1 ≠ none ∧ labChan.cx.chan? 3 = none ∧ cwOk 0x000F000008000000 30 = true ∧
    cwOk 0x0007000000101810 0 = true ∧ cwOk 0x000700010000001F 30 = false ∧ cwPeer 0x000F000008000000 < lab.cx.leafLen ∧
    (lab.cx.openBuffer 0x0007000000101810 (lab.getX 1)).isSome = true ∧ lab.cx.openBuffer 0x0007000000101810 (lab.getX 4) = none ∧
    labChan.cx.routeTaken 0x0007000100101810 = true ∧ lab.cx.routeTaken 0x0007000100101810 = false ∧ lab.cx.thread = true ∧
    labChan.cx.bindSource false 7 = some (.route 7) ∧ lab.cx.bindSource false 7 = none ∧
    lab.cx.bindSource true (localAddr 0x10000) = some (.window 0x10000) ∧ lab.cx.boundTo (.route 7) = none ∧
    (labSend 0 .sent none).handler? { lab.cx with msg := ⟨4 * 2 ^ 55 + 0x2000, 0x50180, 0, 0, 0, 4, 4⟩ } 1 = some 0x100 ∧
    ({ lab.cx with bindings := [⟨.route 7, 1⟩] } : Ctx).boundTo (.route 7) = some 1 ∧
    8 ≤ ({ lab.cx with bindings := List.replicate 8 ⟨.route 7, 1⟩ } : Ctx).bindings.length := by decide +kernel

/-- A receive end with an entry, one without, closed and open; a send end with room, a full one and a closed one. -/
theorem witness_Channels_ends :
    ((labChan.cx.chan? 1).any fun ch => !ch.sendEnd && decide (ch.entries ≠ []) && !ch.closed) = true ∧
    ((labChan.cx.chan? 2).any fun ch => ch.sendEnd && decide (ch.entries.length < 4) && !ch.closed) = true ∧
    (∀ ch ∈ labChan.cx.chans, ∀ closed ∈ [true, false],
      let c : Ctx := { lab.cx with chans := [{ ch with entries := if closed then [] else List.replicate 4 ⟨2, 3⟩, closed := closed }] }
      (c.chan? ch.q).any fun x => decide (x.sendEnd = ch.sendEnd) && decide (x.closed = closed) && decide (closed = x.entries.isEmpty)) := by
  decide +kernel

/-- `lab` with a receive end in q1 from site 1 and a send end in q2 to it, and one packet on its way to site 0. -/
def labStr (p : StrPayload) (rtag : BitVec 16) : State :=
  { lab with
    cx := { lab.cx with chans := [⟨1, false, 1, 7, 16, 12, 4, 0x60800, 0, [], false, false, false, false⟩,
      ⟨2, true, 1, 8, 0, 0, 0, 0, 0, [⟨2, 3⟩], false, true, false, false⟩] }
    str := [⟨⟨1, 0⟩, 1, 0, 1, rtag, p⟩] }

/-- Each packet that reaches an end, an end that injects and one that asks again. -/
theorem witness_Streams : (let s := labStr .ask 9
      (s.ctx? ⟨0, 0⟩).any fun c => decide (c.closing.find? (fun x => x.q = 2 && !x.off) = none) && (c.chan? 2).any fun ch => ch.sendEnd &&
        decide (ch.entries = [⟨2, 3⟩]) && !ch.off && ch.askDue && !c.closingRoute ch && decide (s.frameFor 0 c.leaf 3 = some 0)) ∧
    ((labStr (.entry ⟨2, 3⟩) 7).strArrival ⟨0, 0⟩ 1 false (fun | .entry _ => true | _ => false)).isSome = true ∧
    (labStr .ask 7).poweredSite 0 = true ∧ ({ labStr .ask 7 with power := [(0, .S1)] } : State).poweredSite 0 = false ∧
    ((labStr .marker 7).strArrival ⟨0, 0⟩ 1 false (fun | .marker => true | _ => false)).isSome = true ∧
    ((labStr (.flow true) 8).strArrival ⟨0, 0⟩ 2 true (fun | .flow _ => true | .notYet => true | _ => false)).isSome = true ∧
    ((labStr .closedNotice 8).strArrival ⟨0, 0⟩ 2 true (fun | .closedNotice => true | _ => false)).isSome = true ∧
    (labStr .ask 7).ofKernel 1 0 = some (labStr .ask 7).cx ∧
    ((labStr .ask 7).cx.endFor 1 false ⟨⟨1, 0⟩, 1, 0, 1, 7, .ask⟩).isSome = true ∧
    ((labStr .ask 7).cx.endFor 2 true ⟨⟨1, 0⟩, 1, 0, 1, 8, .ask⟩).isSome = true ∧
    ((labStr .ask 7).cx.chans.find? (fun ch => !ch.sendEnd && ch.routes ⟨⟨1, 0⟩, 1, 0, 1, 7, .ask⟩)).isSome = true ∧
    (((labStr (.entry ⟨2, 3⟩) 7).cx.endFor 1 false ⟨⟨1, 0⟩, 1, 0, 1, 7, .entry ⟨2, 3⟩⟩).any fun ch =>
      decide ((labStr (.entry ⟨2, 3⟩) 7).cx.chan? 1 = some ch) && decide (ch.entries.length + 1 ≠ ch.offAt)) = true := by
  decide +kernel

/-- An ask of the send end in q5 of site 1 that the receive end in q1 of site 0 answers. -/
theorem witness_Streams_ask :
    let k : Key := ⟨1, 0⟩
    let o : Chan := ⟨5, true, 0, 7, 0, 0, 0, 0, 0, [], true, true, false, false⟩
    let s : State := { labStr .ask 7 with others := [{ labCtx 1 with chans := [o] }] }
    (s.ctx? k).bind (fun c => c.sendEnd? 5) = some o ∧
    (firstOnStr (fun p => decide (p.payload = .ask) && decide (p.src = k) && decide (o.rtag = p.rtag) && !s.retries p.kid p.dest) s.str []).any (fun p =>
      (((s.offStr p).ofKernel p.kid p.dest).any fun c => (c.chans.find? fun ch => !ch.sendEnd && ch.routes p).any fun ch =>
        decide (ch.entries.length ≤ ch.onAt))) = true := by
  decide +kernel
/-- A node of kernel 1 in leaf 0, and the record of a RANGE node of 8 elements and grain 2. -/
def labNode (kind : NodeKind) (st : NodeState) (addr : Nat) : Node :=
  { addr := addr, leaf := 0, kid := 1, lvl := .K, kind := kind, prio := 0, acq := false, rel := false, scope := 0, st := st, stop := false,
    pred := 0, pend := 0, nsucc := 0, scap := 1, succ := 0x50000, tile := none, obj := 1, arg := 0, lo := 0, hi := 8, grain := 2, depth := 0,
    graph := none, dropped := false, cmds := [], outcome := none, spawned := false }
def labRecord : Nat := 3 + 2 ^ 192 + 8 * 2 ^ 384 + 2 * 2 ^ 448

/-- `lab` with nodes and their pool entries. -/
def labNodes (ns : List Node) : State :=
  { lab with
    mem := memWrite [] 0x40000 64 labRecord
    nodes := ns
    ready := (ns.filter fun n => n.st = .ready).map fun n => n.entry n.lo n.hi }

/-- A record in global memory that makes a node, one that makes none, depths up to the bound, and a range with elements left. -/
theorem witness_NodeCommands : (lab.getX 3).toNat % 64 = 0 ∧ (lab.getX 4).toNat % 64 ≠ 0 ∧ lab.cx.thread = true ∧
    (labNodes []).reach .load 0x40000 64 = .ok ⟨0x40000, .glob, 0, 0, false⟩ ∧
    ((labNodes []).loadWeak ⟨0x40000, .glob, 0, 0, false⟩ 0x40000 64 1).1 = labRecord ∧
    (nodeOfRecord labRecord 0x40000 0 1 .K 8 none).isSome = true ∧ (nodeOfRecord 0 0x40000 0 1 .K 8 none).isSome = false ∧
    lab.node? 0x40000 = none ∧ (lab.nodes.filter fun m => m.leaf = 0).length < 65536 ∧ lab.unreserved 0 < 65528 ∧ lab.depthTaken 0 1 = false ∧ lab.cx.drained = true ∧
    (labNodes []).kernelAt (labNode .kernel .new 0x40000) = false ∧ ((labNodes []).releaseNode (labNode .event .running 0x40000)).isSome = true ∧
    (({ labSent with order := 1 } : State).releaseNode { labNode .event .running 0x40000 with rel := true, cmds := [(⟨0, 0⟩, 1)] }).isSome = true ∧
    (labNodes [labNode .event .running 0x40000]).leafNode 0x40000 = some (labNode .event .running 0x40000) ∧ lab.leafNode 0x40000 = none ∧
    (labNodes [labNode .event .running 0x40000]).ownNode 0x40000 = some (labNode .event .running 0x40000) ∧
    (labNodes [labNode .barrier .new 0x40000]).ownNode 0x40000 = some (labNode .barrier .new 0x40000) ∧ lab.ownNode 0x40000 = none ∧
    (lab.readMem ⟨false, false, true, 2⟩ 0x40002 1).toOption.map (·.1) = some 0 ∧
    lab.resolve .store 0x50000 8 none = .ok ⟨0x50000, .glob, 0, 0, false⟩ ∧ lab.freeIdx 0 = some 0 ∧ lab.roomFor (lab.cx.bankSite 0x50000) lab.cx.leaf 0 = true ∧
    (labNodes []).mayLoad .weak ⟨0x40000, .glob, 0, 0, false⟩ 0x40000 64 1 = .ok () := by decide +kernel

/-- An activation of a node, one of the kernel's launch, and the packet that launched it; a range register with elements left and without. -/
theorem witness_NodeCommands_stat :
    let s : State := { labNodes [labNode .range .running 0x40000] with
      cx := { lab.cx with act := some ⟨2, false, some 0x40000, 1, none⟩, range := ⟨true, 0, 8, 2, 0x40000⟩ } }
    let t : State := { lab with
      cx := { lab.cx with act := some ⟨0, false, none, 0, none⟩ }
      kernels := [⟨1, 0, 0, 4, 0x1000, 0, 0, .T, some (6, 0), 0, none, 0, 0, [], false⟩]
      queues := [⟨6, .active, 0, 1, 1, 0, 0x80000, 6, .T, true, 0, 0, 17, false, [], [⟨0, 1, .running, some 1, none, false, true⟩]⟩] }
    ((s.cx.act.bind (·.node)).bind s.node?) = some (labNode .range .running 0x40000) ∧ s.cx.act.any (fun x => x.kind ≠ 0) = true ∧
    s.cx.range.v = true ∧ s.cx.range.lo ≠ s.cx.range.hi ∧ lab.cx.range.v = false ∧ lab.cx.act = none ∧
    t.cx.act.any (fun x => x.kind = 0) = true ∧ (t.kernel? t.cx.kid).any (fun k => decide (k.node = none) && decide (k.queue = some (6, 0))) = true ∧
    ((t.queue 6).packets.find? fun p => p.idx = 0) = some ⟨0, 1, .running, some 1, none, false, true⟩ := by decide +kernel

/-- A thief at site 1 and a victim whose range has 4 grains left. -/
def labSteal (steals : List Steal) : State :=
  { labNodes [labNode .range .running 0x40000] with cx := { lab.cx with range := ⟨true, 0, 8, 2, 0x40000⟩, thread := false }, steals := steals }

/-- The half that the thief gets. -/
def labHalf (st : StealState) : Steal := ⟨⟨0, 0⟩, ⟨1, 0⟩, 0x40000, 4, 8, st⟩

/-- A PROD node whose last command is to be issued: its descriptors lie in the pools of the sites 0 and 1. -/
def labProdNode : Node := { labNode .prod .running 0x40000 with obj := localAddr 0x60000, cmds := [(⟨0, 0⟩, 1), (⟨0, 0⟩, 2)] }
def labProdState (feed : BitVec 512) (links : List LinkCmd) : State :=
  { lab with
    nodes := [labProdNode]
    links := links
    mem := memWrite (memWrite [] (lab.cx.localPlace 0x60000) 64 labDesc.toNat) ((labCtx 1).localPlace 0x60040) 64 feed.toNat }

/-- A finished node of each kind, an entry that a decision takes, each step of a steal, and each end of a PROD node's command. -/
theorem witness_TaskPool :
    (labNodes [labNode .range .running 0x40000]).rangeOver (labNode .range .running 0x40000) = true ∧
    ({ labNode .barrier .running 0x40000 with outcome := some (0, 0) } : Node).outcome.isSome = true ∧
    (labNodes [labNode .barrier .ready 0x40000]).pick 0 = some ((labNode .barrier .ready 0x40000).entry 0 8) ∧ lab.pick 0 = none ∧
    (labNodes [labNode .range .ready 0x40000]).pick 0 = some ((labNode .range .ready 0x40000).entry 0 8) ∧
    (labNodes [labNode .range .ready 0x40000]).rangeSite (labNode .range .ready 0x40000) = some ⟨1, 0⟩ ∧
    (∀ c ∈ (labSteal []).others, c.idle = true ∧ c.thread = false ∧ (labSteal []).hasWork c = false ∧ (labSteal []).victim c = some (labSteal []).cx) ∧
    (labSteal []).stealing ⟨1, 0⟩ = false ∧ (labSteal [labHalf .acked]).halfTaken (labHalf .acked) = true ∧
    tabGet lab.power 1 .S0 = .S0 ∧ (labSteal [labHalf .returned]).node? 0x40000 = some (labNode .range .running 0x40000) ∧
    (∀ s ∈ [labProdState (labFeed ^^^ 2 ^ 290) [], labProdState (labFeed ^^^ 2 ^ 290) (List.replicate 8 (labSide true .queued)), labProdState 0 []],
      s.prodCmds labProdNode = some [⟨⟨0, 0⟩, localAddr 0x60000, false⟩, ⟨⟨0, 0⟩, localAddr 0x60040, true⟩, ⟨⟨1, 0⟩, localAddr 0x60040, true⟩]) ∧
    ((labProdState (labFeed ^^^ 2 ^ 290) []).issueProdCmd labProdNode ⟨⟨1, 0⟩, localAddr 0x60040, true⟩).toOption.isSome = true ∧
    (match (labProdState (labFeed ^^^ 2 ^ 290) (List.replicate 8 (labSide true .queued))).issueProdCmd labProdNode ⟨⟨1, 0⟩, localAddr 0x60040, true⟩ with
      | .error n => some n | .ok _ => none) = some 1 ∧
    (match (labProdState 0 []).issueProdCmd labProdNode ⟨⟨1, 0⟩, localAddr 0x60040, true⟩ with | .error n => some n | .ok _ => none) = some 2 := by
  decide +kernel

/-- `lab` with a group of the kernel's first `n` cores, at which one has arrived. -/
def labGroup (n : Nat) : State := { lab with kernels := [⟨1, 0, 0, 4, 0x1000, 0, 0, .T, none, 0, none, 0, 0, [⟨0, n, 1, 5, 1⟩], false⟩] }

/-- A group that the caller completes, one it waits in, one it is no member of, and one whose generation has passed. -/
theorem witness_GroupBarriers : lab.cx.thread = true ∧ (labGroup 2).groupOf 0 = some ⟨0, 2, 1, 5, 1⟩ ∧ (labGroup 3).groupOf 0 = some ⟨0, 3, 1, 5, 1⟩ ∧
    lab.groupOf 0 = none ∧ (labGroup 2).groupOf 256 = none ∧ lab.cx.arrivedIn 0 = none ∧ lab.cx.drained = true ∧
    ({ lab.cx with arrived := [(0, 4)] } : Ctx).arrivedIn 0 = some 4 := by decide +kernel

/-- A semaphore at 0 and at 1, with a waiter and without, and a watch that waits or has been triggered. -/
theorem witness_SemaphoresAndWatches : lab.cx.thread = true ∧ (lab.getX 3).toNat % 8 = 0 ∧ (lab.getX 4).toNat % 8 ≠ 0 ∧
    lab.resolve .amo (lab.getX 3) 8 lab.cx.tileco = .ok ⟨0x40000, .glob, 0, 0, false⟩ ∧
    lab.resolve .amo (lab.getX 1) 8 lab.cx.tileco = .ok ⟨52776558526464, .localWin, 0, 0, false⟩ ∧ lab.cx.semWait = false ∧
    lab.checkPlace .amo ⟨0x40000, .glob, 0, 0, false⟩ (lab.getX 3) 8 = .ok () ∧ lab.cx.early = [] ∧
    lab.mayGo ⟨0x40000, .glob, 0, 0, false⟩ (lab.getX 3) 8 = .ok () ∧ Safe lab ∧ lab.localOpen 52776558526464 8 = true ∧
    lab.mayIssue ⟨false, true, true, 1⟩ ⟨0x40000, .glob, 0, 0, false⟩ (lab.getX 3) = true ∧
    lab.mayIssue ⟨false, true, true, 1⟩ ⟨52776558526464, .localWin, 0, 0, false⟩ (lab.getX 1) = true ∧
    lab.checkPlace .amo ⟨52776558526464, .localWin, 0, 0, false⟩ (lab.getX 1) 8 = .ok () ∧
    1 ≤ memRead (memWrite [] 0x40000 8 1) 0x40000 8 ∧ memRead lab.mem 0x40000 8 = 0 ∧ lab.waiters = [] ∧
    lab.freeIdx 0 = some 0 ∧
    lab.resolve .load (lab.getX 3) 8 lab.cx.tileco = .ok ⟨0x40000, .glob, 0, 0, false⟩ ∧
    lab.checkPlace .load ⟨0x40000, .glob, 0, 0, false⟩ (lab.getX 3) 8 = .ok () ∧ lab.cx.watch = none := by
  unfold Safe
  decide +kernel

/-- A requester of leaf 0 at T, and a queue of it with registers that pass every check, and with each that fails. -/
def labAsk : Requester := ⟨.T, 0, 0⟩
def labRegs (base cfg : Word) : State := { lab with regs := [(queueBlock 6, base), (queueBlock 6 + 8, cfg)] }

/-- A queue in reach and one out of it, registers for each reason, doorbells at the ring's size and past it, and cancels. -/
theorem witness_QueueCommands : lab.reachesQueue labAsk 6 = true ∧ lab.reachesQueue labAsk 16 = false ∧
    (labRegs 0x80000 0x66).reg (queueBlock 6) = 0x80000 ∧ lab.holds labAsk rightQueues = true ∧
    (labRegs 0x80000 0x66).ringMapped ((labRegs 0x80000 0x66).queueClient ((labRegs 0x80000 0x66).registration 6 labAsk)) 0x80000 4096 = true ∧
    (labRegs 0x80000 0x66).registerReason 6 labAsk = 0 ∧ (labRegs 0x80008 0x66).registerReason 6 labAsk = 1 ∧
    (labRegs 0x80000 0x65).registerReason 6 labAsk = 3 ∧ (labRegs 0x80000 0x71).registerReason 6 labAsk = 3 ∧
    (labRegs 0x80000 0xA6).registerReason 6 labAsk = 4 ∧ (labRegs 0xFFFFFFFFFFF00000 0x66).registerReason 6 labAsk = 2 ∧
    ((labQueue .active 1).queue 6).st = .active ∧ (64 - ((labQueue .active 1).queue 6).widx).toNat ≤ ((labQueue .active 1).queue 6).size ∧
    ((labQueue .active 1).queue 6).size < (65 - ((labQueue .active 1).queue 6).ridx).toNat ∧
    ((0 : BitVec 32) - ((labQueue .active 1).queue 6).ridx).toNat < (((labQueue .active 1).queue 6).widx - ((labQueue .active 1).queue 6).ridx).toNat ∧
    (0 : BitVec 32) ∉ ((labQueue .active 1).queue 6).cancelled := by
  decide +kernel

/-- A SIGNAL packet that stores 5 at 0x90000, and a state whose ring holds it at its head. -/
def labSignal : BitVec 512 := BitVec.ofNat 512 (4 + 0x90000 * 2 ^ 64 + 5 * 2 ^ 128)
def labRing (p : BitVec 512) : State := { labQueue .active 1 with mem := memWrite [] 0x80000 64 p.toNat }

/-- `lab` with a consumed packet. -/
def labPacket (p : Packet) : State :=
  { lab with queues := [⟨6, .active, 0, 1, 1, 0, 0x80000, 6, .T, true, 0, 0, 17, false, [], [p]⟩], ready := [⟨0, some (6, p.idx), 0, 0, 0, 0, 0, 0, 0, false⟩] }

/-- A cancel of a packet that runs, of a graph that is to be armed, of one that waits, and of one that is not consumed, with a completion signal that
can be written, once and again. -/
theorem witness_QueueCommands_cancels :
    (∀ p ∈ [(⟨0, 1, .running, none, none, false, false⟩ : Packet), ⟨0, 2, .placing, none, none, false, false⟩, ⟨0, 1, .ready, none, none, false, false⟩],
      ((labPacket p).queue 6).packets.find? (fun p => p.idx = 0) = some p) ∧
    (let p : BitVec 512 := BitVec.ofNat 512 (3 + 0x90000 * 2 ^ 320)
     (labRing p).unitRead ((labRing p).queueClient ((labRing p).queue 6)) 0x80000 64 = .ok p.toNat ∧ pktSig p = 0x90000 ∧
     ((labRing p).queue 6).packets.find? (fun p => p.idx = 0) = none ∧
     ((labRing p).unitPlace ((labRing p).queueClient ((labRing p).queue 6)) .store 0x90000 8).toOption.any (fun t => decide (t.kind ≠ .device) &&
       decide ((labRing p).refusedAt t 8 = none)) = true) ∧
    (0 : BitVec 32) ∈ ({ (labQueue .active 1).queue 6 with cancelled := [0] } : Queue).cancelled := by decide +kernel

/-- A kernel's plan of two cores, each with one REG bank, no ACC and one SCR bank. -/
def labPlan : KernelPlan := ⟨2, 0, 0x1000, 0x2000, 0, 0x101, 4, 4, 0, 0, 0, 0x80, true, 0, 0, 0, []⟩

/-- A KERNEL packet of `n` cores whose code object lies at `obj`, and a state whose ring holds it, with an object at 0xA0000: one text section and
its entry there. -/
def labKernel (n obj : Nat) : BitVec 512 := BitVec.ofNat 512 (1 + n * 2 ^ 16 + obj * 2 ^ 64 + 0x101 * 2 ^ 256 + 4 * 2 ^ 272 + 4 * 2 ^ 280)
def labObject (p : BitVec 512) : State :=
  { labRing p with
    mem := memWrite (memWrite (labRing p).mem 0xA0000 128 (0x4B4C4E4D + 2 ^ 32 + 2 ^ 48 + 0x10000 * 2 ^ 64 + 0x1000 * 2 ^ 128 + 2 ^ 160 +
      0x80 * 2 ^ 192 + 2 ^ 360 + 2 ^ 368)) 0xA0080 32 (0x1000 * 2 ^ 128 + 0x1000 * 2 ^ 192 + 12 * 2 ^ 232) }

/-- A queue with a packet at its head, in order and not, cancelled, and out of reach; a KERNEL with its plan, one that asks for too much, and one whose
object cannot be read. -/
theorem witness_Packets : ((labRing labSignal).queue 6).st = .active ∧ ((labRing labSignal).queue 6).ridx ≠ ((labRing labSignal).queue 6).widx ∧
    ((labRing labSignal).queue 6).ridx ∉ ((labRing labSignal).queue 6).cancelled ∧ (0 : BitVec 32) ∈ [(0 : BitVec 32)] ∧
    (labRing labSignal).unitRead ((labRing labSignal).queueClient ((labRing labSignal).queue 6)) 0x80000 64 = .ok labSignal.toNat ∧
    packetOk labSignal = true ∧ packetOk 0 = false ∧ labSignal.toNat % 16 ≠ 1 ∧ (labRing labSignal).queueLeaf 6 = some 0 ∧
    ((labRing labSignal).unitRead ((labRing labSignal).queueClient ((labRing labSignal).queue 6)) 0xFFFFFFFFFFF00000 64).toOption.isSome = false ∧
    packetOk (labKernel 2 0xA0000) = true ∧ packetOk (labKernel 17 0xA0000) = true ∧ packetOk (labKernel 2 0xFFFFFFF00000) = true ∧
    (labKernel 2 0xA0000).toNat % 16 = 1 ∧
    (labRing (labKernel 2 0xA0000)).unitRead (lab.queueClient ((labRing (labKernel 2 0xA0000)).queue 6)) 0x80000 64 = .ok (labKernel 2 0xA0000).toNat ∧
    ((labObject (labKernel 2 0xA0000)).plan ((labObject 0).queueClient ((labObject 0).queue 6)) 0 (labKernel 2 0xA0000)).toOption.isSome = true ∧
    (match (labObject 0).plan ((labObject 0).queueClient ((labObject 0).queue 6)) 0 (labKernel 17 0xA0000) with
      | .error (.status n) => n | _ => 0) = 3 ∧
    (match (labObject 0).plan ((labObject 0).queueClient ((labObject 0).queue 6)) 0 (labKernel 2 0xFFFFFFF00000) with
      | .error (.fetch _) => true | _ => false) = true := by
  decide +kernel

/-- A packet of each kind to dispatch; a queue of no leaf whose packet waits for one of another queue, and that one; a graph that arms and one that
fails. -/
theorem witness_Packets_dispatch :
    (∀ n ∈ [1, 2, 3, 4], let s := labPacket ⟨0, BitVec.ofNat 512 n, .ready, none, some labPlan, false, false⟩
      (s.nextPacket (s.queue 6)).map (fun p => pktKind p.bytes) = some n ∧ (s.pick 0).map (·.packet) = some (some (6, 0))) ∧
    (lab.unitPlace (lab.queueClient (lab.queue 6)) .store 0x90000 8).toOption.any (fun t => decide (t.kind ≠ .device) &&
      decide (lab.refusedAt t 8 = none)) = true ∧ lab.queueLeaf 16 = none ∧
    (let p : Packet := ⟨0, 3, .ready, none, none, false, false⟩
     let o : Packet := { p with bytes := 0x63 }
     let s : State := { lab with queues := [⟨16, .active, 0, 1, 1, 0, 0x80000, 6, .T, true, 0, 0, 17, false, [], [p]⟩,
       ⟨17, .active, 0, 1, 1, 0, 0x84000, 6, .T, true, 0, 0, 17, false, [], [o]⟩] }
     s.nextPacket (s.queue 16) = some p ∧ s.leaflessAhead 16 p = true ∧ s.nextPacket (s.queue 17) = some o ∧ s.leaflessAhead 17 o = false) ∧
    ({ lab with mem := memWrite [] 0x40000 64 6 } : State).walkGraph (lab.clientFor .T 0 0) 0 .T (6, 0) graphFuel [0x40000] [] =
      some [{ labNode .barrier .new 0x40000 with kid := 0, lvl := .T, scap := 0, succ := 0, obj := 0, hi := 0, grain := 0, graph := some (6, 0) }] ∧
    (labNodes []).walkGraph (lab.clientFor .T 0 0) 0 .T (6, 0) graphFuel [0x40000] [] = none ∧
    (lab.nodes.filter fun n => n.leaf = 0).length + 1 ≤ 65536 ∧
    ((labPacket ⟨0, 2, .placing, none, none, false, false⟩).queue 6).packets.find? (fun p => pktKind p.bytes = 2 && p.st = .placing) =
      some ⟨0, 2, .placing, none, none, false, false⟩ := by
  decide +kernel

/-- A kernel that fits and one that does not, a span that is ready and one that is not, a context that may end its retirement and one that may not, a
kernel whose contexts are gone and one with contexts, a migration of it that runs, and KEND. -/
theorem witness_Kernels : (({ lab with placing := [⟨0, .packet 6 0, .T, labPlan⟩] } : State).placing.find? fun e => e.leaf = 0).isSome = true ∧
    lab.firstFit 0 2 (banksOf 0x101) = some 2 ∧ lab.firstFit 0 16 (banksOf 0x101) = none ∧ lab.spanReady 2 2 = true ∧
    ({ lab with power := [(3, .S1)] } : State).spanReady 2 2 = false ∧
    ({ lab with cx := { lab.cx with status := .retiring } } : State).quiesced lab.cx = true ∧ labSent.quiesced labSent.cx = false ∧
    lab.kernelOver 1 = false ∧ ({ lab with cx := Ctx.blank ⟨0, 0⟩, others := [] } : State).kernelOver 1 = true ∧
    (∀ m ∈ ({ lab with migs := [⟨0, 1, 0, .check, 0, 0, 0⟩] } : State).migs, m.kid = 1 ∧ m.st = .check) ∧
    (1 : Word).getLsbD 0 = true ∧ (0 : Word).getLsbD 0 = false ∧ (lab.ctxs.map (·.key)).Nodup := by decide +kernel

/-- Kernels of a packet, of a node and of a migration that are over, each with a signal that can be written. -/
theorem witness_Kernels_ends :
    (∀ k ∈ [(⟨1, 0, 0, 4, 0x1000, 0x90000, 0, .T, some (6, 0), 0, none, 0, 0, [], false⟩ : Kernel),
        ⟨1, 0, 0, 4, 0x1000, 0x90000, 0, .T, none, 0, some 0x40000, 0, 0, [], false⟩, ⟨1, 0, 0, 4, 0x1000, 0x90000, 0, .T, none, 5, none, 0, 0, [], false⟩],
      let s : State := { labPacket ⟨0, BitVec.ofNat 512 (1 + 0x90000 * 2 ^ 320), .running, some 1, none, false, false⟩ with
        cx := Ctx.blank ⟨0, 0⟩, others := [], kernels := [k] }
      s.kernel? 1 = some k ∧ s.kernelOver 1 = true ∧ k.sig.toNat % 8 = 0 ∧ k.sig ≠ 0 ∧
      ((s.queue 6).packets.find? (fun p => p.idx = 0)).any (fun p => decide (pktSig p.bytes = 0x90000)) = true ∧
      (s.unitPlace (s.clientFor .T 0 (s.part (.leaf 0)).parent) .store 0x90000 8).toOption.any (fun t => decide (t.kind ≠ .device) &&
        decide (s.refusedAt t 8 = none)) = true) := by
  decide +kernel

/-- A release that is barred by a store whose site answers RETRY, and one that nothing bars. -/
theorem witness_Releases :
    (({ labSent with order := 1, others := [{ labCtx 1 with status := .saved }] } : State).releaseNode { labNode .event .running 0x40000 with rel := true, cmds := [(⟨0, 0⟩, 1)] }) = none ∧
    (({ labSent with order := 1 } : State).releaseNode { labNode .event .running 0x40000 with rel := true, cmds := [(⟨0, 0⟩, 1)] }).isSome = true ∧
    (labNode .event .running 0x40000).outcome = none := by
  decide +kernel
/-- A P requester; `lab` with its leaf in a state; and staged values of leaf 1 that pass every check and that fail each one. -/
def labP : Requester := ⟨.P, 0, 0⟩
def labLeaf (st : PartState) : State := { lab with parts := [⟨.first 0, .active, 0, 16, 0, 0x3FF, 0, 16, 0⟩, ⟨.leaf 0, st, 0, 8, 0, 0x3FF, 0, 8, 0⟩] }
def labStage (span rights queues : Word) : State :=
  { labLeaf .active with regs := [(blockAddr (.leaf 1), span), (blockAddr (.leaf 1) + 8, rights), (blockAddr (.leaf 1) + 16, queues)] }

/-- A block that is free, active and changing; each check of a create, destroy and apply; quotas; ways at both ends. -/
theorem witness_Partitions : lab.writesBlock (.leaf 1) labP = true ∧ lab.writesBlock (.first 0) ⟨.D, 0, 0⟩ = false ∧
    (lab.part (.leaf 1)).st = .free ∧ (lab.part (.leaf 0)).st = .active ∧ ((labLeaf .changing).part (.leaf 0)).st = .changing ∧
    (labStage (8 + 8 * 1024) 0x3FF (8 + 8 * 65536)).pcmdReason (.leaf 1) labP 1 = 0 ∧
    (labStage 8 0x3FF 0).pcmdReason (.leaf 1) labP 1 = 1 ∧ (labStage (4 + 8 * 1024) 0x3FF 0).pcmdReason (.leaf 1) labP 1 = 2 ∧
    (labStage (16 + 8 * 1024) 0x3FF 0).pcmdReason (.leaf 1) labP 1 = 3 ∧ lab.pcmdReason (.leaf 0) labP 2 = 5 ∧
    ({ labLeaf .active with cx := Ctx.blank ⟨0, 0⟩, others := [] } : State).pcmdReason (.leaf 0) labP 2 = 0 ∧
    lab.pcmdReason (.leaf 0) labP 3 = 1 ∧
    ({ labLeaf .active with regs := [(blockAddr (.leaf 0), 8 * 1024)] } : State).pcmdReason (.leaf 0) labP 3 = 0 ∧
    lab.ownsLeaf labP 0 = true ∧ lab.ownsLeaf ⟨.T, 1, 0⟩ 0 = false ∧ lab.holds labP rightQos = true ∧
    (List.range 4).map (fun i => (lab.reg (qosBlock 0 + 8 * i)).toNat % 2 ^ 13) = [32, 32, 32, 32] ∧
    (14 : Word).toNat ≤ 14 ∧ 14 < (15 : Word).toNat ∧ (lab.leafWays 0).target = none ∧
    ({ lab with ways := [⟨0, 0, some 2, []⟩] } : State).oldCopiesDone ⟨0, 0, some 2, []⟩ = true ∧
    ({ lab with ways := [⟨0, 0, some 2, []⟩] } : State).leafWays 0 = ⟨0, 0, some 2, []⟩ ∧ lab.sol.boot = .done ∧ State.reset.sol.boot ≠ .done := by
  decide +kernel

/-- A faulted copy that cpsel selects; staging entries in order and not; levels above and below; a CSR that a write refuses and one that it takes. -/
theorem witness_RegisterWrites : fld ({ lab.cx with cpsel := 1 } : Ctx).cpsel 31 0 = 1 ∧
    (labCopies .faulted).copy? ⟨0, 0⟩ 1 = some (labCopy .faulted) ∧ (labCopies .faulted).placeFree 0 = true ∧ lab.copy? ⟨0, 0⟩ 0 = none ∧
    copyDescOk (stagedCopy (lab.cqueue 0) 0 0).kind (stagedCopy (lab.cqueue 0) 0 0).desc = false ∧
    (stagedCopy ⟨0, 0, Vector.ofFn fun i => if i.val = 0 then localAddr 0x60000 else if i.val = 1 then localAddr 0x70000 else
      if i.val = 2 then 1 + 2 ^ 32 else if i.val = 4 then 0x202 else if i.val = 8 then 9 else 0, [], 0⟩ 0 0).desc =
      copyDesc1D (localAddr 0x60000) (localAddr 0x70000) 1 ∧
    lab.cx.level.rank < Level.T.rank ∧ (labAt .D).cx.level ≠ .T ∧ Level.T.rank ≤ (labAt .D).cx.level.rank ∧
    (labAt .D).cx.wspFits .T 769 = true ∧ (labAt .D).cx.wspFits .T 2047 = false ∧ lab.writesBlock (.leaf 63) labP = true ∧
    lab.writesBlock (.leaf 63) ⟨.T, 63, 0⟩ = false ∧ lab.readCsr 0xFFF = none ∧ lab.readCsr 0x8C0 ≠ none ∧
    (lab.writeCsr 0 0x8C0 31).toOption.isSome = true ∧ ((labAt .P).writeCsr 0 0x6D8 0).toOption.isSome = true ∧
    ((labAt .P).writeCsr 0 0x7D0 0).toOption.isSome = true := by
  decide +kernel

/-- A HOLD of two slots, of which one has a copy that has read ahead; a copy in each state that ABORT meets; staged values in order. -/
theorem witness_RegisterWrites_copies :
    (let x : Copy := { labCopy .running with held := true, ahead := [(5, 0)] }
     let s : State := { lab with copies := [x], copyQueues := [⟨0, 0, Vector.replicate 12 0, [0, 1], 0⟩] }
     (s.cqueue 0).busy = [0, 1] ∧ x.h = 0 ∧ x.agent.slot = 0 ∧ x.held = true ∧ x.st = .running ∧ x.ahead ≠ [] ∧
     ∀ y ∈ s.copies, y.agent.slot ≠ 1) ∧ (lab.cqueue 0).busy = [] ∧
    (∀ st ∈ [CopyState.queued, .grant, .running, .faulted, .done], (labCopies st).copy? ⟨0, 0⟩ 1 = some (labCopy st)) ∧
    (labCopy .done).ended = true ∧ (labCopy .faulted).aborting = false ∧ lab.copyRoom ⟨0, 0⟩ = true := by
  decide +kernel

/-- Watchdogs that expire and do not; an interrupt and an exception due; a context in reach of XIRQ; a reservation that ages. -/
theorem witness_TimeAndBoundaries : (∀ c ∈ [({ lab.cx with thread := false, wdog := ⟨5, 5, 5⟩ } : Ctx)], c.thread = false ∧ c.wdog.limit ≠ 0 ∧
      c.wdog.limit ≤ c.wdog.count ∧ c.holdsCore = true) ∧ lab.cx.wdog.limit = 0 ∧ lab.canRun = true ∧ lab.cx.comp.n ≤ 1 ∧ lab.trapDue = none ∧
    ({ lab with cx := { lab.cx with irqs := [⟨16, .P, 7, true⟩], tp := { lab.cx.tp with ie := 0x10000 } } } : State).trapDue =
      some (.irq .P ⟨16, .P, 7, true⟩) ∧
    ({ lab with cx := { lab.cx with asyncs := [⟨31, 0, 0, .T, 0⟩] } } : State).trapDue = some (.async ⟨31, 0, 0, .T, 0⟩) ∧
    (lab.reached labP 0 0).isSome = true ∧ lab.reached labP 5 0 = none ∧
    ({ lab.cx with resv := some ⟨0x800, 0x40000, 8, 0, 0, false⟩ } : Ctx).resv = some ⟨0x800, 0x40000, 8, 0, 0, false⟩ := by decide +kernel

/-- A save that the level P may ask for; contexts at a save point, drained, saved and restoring; migrations at each of their states. -/
theorem witness_SavesAndMigrations : labP.acts = .P ∧
    (({ lab with regs := [(preemptBlock 0, 0x100)] } : State).reg (preemptBlock 0)).toNat / 256 % 4 = 1 ∧
    lab.ctx? ⟨0, 0⟩ = some lab.cx ∧ lab.savedAt 0 0 = none ∧ lab.ctx? ⟨0, 7⟩ = none ∧ lab.migrating 1 = false ∧
    ({ lab with migs := [⟨0, 1, 0, .quiesce, 0, 0, 0⟩] } : State).migrating 1 = true ∧
    lab.savePoint { lab.cx with saveReq := some 1 } = true ∧ ({ lab with cx := { lab.cx with thread := false } } : State).savePoint { lab.cx with saveReq := some 1, thread := false } = false ∧
    lab.drainedForSave { lab.cx with status := .saving } = true ∧ labSent.drainedForSave labSent.cx = false ∧
    (({ lab with others := [{ labCtx 1 with key := ⟨1, 8⟩, status := .saved }] } : State).savedAt 1 0).isSome = true ∧
    (({ lab with others := [{ labCtx 1 with key := ⟨1, 8⟩, status := .restoring }] } : State).owner? ⟨1, 8⟩).isSome = true ∧
    ({ lab with others := [{ labCtx 1 with key := ⟨1, 8⟩, status := .restoring }] } : State).ctx? ⟨1, 0⟩ = none ∧
    16 ≤ (({ lab with others := [{ labCtx 1 with key := ⟨1, 8⟩, status := .restoring, banks := [] }] } : State).freeBanks 1).length ∧
    lab.writesMig 0 labP = true ∧ (lab.mig 0).st = .idle ∧ (({ lab with regs := [(migBlock 0, 1)] } : State).reg (migBlock 0)).toNat % 2 ^ 32 = 1 ∧
    (∃ k ∈ lab.kernels, k.kid = 1 ∧ k.leaf = 0) ∧ lab.quiescent 1 = false ∧ lab.poweredSite 1 = true ∧
    ({ lab with power := [(1, .S1)] } : State).poweredSite 1 = false ∧
    ({ lab with cx := { lab.cx with status := .saved }, others := [] } : State).quiescent 1 = true ∧ (lab.mig 0).isLocal = false := by
  decide +kernel

/-- A slot with a context of each state that a save request meets; one that waits in WFI, drains with its own post on its way, and one whose composition
holds the site. -/
theorem witness_SavesAndMigrations_slots : lab.slotCtx 0 0 = some lab.cx ∧ lab.slotCtx 0 7 = none ∧
    (∀ st ∈ [Status.saving, .retiring, .saved], let c : Ctx := { labCtx 1 with status := st }
      let s : State := { lab with others := [c] }
      s.slotCtx 1 0 = some c ∧ s.migrating c.kid = false) ∧
    (let c : Ctx := { labCtx 1 with key := ⟨1, 8⟩, status := .restoring }
     ({ lab with others := [c] } : State).slotCtx 1 0 = some c) ∧
    (let c : Ctx := { lab.cx with waiting := true, saveReq := some 1, thread := false }
     let s : State := { lab with cx := c }
     s.savePoint c = true ∧ s.claimant 0 = none ∧ s.ctx? ⟨0, 0⟩ = some c) ∧
    (let c : Ctx := { lab.cx with status := .saving }
     let s : State := { lab with cx := c, posts := [⟨.thread, ⟨0, 0⟩, 0, 0, 52776558526464, 8, 5, false, 0⟩] }
     s.drainedForSave c = true ∧ s.posts ≠ []) ∧
    (let s : State := { labPair with others := [{ labCtx 1 with status := .parked, saveReq := some 1 }] }
     s.claimant 1 = some s.cx ∧ s.ctx? s.cx.key = some s.cx ∧ s.cx.hint = none) := by
  decide +kernel

/-- A kernel that still delivers and one that does not; migrations that a cancel meets, within the module and out of it; an image that is accepted. -/
theorem witness_SavesAndMigrations_moves :
    (let s : State := { lab with
       cx := { lab.cx with status := .saved }, others := [], migs := [⟨0, 1, 0, .quiesce, 0, 0, 0⟩] }
     (s.mig 0).st = .quiesce ∧ s.quiescent 1 = true ∧ s.deliversFor 1 = false ∧ (s.mig 0).isLocal = false) ∧
    ({ labLinks .delivering .running with others := [{ labCtx 1 with kid := 2 }] } : State).deliversFor 2 = true ∧
    (∀ m ∈ [(⟨0, 1, 0, .transfer, 0, 0, 0⟩ : Mig), ⟨0, 1, 0x100030000, .transfer, 0, 0, 0⟩], let s : State := { lab with migs := [m] }
      s.mig 0 = m ∧ m.st = .transfer ∧ (s.kernel? m.kid).isSome = true) ∧
    (⟨0, 1, 0, .transfer, 0, 0, 0⟩ : Mig).isLocal = false ∧ (⟨0, 1, 0x100030000, .transfer, 0, 0, 0⟩ : Mig).isLocal = true := by
  decide +kernel

/-- A session of leaf 0's function that is open and one that is not; a site in reach and out of it; a context that it holds HALTED. -/
theorem witness_DebugSessions : lab.holds (lab.fnRequester 17) rightDebug = true ∧ debugAllowed lab.sol.lifecycle 17 = true ∧
    debugAllowed .rma 17 = false ∧ ({ lab with sessions := [17] } : State).debugSiteIn 17 = true ∧
    ({ lab with sessions := [17], regs := [(debugBlock 17, 16)] } : State).debugSiteIn 17 = false ∧ lab.debugGated 17 = false ∧
    ({ lab with power := [(0, .S2)] } : State).debugGated 17 = true ∧ lab.debugCtx 17 = some lab.cx ∧ lab.debugHeld 17 = none ∧
    (({ lab with cx := { lab.cx with halt := some ⟨17, true, false, false, none⟩ } } : State).debugHeld 17).isSome = true := by decide +kernel

/-- A slot of two contributors, one element each, integer addition. -/
def labSlot (words : List SlotWord) : State := { lab with switchSlots := [⟨3, 0, 0, 1, 0, 3, 1, [(0, 1, 9)], words, false⟩] }

/-- A leaf that may allocate, an allocation in range and one that is not; contributions that fit, that complete and that do not fit. -/
theorem witness_ReductionSlots : lab.ownsLeaf labP 0 = true ∧ (lab.swBlock 0).pending = none ∧
    (⟨3, 0, 0, 1, 0, 3, 1, 1, 9, true⟩ : Allocation).inRange = true ∧ (⟨3, 0, 8, 1, 0, 3, 1, 1, 9, true⟩ : Allocation).inRange = false ∧
    (⟨3, 0, 0, 1, 0, 3, 1, 1, 9, true⟩ : Allocation).agrees ⟨3, 0, 0, 1, 0, 3, 1, [], [], false⟩ = true ∧
    (⟨3, 1, 0, 1, 0, 3, 1, 1, 9, true⟩ : Allocation).agrees ⟨3, 0, 0, 1, 0, 3, 1, [], [], false⟩ = false ∧
    lab.switchSlot? 3 = none ∧ ((labSlot []).switchSlot? 3).isSome = true ∧ lab.ctlOpen 0 = true ∧
    ({ lab with tokens := [(0, 16)] } : State).ctlOpen 0 = false ∧
    (⟨3, 1, 0, 1, 0, 3, 1, 1, 9, true⟩ : Allocation).agrees ⟨3, 0, 0, 1, 0, 3, 1, [], [], true⟩ = false ∧
    (⟨3, 0, 0, 1, 0, 3, 1, [], [], false⟩ : SwitchSlot).word 1 0 = none ∧
    (⟨3, 0, 0, 1, 0, 3, 1, [], [], false⟩ : SwitchSlot).mask.getLsbD 1 = true ∧
    (⟨3, 0, 0, 1, 0, 3, 1, [], [⟨0, 0, 5⟩], false⟩ : SwitchSlot).word 1 0 = none ∧
    (⟨3, 0, 0, 1, 0, 3, 1, [], [⟨0, 0, 5⟩, ⟨1, 0, 6⟩], false⟩ : SwitchSlot).complete = true ∧
    (⟨3, 0, 0, 1, 0, 3, 1, [], [⟨0, 0, 5⟩], false⟩ : SwitchSlot).complete = false ∧
    (labSlot []).receiverRetries ⟨3, 0, 0, 1, 0, 3, 1, [(0, 1, 9)], [], false⟩ = false := by decide +kernel

/-- The low word of an entry for module 2, leaf 3, that grants RING, BELL and MEM, over the queues 0 to 15 and leaf 0. -/
def labAcl : State := { lab with regs := [(aclEntry 5, 1 + 2 * 2 ^ 25 + 3 * 2 ^ 35 + 7 * 2 ^ 42 + 16 * 2 ^ 57), (aclEntry 5 + 8, 0)] }

/-- A peer that an entry admits and one that none does; an address that translates; and a queue of a leaf with PEER_LAUNCH. -/
theorem witness_Peers : (labAcl.nearestAcl 2 3 ⟨2, fun e => (labAcl.part (.leaf (fld e 75 70))).st ≠ .free⟩).2 = 5 ∧
    (lab.nearestAcl 2 3 ⟨2, fun e => (lab.part (.leaf (fld e 75 70))).st ≠ .free⟩).2 = 0 ∧
    (labAcl.nearestAcl 2 3 ⟨0, aclQueue 15⟩).2 = 5 ∧ (labAcl.nearestAcl 2 3 ⟨1, aclQueue 16⟩).2 = 4 ∧
    labAcl.peerPlace 0 .store 0x40000 8 = .ok ⟨0x40000, .glob, 0, 0, false⟩ ∧ isMmio 0x40000 = false ∧
    labAcl.refusedAt ⟨0x40000, .glob, 0, 0, false⟩ 8 = none ∧ (labAcl.queueLeaf 6).any (fun j => (labAcl.part (.leaf j)).rights.getLsbD 7) = true ∧
    ((labQueue .active 1).queue 6).st ≠ .unreg ∧ 2 ∉ lab.sol.failedModules ∧ 3 ∉ lab.sol.removedPorts ∧
    lab.sol.recovery ≠ .fence ∧ ({ lab with sol := { lab.sol with recovery := .fence } } : State).sol.recovery = .fence := by decide +kernel

/-- Sites that may be gated to each state and not; an HSS index left and none; an RMA lifecycle; a composition whose member fails. -/
theorem witness_PowerAndBoot : lab.mayGate 0 .S2 = false ∧ lab.mayGate 1 .S2 = true ∧ lab.mayGate 5 .S3 = true ∧ lab.mayGate 1 .S1 = true ∧
    State.reset.sol.boot = .reset ∧ State.reset.sol.hssIndex < 2 ^ 20 ∧ ({ Solstice.reset with lifecycle := .rma } : Solstice).lifecycle = .rma ∧
    labPair.cx.key = ⟨0, 0⟩ ∧ labPair.cx.status = .running ∧ 2 ≤ labPair.cx.comp.n ∧ 1 < labPair.cx.comp.n ∧ labPair.cx.first = none ∧
    lab.cx.comp.n < 2 ∧ ({ labCtx 1 with events := [.window 0x10000 7 1] } : Ctx).calls 0 = true ∧ (labCtx 1).calls 0 = false ∧
    lab.accessFor 1 = true ∧ ({ lab with cx := Ctx.blank ⟨0, 0⟩, others := [] } : State).accessFor 1 = false := by decide +kernel

/-- A step fetches ADDI x6, x7, 5 and runs it: x7 holds 7. -/
theorem test_step_fetches : (match step labFetch with | .next t => some (t.cx.pc, t.getX 6) | _ => none) = some (0x1004, 12) := by decide +kernel

/-- A step that answers a next state from a state whose memory is in order. -/
theorem witness_StepKeepsMemory : Safe labFetch ∧ ∃ t, step labFetch = .next t := by
  refine ⟨rfl, ?_⟩
  have h := test_step_fetches
  generalize step labFetch = o at h ⊢
  cases o with
  | next t => exact ⟨t, rfl⟩
  | fault _ => cases h
  | refused _ => cases h

/-- A well-formed instruction and its word. -/
theorem witness_DecodeEncode : (Instr.addi 5 7 6).wf = true ∧ encode (.addi 5 7 6) = some 0x00538313 := by decide +kernel

/-- A composition that holds a site whose context is to be saved, with a pending hint and without; a restore without its banks; a migration image
that the module accepts and one that it does not; a copy under HOLD; a WFI that waits; a queue that no leaf holds and one of PEER_LAUNCH; and a
first-level block under which a leaf is left. -/
theorem witness_Turnings :
    (let s : State := { labPair with others := [{ labCtx 1 with status := .parked, saveReq := some 1 }] }
     s.claimant 1 = some labPair.cx ∧ s.dissolves 1 = true ∧ labPair.cx.hint = none ∧
      (s.ctx? ⟨1, 0⟩).any (fun c => s.savePoint c && c.saveReq ≠ none) = true) ∧
    ({ labPair with cx := { labPair.cx with hint := some ⟨1, 0, 0xFFC⟩ } } : State).dissolves 1 = false ∧ lab.claimant 0 = none ∧
    lab.dissolves 0 = false ∧
    (let s : State := { lab with others := [labCtx 1, { labCtx 1 with key := ⟨1, 8⟩, status := .restoring }] }
     (s.freeBanks 1).length < (labCtx 1).banks.length ∧ s.ctx? ⟨1, 0⟩ ≠ none) ∧
    (let x : MigImage := ⟨0, ⟨1, 0, 0, 4, 0x1000, 0, 0, .T, none, 0, none, 0, 0, [], false⟩, 0, 8, [], [], [], [], [], 0, true, false⟩
     ({ lab with sol := { lab.sol with retired := [] } } : State).acceptsImage x = true ∧ lab.acceptsImage { x with keyEqual := false } = false) ∧
    (labCopies .running).engineQueue 0 = [labCopy .running] ∧ ({ lab.cx with waiting := true } : Ctx).waiting = true ∧
    lab.queueLeaf 16 = none ∧ (lab.peerRights 6).getLsbD 7 = true ∧
    lab.leavesOf 0 ≠ [] ∧ ({ lab with parts := [⟨.first 0, .changing, 0, 16, 0, 0x3FF, 0, 16, 0⟩] } : State).leavesOf 0 = [] := by
  decide +kernel

/-! ## Single steps -/

/-- The state after an instruction that goes on. -/
def after (i : Instr) (s : State) : Option State := match exec i s with | .next t => some t | _ => none

/-- ADDI with −1 (R138). -/
theorem test_addi_negative : (after (.addi 0xFFF 6 10) lab).map (·.getX 10) = some 5 := by decide +kernel

/-- The product of 2^63 with itself, from the high word of a signed multiply (R139): 2^62. -/
theorem test_mulh_of_least : (after (.mulh 10 10 11) (lab.setX 10 0x8000000000000000)).map (·.getX 11) = some 0x4000000000000000 := by
  decide +kernel

/-- A signed division by zero gives all ones, and the remainder is the dividend (R139). -/
theorem test_div_by_zero : (after (.div 0 7 10) lab).map (·.getX 10) = some 0xFFFFFFFFFFFFFFFF ∧
    (after (.rem 0 7 10) lab).map (·.getX 10) = some 7 := by decide +kernel

/-- A word shift is sign-extended (R138). -/
theorem test_sraiw_sign : (after (.sraiw 4 10 11) (lab.setX 10 0x80000000)).map (·.getX 11) = some 0xFFFFFFFFF8000000 := by decide +kernel

/-- A write of x0 leaves it 0 (R31). -/
theorem test_x0_discards : (after (.addi 1 6 0) lab).map (·.getX 0) = some 0 := by decide +kernel

/-- A halfword is stored with its low byte at the lower address (R3), and LB extends its sign (R141). -/
theorem test_store_order : (after (.sh 10 1 0) (lab.setX 10 0x1280)).map (fun t => (memGet t.mem 52776558526464, memGet t.mem 52776558526465)) =
    some (0x80, 0x12) := by decide +kernel

theorem test_lb_sign : (after (.lb 0 1 11) { lab with mem := memWrite [] 52776558526464 1 0x80 }).map (·.getX 11) = some 0xFFFFFFFFFFFFFF80 := by
  decide +kernel

/-- ECALL at T where nothing is delegated: P takes cause 9 (R149, R356). -/
theorem test_ecall_from_t : (after .ecall (labAt .T)).map (fun t => (t.cx.level, (t.cx.tr .P).cause, (t.cx.tr .P).epc, (t.cx.tr .P).status)) =
    some (.P, 9, 0x1000, 0x400) := by decide +kernel

/-- A taken branch goes 8 bytes back (R132); one whose target has bit 1 set raises cause 0 with the target. -/
theorem test_branch_back : (after (.beq 6 6 0xFFC) lab).map (·.cx.pc) = some 0xFF8 ∧
    (after (.beq 6 6 0x001) lab).map (fun t => ((t.cx.tr .P).cause, (t.cx.tr .P).val)) = some (0, 0x1002) := by decide +kernel

/-- AMOADD.W gives the old word, sign-extended, and stores the sum modulo 2^32 (R143). -/
theorem test_amoadd_word : (after (.amoadd 0 0 6 1 0 10) { lab with mem := memWrite [] 52776558526464 4 0xFFFFFFFE }).map
    (fun t => (t.getX 10, memRead t.mem 52776558526464 8)) = some (0xFFFFFFFFFFFFFFFE, 4) := by decide +kernel

/-- INT8 elements wrap: 0x81 + 0x81 is 2 (R158). -/
theorem test_vadd_wraps : (after (.vadd 0 2 2 0 4) { lab with cx := { lab.cx with v := Vector.replicate 32 ⟨2, 0x8181⟩ } }).map
    (fun t => ((t.getV 4).tag, (t.getV 4).bits)) = some (2, 0x0202) := by decide +kernel

/-- VADD of an EMPTY register raises cause 24 with its number and tag 0 (R158). -/
theorem test_vadd_empty : (after (.vadd 0 2 2 0 4) lab).map (fun t => ((t.cx.tr .P).cause, (t.cx.tr .P).val)) = some (24, 2) := by decide +kernel

/-- A CSR number that names no register raises cause 2 (R150). -/
theorem test_csr_absent : (after (.csrrs 0x5D3 0 5) lab).map (fun t => (t.cx.tr .P).cause) = some 2 := by decide +kernel

end Tests
end

section
/-! SUPPORT. Every step keeps the canonical form of memory: a lemma for each operation of the state, from the places of performance up
to the turns of the schedule. -/

namespace Sys2Proof.Machine

/-! ## Computations whose answers are safe -/

/-- Every value that a computation answers meets `P`. -/
def Yields {ε α : Type} (P : α → Prop) (r : Except ε α) : Prop := ∀ a, r = .ok a → P a

/-- The next state that a meaning answers, if it answers one, has memory in canonical form. -/
def NextSafe (r : Result) : Prop := ∀ t, r = .next t → Safe t

section rules

variable {ε α β : Type} {P : α → Prop} {Q : β → Prop}

theorem Yields.ok {a : α} (h : P a) : Yields (ε := ε) P (.ok a) := fun _ e => by cases e; exact h

theorem Yields.error {e : ε} : Yields P (.error e) := nofun

/-- What follows an answer may use what the answer meets. -/
theorem Yields.bind {x : Except ε β} {f : β → Except ε α} (hx : Yields Q x) (hf : ∀ b, Q b → Yields P (f b)) : Yields P (x >>= f) := by
  cases x with
  | error e => exact .error
  | ok b => exact hf b (hx b rfl)

/-- What follows a check or a look-up does not depend on how it ended. -/
theorem Yields.skip {x : Except ε β} {f : β → Except ε α} (hf : ∀ b, Yields P (f b)) : Yields P (x >>= f) :=
  Yields.bind (Q := fun _ => True) (fun _ _ => trivial) fun b _ => hf b

theorem Yields.ite {c : Prop} [Decidable c] {x y : Except ε α} (hx : Yields P x) (hy : Yields P y) : Yields P (if c then x else y) := by
  split
  · exact hx
  · exact hy

/-- A step that only some runs take, before the rest. -/
theorem Yields.guard {c : Prop} [Decidable c] {x : Except ε Unit} {f : Unit → Except ε α} (hf : ∀ u, Yields P (f u)) :
    Yields P (if c then x >>= f else f ()) := .ite (.skip hf) (hf ())

theorem Yields.map {x : Except ε β} {f : β → α} (hx : Yields Q x) (hf : ∀ b, Q b → P (f b)) : Yields P (x.map f) := by
  cases x with
  | error e => exact .error
  | ok b => exact .ok (hf b (hx b rfl))

theorem Yields.tryExn {x : Except Exn α} (hx : Yields P x) : Yields P (tryExn x) := by
  cases x with
  | error e => exact .error
  | ok a => exact .ok (hx a rfl)

theorem Yields.foldlM {f : α → β → Except ε α} {l : List β} {a : α} (h : P a) (hf : ∀ a b, P a → Yields P (f a b)) :
    Yields P (l.foldlM f a) := by
  induction l generalizing a with
  | nil => exact .ok h
  | cons b l ih => exact (hf a b h).bind fun _ hc => ih hc

end rules

theorem NextSafe.next {t : State} (h : Safe t) : NextSafe (.next t) := fun _ e => by cases e; exact h

theorem NextSafe.finish {s : State} {r : Try State} (h : Safe s) (hr : Yields Safe r) : NextSafe (s.finish r) :=
  fun _ e => h.finish hr e

theorem Safe.ite {c : Prop} [Decidable c] {t u : State} (ht : Safe t) (hu : Safe u) : Safe (if c then t else u) := by
  split
  · exact ht
  · exact hu

theorem Safe.getD {o : Option State} {t : State} (ho : ∀ u, o = some u → Safe u) (ht : Safe t) : Safe (o.getD t) := by
  cases o with
  | none => exact ht
  | some u => exact ho u rfl

theorem Safe.snd {α : Type} {p : α × State} {v : α} {u : State} (e : p = (v, u)) (h : Safe p.2) : Safe u := by
  cases e
  exact h

/-- `Safe.foldl`, with the fold given by the goal. -/
theorem Safe.fold {α : Type} {f : State → α → State} {l : List α} {s : State} (h : Safe s) (hf : ∀ t x, Safe t → Safe (f t x)) :
    Safe (l.foldl f s) := h.foldl hf l

variable {s : State}

/-! ## Updates that leave memory alone -/

theorem Safe.result {d v} (h : Safe s) : Safe (s.result d v) := h

theorem Safe.advance (h : Safe s) : Safe s.advance := h

theorem Safe.setV {d r} (h : Safe s) : Safe (s.setV d r) := h

theorem Safe.setM {d m} (h : Safe s) : Safe (s.setM d m) := h

theorem Safe.addFlags {f} (h : Safe s) : Safe (s.addFlags f) := h

theorem Safe.advanceV (h : Safe s) : Safe s.advanceV := h

theorem Safe.tickOrder (h : Safe s) : Safe s.tickOrder := h

theorem Safe.mapOwner {k f} (h : Safe s) : Safe (s.mapOwner k f) := h

theorem Safe.mapNode {id f} (h : Safe s) : Safe (s.mapNode id f) := h

theorem Safe.mapLink {k id f} (h : Safe s) : Safe (s.mapLink k id f) := h

theorem Safe.mapCopy {k id f} (h : Safe s) : Safe (s.mapCopy k id f) := h

theorem Safe.setQueue {q} (h : Safe s) : Safe (s.setQueue q) := h

theorem Safe.setPart {p} (h : Safe s) : Safe (s.setPart p) := h

theorem Safe.invalidate {site} (h : Safe s) : Safe (s.invalidate site) := h

theorem Safe.setCx {c} (h : Safe s) : Safe { s with cx := c } := h

theorem Safe.setWays {w} (h : Safe s) : Safe { s with ways := w } := h

theorem Safe.onStr {p} (h : Safe s) : Safe (s.onStr p) := h.of_mem rfl

theorem Safe.answerSend {k id a} (h : Safe s) : Safe (s.answerSend k id a) := h.of_mem rfl

theorem Safe.endLink {x result} (h : Safe s) : Safe (s.endLink x result) := h.of_mem rfl

theorem Safe.endCopy {x} (h : Safe s) : Safe (s.endCopy x) := h.of_mem rfl

/-! ## Contexts, slices and traps -/

theorem Safe.switchTo {k} (h : Safe s) : Safe (s.switchTo k) := by
  unfold State.switchTo
  split
  · exact h
  · split <;> exact h

theorem Safe.sliceFlush {homes} (h : Safe s) : Safe (s.sliceFlush homes) := h.fold fun _ _ ht => ht.sliceEvict ..

theorem Safe.sliceShrink {site n} (h : Safe s) : Safe (s.sliceShrink site n) := h.fold fun _ _ ht => ht.sliceEvict ..

theorem Safe.takeAsync {a} (h : Safe s) : Safe (s.takeAsync a) := (h.takeTrap (s.cx.route a.code false a.floor) a.code false a.val a.val2 :)

theorem Safe.takeDue (h : Safe s) (d : Due) : Safe (s.takeDue d) := by
  cases d with
  | irq l p => exact (h.takeTrap l p.code true p.val (if p.merged then 1 else 0) :)
  | async a => exact h.takeAsync

theorem Safe.discard {p} (h : Safe s) : Safe (s.discard p) := memSorted_filter _ _ _ h

theorem Safe.invalidateAll {hs} (h : Safe s) : Safe (s.invalidateAll hs) := h

theorem Safe.gatherCtx {c} (h : Safe s) : Safe (s.gatherCtx c) := h.fold fun _ _ ht => ht.store ..

theorem Safe.writeBackCtx {c} (h : Safe s) : Safe (s.writeBackCtx c) := h.fold fun _ _ ht => .ite (ht.store ..) ht

theorem Safe.writeBackSites {hs} (h : Safe s) : Safe (s.writeBackSites hs) :=
  (h.fold fun _ _ ht => ht.writeBackCtx : Safe (List.foldl _ s _))

theorem Safe.dissolveAt {k last} (h : Safe s) : Safe (s.dissolveAt k last) := by
  unfold State.dissolveAt
  split
  · exact h
  · exact .ite h (h.gatherCtx.invalidateAll.mapCtx ..)

/-! ## Accesses -/

theorem Safe.post {src f} (h : Safe s) : Yields Safe (s.post src f) := by
  unfold State.post
  split
  · exact .error
  · exact .ok h

theorem Safe.engineOrder {k order t} (h : Safe s) (ht : s.engineOrder k order = some t) : Safe t := by
  unfold State.engineOrder at ht
  dsimp only at ht
  split at ht <;> cases ht
  exact h.fold fun _ _ hu => hu.performDue ..

theorem Safe.heeded {k order t} (h : Safe s) (ht : s.heeded k order = some t) : Safe t := by
  unfold State.heeded at ht
  split at ht
  · cases ht; exact h
  · dsimp only at ht
    split at ht <;> cases ht
    refine h.fold fun u b hu => ?_
    split
    · exact hu
    · exact hu.performDue ..

theorem Safe.landAt {src site pa n} (h : Safe s) : Safe (s.landAt src site pa n) := h.landWhere _

theorem Safe.landNth {n} (h : Safe s) : Safe (s.landNth n) := by
  unfold State.landNth
  split
  · exact .ite (h.landPost _) h
  · exact h

theorem Safe.writeParts {kind agent pa cells unit} (h : Safe s) : Safe (s.writeParts kind agent pa cells unit) :=
  .ite (Safe.fold h fun _ _ ht => ht) (h.storeCells ..)

theorem Safe.writeImage {kind k pa img} (h : Safe s) : Safe (s.writeImage kind k pa img) := h.writeParts

theorem Safe.fillLine {site place} (h : Safe s) : Safe (s.fillLine site place) := by
  unfold State.fillLine
  split <;> exact h

theorem Safe.fillBlock {site pa} (h : Safe s) : Safe (s.fillBlock site pa) := by
  unfold State.fillBlock
  split <;> exact h

theorem Safe.mark {o t n} (h : Safe s) : Safe (s.mark o t n) := .ite h h

theorem Safe.acquire {scope} (h : Safe s) : Safe (s.acquire scope) := by
  unfold State.acquire
  split <;> exact h

theorem Safe.loadStrong {t va n} (h : Safe s) : Safe (s.loadStrong t va n).2 := by
  have hu : Safe (if t.kind = .localWin then s else s.trip (s.cx.bankSite va) t.site) := .ite h h
  exact (Safe.ite hu hu : Safe (if t.kind = .glob then State.countSlice _ _ else _))

theorem Safe.loadWeak {t va n w} (h : Safe s) : Safe (s.loadWeak t va n w).2 := by
  unfold State.loadWeak
  dsimp only
  repeat' split
  · exact h
  · exact h
  · exact Safe.fillLine h
  · exact h

theorem Safe.loadOrd {o t va n w} (h : Safe s) : Safe (s.loadOrd o t va n w).2 := by
  unfold State.loadOrd
  split
  · have hl : Safe (s.loadStrong t va n).2 := h.loadStrong
    exact .ite (Safe.acquire hl) hl
  · exact h.loadWeak

theorem Safe.readMem {o va n} (h : Safe s) : Yields (fun p => Safe p.2) (s.readMem o va n) :=
  .skip fun _ => .skip fun _ => .ok h.loadOrd

theorem Safe.beforeLocal {a n} (h : Safe s) : Yields Safe (s.beforeLocal a n) := .map (Q := fun _ => True) (fun _ _ => trivial) fun _ _ => h

theorem Safe.storeAt {o bank t va len data cells unit} (h : Safe s) : Yields Safe (s.storeAt o bank t va len data cells unit) := by
  unfold State.storeAt
  split
  · exact h.beforeLocal.map fun _ hu => hu.mark.writeParts
  · exact h.beforeLocal.map fun _ hu => hu.storeCells ..
  · exact h.mark.post.bind fun _ hu => .ok (.ite hu hu)
  · exact h.mark.post.bind fun _ hu => .ok (.ite hu hu)

theorem Safe.postRmw {kind op o t va len data} (h : Safe s) : Yields Safe (s.postRmw kind op o t va len data) := by
  unfold State.postRmw
  dsimp only
  split
  · exact h.beforeLocal.map fun _ hu => hu.applyEntry ..
  · exact h.beforeLocal.map fun _ hu => hu.applyEntry ..
  · exact h.post.bind fun _ hu => .ok (.ite hu hu)
  · exact h.post.bind fun _ hu => .ok (.ite hu hu)

/-! ## The storage of registers -/

theorem Safe.freeReserve {site n f} (h : Safe s) : Safe (s.freeReserve site n f) := by
  induction f generalizing s with
  | zero => exact h
  | succ f ih =>
    unfold State.freeReserve
    split
    · exact h
    · split
      · exact h
      · exact ih h

theorem Safe.freeBankBytes {n f} (h : Safe s) : Safe (s.freeBankBytes n f) := by
  induction f generalizing s with
  | zero => exact h
  | succ f ih =>
    unfold State.freeBankBytes
    split
    · exact h
    · split
      · exact h
      · exact ih h.freeReserve

theorem Safe.bindReg {r} (h : Safe s) : Safe (s.bindReg r) := h.freeBankBytes

theorem Safe.useReg {r} (h : Safe s) : Safe (s.useReg r) := by
  unfold State.useReg
  split
  · exact h
  · exact Safe.ite h h.freeBankBytes

theorem Safe.settleRegs (h : Safe s) : Safe s.settleRegs := Safe.fold h fun _ _ ht => ht.bindReg

theorem Safe.useRegs {i} (h : Safe s) : Safe (s.useRegs i) := h.settleRegs.fold fun _ _ ht => ht.useReg

/-! ## Operands and units -/

theorem Safe.setP {d b} (h : Safe s) : Safe (s.setP d b) := .ite h h

theorem Safe.popChan {ch rest} (h : Safe s) : Safe (s.popChan ch rest) := .ite h h

theorem Safe.popSource {q} (h : Safe s) : Yields (fun p => Safe p.2) (s.popSource q) := by
  unfold State.popSource
  split
  · exact .error
  · split
    · exact .error
    · split
      · exact .ok h.popChan
      · exact .ite .error (.ite .error .error)

theorem Safe.operandB {f t b} (h : Safe s) : Yields (fun p => Safe p.2) (s.operandB f t b) :=
  .ite (.skip fun _ => .ok h) <| .ite (.ok h) <| .ite (.ok h) <| h.popSource.bind fun _ hp => .ite (.ok hp) .error

theorem Safe.unitWrite {cl va n v} (h : Safe s) : Yields Safe (s.unitWrite cl va n v) :=
  .skip fun _ => .ok (h.fold fun _ _ ht => ht.store ..)

theorem Safe.walkerBytes {cl kid va n v} (h : Safe s) : Yields Safe (s.walkerBytes cl kid va n v) := by
  unfold State.walkerBytes
  split
  · exact .error
  · split
    · exact .error
    · split
      · exact .error
      · exact .error
      · exact .error
      · exact .ok (h.store ..)

theorem Safe.unitRas {leaf f} (h : Safe s) : Safe (s.unitRas leaf f) := .ite h h

theorem Safe.walkerReport {cl va v} (h : Safe s) : Safe (s.walkerReport cl va v) := by
  unfold State.walkerReport
  split
  · next t ht => exact h.walkerBytes t ht
  · exact h

theorem Safe.signal {cl sig status idx} (h : Safe s) : Safe (s.signal cl sig status idx) := .ite h h.walkerReport

/-! ## Messages (R285 to R296) -/

theorem sending_safe {passive reply twin b a d} (h : Safe s) : Yields Safe (sending s passive reply twin b a d) := by
  refine .guard fun _ => .guard fun _ => .skip fun _ => ?_
  refine .guard fun _ => .skip fun _ => ?_
  split
  next e =>
  have hu := Safe.snd e h.loadWeak
  exact .ite (.ok hu) <| .ite (.ite .error (.ite (.ok hu) .error)) <| .skip fun _ => .ok hu

theorem Safe.landPosted {c buf img} (h : Safe s) : Safe (s.landPosted c buf img) := .ite h.writeImage (h.writeImage.store ..)

theorem Safe.matchPost {c p img} (h : Safe s) : Safe (s.matchPost c p img) := h.landPosted.mapCtx _ _

theorem execMsgPost_safe {b a d} (h : Safe s) : NextSafe (execMsgPost b a d s) := by
  refine .finish h (.guard fun _ => .skip fun _ => .ite (.ok h) ?_)
  split
  · exact .ok ((h.landPosted.mapCx _).mapCx _).result
  · exact .ite (.ok h) (.ok h)

theorem execMsgPollTake_safe {d} (h : Safe s) : NextSafe (execMsgPollTake d s) := by
  unfold execMsgPollTake
  split
  · exact .next h
  · exact .next (Safe.acquire h.writeImage)

theorem Safe.injectSend {c x} (h : Safe s) : Safe (s.injectSend c x) := by
  unfold State.injectSend
  dsimp only
  split
  · exact h
  · exact .ite h (h.of_mem rfl)

theorem Safe.landReply {c img t} (h : Safe s) (ht : s.landReply c img = some t) : Safe t := by
  unfold State.landReply at ht
  dsimp only at ht
  split at ht
  · cases ht; exact h.matchPost
  · split at ht <;> cases ht
    exact h.writeImage.mapCtx _ _

theorem Safe.replyArrival {k x c} (h : Safe s) : Safe (s.replyArrival k x c) := by
  unfold State.replyArrival
  split
  · exact h
  · split
    · next ht => exact Safe.answerSend (h.landReply ht)
    · exact h

theorem Safe.passiveArrival {k x c} (h : Safe s) : Safe (s.passiveArrival k x c) := by
  unfold State.passiveArrival
  split
  · exact h.matchPost.answerSend
  · exact .ite h h

theorem Safe.mailArrival {k x c} (h : Safe s) : Safe (s.mailArrival k x c) := .ite h (.ite h h)

theorem execMessageArrival_safe {k handle} (h : Safe s) : NextSafe (execMessageArrival k handle s) := by
  unfold execMessageArrival
  dsimp only
  iterate 6
    split
    · exact .next (h.of_mem rfl)
  split
  · exact .next h.replyArrival
  · split
    · exact .next h.passiveArrival
    · exact .next h.mailArrival

theorem execMsgUnpost_safe {a d} (h : Safe s) : NextSafe (execMsgUnpost a d s) := by
  unfold execMsgUnpost
  dsimp only
  split <;> exact .next (h.of_mem rfl)

theorem execReplyHoldRelease_safe {k} (h : Safe s) : NextSafe (execReplyHoldRelease k s) := by
  unfold execReplyHoldRelease
  iterate 2
    split
    · exact .next h
  split
  · exact .next h
  · next ht => exact .next (Safe.answerSend ((h.landReply ht).mapCtx _ _))

theorem execMessageAnswer_safe {k id} (h : Safe s) : NextSafe (execMessageAnswer k id s) := by
  unfold execMessageAnswer
  dsimp only
  repeat' split
  all_goals exact .next (h.of_mem rfl)

theorem execSendBackoffExpiry_safe {k id} (h : Safe s) : NextSafe (execSendBackoffExpiry k id s) := by
  unfold execSendBackoffExpiry
  repeat' split
  all_goals exact .next (h.of_mem rfl)

theorem execMessageRetryResend_safe {k id} (h : Safe s) : NextSafe (execMessageRetryResend k id s) := by
  unfold execMessageRetryResend
  repeat' split
  all_goals exact .next (h.of_mem rfl)

theorem execWatchdogExpiry_safe {k} (h : Safe s) : NextSafe (execWatchdogExpiry k s) := by
  unfold execWatchdogExpiry
  repeat' split
  all_goals exact .next (h.of_mem rfl)

/-! ## Channels (R297 to R307) -/

theorem Safe.enterEntry {c ch e} (h : Safe s) : Safe (s.enterEntry c ch e) :=
  .ite ((h.store ..).mapCtx _ _).onStr ((h.store ..).mapCtx _ _)

theorem execChannelEntryArrival_safe {k q} (h : Safe s) : NextSafe (execChannelEntryArrival k q s) := by
  unfold execChannelEntryArrival
  split
  · exact .next h
  · have ht : ∀ p, Safe (s.offStr p) := fun _ => h
    dsimp only
    split
    · split
      · exact .next (ht _).enterEntry
      · exact .next ((ht _).mapCtx _ _)
    · exact .next (ht _)

theorem execChannelFlowSignal_safe {k q} (h : Safe s) : NextSafe (execChannelFlowSignal k q s) := by
  unfold execChannelFlowSignal
  repeat' split
  all_goals exact .next (h.of_mem rfl)

theorem execChannelClosedNotice_safe {k q} (h : Safe s) : NextSafe (execChannelClosedNotice k q s) := by
  unfold execChannelClosedNotice
  repeat' split
  all_goals exact .next (h.of_mem rfl)

theorem execChannelCloseMarker_safe {k q} (h : Safe s) : NextSafe (execChannelCloseMarker k q s) := by
  unfold execChannelCloseMarker
  repeat' split
  all_goals exact .next (h.of_mem rfl)

theorem Safe.answerOpen {c ch} (h : Safe s) : Safe (s.answerOpen c ch) := .ite (h.mapCtx _ _).onStr (h.mapCtx _ _)

theorem execChannelAsk_safe {k q} (h : Safe s) : NextSafe (execChannelAsk k q s) := by
  unfold execChannelAsk
  dsimp only
  split
  · exact .next h
  · have ht : ∀ p, Safe (s.offStr p) := fun _ => h
    split
    · exact .next (ht _).answerOpen
    · split
      · exact .next (h.of_mem rfl)
      · exact .next (h.of_mem rfl)

theorem execChannelAskRetry_safe {k q} (h : Safe s) : NextSafe (execChannelAskRetry k q s) := by
  unfold execChannelAskRetry
  split
  · exact .next h
  · exact .next (h.mapCtx _ _).onStr

theorem Safe.injectEntry {c ch closing} (h : Safe s) : Safe (s.injectEntry c ch closing) := by
  unfold State.injectEntry
  dsimp only
  repeat' split
  all_goals exact h.of_mem rfl

theorem execPacketInjection_safe {k id} (h : Safe s) : NextSafe (execPacketInjection k id s) := by
  unfold execPacketInjection
  split
  · exact .next h
  · split
    · split
      · exact .next h
      · split
        · exact .next h.injectSend
        · exact .next h
    · dsimp only
      split
      · exact .next h.injectEntry
      · split
        · split
          · exact .next h.injectEntry
          · exact .next h
        · exact .next h

theorem Safe.answerHeld {ch} (h : Safe s) : Safe (s.answerHeld ch) := by
  unfold State.answerHeld
  dsimp only
  split
  · exact h
  · exact h.of_mem rfl

theorem execChOpen_safe {b a d} (h : Safe s) : NextSafe (execChOpen b a d s) := by
  refine .finish h (.skip fun _ => ?_)
  split
  · exact .error
  · refine .ite (.ok (Safe.onStr (h.mapCx _)).advance) ?_
    split
    · exact .error
    · exact .skip fun _ => .ok (Safe.answerHeld (h.mapCx _)).advance

theorem execChClose_safe {a} (h : Safe s) : NextSafe (execChClose a s) := by
  refine .finish h ?_
  split
  · exact .error
  · exact .ite (.ite (.ok (Safe.onStr (h.mapCx _)).advance) (.ok ((h.mapCx _).mapCx _).advance))
      (.ok (Safe.onStr ((h.mapCx _).mapCx _)).advance)

theorem pushing_safe {twin b a d} (h : Safe s) : Yields Safe (pushing s twin b a d) := by
  unfold pushing
  refine .guard fun _ => .skip fun _ => .skip fun _ => ?_
  exact .ite (.ite (.ok h.result) .error) <| .ite (.ite (.ok h.result) .error) <| .ok (.ite (h.mapCx _).result (h.mapCx _).advance)

theorem popping_safe {twin a r d} (h : Safe s) : Yields Safe (popping s twin a r d) := by
  refine .guard fun _ => .skip fun _ => ?_
  split
  · exact .ok (.ite (Safe.result (h.popChan.of_mem rfl)) (Safe.advance (h.popChan.of_mem rfl)))
  · exact .ite (.ite (.ok h.result) .error) (.ite (.ok h.result) .error)

theorem execChBind_safe {b a f d} (h : Safe s) : NextSafe (execChBind b a f d s) := by
  unfold execChBind
  dsimp only
  repeat' split
  all_goals exact .next (h.of_mem rfl)

/-! ## Compositions and activations -/

theorem Safe.loadX (h : Safe s) : Safe s.loadX := by
  unfold State.loadX
  exact h.of_mem rfl

theorem execCompose_safe {b d} (h : Safe s) : NextSafe (execCompose b d s) :=
  .finish h <| .ite .error <| .ite (.ok h.result) <|
    .ok (Safe.writeBackSites h.result).invalidateAll.loadX.setCx

theorem execRelease_safe {d} (h : Safe s) : NextSafe (execRelease d s) :=
  .next (.ite h.result (Safe.dissolve (s := s.setX d 1) h 1).advance)

theorem Safe.dropEvent {c e} (h : Safe s) : Safe (s.dropEvent c e) := by
  unfold State.dropEvent
  dsimp only
  split <;> exact h.of_mem rfl

theorem Safe.startEvent {c e pc} (h : Safe s) : Safe (s.startEvent c e pc) := by
  unfold State.startEvent
  refine Safe.mapCtx (Safe.invalidateAll ?_) _ _
  split
  · exact h.writeImage
  · exact h

theorem execActivationStart_safe {k} (h : Safe s) : NextSafe (execActivationStart k s) := by
  unfold execActivationStart
  iterate 3
    split
    · exact .next h
  split
  · exact .next h.dropEvent
  · split
    · exact .next h.dropEvent
    · exact .next h.startEvent

theorem Safe.returnRange (h : Safe s) : Safe s.returnRange := by
  unfold State.returnRange
  dsimp only
  repeat' split
  all_goals exact h.of_mem rfl

theorem Safe.endActivation (h : Safe s) : Safe s.endActivation := h.returnRange.mapCx _

theorem execHdone_safe (h : Safe s) : NextSafe (execHdone s) := .next (Safe.of_mem (Safe.toLevel h.advance.endActivation .K) rfl)

/-! ## Custom operations -/

theorem Safe.putSlot {x} (h : Safe s) : Safe (s.putSlot x) := h

theorem execXop_safe {op b a pg d} (h : Safe s) : NextSafe (execXop op b a pg d s) := by
  refine .finish h ?_
  split
  · exact .error
  · exact .skip fun _ => .skip fun _ => .skip fun _ => .skip fun _ => .ok h.putSlot.setV.addFlags.tickOrder.advanceV

theorem Safe.readWords {va n} (h : Safe s) : Yields (fun p => Safe p.2) (s.readWords va n) := by
  induction n generalizing s va with
  | zero => exact .ok h
  | succ n ih => exact h.readMem.bind fun _ ht => (ih ht).bind fun _ hu => .ok hu

theorem Safe.readImage {va} (h : Safe s) : Yields (fun p => Safe p.2) (s.readImage va) :=
  h.readWords.bind fun _ ht => .ite (ht.readWords.bind fun _ hu => .ok hu) (.ok ht)

theorem execXcfgLoad_safe {a d} (h : Safe s) : NextSafe (execXcfgLoad a d s) := by
  refine .finish h (.skip fun _ => h.readMem.bind fun _ ht => ht.readImage.bind fun _ hu => .skip fun _ => .skip fun _ => ?_)
  split
  · exact .error
  · exact .ok (hu.of_mem rfl)

/-! ## Partitions and quotas (R88 to R93, R310) -/

theorem Safe.endSession {f} (h : Safe s) : Safe (s.endSession f) := h.of_mem rfl

theorem Safe.unregisterRange {p} (h : Safe s) : Safe (s.unregisterRange p) := h.of_mem rfl

theorem Safe.narrowLeaf {j m} (h : Safe s) : Safe (s.narrowLeaf j m) := by
  unfold State.narrowLeaf
  dsimp only
  repeat' split
  all_goals exact h.of_mem rfl

theorem Safe.narrowBelow {i} (h : Safe s) : Safe (s.narrowBelow i) :=
  h.fold fun _ _ ht => .ite ht.narrowLeaf ht.narrowLeaf.unregisterRange

theorem Safe.applySpan {b r} (h : Safe s) : Safe (s.applySpan b r) := by
  unfold State.applySpan
  dsimp only
  split
  · exact Safe.narrowLeaf (h.of_mem rfl)
  · refine Safe.narrowBelow ?_
    repeat' split
    all_goals exact h.of_mem rfl

theorem Safe.pcmd {b r cmd} (h : Safe s) : Safe (s.pcmd b r cmd) := by
  unfold State.pcmd
  refine .ite h (.ite h.setPart ?_)
  split
  · exact h.of_mem rfl
  · exact h.setPart
  · exact h.applySpan

theorem Safe.clearSpan {p} (h : Safe s) : Safe (s.clearSpan p) := h.sliceFlush.discard

theorem execSpanDestroyComplete_safe {blk} (h : Safe s) : NextSafe (execSpanDestroyComplete blk s) := by
  unfold execSpanDestroyComplete
  dsimp only
  split
  · exact .next h
  · split
    · exact .next (.ite h.clearSpan.setPart h)
    · exact .next h.clearSpan.setPart.setWays

theorem Safe.qosCommand {j r} (h : Safe s) : Safe (s.qosCommand j r) := by
  unfold State.qosCommand
  dsimp only
  repeat' split
  all_goals exact h.of_mem rfl

/-! ## Queues and kernels (R65 to R85) -/

theorem Safe.detach {q} (h : Safe s) : Safe (s.detach q) := by
  unfold State.detach
  dsimp only
  split <;> exact h.of_mem rfl

theorem Safe.queueCommand {q r cmd} (h : Safe s) : Safe (s.queueCommand q r cmd) := by
  unfold State.queueCommand
  dsimp only
  repeat' split
  · exact h
  · exact h.detach.setQueue
  · exact h.setQueue
  · exact h.setQueue
  · exact h

theorem Safe.interruptMessage {f i} (h : Safe s) : Safe (s.interruptMessage f i) := .ite h (h.store ..)

theorem Safe.queueError {x reason idx} (h : Safe s) : Safe (s.queueError x reason idx) := by
  unfold State.queueError
  dsimp only
  refine .ite (Safe.interruptMessage ?_) ?_
  · split <;> exact h.of_mem rfl
  · split <;> exact h.of_mem rfl

theorem Safe.feed {q} (h : Safe s) : Safe (s.feed q) := .ite h h.setQueue

theorem Safe.doorbell {q n} (h : Safe s) : Safe (s.doorbell q n) := .ite h <| .ite h.queueError h.setQueue

theorem Safe.completePacket {q p status} (h : Safe s) : Safe (s.completePacket q p status) := h.setQueue.signal

theorem Safe.cancelAhead {x n} (h : Safe s) : Safe (s.cancelAhead x n) := by
  unfold State.cancelAhead
  dsimp only
  split
  · exact h.setQueue.signal
  · exact h.setQueue.unitRas

theorem Safe.cancelPacket {q n} (h : Safe s) : Safe (s.cancelPacket q n) := by
  unfold State.cancelPacket
  dsimp only
  split
  · exact .ite (h.of_mem rfl) (Safe.completePacket (h.of_mem rfl))
  · exact .ite h.cancelAhead h

theorem Safe.finishAtHead {x b status} (h : Safe s) : Safe (s.finishAtHead x b status) := Safe.signal (h.of_mem rfl)

theorem Safe.fetchFails {x f} (h : Safe s) : Safe (s.fetchFails x f) := h.unitRas.queueError

theorem Safe.consume {x b plan} (h : Safe s) : Safe (s.consume x b plan) := by
  unfold State.consume
  dsimp only
  split <;> exact h.of_mem rfl

theorem execPacketFetch_safe {q} (h : Safe s) : NextSafe (execPacketFetch q s) := by
  unfold execPacketFetch
  dsimp only
  repeat' split
  · exact .next h
  · exact .next (h.of_mem rfl)
  · exact .next h.fetchFails
  · exact .next h.finishAtHead
  · exact .next h.consume
  · exact .next h.finishAtHead
  · exact .next h.fetchFails
  · exact .next h.finishAtHead
  · exact .next h.consume

theorem Safe.walkerStore {cl kid va v} (h : Safe s) : Yields Safe (s.walkerStore cl kid va v) := h.walkerBytes

theorem Safe.dispatchPacket {q p} (h : Safe s) : Safe (s.dispatchPacket q p) := by
  unfold State.dispatchPacket
  dsimp only
  split
  · exact h.of_mem rfl
  · exact h.completePacket
  · split
    · next t ht => exact Safe.completePacket (h.walkerStore t ht)
    · exact Safe.completePacket (.ite h h)
  · exact h.of_mem rfl

theorem execPacketDispatch_safe {q} (h : Safe s) : NextSafe (execPacketDispatch q s) := by
  unfold execPacketDispatch
  split
  · exact .next h
  · split
    · exact .next (.ite h h.dispatchPacket)
    · split
      · exact .next h
      · split
        · exact .next (Safe.dispatchPacket (h.of_mem rfl))
        · exact .next h

theorem Safe.writeLaunchWorkspace {c} (h : Safe s) : Safe (writeLaunchWorkspace s c) :=
  (h.fold fun _ _ ht => ht.store .. : Safe (List.foldl _ s _)).store _ _ _

theorem Safe.startContext {kid leaf base p pos} (h : Safe s) : Safe (s.startContext kid leaf base p pos) := by
  have ht : ∀ c : Ctx, Safe (Machine.writeLaunchWorkspace ((s.discard c.inAcc).addContext c) c) := fun c =>
    Safe.writeLaunchWorkspace (h.discard.of_mem rfl)
  exact .ite (ht _).invalidate (ht _)

theorem execKernelPlacement_safe {leaf} (h : Safe s) : NextSafe (execKernelPlacement leaf s) := by
  unfold execKernelPlacement
  dsimp only
  split
  · exact .next h
  · split
    · exact .next h
    · refine .next (Safe.fold ?_ fun _ _ ht => ht.startContext)
      split <;> exact h.of_mem rfl

theorem Safe.retire {c} (h : Safe s) : Safe (s.retire c) := by
  have hd : Safe ((s.landOf c.key).discard c.inAcc) := (h.landWhere _).discard
  exact hd.of_mem rfl

theorem execContextRetire_safe {k} (h : Safe s) : NextSafe (execContextRetire k s) := by
  unfold execContextRetire
  split
  · exact .next h
  · split
    · exact .next h.retire
    · exact .next h

theorem execKernelComplete_safe {kid} (h : Safe s) : NextSafe (execKernelComplete kid s) := by
  unfold execKernelComplete
  split
  · exact .next h
  · split
    · exact .next h
    · have ht : Safe (({ s with
          kernels := s.kernels.filter fun x => x.kid ≠ kid, asks := s.asks.filter fun a => a.kid ≠ kid } : State).cancelFor kid) :=
        h.of_mem rfl
      dsimp only
      split
      · split
        · exact .next ht.completePacket
        · exact .next ht
      · exact .next ht.signal.mapNode
      · exact .next ht.signal

/-! ## Vectors and tiles (R154 to R189) -/

theorem vint_safe {ok pg b a f d op} (h : Safe s) : Yields Safe (vint s ok pg b a f d op) := by
  unfold vint
  exact .skip fun _ => h.operandB.bind fun _ hu => .ok (Safe.setV hu).addFlags.advanceV

theorem vcompare_safe {ok b a f d cond} (h : Safe s) : Yields Safe (vcompare s ok b a f d cond) := by
  unfold vcompare
  exact .skip fun _ => h.operandB.bind fun _ hu => .ok (Safe.setP hu).addFlags.advanceV

theorem execVsel_safe {c b a f d} (h : Safe s) : NextSafe (execVsel c b a f d s) :=
  .finish h <| .skip fun _ => h.operandB.bind fun _ hu => .ok (Safe.setV hu).advanceV

theorem vfltWrite_safe {u pg t d op} (h : Safe s) : Safe (vfltWrite u s pg t d op) := h.setV.addFlags.advanceV

theorem vflt_safe {pg b a f d op} (h : Safe s) : Yields Safe (vflt s pg b a f d op) := by
  unfold vflt
  exact .skip fun _ => h.operandB.bind fun _ hu => .ok (vfltWrite_safe hu)

theorem vfltUnary_safe {pg a d op} (h : Safe s) : Yields Safe (vfltUnary s pg a d op) := .skip fun _ => .ok (vfltWrite_safe h)

theorem execVfma_safe {pg b a f d} (h : Safe s) : NextSafe (execVfma pg b a f d s) :=
  .finish h <| .skip fun _ => h.operandB.bind fun _ hu => .skip fun _ => .ok (vfltWrite_safe hu)

theorem execVcvt_safe {pg t f a u j d} (h : Safe s) : NextSafe (execVcvt pg t f a u j d s) := by
  refine .finish h (.skip fun _ => ?_)
  dsimp only
  split
  · exact .error
  · exact .ok h.setV.addFlags.advanceV

theorem vreduce_safe {pg a uns d fint ffloat eint efloat} (h : Safe s) : Yields Safe (vreduce s pg a uns d fint ffloat eint efloat) := by
  unfold vreduce
  exact .skip fun _ => .ok h.setV.addFlags.advanceV

theorem execVpack_safe {a j d} (h : Safe s) : NextSafe (execVpack a j d s) :=
  .finish h <| .skip fun _ => .ite .error (.ok h.setV.advanceV)

theorem execVperm_safe {pg b a d} (h : Safe s) : NextSafe (execVperm pg b a d s) :=
  .finish h <| .skip fun _ => .ite .error (.ok h.setV.advanceV)

theorem execVsettag_safe {f a d} (h : Safe s) : NextSafe (execVsettag f a d s) :=
  .finish h <| .ite (.ok h.setV.advanceV) (.skip fun _ => .ok h.setV.advanceV)

theorem execTtrans_safe {a d} (h : Safe s) : NextSafe (execTtrans a d s) :=
  .finish h <| .skip fun _ => .ite .error (.ok h.setM.advanceV)

theorem tcvt_safe {f a rl d sat} (h : Safe s) : Yields Safe (tcvt s f a rl d sat) := by
  refine .skip fun _ => ?_
  dsimp only
  split
  · exact .error
  · exact .ok h.setM.addFlags.advanceV

theorem execTqset_safe {a d} (h : Safe s) : NextSafe (execTqset a d s) := by
  refine .finish h (.ite .error ?_)
  split
  · exact .error
  · exact .ok h.setM.addFlags.advanceV

theorem execTtagSet_safe {f d} (h : Safe s) : NextSafe (execTtagSet f d s) := .finish h <|
  .ite (.ok h.setM.advanceV) (.ite .error (.ok h.setM.advanceV))

/-! ## The copy engine's queues (R227 to R240) -/

theorem execCopyStart_safe {n} (h : Safe s) : NextSafe (execCopyStart n s) := by
  unfold execCopyStart
  repeat' split
  all_goals exact .next (h.of_mem rfl)

theorem execCopyGrant_safe {k id} (h : Safe s) : NextSafe (execCopyGrant k id s) := by
  unfold execCopyGrant
  repeat' split
  all_goals exact .next (h.of_mem rfl)

theorem Safe.copyNodeDone {x} (h : Safe s) : Safe (s.copyNodeDone x) := by
  unfold State.copyNodeDone
  split
  · exact h
  · exact h.mapNode

theorem execCopyAborted_safe {k id} (h : Safe s) : NextSafe (execCopyAborted k id s) := by
  unfold execCopyAborted
  split
  · exact .next h
  · split
    · exact .next (h.landWhere _).endCopy.copyNodeDone
    · exact .next h

theorem Safe.abortCopy {k id t} (h : Safe s) (ht : s.abortCopy k id = some t) : Safe t := by
  unfold State.abortCopy at ht
  repeat' split at ht
  all_goals cases ht
  · exact h.endCopy.copyNodeDone
  · exact h.mapCopy

theorem Safe.restartCopy {k id} (h : Safe s) : Safe (s.restartCopy k id) := by
  unfold State.restartCopy
  split
  · exact h
  · exact .ite h h.mapCopy

theorem Safe.writeCpctl {w} (h : Safe s) : Safe (s.writeCpctl w) :=
  .ite (.getD (fun _ ht => h.abortCopy ht) h) (.ite h.restartCopy h)

theorem Safe.rebuildCopy {site slot} (h : Safe s) : Safe (s.rebuildCopy site slot) := by
  unfold State.rebuildCopy
  dsimp only
  repeat' split
  all_goals exact h.of_mem rfl

theorem Safe.writeCqctl {site w} (h : Safe s) : Safe (s.writeCqctl site w) := by
  unfold State.writeCqctl
  dsimp only
  split
  · exact h.of_mem rfl
  · exact h.of_mem rfl
  · exact h.rebuildCopy
  · exact h

theorem execCopyHoldComplete_safe {n} (h : Safe s) : NextSafe (execCopyHoldComplete n s) := by
  have ht : Safe ((s.cqueue n).busy.foldl (fun s slot => s.landOf ⟨n, slot⟩) s) := h.fold fun _ _ hu => hu.landWhere _
  unfold execCopyHoldComplete
  dsimp only
  generalize (s.cqueue n).busy.foldl (fun s slot => s.landOf ⟨n, slot⟩) s = t at ht ⊢
  split
  · exact .next ht
  · exact .next (ht.of_mem rfl)

/-! ## The link engines' commands (R245 to R266) -/

theorem Safe.endFeed {f result} (h : Safe s) : Safe (s.endFeed f result) := by
  unfold State.endFeed
  split
  · exact h
  · exact .ite h.endLink h

theorem Safe.linkFault {x offset} (h : Safe s) : Safe (s.linkFault x offset) := by
  unfold State.linkFault
  split
  · exact h
  · exact h.mapOwner

theorem Safe.endProduct {x result offset} (h : Safe s) : Safe (s.endProduct x result offset) := by
  have hf : Safe (((s.endLink x result).endFeed x.feedA result).endFeed x.feedB result) := h.endLink.endFeed.endFeed
  unfold State.endProduct
  dsimp only
  generalize ((s.endLink x result).endFeed x.feedA result).endFeed x.feedB result = t at hf ⊢
  have hl : Safe (if result ≠ 0 && result ≠ 8 && !x.quiet then t.linkFault x offset else t) := .ite hf.linkFault hf
  split
  · exact .ite hl.mapOwner hl
  · exact Safe.mapNode (.ite hl.mapOwner hl)

theorem Safe.matchFeed {p f} (h : Safe s) : Safe (s.matchFeed p f) := .ite h.mapLink.mapLink h.mapLink.mapLink.endProduct

theorem Safe.matchSide {l half far} (h : Safe s) : Safe (s.matchSide l half far) := by
  unfold State.matchSide
  split
  · exact h
  · split
    · exact h
    · split
      · exact h
      · exact h.matchFeed

theorem Safe.failOpening {p result offset} (h : Safe s) : Safe (s.failOpening p result offset) := h.endProduct

theorem Safe.engineStart {k order acq t} (h : Safe s) (ht : s.engineStart k order acq = some t) : Safe t := by
  unfold State.engineStart at ht
  obtain ⟨u, hu, ht⟩ := Option.bind_eq_some_iff.mp ht
  split at ht
  · exact (h.heeded hu).engineOrder ht
  · cases ht
    exact h.heeded hu

theorem execProductOpen_safe {l half} (h : Safe s) : NextSafe (execProductOpen l half s) := by
  unfold execProductOpen
  dsimp only
  split
  · split
    · exact .next h
    · split
      · exact .next h.failOpening
      · split
        · exact .next h
        · split
          · exact .next h
          · next ht =>
            have hu := h.engineStart ht
            split
            · exact .next hu.failOpening
            · exact .next (Safe.matchSide (Safe.matchSide hu.mapLink))
  · exact .next h

theorem execFeedArrival_safe {k id} (h : Safe s) : NextSafe (execFeedArrival k id s) := by
  unfold execFeedArrival
  dsimp only
  split
  · exact .next h
  · split
    · exact .next h
    · split
      · exact .next h.mapLink
      · split
        · exact .next h.mapLink.endProduct
        · exact .next h.mapLink.matchSide

theorem execProductGrant_safe {l half} (h : Safe s) : NextSafe (execProductGrant l half s) := by
  unfold execProductGrant
  dsimp only
  repeat' split
  all_goals exact .next (h.of_mem rfl)

theorem Safe.feedPort {k f c t} (h : Safe s) (ht : s.feedPort k f = some (c, t)) : Safe t := by
  unfold State.feedPort at ht
  repeat' split at ht
  · cases ht
  · cases ht
  · obtain ⟨u, hu, he⟩ := Option.map_eq_some_iff.mp ht
    cases he
    exact h.engineStart hu

theorem Safe.feedRead {k id a} (h : Safe s) : Safe (s.feedRead k id a) := by
  unfold State.feedRead
  split
  · exact h
  · split
    · exact h
    · next ht => exact .ite (h.feedPort ht).mapLink h

theorem Safe.issueStep {k id} (h : Safe s) : Safe (s.issueStep k id) := by
  unfold State.issueStep
  split
  · exact h
  · split
    · next ht =>
      have hu := h.feedPort ht
      split
      · exact h
      · split
        · exact Safe.endProduct (.ite hu.endLink hu.endLink.linkFault)
        · exact hu.mapLink
    · exact h

theorem Safe.issueSteps {k id n} (h : Safe s) : Safe (s.issueSteps k id n) := by
  induction n generalizing s with
  | zero => exact h
  | succ n ih => exact ih h.issueStep

theorem Safe.stageProduct {l half} (h : Safe s) : Safe (s.stageProduct l half) := by
  unfold State.stageProduct
  split
  · exact h
  · exact .ite h.mapLink h

theorem Safe.consumeStep {l half} (h : Safe s) : Safe (s.consumeStep l half) := by
  unfold State.consumeStep
  dsimp only
  repeat' split
  all_goals exact h.of_mem rfl

theorem Safe.consumeSteps {l half n} (h : Safe s) : Safe (s.consumeSteps l half n) := by
  induction n generalizing s with
  | zero => exact h
  | succ n ih => exact ih h.consumeStep

theorem Safe.stampNext {src leaf cls} (h : Safe s) : Safe (s.stampNext src leaf cls) := h

theorem Safe.writeElems {c p n} (h : Safe s) : Safe (s.writeElems c p n).1 := by
  induction n generalizing s p with
  | zero => exact h
  | succ n ih =>
    unfold State.writeElems
    split
    · exact h
    · dsimp only
      split
      · exact h
      · split
        · exact h
        · exact ih (Safe.countFor (.ite (h.store ..).stampNext (h.store ..)) _ _ _)

theorem Safe.arrive {c p} (h : Safe s) : Safe (s.arrive c p) := by
  unfold State.arrive
  dsimp only
  split
  · exact (h.store _ _ _).store _ _ _
  · exact ((h.store _ _ _).store _ _ _).mapCtx _ _

theorem Safe.releaseAll {xs t} (h : Safe s) (ht : s.releaseAll xs = some t) : Safe t := by
  unfold State.releaseAll at ht
  generalize xs.filter (·.rel) = l at ht
  induction l generalizing s with
  | nil => cases ht; exact h
  | cons x l ih =>
    obtain ⟨u, hu, ht⟩ := Option.bind_eq_some_iff.mp ht
    exact ih (h.engineOrder hu) ht

theorem Safe.deliver {c p n finish} (h : Safe s) : Safe (s.deliver c p n finish) := by
  unfold State.deliver
  split
  · exact h
  · split
    · exact h.endProduct
    · next t _ =>
      have hu : Safe ((s.writeElems t p n).1.mapLink p.owner p.handle fun _ => (s.writeElems t p n).2.1) := Safe.mapLink h.writeElems
      dsimp only
      split
      · exact hu.endProduct
      · split
        · exact hu
        · split
          · exact hu
          · next hv => exact .ite (hu.releaseAll hv).endProduct (hu.releaseAll hv).arrive.endProduct

theorem execProductDelivery_safe {l half} (h : Safe s) : NextSafe (execProductDelivery l half s) := by
  unfold execProductDelivery
  dsimp only
  repeat' split
  all_goals exact .next (h.of_mem rfl)

theorem Safe.deliverElems {l half n} (h : Safe s) : Safe (s.deliverElems l half n) := by
  unfold State.deliverElems
  split
  · exact h
  · split
    · exact .ite h.deliver h
    · exact h

theorem execDeliveryComplete_safe {l half} (h : Safe s) : NextSafe (execDeliveryComplete l half s) := by
  unfold execDeliveryComplete
  split
  · exact .next h
  · split
    · split
      · exact .next h.deliver
      · exact .next h
    · exact .next h

theorem execRendezvousTimeout_safe {l half} (h : Safe s) : NextSafe (execRendezvousTimeout l half s) := by
  unfold execRendezvousTimeout
  split
  · exact .next h
  · split
    · exact .next h.endProduct
    · exact .next h

theorem execPauseTimeout_safe {k id} (h : Safe s) : NextSafe (execPauseTimeout k id s) := by
  unfold execPauseTimeout
  iterate 2
    split
    · exact .next h
  split
  · exact .next h.endProduct
  · exact .next h

theorem execFeedTimeout_safe {k id} (h : Safe s) : NextSafe (execFeedTimeout k id s) := by
  unfold execFeedTimeout
  split
  · exact .next h
  · split
    · exact .next h.endLink
    · exact .next h

theorem execSinkRetryTimeout_safe {l half} (h : Safe s) : NextSafe (execSinkRetryTimeout l half s) := by
  unfold execSinkRetryTimeout
  split
  · exact .next h
  · split
    · split
      · exact .next h.endProduct
      · exact .next h
    · exact .next h

theorem Safe.setEngine {e} (h : Safe s) : Safe (s.setEngine e) := h

theorem execResidueMismatch_safe {l} (h : Safe s) : NextSafe (execResidueMismatch l s) := by
  unfold execResidueMismatch
  split
  · exact .next h
  · dsimp only
    split
    · exact .next (h.of_mem rfl)
    · exact .next ((h.setEngine.retireUnit _).fold fun _ _ ht => ht.endProduct).mapOwner

theorem execFeedResume_safe {k id} (h : Safe s) : NextSafe (execFeedResume k id s) := by
  unfold execFeedResume
  repeat' split
  all_goals exact .next (h.of_mem rfl)

theorem Safe.enqueueLink {c x ok} (h : Safe s) : Yields Safe (s.enqueueLink c x ok) := .ite .error (.ite .error (.ok (h.of_mem rfl)))

theorem Safe.issueProduct {c lvl b order node} (h : Safe s) : Yields Safe (s.issueProduct c lvl b order node) := by
  unfold State.issueProduct
  split
  · exact .error
  · exact h.enqueueLink

theorem Safe.issueFeed {c lvl b tile order node} (h : Safe s) : Yields Safe (s.issueFeed c lvl b tile order node) := by
  unfold State.issueFeed
  dsimp only
  split
  · exact .error
  · exact h.enqueueLink

theorem Safe.issued {d r} (h : Safe s) (hr : Yields Safe r) : Safe (s.issued d r) := by
  unfold State.issued
  split
  · exact h.result
  · exact Safe.result (hr _ rfl)

theorem execLxProd_safe {a d} (h : Safe s) : NextSafe (execLxProd a d s) := .finish h <| .skip fun _ => .ok (h.issued h.issueProduct)

theorem execLxFeed_safe {aq rl a sc d} (h : Safe s) : NextSafe (execLxFeed aq rl a sc d s) := by
  refine .finish h (.skip fun _ => ?_)
  split
  · exact .error
  · exact .ok (h.issued h.issueFeed)

theorem execLxFeedt_safe {aq rl b a sc d} (h : Safe s) : NextSafe (execLxFeedt aq rl b a sc d s) :=
  .finish h <| .ite .error (.ok (h.issued h.issueFeed))

theorem lxWait_safe {twin a d} (h : Safe s) : Yields Safe (lxWait s twin a d) := by
  unfold lxWait
  exact .guard fun _ => .ite (.ite (.ok h.result) .error) (.ok h.acquire.result)

theorem Safe.abortLink {k id t} (h : Safe s) (ht : s.abortLink k id = some t) : Safe t := by
  unfold State.abortLink at ht
  repeat' split at ht
  all_goals cases ht
  · exact h.endProduct
  · exact h.endLink
  · exact h.endLink.endProduct

theorem execLxAbort_safe {a d} (h : Safe s) : NextSafe (execLxAbort a d s) := by
  unfold execLxAbort
  split
  · exact .next h.result
  · next ht => exact .next (h.abortLink ht).result

theorem lxDwait_safe {twin b a d} (h : Safe s) : Yields Safe (lxDwait s twin b a d) := by
  unfold lxDwait
  refine .guard fun _ => .skip fun _ => .skip fun _ => .skip fun _ => .skip fun _ => ?_
  exact .ite (.ite (.ok h.result) .error) (.ok h.acquire.result)

theorem execLxEpi_safe {b a d} (h : Safe s) : NextSafe (execLxEpi b a d s) := by
  refine .finish h (.skip fun _ => .skip fun _ => .skip fun _ => ?_)
  dsimp only
  split
  · exact .ok h.result
  · exact .ite (.ok h.result) <| .ite (.ok h.result) <| .ite (.ok h.result) <| .skip fun _ => .ok h.setEngine.result

theorem execLxCfg_safe {b a d} (h : Safe s) : NextSafe (execLxCfg b a d s) := by
  unfold execLxCfg
  dsimp only
  repeat' split
  all_goals exact .next (h.of_mem rfl)

/-! ## Task graphs (R315 to R332) -/

theorem Safe.makeReady {n} (h : Safe s) : Safe (s.makeReady n) := h.of_mem rfl

theorem Safe.addReady {e} (h : Safe s) : Safe (s.addReady e) := h.of_mem rfl

theorem Safe.settle {id r d} (h : Safe s) : Safe (s.settle id r d) := h.of_mem rfl

theorem Safe.decrement {id} (h : Safe s) : Safe (s.decrement id) := by
  unfold State.decrement
  split
  · exact h
  · exact .ite h.mapNode.makeReady h.mapNode

theorem Safe.releaseNode {n t} (h : Safe s) (ht : s.releaseNode n = some t) : Safe t := by
  unfold State.releaseNode at ht
  split at ht
  · generalize s.releasers n = l at ht
    induction l generalizing s with
    | nil => cases ht; exact h
    | cons x l ih =>
      obtain ⟨u, hu, ht⟩ := Option.bind_eq_some_iff.mp ht
      exact ih (h.engineOrder hu) ht
  · cases ht
    exact h

theorem Safe.writeRecord {n result detail} (h : Safe s) : Safe (s.writeRecord n result detail) := by
  unfold State.writeRecord
  dsimp only
  split
  · next t ht => exact h.walkerBytes t ht
  · exact h.of_mem rfl

theorem Safe.graphStep {g failed} (h : Safe s) : Safe (s.graphStep g failed) := by
  unfold State.graphStep
  dsimp only
  split
  all_goals
    split
    · exact h.of_mem rfl
    · split
      · exact h.of_mem rfl
      · exact Safe.completePacket (h.of_mem rfl)

theorem Safe.putNodes {n} (h : Safe s) : Safe { s with nodes := n } := h

theorem Safe.setNodes {n r} (h : Safe s) : Safe { s with nodes := n, ready := r } := h

theorem Safe.finishNode {n result detail} (h : Safe s) : Safe (s.finishNode n result detail) := by
  have ht : ∀ l : List Nat, Safe (l.foldl (fun s id => s.decrement id) { s.writeRecord n result detail with
      nodes := (s.writeRecord n result detail).nodes.filter fun m => m.id ≠ n.id
      ready := (s.writeRecord n result detail).ready.filter fun e => e.packet.isSome || e.node ≠ n.id }) := fun l =>
    (Safe.setNodes h.writeRecord).fold fun _ _ hu => hu.decrement
  unfold State.finishNode
  dsimp only
  split
  · exact ht _
  · exact (ht _).graphStep

theorem execNodeFinish_safe {node} (h : Safe s) : NextSafe (execNodeFinish node s) := by
  unfold execNodeFinish
  split
  · exact .next h
  · split
    · next ht => exact .next (h.releaseNode ht).finishNode
    · exact .next h

theorem execGraphArm_safe {q} (h : Safe s) : NextSafe (execGraphArm q s) := by
  unfold execGraphArm
  dsimp only
  split
  · exact .next h
  · split
    · exact .next h.completePacket
    · split
      · exact .next h
      · exact .next (Safe.fold (h.of_mem rfl) fun _ _ ht => .ite ht.makeReady ht)

theorem Safe.enqueueCopy {c lvl kind b acq rel scope node} (h : Safe s) : Safe (s.enqueueCopy c lvl kind b acq rel scope node) :=
  h.of_mem rfl

theorem Safe.dispatchCopy {n} (h : Safe s) : Safe (s.dispatchCopy n) := by
  unfold State.dispatchCopy
  split
  · exact h.settle
  · split
    · exact h.settle
    · exact .ite h.settle h.enqueueCopy

theorem Safe.issueProdCmd {n x} (h : Safe s) : Yields Safe (s.issueProdCmd n x) := by
  unfold State.issueProdCmd
  split
  · exact .error
  · split
    · exact .error
    · exact .ite (.ite .error (h.issueFeed.map fun _ ht => ht.mapNode)) (h.issueProduct.map fun _ ht => ht.mapNode)

theorem Safe.abandonProd {id} (h : Safe s) : Safe (s.abandonProd id) := by
  unfold State.abandonProd
  split
  · exact h
  · exact (h.fold fun _ _ ht => .getD (fun _ hu => ht.abortLink hu) ht).settle

theorem Safe.issueProdNode {id} (h : Safe s) : Safe (s.issueProdNode id) := by
  unfold State.issueProdNode
  split
  · exact h
  · next n _ =>
    split
    · exact h.abandonProd
    · refine List.foldlRecOn (motive := fun r : State × Bool => Safe r.1) _ _ h fun r hr x _ => ?_
      split
      · exact hr
      · split
        · next t ht => exact hr.issueProdCmd t ht
        · exact hr
        · exact hr.abandonProd

theorem execProdNodeReissue_safe {node} (h : Safe s) : NextSafe (execProdNodeReissue node s) := by
  unfold execProdNodeReissue
  split
  · exact .next h
  · split
    · exact .next h.issueProdNode
    · exact .next h

theorem Safe.dispatchKernel {n} (h : Safe s) : Safe (s.dispatchKernel n) := by
  unfold State.dispatchKernel
  dsimp only
  split
  · exact h.settle
  · split
    · exact h.signal.settle
    · split
      · exact h.signal.settle
      · exact h.signal.settle
      · exact h.signal.settle
      · exact h.of_mem rfl

theorem Safe.dispatchSignal {n} (h : Safe s) : Safe (s.dispatchSignal n) := by
  unfold State.dispatchSignal
  split
  · next t ht => exact Safe.settle (h.walkerStore t ht)
  · exact Safe.settle (.ite h h)

theorem Safe.dispatchRange {n e} (h : Safe s) : Safe (s.dispatchRange n e) := by
  unfold State.dispatchRange
  split
  · exact h
  · exact h.mapCtx _ _

theorem Safe.dispatchNode {n e} (h : Safe s) : Safe (s.dispatchNode n e) := by
  unfold State.dispatchNode
  split
  · exact h.mapNode.dispatchCopy
  · exact h.mapNode.issueProdNode
  · exact h.mapNode.dispatchRange
  · exact h.mapNode.dispatchKernel
  · exact h.mapNode.dispatchSignal
  · exact h.mapNode.settle
  · exact h.mapNode

theorem Safe.takeEntry {e} (h : Safe s) : Safe (s.takeEntry e) := h.of_mem rfl

theorem execDispatchDecision_safe {leaf} (h : Safe s) : NextSafe (execDispatchDecision leaf s) := by
  unfold execDispatchDecision
  split
  · exact .next h
  · split
    · split
      · exact .next h
      · exact .next h.takeEntry.dispatchPacket
    · split
      · exact .next h
      · exact .next h.takeEntry.dispatchNode

theorem execStealRequest_safe {thief} (h : Safe s) : NextSafe (execStealRequest thief s) := by
  unfold execStealRequest
  dsimp only
  repeat' split
  all_goals exact .next (h.of_mem rfl)

theorem Safe.mapSteal {p f} (h : Safe s) : Safe (s.mapSteal p f) := by
  unfold State.mapSteal
  split
  · exact h
  · exact h.of_mem rfl

theorem execStealHalfArrival_safe {thief} (h : Safe s) : NextSafe (execStealHalfArrival thief s) := by
  unfold execStealHalfArrival
  split
  · exact .next h
  · dsimp only
    split
    · exact .next h.mapSteal
    · split
      · exact .next h.mapSteal
      · exact .next (h.mapSteal.mapCtx _ _)

theorem execStealAck_safe {victim} (h : Safe s) : NextSafe (execStealAck victim s) := by
  unfold execStealAck
  split <;> exact .next (h.of_mem rfl)

theorem execStealReturn_safe {victim} (h : Safe s) : NextSafe (execStealReturn victim s) := by
  unfold execStealReturn
  dsimp only
  repeat' split
  all_goals exact .next (h.of_mem rfl)

theorem Safe.returnHalves {k} (h : Safe s) : Safe (s.returnHalves k) := h.fold fun _ _ ht => .ite (ht.mapSteal.mapCtx _ _) ht

theorem Safe.readRecord {va} (h : Safe s) : Yields (fun p => Safe p.2) (s.readRecord va) := by
  unfold State.readRecord
  exact .skip fun _ => .skip fun _ => .ite (.ok h) (.skip fun _ => .ok h.loadWeak)

theorem execNodeNew_safe {a d} (h : Safe s) : NextSafe (execNodeNew a d s) := by
  refine .finish h (h.readRecord.bind fun r ht => ?_)
  dsimp only
  split
  · exact .ok ht.result
  · exact .ite (.ok ht.result) <| .ite (.ok ht.result) <| .ok (Safe.putNodes ht).result

theorem execNodeLink_safe {b a d} (h : Safe s) : NextSafe (execNodeLink b a d s) := by
  refine .finish h (.skip fun _ => .skip fun _ => ?_)
  split
  · exact .ok h.result
  · refine .ite (.ok h.result) ?_
    split
    · exact h.readMem.bind fun _ ht => .ok ht.result
    · exact .ite (.ok h.result) <| .skip fun _ => .skip fun _ => h.storeAt.bind fun _ ht => .ok ht.mapNode.mapNode.result

theorem execNodeArm_safe {a d} (h : Safe s) : NextSafe (execNodeArm a d s) := by
  refine .finish h (.skip fun _ => ?_)
  split
  · exact .ok h.result
  · exact .ite (.ok h.result) <| .ite (.ok h.makeReady.result) (.ok h.mapNode.result)

theorem execNodeDone_safe {a d} (h : Safe s) : NextSafe (execNodeDone a d s) := by
  refine .finish h (.skip fun _ => ?_)
  split
  · exact .ok h.result
  · refine .ite (.ok h.result) (.ite (.ok h.result) ?_)
    dsimp only
    split
    · exact .ok h.mapNode.tickOrder.result
    · next ht => exact .ok (h.releaseNode ht).finishNode.result

theorem execRngNext_safe {d} (h : Safe s) : NextSafe (execRngNext d s) := by
  unfold execRngNext
  dsimp only
  split
  · exact .next h.result
  · exact .next (h.mapCx _).result

theorem enqueueTask_safe {twin a d} (h : Safe s) : Yields Safe (enqueueTask s twin a d) := by
  unfold enqueueTask
  refine .guard fun _ => h.readRecord.bind fun r ht => ?_
  dsimp only
  split
  · exact .ok ht.result
  · refine .ite (.ok ht.result) (.ite (.ok ht.result) (.ite (.ite (.ok ht.result) .error) ?_))
    exact .skip fun _ => .ok (Safe.putNodes ht).addReady.result

theorem execTaskCancel_safe {a d} (h : Safe s) : NextSafe (execTaskCancel a d s) := by
  refine .finish h (.skip fun _ => ?_)
  split
  · exact .ok h.result
  · exact .ite (.ok h.mapNode.result) (.ok h.finishNode.result)

/-! ## Saves, restores and migrations (R372 to R383) -/

theorem Safe.streamIn {c} (h : Safe s) : Safe (s.streamIn c) := h.discard.fold fun _ _ ht => ht.store ..

theorem Safe.preSave {site r} (h : Safe s) : Safe (s.preSave site r) := by
  unfold State.preSave
  dsimp only
  repeat' split
  all_goals exact h.of_mem rfl

theorem Safe.preRestore {site r} (h : Safe s) : Safe (s.preRestore site r) := by
  unfold State.preRestore
  repeat' split
  all_goals exact h.of_mem rfl

theorem Safe.endMigrating {kid} (h : Safe s) : Safe (s.endMigrating kid) := by
  refine h.fold fun t x ht => ?_
  split
  · exact ht
  · exact .ite ht.endLink ht.endProduct

theorem Safe.holdCopies {site slot} (h : Safe s) : Safe (s.holdCopies site slot) := h.of_mem rfl

theorem Safe.pauseFeeds {k} (h : Safe s) : Safe (s.pauseFeeds k) := h.of_mem rfl

theorem Safe.setWaiters {w} (h : Safe s) : Safe { s with waiters := w } := h

theorem Safe.stopForSave {k} (h : Safe s) : Safe (s.stopForSave k) := by
  unfold State.stopForSave
  dsimp only
  refine Safe.mapCtx (Safe.setWaiters (Safe.returnHalves (Safe.pauseFeeds (Safe.holdCopies ?_)))) _ _
  repeat' split
  · exact h.endMigrating
  · exact h
  · exact h.endMigrating.dissolveAt
  · exact h.dissolveAt

theorem execSaveStop_safe {k} (h : Safe s) : NextSafe (execSaveStop k s) := by
  unfold execSaveStop
  repeat' split
  · exact .next h
  · exact .next h
  · exact .next h.stopForSave
  · exact .next h
  · exact .next h.dissolveAt
  · exact .next h

theorem Safe.rekey {k n} (h : Safe s) : Safe (s.rekey k n) := h.of_mem rfl

theorem Safe.setSlots {x} (h : Safe s) : Safe { s with slots := x } := h

theorem Safe.toImage {c} (h : Safe s) : Safe (s.toImage c) :=
  (Safe.setSlots ((h.landWhere _).writeBackCtx.mapCtx _ _)).rekey

theorem execSaveDrained_safe {k} (h : Safe s) : NextSafe (execSaveDrained k s) := by
  unfold execSaveDrained
  split
  · exact .next h
  · split
    · exact .next h.toImage
    · exact .next h

theorem Safe.testRetire {k} (h : Safe s) : Safe (s.testRetire k) := h.of_mem rfl

theorem execRestoreStart_safe {k} (h : Safe s) : NextSafe (execRestoreStart k s) := by
  unfold execRestoreStart
  dsimp only
  iterate 3
    split
    · exact .next h
  exact .next (Safe.testRetire (h.mapOwner.rekey.streamIn.mapCtx _ _))

theorem execSiteWindowRetry_safe {k idx} (h : Safe s) : NextSafe (execSiteWindowRetry k idx s) := by
  unfold execSiteWindowRetry
  split
  · exact .next h
  · split
    · exact .next (h.performDue _ _)
    · exact .next h

theorem Safe.abortCopies {k} (h : Safe s) : Safe (s.abortCopies k) := h.fold fun _ _ ht => ht.endCopy.copyNodeDone

theorem Safe.abortLinks {k} (h : Safe s) : Safe (s.abortLinks k) := by
  refine h.fold fun t x ht => ?_
  split
  · next hu => exact ht.abortLink hu
  · exact .ite ht ht.endProduct

theorem Safe.drain {c} (h : Safe s) : Safe (s.drain c) := h.fold fun _ _ ht => .ite ((ht.flush _ _).perform _ _) (ht.flush _ _)

theorem Safe.resetTables (h : Safe s) : Safe s.resetTables := h.of_mem rfl

theorem Safe.endContext {c} (h : Safe s) : Safe (s.endContext c) := by
  have ht : Safe ((((s.drain c).dissolveAt c.key 3).abortCopies c.key).abortLinks c.key) := h.drain.dissolveAt.abortCopies.abortLinks
  unfold State.endContext
  dsimp only
  generalize (((s.drain c).dissolveAt c.key 3).abortCopies c.key).abortLinks c.key = t at ht ⊢
  split
  · exact ht.retire
  · exact ht.of_mem rfl

theorem Safe.cancelFor {kid} (h : Safe s) : Safe (s.cancelFor kid) := h.of_mem rfl

theorem Safe.endKernel {kid} (h : Safe s) : Safe (s.endKernel kid) := by
  have ht : ∀ l : List Ctx, Safe (l.foldl State.endContext (s.cancelFor kid)) := fun _ => h.cancelFor.fold fun _ _ hu => hu.endContext
  exact (ht _).of_mem rfl

theorem Safe.writeKend {v} (h : Safe s) : Safe (s.writeKend v) := .ite h.endKernel h

theorem Safe.setMig {m} (h : Safe s) : Safe (s.setMig m) := h

theorem Safe.saveKernel {kid} (h : Safe s) : Safe (s.saveKernel kid) := h.of_mem rfl

theorem Safe.mapIf {p f} (h : Safe s) : Safe (s.mapIf p f) := h

theorem Safe.migStart {leaf r} (h : Safe s) : Safe (s.migStart leaf r) := by
  unfold State.migStart
  exact .ite h <| .ite h.setMig <| Safe.saveKernel <| Safe.mapIf <| .ite h.setMig h.setMig.endMigrating

theorem Safe.refuseMig {m r} (h : Safe s) : Safe (s.refuseMig m r) := h.of_mem rfl

theorem Safe.migCancel {leaf r} (h : Safe s) : Safe (s.migCancel leaf r) := .ite h.refuseMig h

theorem execMigrationCheck_safe {leaf answer} (h : Safe s) : NextSafe (execMigrationCheck leaf answer s) := by
  unfold execMigrationCheck
  dsimp only
  split
  · exact .next h
  · split
    · exact .next h.endMigrating.setMig
    · exact .next h.endMigrating.refuseMig

theorem Safe.nextKid (h : Safe s) : Safe s.nextKid := h

theorem Safe.moveKernel {m k} (h : Safe s) : Safe (s.moveKernel m k) := by
  have ht : ∀ (l : List Ctx) (f : State → Ctx → Key) (g : State → Ctx → Ctx → Ctx),
      Safe (l.foldl (fun s c => (s.mapOwner c.key (g s c)).rekey c.key (f s c)) s.nextKid) := fun _ _ _ =>
    h.nextKid.fold fun _ _ hu => hu.mapOwner.rekey
  exact (ht _ _ _).of_mem rfl

theorem Safe.dropKernel {kid} (h : Safe s) : Safe (s.dropKernel kid) := by
  have ht : ∀ l : List Ctx, Safe (l.foldl (fun s c => s.mapOwner c.key fun c => Ctx.blank ⟨c.key.h, c.key.slot % 8⟩) s).resetTables :=
    fun _ => (h.fold fun _ _ hu => hu.mapOwner : Safe (List.foldl _ s _)).resetTables
  exact (ht _).of_mem rfl

theorem execMigrationTransferDone_safe {leaf ok} (h : Safe s) : NextSafe (execMigrationTransferDone leaf ok s) := by
  unfold execMigrationTransferDone
  dsimp only
  split
  · exact .next h
  · split
    · exact .next h.refuseMig
    · split
      · exact .next h.setMig
      · exact .next (.ite h.setMig.moveKernel h.setMig.dropKernel)

theorem Safe.addContext {c} (h : Safe s) : Safe (s.addContext c) := h.of_mem rfl

theorem Safe.arrive1 {x kid k} (h : Safe s) : Safe (s.arrive1 x kid k) := by
  have ht : ∀ f : State → Ctx → Ctx, Safe (x.ctxs.foldl (fun s c => s.addContext (f s c)) s) := fun _ => h.fold fun _ _ hu => hu.addContext
  exact (ht _).of_mem rfl

theorem Safe.endPaused {kid} (h : Safe s) : Safe (s.endPaused kid) := by
  refine h.fold fun t x ht => ?_
  split
  · exact ht.endProduct
  · exact ht.endLink

theorem Safe.migArrival {x} (h : Safe s) : Safe (s.migArrival x) :=
  .ite h (.ite h.nextKid.arrive1.endPaused h.nextKid.arrive1)

theorem Safe.checkpoint {cells} (h : Safe s) : Safe (s.checkpoint cells) := h.fold fun _ _ ht => .ite (ht.store ..) ht

theorem Safe.holdKernel {kid} (h : Safe s) : Safe (s.holdKernel kid) := h.of_mem rfl

theorem Safe.setSol {x} (h : Safe s) : Safe { s with sol := x } := h

theorem Safe.replaceKernel {x} (h : Safe s) : Safe (s.replaceKernel x) := by
  unfold State.replaceKernel
  split
  · exact .ite h.migArrival (Safe.setSol h.migArrival.holdKernel)
  · split
    · exact h
    · exact .ite h h.dropKernel.arrive1.holdKernel

theorem Safe.setReg {a v} (h : Safe s) : Safe (s.setReg a v) := h

theorem Safe.resumeJob {acl} (h : Safe s) : Safe (s.resumeJob acl) := by
  have ht : Safe (acl.foldl (fun (s : State) e =>
      (s.setReg (aclEntry e.1) (toWord (fld e.2 63 0))).setReg (aclEntry e.1 + 8) (toWord (fld e.2 127 64))) s) :=
    h.fold fun _ _ hu => hu.setReg.setReg
  exact Safe.of_mem ht rfl

theorem Safe.recover {a} (h : Safe s) : Safe (s.recover a) := by
  unfold State.recover
  split
  · exact Safe.setSol (h.fold fun _ _ ht => ht.saveKernel)
  · exact Safe.setSol h.replaceKernel.checkpoint
  · exact Safe.setSol h.replaceKernel.checkpoint
  · exact h.resumeJob
  · exact h

/-! ## Debug sessions and external interrupts (R394, R406) -/

theorem Safe.debugReason {f why} (h : Safe s) : Safe (s.debugReason f why) := h.setReg

theorem Safe.debugOpen {f} (h : Safe s) : Safe (s.debugOpen f) := .ite h <| .ite h.debugReason <| .ite (h.of_mem rfl) (h.of_mem rfl)

theorem Safe.requestHalt {f c} (h : Safe s) : Safe (s.requestHalt f c) := by
  refine Safe.mapCtx (Safe.debugReason ?_) _ _
  split
  · exact .ite h <| .ite h.dissolveAt (h.of_mem rfl)
  · exact h

theorem Safe.debugHalt {f} (h : Safe s) : Safe (s.debugHalt f) := by
  refine .ite h <| .ite h.debugReason <| .ite h.debugReason ?_
  split
  · exact h.debugReason
  · split
    · exact .ite h.debugReason h.debugReason
    · exact h.requestHalt

theorem Safe.debugResume {f} (h : Safe s) : Safe (s.debugResume f) := by
  unfold State.debugResume
  split
  · exact h
  · exact h.debugReason.mapCtx _ _

theorem Safe.debugStep {f} (h : Safe s) : Safe (s.debugStep f) := by
  refine .ite h ?_
  split
  · exact h.debugReason
  · exact h.debugReason.mapCtx _ _

theorem Safe.debugSetX {f v} (h : Safe s) : Safe (s.debugSetX f v) := by
  unfold State.debugSetX
  split
  · exact h
  · exact h.mapCtx _ _

theorem Safe.debugSetPc {f v} (h : Safe s) : Safe (s.debugSetPc f v) := by
  unfold State.debugSetPc
  split
  · exact h
  · exact h.mapCtx _ _

theorem Safe.enterHalt (h : Safe s) : Safe s.enterHalt := Safe.mapCx (h.dissolve _).pauseFeeds _

theorem Safe.writeXirq {r v} (h : Safe s) : Safe (s.writeXirq r v) := by
  unfold State.writeXirq
  split
  · exact h
  · exact h.mapCtx _ _

/-! ## Peers, CXL and hosts (R81, R338, R396, R397) -/

theorem Safe.peerRefused {mod e n} (h : Safe s) : Safe (s.peerRefused mod e n) := .ite h.mapIf h.mapIf

theorem execPeerAccess_safe {srcMod srcLeaf a} (h : Safe s) : NextSafe (execPeerAccess srcMod srcLeaf a s) := by
  unfold execPeerAccess
  split
  · exact .next h
  · dsimp only
    split
    · exact .next h.peerRefused
    · split
      · exact .next h
      · exact .next (.ite h (h.store ..))

theorem Safe.peerRing {q index packet} (h : Safe s) : Safe (s.peerRing q index packet) := by
  refine .ite h ?_
  split
  · next t ht => exact h.unitWrite t ht
  · exact h

theorem Safe.peerRmw {srcMod srcLeaf pa op n data} (h : Safe s) : Safe (s.peerRmw srcMod srcLeaf pa op n data) := by
  unfold State.peerRmw
  dsimp only
  split
  · exact h.peerRefused
  · split
    · exact h
    · exact .ite h (h.store ..)

theorem Safe.peerLacc {srcMod srcLeaf pa kind op data} (h : Safe s) : Safe (s.peerLacc srcMod srcLeaf pa kind op data) := by
  unfold State.peerLacc
  dsimp only
  split
  · exact h.peerRefused
  · split
    · exact h
    · split
      · exact h
      · split
        · exact (h.together ..).store ..
        · exact (h.together ..).store ..
        · exact h

theorem Safe.storeThrough {pa n v} (h : Safe s) : Safe (s.storeThrough pa n v) := (h.store ..).fold fun _ _ ht => ht.store ..

theorem Safe.outsideStore {pa n v} (h : Safe s) : Safe (s.outsideStore pa n v) := .ite h.storeThrough h

theorem execPeerDoorbellWrite_safe {srcMod srcLeaf q w} (h : Safe s) : NextSafe (execPeerDoorbellWrite srcMod srcLeaf q w s) := by
  unfold execPeerDoorbellWrite
  cases w with
  | ring i p =>
    dsimp only
    split
    · exact .next h.peerRefused
    · exact .next h.peerRing
  | bell n =>
    dsimp only
    split
    · exact .next h.peerRefused
    · exact .next h.doorbell

/-! ## Power, boot, attestation and failures (R202, R384, R385, R395, R401 to R405) -/

theorem execSiteWake_safe {i} (h : Safe s) : NextSafe (execSiteWake i s) := .next (.ite h h)

theorem Safe.setPower {i p} (h : Safe s) : Safe (s.setPower i p) := h

theorem Safe.dropCore {i} (h : Safe s) : Safe (s.dropCore i) := h

theorem execSiteGate_safe {i target} (h : Safe s) : NextSafe (execSiteGate i target s) := by
  unfold execSiteGate
  dsimp only
  split
  · exact .next h
  · split
    · exact .next h.setPower
    · exact .next h.setPower
    · exact .next h.setPower.dropCore
    · exact .next h.setPower.dropCore.discard

theorem execBoot_safe {verified} (h : Safe s) : NextSafe (execBoot verified s) := by
  unfold execBoot
  dsimp only
  repeat' split
  all_goals exact .next (h.of_mem rfl)

theorem execAttestationRequest_safe {r nonce} (h : Safe s) : NextSafe (execAttestationRequest r nonce s) := by
  unfold execAttestationRequest
  split
  · exact .next h
  · exact .next h

theorem execPowerLoss_safe (h : Safe s) : NextSafe (execPowerLoss s) := .next (memSorted_filter _ _ _ h)

theorem execRmaWipe_safe (h : Safe s) : NextSafe (execRmaWipe s) := by
  have hd : Safe (s.discard fun a => !outsidePackage a) := h.discard
  unfold execRmaWipe
  split
  · exact .next h
  · exact .next (hd.of_mem rfl)

theorem execCxlDeviceRemoval_safe {port} (h : Safe s) : NextSafe (execCxlDeviceRemoval port s) := by
  unfold execCxlDeviceRemoval
  split
  · exact .next h
  · exact .next h

theorem execHeartbeatMiss_safe {module} (h : Safe s) : NextSafe (execHeartbeatMiss module s) := by
  unfold execHeartbeatMiss
  split
  · exact .next h
  · exact .next (Safe.setSol (h.fold fun _ _ ht => .ite ht.setReg ht))

theorem Safe.loseRegisters {mask} (h : Safe s) : Safe (s.loseRegisters mask) := h.mapCx _

theorem execSiteFault_safe {k member f} (h : Safe s) : NextSafe (execSiteFault k member f s) := by
  have hu : ∀ mask, Safe ((((if f.siteLost then s.retireUnit (.site (k.h + member)) else s).switchTo k).loseRegisters mask).dissolve 2) :=
    fun _ => ((Safe.ite (h.retireUnit _) h).switchTo.loseRegisters).dissolve 2
  unfold execSiteFault
  split
  · exact .next h
  · split
    · exact .next h
    · exact .next (.ite ((hu _).raise _) ((hu _).mapCx _))

/-! ## What a core takes at an instruction boundary (R360, R390) -/

theorem Safe.boundary {t} (h : Safe s) (ht : s.boundary = some t) : Safe t := by
  unfold State.boundary at ht
  repeat' split at ht
  · cases ht; exact h.takeDue _
  · cases ht; exact h.stopForSave
  · cases ht; exact h.enterHalt
  · cases ht; exact h.dissolveAt
  · obtain ⟨d, -, rfl⟩ := Option.map_eq_some_iff.mp ht
    exact h.takeDue d

theorem Safe.failedRetirement {t} (h : Safe s) (ht : s.failedRetirement = some t) : Safe t := by
  unfold State.failedRetirement at ht
  split at ht
  · obtain ⟨a, -, rfl⟩ := Option.map_eq_some_iff.mp ht
    exact Safe.takeAsync (Safe.setCx h)
  · cases ht

theorem execTrapEntry_safe (h : Safe s) : NextSafe (execTrapEntry s) := by
  refine .next (.ite (.getD (fun u hu => ?_) h) h)
  obtain ⟨d, -, rfl⟩ := Option.map_eq_some_iff.mp hu
  exact h.takeDue d

/-! ## The fabric switch (R398 to R400, R408) -/

theorem Safe.setSwBlock {b} (h : Safe s) : Safe (s.setSwBlock b) := h

theorem Safe.setSwitchSlot {x} (h : Safe s) : Safe (s.setSwitchSlot x) := h

theorem Safe.ctl {i leaf} (h : Safe s) : Safe (s.ctl i leaf) := h.of_mem rfl

theorem Safe.swAllocate {leaf r} (h : Safe s) : Safe (s.swAllocate leaf r) := .ite h h.setSwBlock

theorem execSwitchAllocationAnswer_safe {leaf} (h : Safe s) : NextSafe (execSwitchAllocationAnswer leaf s) := by
  unfold execSwitchAllocationAnswer
  split
  · exact .next h
  · dsimp only
    split
    · exact .next h
    · split
      · exact .next h.ctl.setSwBlock
      · split
        · exact .next h.ctl.setSwBlock
        · exact .next h.ctl.setSwitchSlot.setSwBlock

theorem Safe.peerAllocate {a} (h : Safe s) : Safe (s.peerAllocate a) := by
  unfold State.peerAllocate
  split
  · exact .ite h.setSwitchSlot h
  · exact h

theorem Safe.switchDeliver {leaf rel img} (h : Safe s) : Safe (s.switchDeliver leaf rel img) := by
  unfold State.switchDeliver
  split
  · exact h
  · split
    · exact h.matchPost
    · exact .ite (h.mapCtx _ _) (h.mapCtx _ _)

theorem Safe.closeSlot {x timeout} (h : Safe s) : Safe (s.closeSlot x timeout) := Safe.setSwitchSlot (h.fold fun _ _ ht => ht.switchDeliver)

theorem Safe.contribute {c t} (h : Safe s) (ht : s.contribute c = .held t) : Safe t := by
  unfold State.contribute at ht
  repeat' split at ht
  all_goals cases ht
  · exact h.setSwitchSlot
  · exact h.closeSlot

theorem execSwitchContribution_safe {c} (h : Safe s) : NextSafe (execSwitchContribution c s) := by
  unfold execSwitchContribution
  split
  · exact .next h
  · exact .next h
  · next ht => exact .next (h.contribute ht)

theorem execSwitchSlotTimeout_safe {slot} (h : Safe s) : NextSafe (execSwitchSlotTimeout slot s) := by
  unfold execSwitchSlotTimeout
  split
  · exact .next h
  · split
    · exact .next h
    · exact .next h.closeSlot

/-! ## Platform MMIO (R66, R89, R310, R354, R372, R379, R396, R406, R408) -/

theorem Safe.setMasked {a mask v} (h : Safe s) : Safe (s.setMasked a mask v) := h.setReg

theorem Safe.writeQueueReg {r host q o v} (h : Safe s) : Safe (s.writeQueueReg r host q o v) := by
  unfold State.writeQueueReg
  split
  · exact h.setReg
  · exact h.setReg
  · exact h.queueCommand
  · exact Safe.doorbell (.ite h.feed h)
  · exact h.cancelPacket
  · exact h

theorem Safe.writeDebugReg {f o v} (h : Safe s) : Safe (s.writeDebugReg f o v) := by
  unfold State.writeDebugReg
  split
  · exact h.debugOpen
  · exact h.endSession
  · exact h.debugHalt
  · exact h.debugResume
  · exact h.debugStep
  · exact h.debugSetPc
  · exact h.debugSetX
  · exact h.setMasked

theorem Safe.mmioWrite {r host reg v} (h : Safe s) : Safe (s.mmioWrite r host reg v) := by
  cases reg with
  | part b o => exact .ite h <| .ite h.pcmd h.setMasked
  | qos j o => exact .ite (.ite h.qosCommand h) (.ite h.setMasked h)
  | trap j o => exact .ite h.setMasked h
  | counter j i => exact .ite h.setReg h
  | mig j o => exact .ite h <| .ite (.ite h.migStart (.ite h.migCancel h)) h.setMasked
  | acl i high => exact .ite (.ite h.setReg h.setReg) h
  | switch j o => exact .ite h <| .ite (.ite h.swAllocate h) h.setMasked
  | debug f o => exact .ite h.writeDebugReg h
  | preempt i o => exact .ite h <| .ite (.ite h.preSave (.ite h.preRestore h)) (.ite h.setMasked h)
  | queue q o => exact .ite h.writeQueueReg h
  | message f i high => exact .ite h.setReg h
  | xirq f => exact .ite h.writeXirq h
  | inspection f o => exact .ite h.setReg h
  | none => exact h

theorem Safe.mmioStoreDouble {r a cells d} (h : Safe s) : Safe (s.mmioStoreDouble r a cells d) := .ite h h.mmioWrite

theorem Safe.mmioStore {r a cells} (h : Safe s) : Safe (s.mmioStore r a cells) := by
  unfold State.mmioStore
  dsimp only
  split
  · exact .ite h.mmioWrite h
  · exact h.fold fun _ _ ht => ht.mmioStoreDouble

/-! ## Scalar accesses and atomics (R140 to R148, R219 to R225) -/

theorem Safe.loadAt {o t va n w} (h : Safe s) : Safe (s.loadAt o t va n w).2 := by
  unfold State.loadAt
  split
  · exact .ite h.acquire h
  · exact h.loadOrd

theorem Safe.put {o bank t va len data cells unit} (h : Safe s) : Yields Safe (s.put o bank t va len data cells unit) :=
  .ite (.ok h.mmioStore) h.storeAt

theorem loadInto_safe {o va n signed d} (h : Safe s) : Yields Safe (loadInto s o va n signed d) := by
  refine .skip fun _ => .skip fun _ => .skip fun _ => ?_
  exact .ok h.loadAt.result

theorem storeFrom_safe {o va n v} (h : Safe s) : Yields Safe (storeFrom s o va n v) :=
  .skip fun _ => .skip fun _ => .skip fun _ => h.put.bind fun _ hu => .ok hu.advance

theorem scalarLoad_safe {imm a d n signed} (h : Safe s) : Yields Safe (scalarLoad s imm a d n signed) := .skip fun _ => loadInto_safe h

theorem scalarStore_safe {b a imm n} (h : Safe s) : Yields Safe (scalarStore s b a imm n) := .skip fun _ => storeFrom_safe h

theorem strongLoad_safe {w sc acq b a f d} (h : Safe s) : Yields Safe (strongLoad s w sc acq b a f d) := .skip fun _ => loadInto_safe h

theorem strongStore_safe {w sc rel b a f} (h : Safe s) : Yields Safe (strongStore s w sc rel b a f) := .skip fun _ => storeFrom_safe h

theorem Safe.trip {src dst} (h : Safe s) : Safe (s.trip src dst) := h.of_mem rfl

theorem Safe.goTo {t va} (h : Safe s) : Safe (s.goTo t va) := .ite h h.trip

theorem Safe.dropCopy {pa n} (h : Safe s) : Safe (s.dropCopy pa n) := h

theorem Safe.afterRmw {t n} (h : Safe s) : Safe (s.afterRmw t n) := Safe.mapCx (.ite (h.dropCopy.countSlice _) h) _

theorem Safe.heed {t n} (h : Safe s) : Safe (s.heed t n) := h.mapCx _

/-- An acquire that only some orders make, at the end of an access at its place. -/
theorem Safe.heedIf {o : Order} {t n} (h : Safe s) : Safe (if o.acq then (s.heed t n).acquire o.scope else s) := .ite h.heed.acquire h

theorem Safe.rmw {o t va n f} (h : Safe s) : Safe (s.rmw o t va n f).2 := (h.mark.goTo.store _ _ _).afterRmw.heedIf

theorem amo_safe {aq rl z b a d op} (h : Safe s) : Yields Safe (amo s aq rl z b a d op) := by
  refine .skip fun _ => .skip fun _ => .skip fun _ => ?_
  dsimp only
  exact .ok h.rmw.result

theorem Safe.mapAll {f} (h : Safe s) : Safe (s.mapAll f) := h

theorem Safe.resvRoom {home t} (h : Safe s) (ht : s.resvRoom home = some t) : Safe t := by
  unfold State.resvRoom at ht
  dsimp only at ht
  repeat' split at ht
  all_goals cases ht
  · exact h
  · exact h.mapAll

theorem Safe.reserve {t va n} (h : Safe s) : Safe (s.reserve t va n) := h.of_mem rfl

theorem execLr_safe {aq rl a z d} (h : Safe s) : NextSafe (execLr aq rl a z d s) := by
  refine .finish h (.skip fun _ => .skip fun _ => .skip fun _ => .skip fun _ => .skip fun _ => ?_)
  split
  · exact .error
  · next r hr =>
    refine .skip fun _ => ?_
    exact .ok (Safe.loadStrong ((h.resvRoom hr).mapCx _)).heedIf.reserve.result

theorem Safe.unreserve (h : Safe s) : Safe s.unreserve := h

theorem execSc_safe {aq rl b a z d} (h : Safe s) : NextSafe (execSc aq rl b a z d s) :=
  .finish h <| .skip fun _ => .skip fun _ => .skip fun _ => .ok <| Safe.result <| Safe.unreserve <| Safe.heedIf <| Safe.afterRmw <|
    .ite (h.mark.goTo.store _ _ _) h.mark.goTo

theorem execReservationAging_safe {home} (h : Safe s) : NextSafe (execReservationAging home s) := by
  unfold execReservationAging
  dsimp only
  split
  · exact .next h
  · exact .next h.mapAll

theorem fence_safe {p c} (h : Safe s) : Yields Safe (fence s p c) :=
  .ite (.ok h.advance) <| .skip fun _ => .ok (Safe.advance (.ite (h.invalidateAll.mapCx _) h))

theorem Safe.discardFetched {hs} (h : Safe s) : Safe (s.discardFetched hs) := h

theorem execFenceI_safe (h : Safe s) : NextSafe (execFenceI s) := .finish h ((fence_safe h).map fun _ hu => hu.discardFetched)

theorem execRed_safe {w b a z c} (h : Safe s) : NextSafe (execRed w b a z c s) :=
  .finish h <| .skip fun _ => .skip fun _ => .skip fun _ => .skip fun _ => h.postRmw.bind fun _ hu => .ok hu.advance

theorem execAmof_safe {w sc b a f d} (h : Safe s) : NextSafe (execAmof w sc b a f d s) := by
  refine .finish h (.skip fun _ => .skip fun _ => .skip fun _ => .skip fun _ => ?_)
  dsimp only
  exact .ok h.rmw.result

theorem execLaccAdd_safe {w b a p} (h : Safe s) : NextSafe (execLaccAdd w b a p s) :=
  .finish h <| .skip fun _ => .skip fun _ => .ite (.ok h.addFlags.advance) <|
    .skip fun _ => .skip fun _ => h.postRmw.bind fun _ hu => .ok hu.advance

theorem execLaccClr_safe {w a} (h : Safe s) : NextSafe (execLaccClr w a s) :=
  .finish h <| .skip fun _ => .skip fun _ => .skip fun _ => h.postRmw.bind fun _ hu => .ok hu.advance

theorem Safe.laccRead {t va} (h : Safe s) : Safe (s.laccRead t va).2 := by
  unfold State.laccRead
  split
  · exact (h.together ..).loadStrong
  · exact h.loadStrong

theorem execLaccRnd_safe {w a f d} (h : Safe s) : NextSafe (execLaccRnd w a f d s) := by
  refine .finish h (.skip fun _ => .skip fun _ => .skip fun _ => .skip fun _ => ?_)
  refine .skip fun _ => .skip fun _ => .skip fun _ => .skip fun _ => ?_
  exact .ok (h.laccRead.countFor _ _ _).addFlags.result

theorem execPin_safe {w a d} (h : Safe s) : NextSafe (execPin w a d s) :=
  .finish h <| .skip fun _ => .ite (.ok h.result) <| .skip fun _ => .ite (.ok h.result) <| .ite (.ok h.result) <| .ite (.ok h.result) <|
    .ok ((h.mapCx _).sliceHold ..).result

theorem execUnpin_safe {w a d} (h : Safe s) : NextSafe (execUnpin w a d s) := .finish h <| .skip fun _ => .ok (Safe.setCx h).result

theorem execCwait_safe {w b} (h : Safe s) : NextSafe (execCwait w b s) := .finish h <| .skip fun _ => .ok h.advance

/-! ## Barriers, semaphores and watches (R333 to R336) -/

theorem Safe.mapKernel {kid f} (h : Safe s) : Safe (s.mapKernel kid f) := h

theorem Safe.arriveAt {g x} (h : Safe s) : Safe (s.arriveAt g x) := .ite h (h.mapKernel.mapCx _)

theorem barrier_safe {twin a d} (h : Safe s) : Yields Safe (barrier s twin a d) := by
  refine .skip fun _ => ?_
  dsimp only
  split
  · exact .error
  · refine .skip fun _ => ?_
    split
    · exact .ok h.arriveAt
    · exact .ite (.ok (.ite h.arriveAt.result h.arriveAt))
        (.ok (.ite (Safe.acquire (h.arriveAt.mapCx _)).result (Safe.acquire (h.arriveAt.mapCx _)).advance))

theorem Safe.semDone {t} (h : Safe s) : Safe (s.semDone t) := (Safe.setWaiters (h.store _ _ _)).afterRmw.acquire

theorem Safe.semQueue {t} (h : Safe s) : Safe (s.semQueue t) := .ite h <| .ite h (h.mapCx _)

theorem semaphore_safe {twin a d} (h : Safe s) : Yields Safe (semaphore s twin a d) := by
  refine .skip fun _ => .skip fun t => .skip fun _ => .skip fun _ => .skip fun _ => ?_
  have hu : Safe (if s.semWaits then s else s.goTo t (s.getX a)) := .ite h h.goTo
  exact .ite (.ok (.ite hu.semDone.result hu.semDone.advance)) (.ok (.ite hu.result hu.semQueue))

theorem execSemV_safe {a} (h : Safe s) : NextSafe (execSemV a s) :=
  .finish h <| .skip fun _ => .guard fun _ => .skip fun _ => h.postRmw.bind fun _ hu => .ok hu.advance

theorem Safe.overflowWatch {home} (h : Safe s) : Safe (s.overflowWatch home) := .ite h h.mapAll

theorem Safe.arm {t va} (h : Safe s) : Safe (s.arm t va) := (Safe.mapCx (h.mapCx _).overflowWatch _).tickOrder

theorem execMonArm_safe {a d} (h : Safe s) : NextSafe (execMonArm a d s) := by
  refine .finish h (.skip fun _ => .skip fun _ => .skip fun _ => .skip fun _ => .skip fun _ => .skip fun _ => ?_)
  dsimp only
  exact .ok (h.arm.mapCx _).loadOrd.result

theorem Safe.disarm (h : Safe s) : Safe s.disarm := (h.mapCx _).acquire

theorem execMonWait_safe {d} (h : Safe s) : NextSafe (execMonWait d s) := by
  refine .finish h (.skip fun _ => ?_)
  split
  · exact .ok h.result
  · split
    · exact .ok h.disarm.result
    · exact .error

theorem execMonWaitT_safe {d} (h : Safe s) : NextSafe (execMonWaitT d s) := by
  unfold execMonWaitT
  split
  · exact .next h.result
  · split
    · exact .next h.disarm.result
    · exact .next h.result

/-! ## Vector and tile accesses (R213, R216 to R218) -/

theorem Safe.loadPieces {va w l} (h : Safe s) : Safe (s.loadPieces va w l).2 := by
  induction l generalizing s with
  | nil => exact h
  | cons p r ih => exact ih h.loadAt

theorem Safe.settleEntry {e} (h : Safe s) : Safe (s.settleEntry e) := h.clearPath _ _

theorem Safe.makeRoom {bank} (h : Safe s) : Safe (s.makeRoom bank) := h.fold fun _ _ ht => .ite ht ht.settleEntry

theorem Safe.sendLine {bank w x} (h : Safe s) : Yields Safe (s.sendLine bank w x) := h.put

theorem Safe.sendLines {bank w l} (h : Safe s) : Yields Safe (s.sendLines bank w l) := by
  cases l with
  | nil => exact .ok h
  | cons x r => exact h.sendLine.bind fun _ hu => .foldlM hu fun _ _ ht => Safe.sendLine (.ite ht ht.makeRoom)

theorem Safe.storePieces {w l} (h : Safe s) : Yields Safe (s.storePieces w l) := .skip fun _ => .skip fun _ => h.sendLines

theorem vectorLoad_safe {w t n addr d} (h : Safe s) : Yields Safe (vectorLoad s w t n addr d) := by
  refine .skip fun _ => .ite ?_ ?_
  · exact .skip fun _ => .skip fun _ => .skip fun _ => .ok h.loadPieces.setV.advance
  · exact .skip fun _ => .skip fun _ => .skip fun _ => .ok h.loadPieces.setV.advance

theorem vectorStore_safe {r n addr} (h : Safe s) : Yields Safe (vectorStore s r n addr) :=
  .ite (.skip fun _ => h.storePieces.bind fun _ hu => .ok hu.advance) (.skip fun _ => h.storePieces.bind fun _ hu => .ok hu.advance)

theorem execVldx_safe {w t b a d} (h : Safe s) : NextSafe (execVldx w t b a d s) :=
  .finish h <| .skip fun _ => .skip fun _ => vectorLoad_safe h

theorem execVst_safe {w imm a d} (h : Safe s) : NextSafe (execVst w imm a d s) :=
  .finish h <| .skip fun _ => .skip fun _ => vectorStore_safe h

theorem execVsts_safe {w b a d} (h : Safe s) : NextSafe (execVsts w b a d s) :=
  .finish h <| .skip fun _ => .skip fun _ => vectorStore_safe h

theorem execVstx_safe {w b a d} (h : Safe s) : NextSafe (execVstx w b a d s) :=
  .finish h <| .skip fun _ => .skip fun _ => .skip fun _ => vectorStore_safe h

theorem Safe.readTileDesc {a} (h : Safe s) : Yields (fun p => Safe p.2) (s.readTileDesc a) := by
  refine .skip fun _ => .skip fun _ => .skip fun _ => ?_
  dsimp only
  split
  · exact .error
  · exact .ok h.loadAt

theorem Safe.loadRows {va l} (h : Safe s) : Safe (s.loadRows va l).2 := by
  induction l generalizing s with
  | nil => exact h
  | cons p r ih => exact ih h.loadPieces

theorem execTld_safe {w a d} (h : Safe s) : NextSafe (execTld w a d s) := by
  refine .finish h (.skip fun _ => h.readTileDesc.bind fun p hp => ?_)
  exact .skip fun _ => .skip fun _ => .skip fun _ => .skip fun _ => .skip fun _ => .ok hp.loadRows.loadPieces.loadPieces.setM.advance

theorem execTst_safe {w a d} (h : Safe s) : NextSafe (execTst w a d s) := by
  refine .finish h (.skip fun _ => h.readTileDesc.bind fun p hp => ?_)
  refine .skip fun _ => .skip fun _ => .skip fun _ => .ite ?_ ?_
  · exact .skip fun _ => hp.storePieces.bind fun _ hu => .ok hu.advance
  · exact .skip fun _ => hp.storePieces.bind fun _ hu => .ok hu.advance

/-! ## Commands and copies as they are issued (R78, R83 to R85, R237 to R239, R298) -/

theorem Safe.readBlock {va} (h : Safe s) : Yields (fun p => Safe p.2) (s.readBlock va) := by
  refine .skip fun _ => .skip fun _ => .skip fun _ => ?_
  exact .ok h.loadAt

theorem Safe.turnedAway {twin q why d} (h : Safe s) : Safe (s.turnedAway twin q why d) := .ite h.result (h.raise _)

theorem Safe.submit {twin q pkt d} (h : Safe s) : Safe (s.submit twin q pkt d) := by
  unfold State.submit
  dsimp only
  split
  · exact h.unitRas.queueError.turnedAway
  · next ht => exact (h.unitWrite _ ht).setQueue.result

theorem queueSubmit_safe {twin b a d} (h : Safe s) : Yields Safe (queueSubmit s twin b a d) := by
  refine .skip fun _ => h.readBlock.bind fun p hp => .skip fun _ => ?_
  exact .ite (.ok hp.turnedAway) <| .ite (.ite (.ok hp.turnedAway) .error) (.ok hp.submit)

theorem execTrig_safe (h : Safe s) : NextSafe (execTrig s) := .next (h.mapCx _).tickOrder.advance

theorem Safe.issueCopy {kind acq rel scope b d} (h : Safe s) : Safe (s.issueCopy kind acq rel scope b d) :=
  .ite h.result h.enqueueCopy.result

theorem copyFrom_safe {kind aq rl a sc d} (h : Safe s) : Yields Safe (copyFrom s kind aq rl a sc d) :=
  h.readBlock.bind fun _ hp => .ok hp.issueCopy

theorem execXcopy1d_safe {aq rl b a sc d} (h : Safe s) : NextSafe (execXcopy1d aq rl b a sc d s) := .next (.ite h.result h.issueCopy)

theorem copyWait_safe {twin a d} (h : Safe s) : Yields Safe (copyWait s twin a d) := by
  refine .skip fun _ => ?_
  split
  · exact .ok h.result
  · exact .ite (.ok h.acquire.result) (.ite (.ok h.result) .error)

theorem execXcopyAbort_safe {a d} (h : Safe s) : NextSafe (execXcopyAbort a d s) := by
  unfold execXcopyAbort
  split
  · exact .next h.result
  · next ht => exact .next (h.abortCopy ht).result

theorem execMsgSpill_safe {b a d} (h : Safe s) : NextSafe (execMsgSpill b a d s) :=
  .finish h <| .skip fun _ => .skip fun _ => h.storePieces.bind fun _ hu => .ok (hu.mapCx _).acquire.result

/-! ## Copies as they run (R230 to R234) -/

theorem Safe.pieceStore {r p v} (h : Safe s) : Safe (s.pieceStore r p v) := .ite h.mmioStore (h.store ..)

theorem Safe.request {k i leaf} (h : Safe s) : Safe (s.request k i leaf) := h.of_mem rfl

theorem Safe.engineAccess {c p} (h : Safe s) : Safe (s.engineAccess c p) := .ite h <| .ite (h.request.countSlice _) h.request

theorem Safe.engineAccesses {c ps} (h : Safe s) : Safe (List.foldl (fun s p => s.engineAccess c p) s ps) :=
  h.fold fun _ _ ht => ht.engineAccess

theorem Safe.writeElem {r t i ps v} (h : Safe s) : Safe (s.writeElem r t i ps v) := by
  unfold State.writeElem
  dsimp only
  split
  · exact h.fold fun _ _ ht => ht.pieceStore
  · exact h.fold fun _ _ ht => ht.pieceStore

theorem Safe.landPieces {c ps} (h : Safe s) : Safe (s.landPieces c ps) := h.fold fun _ _ ht => ht.landAt

theorem Safe.copyReadAt {c x pos} (h : Safe s) : Yields (fun p => Safe p.1) (s.copyReadAt c x pos) :=
  .skip fun _ => .skip fun _ => .ite .error (.ok h.landPieces.engineAccesses)

theorem Safe.copyWriteAt {c x pos v} (h : Safe s) : Yields Safe (s.copyWriteAt c x pos v) :=
  .skip fun _ => .ok h.landPieces.writeElem.engineAccesses

theorem Safe.addPost {kind agent src site pa n v add} (h : Safe s) : Safe (s.addPost kind agent src site pa n v add) := h

theorem Safe.copySendAt {c x pos v} (h : Safe s) : Yields Safe (s.copySendAt c x pos v) := by
  refine .skip fun ps => ?_
  split
  · exact .ite h.copyWriteAt (.ok h.engineAccess.addPost)
  · exact h.copyWriteAt

section run

variable {c : Ctx} {e : CopyEnd}

theorem CopyEnd.read_safe (h : Safe e.st) : Safe (e.read c).st := by
  unfold CopyEnd.read
  dsimp only
  split
  · exact h
  · split
    · exact h
    · next ht => exact h.copyReadAt _ ht

theorem CopyEnd.writeBy_safe {f : State → Ctx → Copy → Nat → Nat → Except CopyBar State}
    (hf : ∀ {s c x pos v}, Safe s → Yields Safe (f s c x pos v)) (h : Safe e.st) : Safe (e.writeBy f c).st := by
  unfold CopyEnd.writeBy
  split
  · exact h
  · split
    · exact h
    · split
      · exact h
      · next ht => exact (hf h _ ht).countFor _ _ _

theorem CopyEnd.write_safe (h : Safe e.st) : Safe (e.write c).st := CopyEnd.writeBy_safe Safe.copyWriteAt h

theorem CopyEnd.send_safe (h : Safe e.st) : Safe (e.send c).st := CopyEnd.writeBy_safe Safe.copySendAt h

theorem CopyEnd.times_safe {f : CopyEnd → CopyEnd} (hf : ∀ {e : CopyEnd}, Safe e.st → Safe (f e).st) {n : Nat} (h : Safe e.st) :
    Safe (CopyEnd.times f n e).st := by
  induction n generalizing e with
  | zero => exact h
  | succ n ih => exact ih (hf h)

theorem CopyEnd.step_safe (h : Safe e.st) : Safe (e.step c).st := by
  refine CopyEnd.write_safe ?_
  split
  · exact CopyEnd.read_safe h
  · exact h

theorem CopyEnd.toEnd_safe (h : Safe e.st) : Safe (e.toEnd c).st := CopyEnd.times_safe CopyEnd.step_safe h

theorem Safe.copySig {x} (h : Safe s) : Yields Safe (s.copySig c x) := by
  refine .ite (.ok h) <| .skip fun _ => .ite .error ?_
  exact .ok (h.store ..).engineAccess

theorem CopyEnd.accepted_safe {f : CopyEnd → CopyEnd} (hf : ∀ {e : CopyEnd}, Safe e.st → Safe (f e).st) (h : Safe e.st) :
    Safe (e.accepted f).st := by
  have hw : ∀ w, Safe (f { e with st := { e.st with ways := w } }).st := fun _ => hf (Safe.setWays h)
  exact Safe.setWays (hw _)

theorem CopyEnd.keep_safe (h : Safe e.st) : Safe e.keep := h.mapCopy

theorem CopyEnd.finish_safe (h : Safe e.st) : Safe (e.finish c).st := by
  have hr : Safe (if e.cp.held then CopyEnd.times (CopyEnd.write c) e.cp.ahead.length e else e.toEnd c).st := by
    split
    · exact CopyEnd.times_safe CopyEnd.write_safe h
    · exact CopyEnd.toEnd_safe h
  unfold CopyEnd.finish
  generalize (if e.cp.held then CopyEnd.times (CopyEnd.write c) e.cp.ahead.length e else e.toEnd c) = r at hr ⊢
  dsimp only
  split
  · exact hr
  · split
    · exact hr
    · split
      · exact hr
      · next ht => exact hr.copySig _ ht

end run

theorem Safe.activeCopy {k handle held c e} (h : Safe s) (ht : s.activeCopy k handle held = some (c, e)) : Safe e.st := by
  unfold State.activeCopy at ht
  split at ht
  · split at ht
    · obtain ⟨u, hu, ht⟩ := Option.bind_eq_some_iff.mp ht
      have hu := h.heeded hu
      split at ht
      · obtain ⟨v, hv, ht⟩ := Option.map_eq_some_iff.mp ht
        cases ht
        exact hu.engineOrder hv
      · cases ht
        exact hu
    · cases ht
  · cases ht

theorem Safe.copyWork {k handle held f} (hf : ∀ {c} {e : CopyEnd}, Safe e.st → Safe (f c e).st) (h : Safe s) :
    Safe (s.copyWork k handle held f) := by
  unfold State.copyWork
  split
  · exact h
  · next he => exact CopyEnd.keep_safe (CopyEnd.accepted_safe hf (h.activeCopy he))

theorem Safe.copyReads {k handle n} (h : Safe s) : Safe (s.copyReads k handle n) :=
  .copyWork (fun he => CopyEnd.times_safe CopyEnd.read_safe he) h

theorem Safe.copyWrites {k handle n} (h : Safe s) : Safe (s.copyWrites k handle n) :=
  .copyWork (fun he => CopyEnd.times_safe CopyEnd.write_safe he) h

theorem Safe.copySends {k handle n} (h : Safe s) : Safe (s.copySends k handle n) :=
  .copyWork (fun he => CopyEnd.times_safe CopyEnd.send_safe he) h

theorem execCopyComplete_safe {k handle} (h : Safe s) : NextSafe (execCopyComplete k handle s) := by
  unfold execCopyComplete
  split
  · exact .next h
  · next c e he =>
    have hr : Safe (e.accepted (CopyEnd.finish c)).st := CopyEnd.accepted_safe CopyEnd.finish_safe (h.activeCopy he)
    generalize e.accepted (CopyEnd.finish c) = r at hr ⊢
    dsimp only
    split
    · exact .next h
    · exact .next hr.endCopy.copyNodeDone

theorem execCopyFault_safe {k handle} (h : Safe s) : NextSafe (execCopyFault k handle s) := by
  unfold execCopyFault
  split
  · exact .next h
  · next c e he =>
    have hr : Safe (e.accepted (CopyEnd.finish c)).st := CopyEnd.accepted_safe CopyEnd.finish_safe (h.activeCopy he)
    generalize e.accepted (CopyEnd.finish c) = r at hr ⊢
    have hk : ∀ y, Safe ({ r with cp := y } : CopyEnd).keep := fun _ => CopyEnd.keep_safe hr
    dsimp only
    split
    · split
      · exact .next ((hk _).mapCtx _ _)
      · exact .next (((hk _).mapCtx _ _).mapCtx _ _)
    · exact .next h

/-! ## CSRs (R102, R125, R126, R133, R134, R150 to R152, R355) -/

theorem Safe.writeWsp {word l w} (h : Safe s) : Yields Safe (s.writeWsp word l w) := .ite .error <| .ite .error (.ok (h.mapCx _))

theorem Safe.writeL2way {v} (h : Safe s) : Safe (s.writeL2way v) := .ite h (.ite (Safe.mapAll h.setWays) h.setWays)

theorem Safe.setCqueue {q} (h : Safe s) : Safe (s.setCqueue q) := h

theorem Safe.writeTenantCsr {word n w} (h : Safe s) : Yields Safe (s.writeTenantCsr word n w) := by
  unfold State.writeTenantCsr
  split
  · exact .ok (h.mapCx _)
  · exact .ok (h.mapCx _)
  · exact .ok (h.mapCx _)
  · exact h.writeWsp
  · exact h.writeWsp
  · exact .ok (h.mapCx _)
  · exact .ok (h.mapCx _)
  · exact .ok (h.mapCx _)
  · exact .error
  · exact .error
  · exact .error
  · exact .ok (.ite (h.mapCx _) h)
  · exact .ok (h.mapCx _)
  · exact .error
  · exact .error
  · exact .error
  · exact .ok h.writeCpctl
  · exact .ok (h.mapCx _)
  · exact .ok (h.mapCx _)
  · exact .ok (h.mapCx _)
  · exact .ok (h.mapCx _)
  · exact .ok (h.mapCx _)
  · exact .ok h.writeKend
  · exact .ok h

theorem Safe.writeOuterCsr {word n w} (h : Safe s) : Yields Safe (s.writeOuterCsr word n w) := by
  unfold State.writeOuterCsr
  dsimp only
  split
  · exact .ok h
  · exact .ok h
  · exact .ok h
  · exact h.writeWsp
  · exact .ok h.writeL2way
  · exact .ok (h.mapCx _)
  · exact h.writeWsp
  · exact .ok (h.mapCx _)
  · exact .ok h.setCqueue
  · exact .ok h.setCqueue
  · exact .ok h.writeCqctl
  · exact .ok h

theorem Safe.writeUserCsr {n w} (h : Safe s) : Safe (s.writeUserCsr n w) := by
  unfold State.writeUserCsr
  split
  · exact h.mapCx _
  · exact h.mapCx _
  · exact h

theorem Safe.writeTrapCsr {l o w} (h : Safe s) : Safe (s.writeTrapCsr l o w) := h.of_mem rfl

theorem Safe.writeCsr {word n w} (h : Safe s) : Yields Safe (s.writeCsr word n w) := by
  unfold State.writeCsr
  split
  · exact .ite h.writeOuterCsr (.ok h.writeTrapCsr)
  · exact .ite h.writeOuterCsr (.ok h.writeTrapCsr)
  · exact .ite h.writeOuterCsr (.ok h.writeTrapCsr)
  · exact h.writeTenantCsr
  · exact h.writeOuterCsr
  · exact h.writeOuterCsr
  · exact .ok h.writeUserCsr

theorem csrAccess_safe {word c d wr new} (h : Safe s) : Yields Safe (csrAccess s word c d wr new) := by
  unfold csrAccess
  dsimp only
  split
  · exact .error
  · exact .skip fun _ => .ite (.tryExn h.result.writeCsr) (.ok h.result)

theorem execWspCsrWrite_safe {l value} (h : Safe s) : NextSafe (execWspCsrWrite l value s) := .finish h <| .skip fun _ => .tryExn h.writeWsp

theorem execL2wayTransitionComplete_safe {leaf} (h : Safe s) : NextSafe (execL2wayTransitionComplete leaf s) := by
  unfold execL2wayTransitionComplete
  dsimp only
  split
  · exact .next h
  · split
    · exact .next h
    · exact .next (memSorted_filter _ _ _ (h.fold fun _ _ ht => ht.sliceShrink))

theorem execRegisterWrite_safe {addr value r} (h : Safe s) : NextSafe (execRegisterWrite addr value r s) := by
  unfold execRegisterWrite
  split
  · split
    · exact .next h
    · split
      · exact .next h
      · exact .finish h (.tryExn h.writeCsr)
  · exact .next h.mmioWrite

/-! ## System instructions (R115 to R120, R127, R132, R149, R363 to R367) -/

theorem returnFrom_safe {l word} (h : Safe s) : Yields Safe (returnFrom s l word) := .skip fun _ => .ok (h.trapReturn _)

theorem execWfi_safe (h : Safe s) : NextSafe (execWfi s) := .finish h <| .skip fun _ => .ok (.ite h.advance (h.mapCx _))

theorem execWspSw_safe {a d} (h : Safe s) : NextSafe (execWspSw a d s) := by
  refine .finish h (.skip fun _ => .skip fun _ => ?_)
  exact .ok ((h.dissolve 2).writeBack.mapCx _).loadX.result

theorem execTlbInv_safe {b a rl st} (h : Safe s) : NextSafe (execTlbInv b a rl st s) :=
  .finish h <| .skip fun _ => .skip fun _ => .skip fun _ => .ok (h.of_mem rfl)

theorem execTlbSync_safe (h : Safe s) : NextSafe (execTlbSync s) := .finish h <| .skip fun _ => .skip fun _ => .ok h.advance

theorem execTlbInvComplete_safe {k} (h : Safe s) : NextSafe (execTlbInvComplete k s) := by
  unfold execTlbInvComplete
  split
  · exact .next h
  · next i _ =>
    have hc : Safe ((s.unpinned i).foldl (fun s p => s.sliceClean p.1 p.2) s) := h.fold fun _ _ ht => ht.sliceClean ..
    dsimp only
    split
    · exact .next h
    · exact .next (hc.of_mem rfl)

theorem Safe.fillDie {cl va f} (h : Safe s) : Safe (s.fillDie cl va f) := by
  unfold State.fillDie
  dsimp only
  split <;> exact h

theorem Safe.startWalk {cl va} (h : Safe s) : Safe (s.startWalk cl va) := .ite h h

theorem execPageWalkComplete_safe {k acc va} (h : Safe s) : NextSafe (execPageWalkComplete k acc va s) := by
  unfold execPageWalkComplete
  split
  · exact .next h
  · next c _ =>
    have hf : ∀ w, Safe (({ s with walks := w } : State).fillDie c.client va.toNat (s.missFound c.client va.toNat)) :=
      fun _ => Safe.fillDie h
    dsimp only
    split
    · exact .next h
    · split
      · exact .next (hf _)
      · exact .next ((hf _).of_mem rfl)

theorem execInspect_safe {b a d} (h : Safe s) : NextSafe (execInspect b a d s) := .finish h <| .skip fun _ => .ok h.result

/-! ## Posted accesses at their places (R206, R211 to R214, R399) -/

theorem Safe.performAtSwitch {k e} (h : Safe s) : Safe (s.performAtSwitch k e) := by
  unfold State.performAtSwitch
  split
  · exact h
  · exact h.answerEntry ..
  · next ht => exact (h.contribute ht).answerEntry ..

theorem execHomeAccess_safe {k idx} (h : Safe s) : NextSafe (execHomeAccess k idx s) := by
  unfold execHomeAccess
  split
  · exact .next h
  · split
    · exact .next h
    · split
      · exact .next h.performAtSwitch
      · exact .next (h.perform _ _)

theorem execStoreAck_safe {k idx} (h : Safe s) : NextSafe (execStoreAck k idx s) := .next (h.mapCtx _ _)

theorem execLateFailure_safe {k idx why} (h : Safe s) : NextSafe (execLateFailure k idx why s) := by
  unfold execLateFailure
  split
  · exact .next h
  · exact .next (.ite (h.mapCtx _ _) h)

/-! ## Branches and jumps (R132) -/

theorem transfer_safe {d t} (h : Safe s) : Yields Safe (transfer s d t) := .skip fun _ => .ok (h.of_mem rfl)

theorem branch_safe {taken off} (h : Safe s) : Yields Safe (branch s taken off) := .ite (.skip fun _ => .ok h) (.ok h.advance)

/-! ## Every instruction and every event -/

theorem Safe.setX {d v} (h : Safe s) : Safe (s.setX d v) := h

theorem Safe.hint {kind payload} (h : Safe s) : Safe (s.hint kind payload) := h

theorem Safe.pass {n} (h : Safe s) : Safe (s.pass n) := h

theorem Safe.removeCopies {i slot} (h : Safe s) : Safe (s.removeCopies i slot) := h.of_mem rfl

theorem exec_safe {i} (h : Safe s) : NextSafe (exec i s) := by
  cases i with
  | lui | auipc => exact .next h.result
  | jal | jalr => exact .finish h (transfer_safe h)
  | beq | bne | blt | bge | bltu | bgeu => exact .finish h (branch_safe h)
  | lb | lh | lw | ld | lbu | lhu | lwu => exact .finish h (scalarLoad_safe h)
  | sb | sh | sw | sd => exact .finish h (scalarStore_safe h)
  | add | sll | slt | sltu | xor | srl | or | and | sub | xnor | sra | orn | andn | mul | mulh | mulhsu | mulhu | div | divu | rem
  | remu | sh1add | sh2add | sh3add | min | minu | max | maxu | rol | ror | addw | sllw | srlw | subw | sraw | mulw | divw | divuw
  | remw | remuw | sh1addUw | sh2addUw | sh3addUw | addUw | zextH | rolw | rorw | addi | slti | sltiu | xori | ori | andi | slli
  | srli | srai | rori | clz | ctz | cpop | sextB | sextH | rev8 | addiw | slliw | srliw | sraiw | roriw | slliUw | clzw | ctzw
  | cpopw =>
    exact .next h.result
  | lr => exact execLr_safe h
  | sc => exact execSc_safe h
  | amoswap | amoadd | amoxor | amoand | amoor | amomin | amomax | amominu | amomaxu => exact .finish h (amo_safe h)
  | fence | fenceTso => exact .finish h (fence_safe h)
  | fenceI => exact execFenceI_safe h
  | ecall | ebreak => exact .next (h.raise _)
  | csrrw | csrrs | csrrc | csrrwi | csrrsi | csrrci => exact .finish h (csrAccess_safe h)
  | hnop => exact .next h.advance
  | hwide | hscope | hwait | hpred | hbrh | hprio | hstream | htileco => exact .next h.hint
  | qsub | qsubT => exact .finish h (queueSubmit_safe h)
  | trig => exact execTrig_safe h
  | lstat => exact .next h.result
  | tlbInv => exact execTlbInv_safe h
  | tlbSync => exact execTlbSync_safe h
  | vadd | vsub | vmul | vmulh | vmin | vmax | vabs | vand | vor | vxor | vsll | vsrl | vsra => exact .finish h (vint_safe h)
  | vcmp => exact .finish h (vcompare_safe h)
  | vsel => exact execVsel_safe h
  | vsadd => exact .finish h (vint_safe h)
  | vfadd | vfsub | vfmul => exact .finish h (vflt_safe h)
  | vfma => exact execVfma_safe h
  | vfmin | vfmax | vfmaxabs => exact .finish h (vflt_safe h)
  | vfabs | vfneg => exact .finish h (vfltUnary_safe h)
  | vfcmp => exact .finish h (vcompare_safe h)
  | vfclass => exact .finish h (.skip fun _ => .ok h.setV.advanceV)
  | vfrcp | vfrsq | vfexp2 | vflog2 => exact .finish h (vfltUnary_safe h)
  | vfdiv => exact .finish h (vflt_safe h)
  | vcvt => exact execVcvt_safe h
  | vpack => exact execVpack_safe h
  | vunpack => exact .finish h (.skip fun _ => .ok h.setV.advanceV)
  | vdq => exact .finish h (.skip fun _ => .ok (vfltWrite_safe h))
  | vredsum | vredmax | vredmin => exact .finish h (vreduce_safe h)
  | vperm => exact execVperm_safe h
  | vslide => exact .finish h (.skip fun _ => .ok h.setV.advanceV)
  | vbcast => exact .next h.setV.advanceV
  | vmvXv => exact .finish h (.skip fun _ => .ok h.setX.advanceV)
  | vmvVx => exact .finish h (.skip fun _ => .ok h.setV.advanceV)
  | vlut => exact .finish h (.skip fun _ => .skip fun _ => .ok h.setV.advanceV)
  | vsettag => exact execVsettag_safe h
  | vtag => exact .next h.setX.advanceV
  | pand | por | pxor | pnot => exact .next h.setP.advanceV
  | pcnt | pfirst => exact .next h.setX.advanceV
  | tzero => exact .next h.setM.advanceV
  | tmov => exact .finish h (.skip fun _ => .ok h.setM.advanceV)
  | ttrans => exact execTtrans_safe h
  | tcvt | tcvtSat | tcvtNosat => exact .finish h (tcvt_safe h)
  | tqset a d =>
    change NextSafe (execTqset a d s)
    exact execTqset_safe h
  | tpick => exact .finish h (.skip fun _ => .ok h.setV.advanceV)
  | tplace => exact .finish h (.skip fun _ => .ok h.setM.advanceV)
  | ttagSet => exact execTtagSet_safe h
  | ttagRead => exact .next h.setX.advanceV
  | xop => exact execXop_safe h
  | xcfgLoad => exact execXcfgLoad_safe h
  | xcfgDrop => exact .next (Safe.setSlots h).advanceV
  | xcfgQuery => exact .next (h.result.mapCx _)
  | compose => exact execCompose_safe h
  | release => exact execRelease_safe h
  | cstat => exact .next h.result
  | vld | vlds => exact .finish h (vectorLoad_safe h)
  | vldx => exact execVldx_safe h
  | tld => exact execTld_safe h
  | vst => exact execVst_safe h
  | vsts => exact execVsts_safe h
  | vstx => exact execVstx_safe h
  | tst => exact execTst_safe h
  | ldS => exact .finish h (strongLoad_safe h)
  | stS => exact .finish h (strongStore_safe h)
  | ldAcq => exact .finish h (strongLoad_safe h)
  | stRel => exact .finish h (strongStore_safe h)
  | red => exact execRed_safe h
  | amof => exact execAmof_safe h
  | laccAdd => exact execLaccAdd_safe h
  | laccRnd => exact execLaccRnd_safe h
  | laccClr => exact execLaccClr_safe h
  | pin => exact execPin_safe h
  | unpin => exact execUnpin_safe h
  | cwait => exact execCwait_safe h
  | xcopy1d => exact execXcopy1d_safe h
  | xcopy2d | xcopyTile | xcopyGath => exact .finish h (copyFrom_safe h)
  | xcopyWait | xcopyWaitT => exact .finish h (copyWait_safe h)
  | xcopyStat => exact .next h.result
  | xcopyAbort => exact execXcopyAbort_safe h
  | lxProd => exact execLxProd_safe h
  | lxFeed => exact execLxFeed_safe h
  | lxFeedt => exact execLxFeedt_safe h
  | lxWait | lxWaitT => exact .finish h (lxWait_safe h)
  | lxDwait | lxDwaitT => exact .finish h (lxDwait_safe h)
  | lxStat => exact .next h.result
  | lxAbort => exact execLxAbort_safe h
  | lxEpi => exact execLxEpi_safe h
  | lxCfg => exact execLxCfg_safe h
  | msgSend | msgSendT | msgPut | msgPutT | msgReply => exact .finish h (sending_safe h)
  | msgPost => exact execMsgPost_safe h
  | msgUnpost => exact execMsgUnpost_safe h
  | msgPoll => exact .next h.result
  | msgPollTake => exact execMsgPollTake_safe h
  | msgSpill => exact execMsgSpill_safe h
  | hdone => exact execHdone_safe h
  | chOpen => exact execChOpen_safe h
  | chClose => exact execChClose_safe h
  | chPush | chPushT => exact .finish h (pushing_safe h)
  | chPop | chPopT => exact .finish h (popping_safe h)
  | chBind => exact execChBind_safe h
  | chStat => exact .next h.result
  | nodeNew => exact execNodeNew_safe h
  | nodeLink => exact execNodeLink_safe h
  | nodeArm => exact execNodeArm_safe h
  | nodeDone => exact execNodeDone_safe h
  | rngNext => exact execRngNext_safe h
  | enq | enqT => exact .finish h (enqueueTask_safe h)
  | taskCancel => exact execTaskCancel_safe h
  | taskStat => exact .finish h (.skip fun _ => .ok h.result)
  | gbar | gbarT => exact .finish h (barrier_safe h)
  | semP | semPT => exact .finish h (semaphore_safe h)
  | semV => exact execSemV_safe h
  | monArm => exact execMonArm_safe h
  | monWait => exact execMonWait_safe h
  | monWaitT => exact execMonWaitT_safe h
  | tret | dret | pret => exact .finish h (returnFrom_safe h)
  | wfi => exact execWfi_safe h
  | wspSw => exact execWspSw_safe h
  | bindWb => exact .next h.writeBack.advance
  | inspect => exact execInspect_safe h
  | qcmdRegister | qcmdUnregister => exact .next h.queueCommand
  | qwidxWrite => exact .next (.ite h.feed.doorbell h)
  | qcancelWrite => exact .next (.ite h.cancelPacket h)
  | packetFetch => exact execPacketFetch_safe h
  | packetDispatch => exact execPacketDispatch_safe h
  | kernelPlacement => exact execKernelPlacement_safe h
  | graphArm => exact execGraphArm_safe h
  | peerDoorbellWrite srcMod srcLeaf q w =>
    change NextSafe (execPeerDoorbellWrite srcMod srcLeaf q w s)
    exact execPeerDoorbellWrite_safe h
  | contextRetire => exact execContextRetire_safe h
  | kernelComplete => exact execKernelComplete_safe h
  | pcmdCreate | pcmdDestroy | pcmdApply => exact .next h.pcmd
  | spanDestroyComplete => exact execSpanDestroyComplete_safe h
  | qoscmdApply => exact .next h.qosCommand
  | pageWalkComplete k acc va => exact execPageWalkComplete_safe (acc := acc) h
  | tlbInvComplete => exact execTlbInvComplete_safe h
  | l2wayWrite => exact .next h.writeL2way
  | l2wayTransitionComplete => exact execL2wayTransitionComplete_safe h
  | wspCsrWrite => exact execWspCsrWrite_safe h
  | kendWrite => exact .next h.writeKend
  | oplctlDrop => exact .next (h.mapCx _)
  | cpctlRestart | cpctlAbort => exact .next h.writeCpctl
  | cqctlHold => exact .next h.holdCopies
  | cqctlRemove => exact .next h.removeCopies
  | cqctlRebuild => exact .next h.rebuildCopy
  | copyHoldComplete => exact execCopyHoldComplete_safe h
  | registerWrite => exact execRegisterWrite_safe h
  | watchdogExpiry => exact execWatchdogExpiry_safe h
  | timerCompare => exact .next h.pass
  | frameBoundary => exact .next (h.pass (n := 4096 - s.now.toNat % 4096))
  | ctlTokenGain => exact .next h
  | rendezvousTimeout => exact execRendezvousTimeout_safe h
  | pauseTimeout => exact execPauseTimeout_safe h
  | feedTimeout => exact execFeedTimeout_safe h
  | sinkRetryTimeout => exact execSinkRetryTimeout_safe h
  | sendBackoffExpiry => exact execSendBackoffExpiry_safe h
  | messageRetryResend => exact execMessageRetryResend_safe h
  | siteWindowRetry => exact execSiteWindowRetry_safe h
  | channelAskRetry => exact execChannelAskRetry_safe h
  | semPRetry => exact .next (h.mapCtx _ _)
  | prodNodeReissue => exact execProdNodeReissue_safe h
  | switchSlotTimeout => exact execSwitchSlotTimeout_safe h
  | heartbeatMiss => exact execHeartbeatMiss_safe h
  | trapEntry => exact execTrapEntry_safe h
  | xirqWrite => exact .next h.writeXirq
  | homeAccess => exact execHomeAccess_safe h
  | storeAck => exact execStoreAck_safe h
  | lateFailure => exact execLateFailure_safe h
  | copyStart => exact execCopyStart_safe h
  | copyGrant => exact execCopyGrant_safe h
  | copyComplete => exact execCopyComplete_safe h
  | copyFault => exact execCopyFault_safe h
  | copyAborted => exact execCopyAborted_safe h
  | productOpen => exact execProductOpen_safe h
  | feedArrival => exact execFeedArrival_safe h
  | productGrant => exact execProductGrant_safe h
  | productDelivery => exact execProductDelivery_safe h
  | deliveryComplete => exact execDeliveryComplete_safe h
  | residueMismatch => exact execResidueMismatch_safe h
  | feedResume => exact execFeedResume_safe h
  | packetInjection => exact execPacketInjection_safe h
  | messageArrival => exact execMessageArrival_safe h
  | replyHoldRelease => exact execReplyHoldRelease_safe h
  | messageAnswer => exact execMessageAnswer_safe h
  | activationStart => exact execActivationStart_safe h
  | channelEntryArrival => exact execChannelEntryArrival_safe h
  | channelFlowSignal => exact execChannelFlowSignal_safe h
  | channelAsk => exact execChannelAsk_safe h
  | channelCloseMarker => exact execChannelCloseMarker_safe h
  | channelClosedNotice => exact execChannelClosedNotice_safe h
  | dispatchDecision => exact execDispatchDecision_safe h
  | nodeFinish => exact execNodeFinish_safe h
  | stealRequest => exact execStealRequest_safe h
  | stealHalfArrival => exact execStealHalfArrival_safe h
  | stealAck => exact execStealAck_safe h
  | stealReturn => exact execStealReturn_safe h
  | precmdSave => exact .next h.preSave
  | precmdRestore => exact .next h.preRestore
  | saveStop => exact execSaveStop_safe h
  | saveDrained => exact execSaveDrained_safe h
  | restoreStart => exact execRestoreStart_safe h
  | migcmdStart => exact .next h.migStart
  | migcmdCancel => exact .next h.migCancel
  | migrationCheck => exact execMigrationCheck_safe h
  | migrationTransferDone => exact execMigrationTransferDone_safe h
  | dbgcmdOpen => exact .next (.ite h.debugOpen h)
  | dbgcmdClose => exact .next (.ite h.endSession h)
  | dbgcmdHalt => exact .next (.ite h.debugHalt h)
  | dbgcmdResume => exact .next (.ite h.debugResume h)
  | dbgcmdStep => exact .next (.ite h.debugStep h)
  | dbgxvalWrite => exact .next (.ite h.debugSetX h)
  | inspectionWindowRead => exact .next h
  | swcmdAllocate => exact .next h.swAllocate
  | switchAllocationAnswer => exact execSwitchAllocationAnswer_safe h
  | switchContribution => exact execSwitchContribution_safe h
  | peerAccess srcMod srcLeaf a =>
    change NextSafe (execPeerAccess srcMod srcLeaf a s)
    exact execPeerAccess_safe h
  | siteWake => exact execSiteWake_safe h
  | siteGate => exact execSiteGate_safe h
  | boot => exact execBoot_safe h
  | attestationRequest => exact execAttestationRequest_safe h
  | cxlDeviceRemoval => exact execCxlDeviceRemoval_safe h
  | illegalInstruction | fetchFault => exact .next (h.raise _)
  | siteFault => exact execSiteFault_safe h
  | rasRetirement => exact .next (h.retireUnit _)
  | powerLoss => exact execPowerLoss_safe h
  | rmaWipe => exact execRmaWipe_safe h
  | reservationAging => exact execReservationAging_safe h

/-! ## The turns of the schedule (R115, R124, R129, R131, R209, R210, R339) -/

theorem Safe.loadEarly {va n tc skip} (h : Safe s) : Safe (s.loadEarly va n tc skip) := by
  unfold State.loadEarly
  split
  · exact h
  · refine .ite h ?_
    split
    · exact h
    · exact h.mapCx _

theorem Safe.cacheAhead {k va tc} (h : Safe s) : Safe (s.cacheAhead k va tc) := by
  unfold State.cacheAhead
  split
  · exact h
  · split
    · exact h
    · exact .ite h.fillLine h

theorem Safe.fetchAhead {k va} (h : Safe s) : Safe (s.fetchAhead k va) := by
  unfold State.fetchAhead
  split
  · exact h
  · split
    · exact h
    · exact .ite h.fillBlock h

theorem Safe.sliceTake {home line way} (h : Safe s) : Safe (s.sliceTake home line way) := .ite (h.sliceFill ..) h

theorem Safe.sliceDrop {home line} (h : Safe s) : Safe (s.sliceDrop home line) := .ite h (h.sliceEvict ..)

theorem Safe.walkAhead {k va} (h : Safe s) : Safe (s.walkAhead k va) := by
  unfold State.walkAhead
  split
  · exact h
  · exact .ite h.startWalk h

theorem Safe.storePart {k idx part} (h : Safe s) : Safe (s.storePart k idx part) := by
  unfold State.storePart
  split
  · exact h
  · split
    · exact h
    · exact h
    · exact .ite h ((h.storeCells ..).mapCtx _ _)

theorem Safe.takeTurn {u} (h : Safe s) : Safe (s.takeTurn u) := by
  cases u with
  | run k => exact h.switchTo
  | event i => exact h
  | loadEarly va n tc skip => exact h.loadEarly
  | cacheFill k va tc => exact h.cacheAhead
  | cacheDrop i line => exact h
  | fetchFill k va => exact h.fetchAhead
  | fetchDrop i block => exact h
  | tlbDrop n => exact h
  | extDrop n => exact h
  | walkStart k va => exact h.walkAhead
  | storePart k idx part => exact h.storePart
  | sliceFill home line way => exact h.sliceTake
  | sliceClean home line => exact h.sliceClean ..
  | sliceEvict home line => exact h.sliceDrop
  | copyRead k handle n => exact h.copyReads
  | copyWrite k handle n => exact h.copyWrites
  | copyPost k handle n => exact h.copySends
  | apart => exact h
  | land n => exact h.landNth
  | feedRead k handle a => exact h.feedRead
  | feedIssue k handle n => exact h.issueSteps
  | productStaged l half => exact h.stageProduct
  | productSteps l half n => exact h.consumeSteps
  | deliverElems l half n => exact h.deliverElems
  | outsideStore pa n v => exact h.outsideStore
  | peerRmw srcMod srcLeaf pa op n data =>
    change Safe (s.peerRmw srcMod srcLeaf pa op n data)
    exact h.peerRmw
  | peerLacc srcMod srcLeaf pa kind op data =>
    change Safe (s.peerLacc srcMod srcLeaf pa kind op data)
    exact h.peerLacc
  | peerAllocate a => exact h.peerAllocate
  | migArrival x => exact h.migArrival
  | recover a => exact h.recover

/-! ## One step of the machine -/

theorem Safe.runWord {w} (h : Safe s) : NextSafe (s.runWord w) := by
  unfold State.runWord
  split
  · exact exec_safe h
  · split
    · exact exec_safe h.useRegs
    · split
      · split
        · exact .next h.advance
        · exact exec_safe h.useRegs
      · exact exec_safe h

theorem Safe.runNext (h : Safe s) : NextSafe s.runNext := by
  unfold State.runNext
  split
  · exact exec_safe h
  · exact h.fillBlock.runWord

theorem Safe.runCore (h : Safe s) : NextSafe s.runCore := by
  unfold State.runCore
  split
  · exact .next (.getD (fun _ ht => h.failedRetirement ht) h)
  · split
    · exact exec_safe h
    · split
      · exact h.runNext
      · split
        · next ht => exact .next (h.boundary ht)
        · exact h.runNext

theorem Safe.opening (h : Safe s) : Safe s.opening := (h.landWhere _).mapCx _

theorem Safe.setTick {n} (h : Safe s) : Safe { s with tick := n } := h

theorem Safe.setTurns {l} (h : Safe s) : Safe { s with turns := l } := h

theorem step_safe (h : Safe s) : NextSafe (step s) := by
  have ht : Safe { s with tick := s.tick + 1 } := h.setTick
  unfold step
  dsimp only
  split
  · exact ht.opening.runCore
  · split
    · exact exec_safe ht.setTurns
    · exact .next ht.setTurns
  · exact .next (Safe.takeTurn ht.setTurns)

end Sys2Proof.Machine
end

section

open Sys2Proof.Machine

/-- Settles O60: each turn, event, boundary and instruction reaches memory through operations that keep its canonical form. -/
theorem stepKeepsMemory : Obligations.StepKeepsMemory := fun _ t h ht => step_safe h t ht

end

section
/-! SUPPORT. What an access at its place and a message on its way do to the contexts and to memory (R14, R206, R214, R287 to R291): the
rules that the life of a posted access and the transit of a message share. -/

namespace Sys2Proof.Machine

variable {s t u : State} {c r : Ctx} {k j : Key} {f : Ctx → Ctx}

/-! ## Looking up a context after an update -/

/-- An update of a context leaves it where it is: its slot, its kernel and its status. -/
structure Ctx.Stays (f : Ctx → Ctx) : Prop where
  key : ∀ c, (f c).key = c.key := by intro _; rfl
  kid : ∀ c, (f c).kid = c.kid := by intro _; rfl
  status : ∀ c, (f c).status = c.status := by intro _; rfl

theorem Ctx.Stays.resident (hf : Ctx.Stays f) (c : Ctx) : (f c).resident = c.resident := by
  unfold Ctx.resident
  rw [hf.status]

theorem ctx?_spec (h : s.ctx? k = some c) : c.key = k ∧ c.resident = true := by
  simpa using List.find?_some h

theorem ofKernel_spec {kid h : Nat} (hr : s.ofKernel kid h = some r) : r.kid = kid ∧ r.key.h = h ∧ r.resident = true := by
  simpa [and_assoc] using List.find?_some hr

/-- A look-up that an update does not disturb finds the updated context. -/
theorem find_mapIf {p q : Ctx → Bool} (hp : ∀ c, p (f c) = p c) :
    (s.mapIf q f).ctxs.find? p = (s.ctxs.find? p).map fun c => if q c then f c else c := by
  have hc : (p ∘ fun c => if q c then f c else c) = p := by
    funext c
    by_cases hq : q c <;> simp [hq, hp]
  have hm : (s.mapIf q f).ctxs = s.ctxs.map fun c => if q c then f c else c := rfl
  rw [hm, List.find?_map, hc]

theorem ctx?_mapCtx_of (hf : Ctx.Stays f) (h : s.ctx? j = some c) : (s.mapCtx k f).ctx? j = some (if c.key = k then f c else c) := by
  have hp : ∀ c : Ctx, (decide ((f c).key = j) && (f c).resident) = (decide (c.key = j) && c.resident) := fun c => by
    rw [hf.key, hf.resident]
  obtain ⟨-, hr⟩ := ctx?_spec h
  unfold State.ctx? State.mapCtx at *
  rw [find_mapIf hp, h]
  simp [hr]

theorem ctx?_mapCtx (hf : Ctx.Stays f) (h : s.ctx? k = some c) : (s.mapCtx k f).ctx? k = some (f c) := by
  rw [ctx?_mapCtx_of hf h, if_pos (ctx?_spec h).1]

theorem ctx?_mapCtx_isSome (hf : Ctx.Stays f) (h : (s.ctx? k).isSome) : ((s.mapCtx j f).ctx? k).isSome := by
  obtain ⟨c, hc⟩ := Option.isSome_iff_exists.mp h
  rw [ctx?_mapCtx_of hf hc]
  rfl

theorem ofKernel_mapCtx {kid h : Nat} (hf : Ctx.Stays f) (hr : s.ofKernel kid h = some r) :
    (s.mapCtx k f).ofKernel kid h = some (if r.key = k then f r else r) := by
  have hp : ∀ c : Ctx, (decide ((f c).kid = kid) && decide ((f c).key.h = h) && (f c).resident) =
      (decide (c.kid = kid) && decide (c.key.h = h) && c.resident) := fun c => by
    rw [hf.key, hf.kid, hf.resident]
  obtain ⟨-, -, hres⟩ := ofKernel_spec hr
  unfold State.ofKernel State.mapCtx at *
  rw [find_mapIf hp, hr]
  simp [hres]

/-! ## States with the same contexts -/

/-- Two states hold the same contexts, but for the reservations, watches and counters that an access moves (R144, R336, R380). -/
def State.Alike (s t : State) : Prop := t.ctxs.map Ctx.sansMarks = s.ctxs.map Ctx.sansMarks

theorem State.Alike.refl (s : State) : s.Alike s := rfl

theorem State.Alike.of_ctxs (h : t.ctxs = s.ctxs) : s.Alike t := by
  unfold State.Alike
  rw [h]

theorem State.Alike.trans (h : s.Alike t) (g : t.Alike u) : s.Alike u := Eq.trans g h

theorem State.Alike.of_sansMem (h : t.sansMem = s.sansMem) : s.Alike t := by
  have hcx : t.cx.sansMarks = s.cx.sansMarks := congrArg State.cx h
  have hothers : t.others.map Ctx.sansMarks = s.others.map Ctx.sansMarks := congrArg State.others h
  unfold State.Alike State.ctxs
  rw [List.map_cons, List.map_cons, hcx, hothers]

theorem State.Alike.find {p : Ctx → Bool} (h : s.Alike t) (hp : ∀ c, p c.sansMarks = p c) (hc : s.ctxs.find? p = some c) :
    ∃ d, t.ctxs.find? p = some d ∧ d.sansMarks = c.sansMarks := by
  have key : ∀ l : List Ctx, (l.map Ctx.sansMarks).find? p = (l.find? p).map Ctx.sansMarks := fun l => by
    rw [List.find?_map, (funext hp : p ∘ Ctx.sansMarks = p)]
  have hm : (t.ctxs.find? p).map Ctx.sansMarks = some c.sansMarks := by rw [← key, h, key, hc]; rfl
  exact Option.map_eq_some_iff.mp hm

theorem State.Alike.ctx? (h : s.Alike t) (hc : s.ctx? k = some c) : ∃ d, t.ctx? k = some d ∧ d.sansMarks = c.sansMarks :=
  h.find (fun _ => rfl) hc

theorem State.Alike.ofKernel {kid n : Nat} (h : s.Alike t) (hr : s.ofKernel kid n = some r) :
    ∃ d, t.ofKernel kid n = some d ∧ d.sansMarks = r.sansMarks := h.find (fun _ => rfl) hr

theorem State.Alike.isSome (h : s.Alike t) (hc : (s.ctx? k).isSome) : (t.ctx? k).isSome := by
  obtain ⟨c, hc⟩ := Option.isSome_iff_exists.mp hc
  obtain ⟨d, hd, -⟩ := h.ctx? hc
  rw [hd]
  rfl

/-- Counting shows in nothing but the counters and their interrupts. -/
theorem countFor_sansMem (s : State) (k : Key) (ev n : Nat) : (s.countFor k ev n).sansMem = s.sansMem := by
  have hone : ∀ c : Ctx, (if (decide (c.key = k) && c.resident) = true then c.count ev n else c).sansMarks = c.sansMarks := fun c => by
    split <;> rfl
  simp only [State.countFor, State.mapCtx, State.mapIf, State.mapAll, State.sansMem, List.map_map, Function.comp_def, hone]

theorem State.Alike.store (s : State) (a n v : Nat) : s.Alike (s.store a n v) := .of_sansMem (store_sansMem ..)

theorem State.Alike.storeCells (s : State) (pa : Nat) (l : List Host.Cell) : s.Alike (s.storeCells pa l) := .of_sansMem (storeCells_sansMem ..)

theorem State.Alike.countFor (s : State) (k : Key) (ev n : Nat) : s.Alike (s.countFor k ev n) := .of_sansMem (countFor_sansMem ..)

/-! ## Bytes of a store piece -/

/-- A byte that no cell names stays (R213, R217). -/
theorem storeCells_other {pa b : Nat} {l : List Host.Cell} (hs : Safe s) (hb : ∀ x ∈ l, b ≠ pa + x.1) :
    memGet (s.storeCells pa l).mem b = memGet s.mem b := by
  rw [storeCells_mem]
  unfold Safe at hs
  generalize s.mem = m at hs ⊢
  induction l generalizing m with
  | nil => rfl
  | cons x l ih =>
    rw [List.foldl_cons, ih (fun y hy => hb y (.tail _ hy)) _ (memSet_wf _ _ hs), memGet_set _ _ _ hs, if_neg (hb x (.head _))]

/-- A byte that one cell names is the cell's (R213, R217). -/
theorem storeCells_at {pa : Nat} {l : List Host.Cell} (hs : Safe s) (hl : (l.map (·.1)).Nodup) :
    ∀ x ∈ l, memGet (s.storeCells pa l).mem (pa + x.1) = x.2 := by
  induction l generalizing s with
  | nil => nofun
  | cons y l ih =>
    rw [List.map_cons, List.nodup_cons] at hl
    obtain ⟨hy, hl⟩ := hl
    have hstep : s.storeCells pa (y :: l) = (s.store (pa + y.1) 1 y.2.toNat).storeCells pa l := rfl
    have hs' : Safe (s.store (pa + y.1) 1 y.2.toNat) := hs.store ..
    intro x hx
    rw [hstep]
    rcases List.mem_cons.mp hx with rfl | hx
    · rw [storeCells_other hs' fun z hz => ?_]
      · change memGet (memSet _ _ _) _ = _
        rw [memGet_set _ _ _ hs, if_pos rfl]
        simp
      · intro h
        exact hy (List.mem_map.mpr ⟨z, hz, by omega⟩)
    · exact ih hs' hl x hx

theorem store_memSameBut (hs : Safe s) (a n v : Nat) : MemSameBut s (s.store a n v) a n := fun b hb => memWrite_other a n v b hs hb

theorem store_read (hs : Safe s) (a n v : Nat) : memRead (s.store a n v).mem a n = v % 256 ^ n := memRead_memWrite a n v hs

end Sys2Proof.Machine
end

section
/-! SUPPORT. The life of a posted access (R14, R205, R206, R211, R213, R214): what each of its steps does to its entry and at its place. -/

namespace Sys2Proof.Machine

variable {s t u : State} {c : Ctx} {k : Key} {e : OpEntry} {i pa : Nat}

/-! ## The lines of an accumulator in one copy (R124, R223) -/

/-- Two states differ at most in memory and in what the slices hold apart. -/
def State.SlicedTo (s t : State) : Prop := ∃ m l, t = { s with mem := m, slices := l }

theorem State.SlicedTo.refl (s : State) : s.SlicedTo s := ⟨s.mem, s.slices, rfl⟩

theorem State.SlicedTo.trans (h : s.SlicedTo t) (g : t.SlicedTo u) : s.SlicedTo u := by
  obtain ⟨m, l, rfl⟩ := h
  obtain ⟨m', l', rfl⟩ := g
  exact ⟨m', l', rfl⟩

theorem sliceFill_slicedTo (s : State) (home line way : Nat) : s.SlicedTo (s.sliceFill home line way) := by
  unfold State.sliceFill
  split
  · exact .refl s
  · exact ⟨_, _, rfl⟩

theorem sliceClean_slicedTo (s : State) (home line : Nat) : s.SlicedTo (s.sliceClean home line) := by
  unfold State.sliceClean
  split
  · exact .refl s
  · exact ⟨_, _, rfl⟩

theorem sliceEvict_slicedTo (s : State) (home line : Nat) : s.SlicedTo (s.sliceEvict home line) := by
  unfold State.sliceEvict
  split
  · exact (sliceClean_slicedTo s home line).trans ⟨_, _, rfl⟩
  · exact .refl s

theorem roomIn_slicedTo (s : State) (home : Nat) (ways : List Nat) (keep : Nat → Bool) : s.SlicedTo (s.roomIn home ways keep).2 := by
  unfold State.roomIn
  split
  · exact .refl s
  · split
    · exact sliceEvict_slicedTo ..
    · exact .refl s

theorem sliceHold_slicedTo (s : State) (home line : Nat) (ways : List Nat) (keep : Nat → Bool) :
    s.SlicedTo (s.sliceHold home line ways keep) := by
  have hr := roomIn_slicedTo s home ways fun l => decide (l = line) || keep l
  unfold State.sliceHold
  dsimp only
  split
  · exact hr.trans (sliceFill_slicedTo ..)
  · split
    · exact .refl s
    · exact hr.trans ⟨_, _, rfl⟩

theorem together_slicedTo (s : State) (home pa n : Nat) : s.SlicedTo (s.together home pa n) := by
  have hfold : ∀ (keep : Nat → Bool) (l : List Nat) (t : State), s.SlicedTo t →
      s.SlicedTo (l.foldl (fun s l => s.sliceHold home l (s.cacheWays home) keep) t) := by
    intro keep l
    induction l with
    | nil => exact fun _ ht => ht
    | cons x l ih => exact fun t ht => ih _ (ht.trans (sliceHold_slicedTo ..))
  unfold State.together
  dsimp only
  split
  · exact hfold _ _ s (.refl s)
  · exact .refl s

/-! ## The effect of an entry at its place (R205, R206) -/

/-- The entry adds to an accumulator or clears it, which takes both of its lines in one copy (R223). -/
def OpEntry.gathers (e : OpEntry) : Bool := e.kind = .laccAdd || e.kind = .laccClr

/-- The state in which an entry takes effect at the place `pa`. -/
def State.gathered (s : State) (e : OpEntry) (pa : Nat) : State := if e.gathers then s.together e.site pa 72 else s

/-- Where an entry that is performed at `pa` finds its bytes. -/
def State.effectPlace (s : State) (e : OpEntry) (pa : Nat) : Nat := if isSiteWindow pa then pa else s.placeAt e.site (physOf pa)

theorem gathered_slicedTo (s : State) (e : OpEntry) (pa : Nat) : s.SlicedTo (s.gathered e pa) := by
  unfold State.gathered
  split
  · exact together_slicedTo ..
  · exact .refl s

theorem gathered_of_not (h : e.gathers = false) : s.gathered e pa = s := by simp [State.gathered, h]

theorem Safe.gathered (h : Safe s) : Safe (s.gathered e pa) := .ite (h.together ..) h

/-- An entry changes the contexts in nothing but their reservations, watches and counters (R144, R205, R336, R380). -/
theorem applyEntry_alike (s : State) (k : Key) (kid : Nat) (e : OpEntry) (pa : Nat) : s.Alike (s.applyEntry k kid e pa) := by
  unfold State.applyEntry
  cases e.kind with
  | store => exact .storeCells ..
  | red => exact .store ..
  | laccAdd => exact (State.Alike.store ..).trans (.countFor ..)
  | laccClr => exact (State.Alike.store ..).trans (.countFor ..)
  | trig => exact .refl _
  | semV => exact .store ..

theorem applyEntry_order (s : State) (k : Key) (kid : Nat) (e : OpEntry) (pa : Nat) : (s.applyEntry k kid e pa).order = s.order := by
  unfold State.applyEntry
  cases e.kind with
  | store => exact (congrArg State.order (storeCells_sansMem s pa e.cells) :)
  | red | laccAdd | laccClr | trig | semV => rfl

/-! ## An entry that is performed (R206) -/

/-- The log of a context once the entry at an index has its answer. -/
def logAnswered (log : List OpEntry) (i : Nat) (st : OpState) (order : Nat) : List OpEntry :=
  log.map fun y => if y.idx = i then { y with st := st, done := order } else y

theorem answerEntry_ctx? {st : OpState} (h : s.ctx? k = some c) :
    (s.answerEntry k e st).ctx? k = some { c with log := logAnswered c.log e.idx st s.order } :=
  ctx?_mapCtx (f := fun c => { c with log := logAnswered c.log e.idx st s.order }) {} h

/-- The state in which an entry has taken its effect at `pa`, before its answer leaves. -/
def State.takesEffect (s : State) (k : Key) (kid : Nat) (e : OpEntry) (pa : Nat) : State :=
  (s.gathered e pa).applyEntry k kid e ((s.gathered e pa).effectPlace e pa)

theorem takesEffect_alike (s : State) (k : Key) (kid : Nat) (e : OpEntry) (pa : Nat) : s.Alike (s.takesEffect k kid e pa) := by
  obtain ⟨m, l, hg⟩ := gathered_slicedTo s e pa
  have hctxs : (s.gathered e pa).ctxs = s.ctxs := by rw [hg]; rfl
  exact (State.Alike.of_ctxs hctxs).trans (applyEntry_alike ..)

theorem takesEffect_order (s : State) (k : Key) (kid : Nat) (e : OpEntry) (pa : Nat) : (s.takesEffect k kid e pa).order = s.order := by
  obtain ⟨m, l, hg⟩ := gathered_slicedTo s e pa
  unfold State.takesEffect
  rw [applyEntry_order, hg]

/-- An admitted entry takes its effect, and its answer leaves (R206). -/
theorem perform_at (hc : s.ctx? k = some c) (hp : s.placeEntry c e = .at pa) (hr : s.entryRefused e pa = none) :
    s.perform k e = if e.count = .scm then ((s.takesEffect k c.kid e pa).answerEntry k e .performed).countSlice k
      else (s.takesEffect k c.kid e pa).answerEntry k e .performed := by
  unfold State.perform
  rw [hc]
  dsimp only
  rw [hp]
  dsimp only
  rw [hr]
  rfl

theorem perform_mem (hc : s.ctx? k = some c) (hp : s.placeEntry c e = .at pa) (hr : s.entryRefused e pa = none) :
    (s.perform k e).mem = (s.takesEffect k c.kid e pa).mem := by
  rw [perform_at hc hp hr]
  split <;> rfl

theorem perform_kernels (hc : s.ctx? k = some c) (hp : s.placeEntry c e = .at pa) (hr : s.entryRefused e pa = none) :
    (s.perform k e).kernels = (s.takesEffect k c.kid e pa).kernels := by
  rw [perform_at hc hp hr]
  split <;> rfl

theorem perform_log (hc : s.ctx? k = some c) (hp : s.placeEntry c e = .at pa) (hr : s.entryRefused e pa = none) :
    ∃ d, (s.perform k e).ctx? k = some d ∧ d.log = logAnswered c.log e.idx .performed s.order := by
  obtain ⟨b, hb, hbc⟩ := (takesEffect_alike s k c.kid e pa).ctx? hc
  have hlog : b.log = c.log := (congrArg Ctx.log hbc :)
  have hans := answerEntry_ctx? (e := e) (st := .performed) hb
  rw [takesEffect_order, hlog] at hans
  rw [perform_at hc hp hr]
  split
  · exact ⟨_, ctx?_mapCtx (f := fun c => (c.count 6 1).count 7 _) {} hans, rfl⟩
  · exact ⟨_, hans, rfl⟩

/-! ## What an entry's effect is, by its kind (R205, R223, R335, R78) -/

theorem applyEntry_store {kid : Nat} (h : e.kind = .store) : s.applyEntry k kid e pa = s.storeCells pa e.cells := by
  simp [State.applyEntry, h]

theorem applyEntry_red {kid : Nat} (h : e.kind = .red) :
    s.applyEntry k kid e pa = s.store pa e.len (portOp e.op e.len (s.load pa e.len) e.data.toNat) := by
  simp [State.applyEntry, h]

theorem countFor_mem (s : State) (k : Key) (ev n : Nat) : (s.countFor k ev n).mem = s.mem := rfl

theorem applyEntry_laccAdd_mem {kid : Nat} (h : e.kind = .laccAdd) :
    (s.applyEntry k kid e pa).mem = (s.store pa 72 (laccAdd (s.load pa 72) (laccTerm (e.op = 1) (e.data.setWidth 64)).num)).mem := by
  simp only [State.applyEntry, h, countFor_mem]

theorem applyEntry_laccClr_mem {kid : Nat} (h : e.kind = .laccClr) : (s.applyEntry k kid e pa).mem = (s.store pa 72 0).mem := by
  simp only [State.applyEntry, h, countFor_mem]

theorem applyEntry_trig {kid : Nat} (h : e.kind = .trig) : s.applyEntry k kid e pa = s.countTrigger kid := by
  simp [State.applyEntry, h]

theorem applyEntry_semV {kid : Nat} (h : e.kind = .semV) : s.applyEntry k kid e pa = s.store pa 8 (min (s.load pa 8 + 1) (2 ^ 64 - 1)) := by
  simp [State.applyEntry, h]

/-- A state whose memory is that of a write reads the value back, and differs nowhere else. -/
theorem store_reads_back {a n v : Nat} (hs : Safe s) (hu : u.mem = (s.store a n v).mem) :
    memRead u.mem a n = v % 256 ^ n ∧ MemSameBut s u a n := by
  rw [hu]
  refine ⟨store_read hs .., fun b hb => ?_⟩
  rw [hu]
  exact store_memSameBut hs a n v b hb

/-- A state whose memory is that of a store's cells holds each of them, and differs nowhere else. -/
theorem storeCells_reads_back {l : List Host.Cell} (hs : Safe s) (hu : u.mem = (s.storeCells pa l).mem) (hl : (l.map (·.1)).Nodup) :
    (∀ x ∈ l, memGet u.mem (pa + x.1) = x.2) ∧ ∀ b, (∀ x ∈ l, b ≠ pa + x.1) → memGet u.mem b = memGet s.mem b := by
  rw [hu]
  exact ⟨storeCells_at hs hl, fun _ hb => storeCells_other hs hb⟩

/-! ## The steps of an entry (R206, R211, R214, R375) -/

theorem exec_homeAccess (k : Key) (i : Nat) (s : State) : exec (.homeAccess k i) s = execHomeAccess k i s := rfl
theorem exec_storeAck (k : Key) (i : Nat) (s : State) : exec (.storeAck k i) s = execStoreAck k i s := rfl
theorem exec_lateFailure (k : Key) (i : Nat) (why : LateReason) (s : State) : exec (.lateFailure k i why) s = execLateFailure k i why s := rfl
theorem exec_siteWindowRetry (k : Key) (i : Nat) (s : State) : exec (.siteWindowRetry k i) s = execSiteWindowRetry k i s := rfl

theorem entry?_spec (h : s.entry? k i = some (c, e)) : s.ctx? k = some c ∧ (c.log.find? fun x => x.idx = i) = some e := by
  obtain ⟨c', hc, h⟩ := Option.bind_eq_some_iff.mp h
  obtain ⟨e', he, h⟩ := Option.map_eq_some_iff.mp h
  cases h
  exact ⟨hc, he⟩

theorem entry?_idx (h : s.entry? k i = some (c, e)) : e.idx = i := by simpa using List.find?_some (entry?_spec h).2

theorem entry?_mem (h : s.entry? k i = some (c, e)) : e ∈ c.log := List.mem_of_find?_eq_some (entry?_spec h).2

theorem homeAccess_performs (h : s.entry? k i = some (c, e)) (hm : s.mayPerform c e = true) (ht : e.toSwitch = false) :
    exec (.homeAccess k i) s = .next (s.perform k e) := by
  rw [exec_homeAccess, execHomeAccess, h]
  simp [hm, ht]

theorem siteWindowRetry_performs (h : s.entry? k i = some (c, e)) (hm : s.mayPerform c e = true) (hw : regionOf e.addr = .siteWindow) :
    exec (.siteWindowRetry k i) s = .next (s.perform k e) := by
  obtain ⟨hc, he⟩ := entry?_spec h
  have hdue : s.performDue k e = s.perform k e := by
    simp [State.performDue, hc, hm, entry?_mem h]
  have hfind : ((s.ctx? k).bind fun c => c.log.find? fun e => e.idx = i) = some e := by rw [hc]; exact he
  rw [exec_siteWindowRetry, execSiteWindowRetry, hfind]
  simp [hw, hdue]

/-- An acknowledgement frees the entry it answers, and no other index (R211, R213). -/
theorem storeAck_frees (h : s.entry? k i = some (c, e)) (hst : e.st = .performed) (ha : s.entryAnswered e = true) :
    ∃ u c', exec (.storeAck k i) s = .next u ∧ u.mem = s.mem ∧ u.ctx? k = some c' ∧ e ∉ c'.log ∧ ∀ y ∈ c.log, y.idx ≠ i → y ∈ c'.log := by
  refine ⟨_, _, exec_storeAck .., rfl, ctx?_mapCtx {} (entry?_spec h).1, ?_, ?_⟩
  · simp [entry?_idx h, hst, ha]
  · intro y hy hi
    simp [hy, hi]

theorem failLate_asyncs (c : Ctx) (e : OpEntry) (why : LateReason) :
    (c.failLate e why).asyncs = c.asyncs ++ [⟨31, e.addr, BitVec.ofNat 64 e.idx, .T, e.seq⟩] := by
  cases why <;> rfl

theorem failLate_log (c : Ctx) (e : OpEntry) (why : LateReason) :
    (c.failLate e why).log = c.log.map fun x => if x.idx = e.idx then { x with st := .failed why, src := c.key.h } else x := by
  cases why <;> rfl

theorem failLate_stays (e : OpEntry) (why : LateReason) : Ctx.Stays fun c => c.failLate e why := by
  cases why <;> exact {}

/-- A failure leaves the entry FAILED and posts cause 31 (R214). -/
theorem lateFailure_fails {why : LateReason} (h : s.entry? k i = some (c, e)) (hf : s.failsNow c e why = true) :
    ∃ u c', exec (.lateFailure k i why) s = .next u ∧ u.mem = s.mem ∧ u.ctx? k = some c' ∧
      (∀ y ∈ c'.log, y.idx = i → y.st = .failed why) ∧ c'.asyncs = c.asyncs ++ [⟨31, e.addr, BitVec.ofNat 64 i, .T, e.seq⟩] := by
  have hstep : exec (.lateFailure k i why) s = .next (s.mapCtx k fun c => c.failLate e why) := by
    rw [exec_lateFailure, execLateFailure, h]
    simp [hf]
  refine ⟨_, _, hstep, rfl, ctx?_mapCtx (failLate_stays e why) (entry?_spec h).1, ?_, ?_⟩
  · intro y hy hi
    rw [failLate_log] at hy
    obtain ⟨x, -, rfl⟩ := List.mem_map.mp hy
    by_cases hx : x.idx = e.idx
    · simp [hx]
    · simp only [hx, if_false] at hi
      exact absurd (hi.trans (entry?_idx h).symm) hx
  · rw [failLate_asyncs, entry?_idx h]

theorem lateFailure_waits {why : LateReason} (h : s.entry? k i = some (c, e)) (hf : s.failsNow c e why = false) :
    exec (.lateFailure k i why) s = .next s := by
  rw [exec_lateFailure, execLateFailure, h]
  simp [hf]

end Sys2Proof.Machine
end

section
/-! SUPPORT. Messages on their way (R287 to R291, R339): what an answer does to a send, and what a write of an image does to the pool it
lands in. -/

namespace Sys2Proof.Machine

variable {s t u : State} {c r : Ctx} {k j : Key} {f : Send → Send} {x : Send} {h : Nat} {img : BitVec 512} {p : Posted}

/-! ## Sends (R288) -/

/-- What is kept of a list of records stood in the list. -/
theorem mem_of_mem_keepRecent {α : Type} {n : Nat} {old : α → Bool} {l : List α} {y : α} (h : y ∈ keepRecent n old l) : y ∈ l := by
  have hfold : ∀ (l : List α) (acc : List α × Nat),
      y ∈ (l.foldl (fun acc x => if old x && acc.2 ≠ 0 then (acc.1, acc.2 - 1) else (acc.1 ++ [x], acc.2)) acc).1 → y ∈ acc.1 ∨ y ∈ l := by
    intro l
    induction l with
    | nil => exact fun _ h => .inl h
    | cons a l ih =>
      intro acc h
      rw [List.foldl_cons] at h
      rcases ih _ h with h | h
      · split at h
        · exact .inl h
        · rcases List.mem_append.mp h with h | h
          · exact .inl h
          · exact .inr (List.mem_singleton.mp h ▸ .head _)
      · exact .inr (.tail _ h)
  simpa using hfold l _ h

theorem send?_spec (hx : c.send? h = some x) : x.handle = h ∧ x ∈ c.sends ∧ x.ended = false := by
  have hp := List.find?_some hx
  simp only [Bool.and_eq_true, decide_eq_true_eq, Bool.not_eq_true'] at hp
  exact ⟨hp.1, List.mem_of_find?_eq_some hx, hp.2⟩

/-- A change of a send changes nothing of the context but its sends. -/
theorem mapSend_eq (c : Ctx) (h : Nat) (f : Send → Send) : ∃ l, c.mapSend h f = { c with sends := l } := by
  unfold Ctx.mapSend
  dsimp only
  split <;> exact ⟨_, rfl⟩

theorem mapSend_stays (h : Nat) (f : Send → Send) : Ctx.Stays fun c => c.mapSend h f := by
  constructor <;>
  · intro c
    obtain ⟨l, hl⟩ := mapSend_eq c h f
    simp only [hl]

/-- A send of the handle, after a change of it, is the changed one. -/
theorem mem_mapSend {y : Send} (hy : y ∈ (c.mapSend h f).sends) (hh : y.handle = h) :
    ∃ z ∈ c.sends, z.handle = h ∧ y = f z := by
  unfold Ctx.mapSend at hy
  dsimp only at hy
  split at hy
  · rcases List.mem_append.mp (mem_of_mem_keepRecent hy) with hy | hy
    · simp [hh] at hy
    · obtain ⟨z, hz, rfl⟩ := List.mem_map.mp hy
      exact ⟨z, (List.mem_filter.mp hz).1, by simpa using (List.mem_filter.mp hz).2, rfl⟩
  · obtain ⟨z, hz, rfl⟩ := List.mem_map.mp hy
    by_cases hzh : z.handle = h
    · exact ⟨z, hz, hzh, by simp [hzh]⟩
    · simp [hzh] at hh

/-- A step leaves every send of the context at `k` under the handle `h` with `p`. -/
def SendBecomes (i : Instr) (s : State) (k : Key) (h : Nat) (p : Send → Prop) : Prop :=
  ∃ t c', exec i s = .next t ∧ t.ctx? k = some c' ∧ ∀ y ∈ c'.sends, y.handle = h → p y

/-- A step that changes a send by `f`, and then nothing of the sends. -/
theorem sendBecomes_of_mapSend {i : Instr} {p : Send → Prop} {g : Ctx → Ctx} (hi : exec i s = .next u)
    (hu : u.ctxs = ((t.mapCtx k fun c => c.mapSend h f).mapCtx k g).ctxs) (hg : Ctx.Stays g) (hgs : ∀ c, (g c).sends = c.sends)
    (ht : t.ctx? k = some c) (hp : ∀ z ∈ c.sends, z.handle = h → p (f z)) : SendBecomes i s k h p := by
  have hmap := ctx?_mapCtx hg (ctx?_mapCtx (mapSend_stays h f) ht)
  refine ⟨u, _, hi, (congrArg (List.find? _) hu).trans hmap, fun y hy hh => ?_⟩
  rw [hgs] at hy
  obtain ⟨z, hz, hzh, rfl⟩ := mem_mapSend hy hh
  exact hp z hz hzh

theorem Ctx.stays_id : Ctx.Stays id := {}

theorem mapCtx_id_ctxs (s : State) (k : Key) : (s.mapCtx k id).ctxs = s.ctxs := by
  have hm : (s.mapCtx k id).ctxs = s.ctxs.map fun c => if decide (c.key = k) && c.resident then id c else c := rfl
  simp [hm]

/-! ## Answers (R287) -/

theorem answerSend_mem (s : State) (k : Key) (h : Nat) (a : SendAnswer) : (s.answerSend k h a).mem = s.mem := rfl

theorem mapSend_if_eq (c : Ctx) (k : Key) (h : Nat) (f : Send → Send) :
    ∃ l, (if c.key = k then c.mapSend h f else c) = { c with sends := l } := by
  split
  · exact mapSend_eq c h f
  · exact ⟨c.sends, rfl⟩

/-- An answer changes of the contexts nothing but the sends of the sender. -/
theorem answerSend_ofKernel {kid n : Nat} {a : SendAnswer} (hr : s.ofKernel kid n = some r) :
    ∃ l, (s.answerSend k h a).ofKernel kid n = some { r with sends := l } := by
  obtain ⟨l, hl⟩ := mapSend_if_eq r k h fun x => { x with answer := some a, answered := s.order + 1 }
  exact ⟨l, hl ▸ ofKernel_mapCtx (mapSend_stays h _) hr⟩

theorem answerSend_ctx? {a : SendAnswer} (hc : s.ctx? j = some c) :
    ∃ l, (s.answerSend k h a).ctx? j = some { c with sends := l } := by
  obtain ⟨l, hl⟩ := mapSend_if_eq c k h fun x => { x with answer := some a, answered := s.order + 1 }
  exact ⟨l, hl ▸ ctx?_mapCtx_of (mapSend_stays h _) hc⟩

theorem sendBecomes_answer {i : Instr} {a : SendAnswer} (hi : exec i s = .next (t.answerSend k h a)) (ht : (t.ctx? k).isSome) :
    SendBecomes i s k h fun y => y.answer = some a := by
  obtain ⟨c, hc⟩ := Option.isSome_iff_exists.mp ht
  exact sendBecomes_of_mapSend (f := fun x => { x with answer := some a, answered := t.order + 1 }) hi (mapCtx_id_ctxs _ k).symm
    Ctx.stays_id (fun _ => rfl) hc fun _ _ _ => rfl

/-! ## A message image (R290, R339) -/

/-- The eight doublewords of an image, each with its distance and its bytes. -/
def imageParts (img : BitVec 512) : List (Nat × Nat × Nat) := (List.range 8).map fun j => (8 * j, 8, img.toNat / 256 ^ (8 * j) % 2 ^ 64)

/-- The value of cells that hold the bytes of a value from distance `j` up. -/
theorem cells_value (v j n : Nat) :
    ((List.range' j n).map fun i => ((i, BitVec.ofNat 8 (v >>> (8 * i))) : Host.Cell)).foldr (fun c a => c.2.toNat + 256 * a) 0 =
      v / 256 ^ j % 256 ^ n := by
  induction n generalizing j with
  | zero => simp [Nat.mod_one]
  | succ n ih =>
    have hj : v >>> (8 * j) = v / 256 ^ j := by rw [Nat.shiftRight_eq_div_pow, Nat.pow_mul]
    rw [List.range'_succ, List.map_cons, List.foldr_cons, ih, BitVec.toNat_ofNat, hj, Nat.pow_succ' (n := n), Nat.mod_mul,
      Nat.pow_succ (n := 256), Nat.div_div_eq_div_mul]

theorem partsOf_image (img : BitVec 512) : partsOf (valueCells 64 img.toNat) 8 = imageParts img := by
  have hgroups : (((List.range 64).map fun i => i / 8).eraseDups) = List.range 8 := by decide
  have hgroup : ∀ g < 8, ((List.range 64).filter fun i => decide (i / 8 = g)) = List.range' (8 * g) 8 := by decide
  have hcells : (valueCells 64 img.toNat).map (fun c => c.1 / 8) = (List.range 64).map fun i => i / 8 := by
    simp [valueCells, Function.comp_def]
  unfold partsOf imageParts
  rw [hcells, hgroups]
  refine List.map_congr_left fun g hg => ?_
  have hcs : (valueCells 64 img.toNat).filter (fun c => decide (c.1 / 8 = g)) =
      (List.range' (8 * g) 8).map fun i => (i, BitVec.ofNat 8 (img.toNat >>> (8 * i))) := by
    rw [valueCells, List.filter_map, ← hgroup g (List.mem_range.mp hg)]
    rfl
  dsimp only
  rw [hcs, cells_value]
  simp [List.head?_range']

/-- The write of one part of an image, sent at a moment of the running order. -/
def partPost (kind : PostKind) (k : Key) (pa seq : Nat) (q : Nat × Nat × Nat) : Post :=
  ⟨kind, k, k.h, k.h, physOf (pa + q.1), q.2.1, q.2.2, false, seq⟩

/-- Parts that are sent join the writes on their way, in their order. -/
theorem addParts_eq (s : State) (kind : PostKind) (k : Key) (pa : Nat) (ps : List (Nat × Nat × Nat)) :
    ps.foldl (fun s p => s.addPost kind k k.h k.h (pa + p.1) p.2.1 p.2.2 false) s =
      { s with posts := s.posts ++ ps.mapIdx fun i => partPost kind k pa (s.order + i), order := s.order + ps.length } := by
  induction ps generalizing s with
  | nil => simp
  | cons q ps ih =>
    rw [List.foldl_cons, ih, List.mapIdx_cons]
    simp [State.addPost, State.tickOrder, partPost, Nat.add_assoc, Nat.add_comm 1]

theorem writeImage_whole {kind : PostKind} {pa : Nat} (h : s.apart = false) :
    s.writeImage kind k pa img = s.storeCells pa (valueCells 64 img.toNat) := by
  simp [State.writeImage, State.writeParts, h]

theorem writeImage_apart {kind : PostKind} {pa : Nat} (h : s.apart = true) :
    s.writeImage kind k pa img = { s with
      apart := false, posts := s.posts ++ (imageParts img).mapIdx fun i => partPost kind k pa (s.order + i), order := s.order + 8 } := by
  have hlen : (imageParts img).length = 8 := by simp [imageParts]
  unfold State.writeImage State.writeParts
  dsimp only
  rw [partsOf_image, if_pos (by simp [h, hlen]), addParts_eq, hlen]

theorem writeImage_alike (s : State) (kind : PostKind) (k : Key) (pa : Nat) (img : BitVec 512) : s.Alike (s.writeImage kind k pa img) := by
  cases h : s.apart with
  | false => rw [writeImage_whole h]; exact .storeCells ..
  | true => rw [writeImage_apart h]; exact .refl s

/-- An image that is written at once stands at its place (R290). -/
theorem writeImage_mem {kind : PostKind} {pa : Nat} (h : s.apart = false) :
    (s.writeImage kind k pa img).mem = (s.store pa 64 img.toNat).mem := by
  rw [writeImage_whole h, storeCells_value, State.store_mem]

/-! ## Fields of words -/

theorem fld_eq_extract {n : Nat} (w : BitVec n) (hi lo : Nat) : fld w hi lo = (w.extractLsb' lo (hi - lo + 1)).toNat := by
  simp [fld, BitVec.extractLsb'_toNat]

/-- A field that is put reads back. -/
theorem extract_putFld {n : Nat} (w : BitVec n) (hi lo v : Nat) (hn : lo + (hi - lo + 1) ≤ n) :
    (putFld w hi lo v).extractLsb' lo (hi - lo + 1) = BitVec.ofNat (hi - lo + 1) v := by
  refine BitVec.eq_of_getLsbD_eq fun i hi' => ?_
  have hi2 : lo + i < n := by omega
  have hm : ((2 ^ (hi - lo + 1) - 1) <<< lo).testBit (lo + i) = true := by
    simp [Nat.testBit_shiftLeft, Nat.testBit_two_pow_sub_one, hi']
  simp only [putFld, BitVec.getLsbD_extractLsb', BitVec.getLsbD_or, BitVec.getLsbD_and, BitVec.getLsbD_not, BitVec.getLsbD_ofNat, hm]
  simp [hi', hi2, Nat.testBit_shiftLeft]

/-! ## Landing (R290, R291) -/

theorem landPosted_alike (s : State) (c : Ctx) (buf : Nat) (img : BitVec 512) : s.Alike (s.landPosted c buf img) := by
  have hw := writeImage_alike s .landing c.key (c.localPlace buf) img
  unfold State.landPosted
  dsimp only
  split
  · exact hw.trans (.of_ctxs rfl)
  · exact hw.trans (.store ..)

theorem storeCells_posts (s : State) (pa : Nat) (l : List Host.Cell) : (s.storeCells pa l).posts = s.posts := by
  have h := congrArg State.posts (storeCells_sansMem s pa l)
  exact h

/-- A message that lands at once: its 64 bytes stand in the buffer, and the count beside them is one higher (R290). -/
theorem landPosted_reads {buf : Nat} (hs : Safe s) (ha : s.apart = false) :
    memRead (s.landPosted c buf img).mem (c.localPlace buf) 64 = img.toNat ∧
      memRead (s.landPosted c buf img).mem (c.localPlace buf + 64) 8 = (memRead s.mem (c.localPlace buf + 64) 8 + 1) % 2 ^ 64 := by
  generalize hpl : c.localPlace buf = p
  have hposts : (s.writeImage .landing c.key p img).posts = s.posts := by
    rw [writeImage_whole ha, storeCells_posts]
  have hland : s.landPosted c buf img = (s.writeImage .landing c.key p img).store (p + 64) 8
      (portOp 0 8 ((s.writeImage .landing c.key p img).load (p + 64) 8) 1) := by
    unfold State.landPosted
    dsimp only
    rw [hpl, if_neg (by simp [hposts])]
  have hsafe : Safe (s.writeImage .landing c.key p img) := hs.writeImage
  have himg := store_reads_back hs (writeImage_mem (kind := .landing) (k := c.key) (pa := p) (img := img) ha)
  have hcount : memRead (s.writeImage .landing c.key p img).mem (p + 64) 8 = memRead s.mem (p + 64) 8 :=
    memRead_congr _ _ fun b hb _ => himg.2 b (.inr hb)
  have hlt := img.isLt
  constructor
  · rw [hland, memRead_congr _ _ fun b _ hb => store_memSameBut hsafe (p + 64) 8 _ b (.inl hb), himg.1]
    omega
  · rw [hland, store_read hsafe]
    simp only [portOp, State.load, hcount]
    omega

theorem setPost_stays (n : Nat) (st : PostState) : Ctx.Stays fun c => c.setPost n st := {}

theorem matchPost_isSome (hk : (s.ctx? k).isSome) : ((s.matchPost c p img).ctx? k).isSome :=
  ctx?_mapCtx_isSome (setPost_stays ..) ((landPosted_alike ..).isSome hk)

theorem matchPost_mem (s : State) (c : Ctx) (p : Posted) (img : BitVec 512) : (s.matchPost c p img).mem = (s.landPosted c p.buf img).mem := rfl

/-- The reply ring of a context has room (R291). -/
def Ctx.ringRoom (c : Ctx) : Prop :=
  fld c.msg.rring 27 24 ≠ 0 ∧ (fld c.msg.rrhead 31 16 + 2 ^ 16 - fld c.msg.rrhead 15 0) % 2 ^ 16 < 2 ^ fld c.msg.rring 27 24

/-- The local-window offset of the slot of the reply ring that the next reply takes (R291). -/
def Ctx.ringSlot (c : Ctx) : Nat := fld c.msg.rring 19 6 * 64 + 64 * (fld c.msg.rrhead 31 16 % 2 ^ fld c.msg.rring 27 24)

theorem ringRoom_iff (c : Ctx) : c.ringRoom ↔ (c.msg.rring.extractLsb' 24 4).toNat ≠ 0 ∧
    ((c.msg.rrhead.extractLsb' 16 16).toNat + 2 ^ 16 - (c.msg.rrhead.extractLsb' 0 16).toNat) % 2 ^ 16 <
      2 ^ (c.msg.rring.extractLsb' 24 4).toNat := by
  unfold Ctx.ringRoom
  rw [fld_eq_extract c.msg.rring, fld_eq_extract c.msg.rrhead, fld_eq_extract c.msg.rrhead]

theorem ringSlot_eq (c : Ctx) : c.ringSlot = 64 * ((c.msg.rring.extractLsb' 6 14).toNat +
    (c.msg.rrhead.extractLsb' 16 16).toNat % 2 ^ (c.msg.rring.extractLsb' 24 4).toNat) := by
  unfold Ctx.ringSlot
  rw [fld_eq_extract c.msg.rring 19 6, fld_eq_extract c.msg.rring 27 24, fld_eq_extract c.msg.rrhead 31 16, Nat.mul_add,
    Nat.mul_comm (BitVec.toNat _) 64]

/-- A context with the tail of its reply ring at `v`. -/
def Ctx.withTail (v : Nat) (c : Ctx) : Ctx := { c with msg := { c.msg with rrhead := putFld c.msg.rrhead 31 16 v } }

/-- A reply takes the next slot of the ring of a context (R291). -/
def State.ringReply (s : State) (c : Ctx) (img : BitVec 512) : State :=
  (s.writeImage .thread c.key (c.localPlace c.ringSlot) img).mapCtx c.key (Ctx.withTail ((fld c.msg.rrhead 31 16 + 1) % 2 ^ 16))

theorem withTail_stays (v : Nat) : Ctx.Stays (Ctx.withTail v) := {}

theorem landReply_posted (hp : c.postFor img = some p) : s.landReply c img = some (s.matchPost c p img) := by
  simp [State.landReply, hp]

theorem landReply_ring (hp : c.postFor img = none) (hr : c.ringRoom) : s.landReply c img = some (s.ringReply c img) := by
  unfold State.landReply
  dsimp only
  rw [hp]
  exact if_pos (by simpa [Ctx.ringRoom] using hr)

theorem landReply_full (hp : c.postFor img = none) (hr : ¬ c.ringRoom) : s.landReply c img = none := by
  unfold State.landReply
  dsimp only
  rw [hp]
  exact if_neg (by simpa [Ctx.ringRoom] using hr)

theorem ringReply_isSome (hk : (s.ctx? k).isSome) : ((s.ringReply c img).ctx? k).isSome :=
  ctx?_mapCtx_isSome (withTail_stays _) ((writeImage_alike ..).isSome hk)

theorem landReply_isSome (hu : s.landReply c img = some u) (hk : (s.ctx? k).isSome) : (u.ctx? k).isSome := by
  cases hp : c.postFor img with
  | some p =>
    rw [landReply_posted hp] at hu
    cases hu
    exact matchPost_isSome hk
  | none =>
    by_cases hr : c.ringRoom
    · rw [landReply_ring hp hr] at hu
      cases hu
      exact ringReply_isSome hk
    · rw [landReply_full hp hr] at hu
      cases hu

/-- A reply that takes a slot of the ring moves its tail by one (R291). -/
theorem ringReply_ofKernel {kid n : Nat} (hr : s.ofKernel kid n = some r) :
    ∃ d, (s.ringReply r img).ofKernel kid n = some d ∧
      (d.msg.rrhead.extractLsb' 16 16).toNat = (fld r.msg.rrhead 31 16 + 1) % 2 ^ 16 := by
  obtain ⟨d, hd, hdr⟩ := (writeImage_alike s .thread r.key (r.localPlace r.ringSlot) img).ofKernel hr
  have hkey : d.key = r.key := (congrArg Ctx.key hdr :)
  have hmap := ofKernel_mapCtx (k := r.key) (withTail_stays ((fld r.msg.rrhead 31 16 + 1) % 2 ^ 16)) hd
  rw [if_pos hkey] at hmap
  have htail := extract_putFld d.msg.rrhead 31 16 ((fld r.msg.rrhead 31 16 + 1) % 2 ^ 16) (by omega)
  refine ⟨_, hmap, ?_⟩
  change ((putFld d.msg.rrhead 31 16 _).extractLsb' 16 16).toNat = _
  rw [htail]
  simp

/-! ## A message at its destination (R287) -/

theorem exec_messageArrival (k : Key) (h : Nat) (s : State) : exec (.messageArrival k h) s = execMessageArrival k h s := rfl

/-- The send `x` of the context `c` at `k` is on its way, the oldest of its pair, and waits in no hold slot (R14, R291). -/
structure State.Arrives (s : State) (k : Key) (h : Nat) (c : Ctx) (x : Send) : Prop where
  ctx : s.ctx? k = some c
  send : c.send? h = some x
  inFlight : x.inFlight = true
  first : s.firstOfPair c x = true
  free : s.isHeld k h = false

theorem State.Arrives.handle (ha : s.Arrives k h c x) : x.handle = h := (send?_spec ha.send).1

theorem State.Arrives.isSome (ha : s.Arrives k h c x) : (s.ctx? k).isSome := by
  rw [ha.ctx]
  rfl

theorem messageArrival_retries (ha : s.Arrives k h c x) (hr : s.retries c.kid (c.leafBase + x.dest) = true) :
    exec (.messageArrival k h) s = .next (s.answerSend k h .retry) := by
  simp [exec_messageArrival, execMessageArrival, ha.ctx, ha.send, ha.inFlight, ha.first, ha.free, hr]

theorem messageArrival_absent (ha : s.Arrives k h c x) (hr : s.retries c.kid (c.leafBase + x.dest) = false)
    (ho : s.ofKernel c.kid (c.leafBase + x.dest) = none) : exec (.messageArrival k h) s = .next (s.answerSend k h (.reject 1)) := by
  simp [exec_messageArrival, execMessageArrival, ha.ctx, ha.send, ha.inFlight, ha.first, ha.free, hr, ho]

/-- A message that lands in a pool waits for the wake of a gated site (R404). -/
theorem messageArrival_gated (ha : s.Arrives k h c x) (hr : s.retries c.kid (c.leafBase + x.dest) = false)
    (ho : s.ofKernel c.kid (c.leafBase + x.dest) = some r) (hg : s.poweredSite (c.leafBase + x.dest) = false)
    (hpas : imgPas x.img = true) (hp : r.postFor x.img = some p) : exec (.messageArrival k h) s = .next s := by
  simp [exec_messageArrival, execMessageArrival, ha.ctx, ha.send, ha.inFlight, ha.first, ha.free, hr, ho, hg, hpas, hp]

/-- Any other message is received by the context it finds (R287, R290, R291). -/
theorem messageArrival_received (ha : s.Arrives k h c x) (hr : s.retries c.kid (c.leafBase + x.dest) = false)
    (ho : s.ofKernel c.kid (c.leafBase + x.dest) = some r)
    (hg : s.poweredSite (c.leafBase + x.dest) = true ∨ imgRpy x.img = false ∧ (imgPas x.img = true → r.postFor x.img = none)) :
    exec (.messageArrival k h) s = .next (if imgRpy x.img then s.replyArrival k x r
      else if imgPas x.img then s.passiveArrival k x r else s.mailArrival k x r) := by
  have hopen : (!s.poweredSite (c.leafBase + x.dest) && (imgRpy x.img || (imgPas x.img && (r.postFor x.img).isSome))) = false := by
    rcases hg with hg | ⟨hrpy, hpas⟩
    · simp [hg]
    · cases hb : imgPas x.img with
      | false => simp [hrpy]
      | true => simp [hrpy, hpas hb]
  have hgo : (!(x.inFlight && s.firstOfPair c x) || s.isHeld k h) = false := by simp [ha.inFlight, ha.first, ha.free]
  simp only [exec_messageArrival, execMessageArrival, ha.ctx, ha.send, hgo, hr, ho, hopen, Bool.false_eq_true, if_false]
  split
  · rfl
  · split <;> rfl

/-! ### Messages for a mailbox (R287) -/

/-- A context whose mailbox, and under handler discipline its events, gained a message. -/
def Ctx.mailed (img : BitVec 512) (c : Ctx) : Ctx := ({ c with mailbox := c.mailbox ++ [⟨img, false⟩] } : Ctx).register (.message img)

theorem mailed_eq (img : BitVec 512) (c : Ctx) : c.mailed img = { c with
    mailbox := c.mailbox ++ [⟨img, false⟩], events := if c.thread then c.events else c.events ++ [.message img] } := by
  unfold Ctx.mailed Ctx.register
  dsimp only
  split <;> rfl

theorem mailed_stays (img : BitVec 512) : Ctx.Stays (Ctx.mailed img) := by
  constructor <;>
  · intro c
    rw [mailed_eq]

theorem mailArrival_noHandler (hn : s.handler? r (imgHnd x.img) = none) : s.mailArrival k x r = s.answerSend k x.handle (.reject 2) := by
  simp [State.mailArrival, hn]

theorem mailArrival_full (hn : (s.handler? r (imgHnd x.img)).isSome) (hm : r.mailbox.length = r.msg.mbox) :
    s.mailArrival k x r = (s.mapCtx r.key Ctx.addRefg).answerSend k x.handle .refuse := by
  have hn := Option.isSome_iff_ne_none.mp hn
  simp [State.mailArrival, hn, hm]

theorem mailArrival_enters (hn : (s.handler? r (imgHnd x.img)).isSome) (hm : r.mailbox.length ≠ r.msg.mbox) :
    s.mailArrival k x r = (s.mapCtx r.key (Ctx.mailed x.img)).answerSend k x.handle .accept := by
  have hn := Option.isSome_iff_ne_none.mp hn
  unfold State.mailArrival Ctx.mailed
  simp [hn, hm]

theorem addRefg_stays : Ctx.Stays Ctx.addRefg := {}

/-- A message that enters a mailbox stands at its end, and its event at the end of the events of a handler (R287). -/
theorem mailed_ofKernel {kid n m : Nat} {a : SendAnswer} (hr : s.ofKernel kid n = some r) :
    ∃ d, ((s.mapCtx r.key (Ctx.mailed img)).answerSend k m a).ofKernel kid n = some d ∧ d.mailbox = r.mailbox ++ [⟨img, false⟩] ∧
      d.events = if r.thread then r.events else r.events ++ [.message img] := by
  have hmap := ofKernel_mapCtx (k := r.key) (mailed_stays img) hr
  rw [if_pos rfl, mailed_eq] at hmap
  obtain ⟨l, hl⟩ := answerSend_ofKernel (k := k) (h := m) (a := a) hmap
  exact ⟨_, hl, rfl, rfl⟩

/-! ### Passive messages (R290) -/

theorem passiveArrival_posted (hp : r.postFor x.img = some p) :
    s.passiveArrival k x r = (s.matchPost r p x.img).answerSend k x.handle .accept := by
  simp [State.passiveArrival, hp]

theorem passiveArrival_overflows (hp : r.postFor x.img = none) (ho : r.overflow.length < 16) :
    s.passiveArrival k x r =
      (s.mapCtx r.key fun c => { c with overflow := c.overflow ++ [x.img] }).answerSend k x.handle .accept := by
  simp [State.passiveArrival, hp, ho]

theorem passiveArrival_refused (hp : r.postFor x.img = none) (ho : 16 ≤ r.overflow.length) :
    s.passiveArrival k x r =
      (s.mapCtx r.key fun c => c.addRefg.async 29 (overflowWord 1 x.img) 0 .T).answerSend k x.handle .refuse := by
  simp [State.passiveArrival, hp, Nat.not_lt.mpr ho]

/-! ### Replies (R291) -/

theorem replyArrival_behind (hh : r.hold ≠ none) : s.replyArrival k x r = s := by
  simp [State.replyArrival, Option.isSome_iff_ne_none.mpr hh]

theorem replyArrival_lands (hh : r.hold = none) (hl : s.landReply r x.img = some u) :
    s.replyArrival k x r = u.answerSend k x.handle .accept := by
  simp [State.replyArrival, hh, hl]

/-- A context whose hold slot takes a reply, with cause 29 (R291). -/
def Ctx.holding (k : Key) (x : Send) (c : Ctx) : Ctx :=
  ({ c with hold := some ⟨k, x.handle, x.img⟩ } : Ctx).async 29 (overflowWord 2 x.img) 0 .T

theorem replyArrival_holds (hh : r.hold = none) (hl : s.landReply r x.img = none) :
    s.replyArrival k x r = s.mapCtx r.key (Ctx.holding k x) := by
  unfold Ctx.holding
  simp [State.replyArrival, hh, hl]

theorem holding_stays (k : Key) (x : Send) : Ctx.Stays (Ctx.holding k x) := {}

theorem SendBecomes.mono {i : Instr} {p q : Send → Prop} (hb : SendBecomes i s k h p) (hpq : ∀ y, p y → q y) : SendBecomes i s k h q := by
  obtain ⟨t, d, ht, hd, hy⟩ := hb
  exact ⟨t, d, ht, hd, fun y hy' hh => hpq y (hy y hy' hh)⟩

/-- A step that changes a send by `f`, and nothing else of the contexts. -/
theorem sendBecomes_put {i : Instr} {p : Send → Prop} (hi : exec i s = .next (s.mapCtx k fun c => c.mapSend h f))
    (hc : s.ctx? k = some c) (hp : ∀ z ∈ c.sends, z.handle = h → p (f z)) : SendBecomes i s k h p :=
  sendBecomes_of_mapSend hi (mapCtx_id_ctxs _ k).symm Ctx.stays_id (fun _ => rfl) hc hp

/-! ## Arrivals and their answers -/

theorem arrival_noHandler (ha : s.Arrives k h c x) (hr : s.retries c.kid (c.leafBase + x.dest) = false)
    (ho : s.ofKernel c.kid (c.leafBase + x.dest) = some r) (hrpy : imgRpy x.img = false) (hpas : imgPas x.img = false)
    (hn : s.handler? r (imgHnd x.img) = none) : SendBecomes (.messageArrival k h) s k h fun y => y.answer = some (.reject 2) := by
  have hi := messageArrival_received ha hr ho (.inr ⟨hrpy, by simp [hpas]⟩)
  simp only [hrpy, hpas, Bool.false_eq_true, if_false, mailArrival_noHandler hn, ha.handle] at hi
  exact sendBecomes_answer hi ha.isSome

theorem arrival_mailFull (ha : s.Arrives k h c x) (hr : s.retries c.kid (c.leafBase + x.dest) = false)
    (ho : s.ofKernel c.kid (c.leafBase + x.dest) = some r) (hrpy : imgRpy x.img = false) (hpas : imgPas x.img = false)
    (hn : (s.handler? r (imgHnd x.img)).isSome) (hm : r.mailbox.length = r.msg.mbox) :
    SendBecomes (.messageArrival k h) s k h fun y => y.answer = some .refuse := by
  have hi := messageArrival_received ha hr ho (.inr ⟨hrpy, by simp [hpas]⟩)
  simp only [hrpy, hpas, Bool.false_eq_true, if_false, mailArrival_full hn hm, ha.handle] at hi
  exact sendBecomes_answer hi (ctx?_mapCtx_isSome addRefg_stays ha.isSome)

/-- A message that its destination's mailbox takes (R287). -/
theorem arrival_mailed (ha : s.Arrives k h c x) (hr : s.retries c.kid (c.leafBase + x.dest) = false)
    (ho : s.ofKernel c.kid (c.leafBase + x.dest) = some r) (hrpy : imgRpy x.img = false) (hpas : imgPas x.img = false)
    (hn : (s.handler? r (imgHnd x.img)).isSome) (hm : r.mailbox.length ≠ r.msg.mbox) :
    exec (.messageArrival k h) s = .next ((s.mapCtx r.key (Ctx.mailed x.img)).answerSend k h .accept) := by
  have hi := messageArrival_received ha hr ho (.inr ⟨hrpy, by simp [hpas]⟩)
  simpa only [hrpy, hpas, Bool.false_eq_true, if_false, mailArrival_enters hn hm, ha.handle] using hi

/-- A passive message that is received (R290). -/
theorem arrival_passive (ha : s.Arrives k h c x) (hr : s.retries c.kid (c.leafBase + x.dest) = false)
    (ho : s.ofKernel c.kid (c.leafBase + x.dest) = some r) (hrpy : imgRpy x.img = false) (hpas : imgPas x.img = true)
    (hg : s.poweredSite (c.leafBase + x.dest) = true ∨ r.postFor x.img = none) :
    exec (.messageArrival k h) s = .next (s.passiveArrival k x r) := by
  have hi := messageArrival_received ha hr ho (hg.imp_right fun hp => ⟨hrpy, fun _ => hp⟩)
  simpa only [hrpy, hpas, Bool.false_eq_true, if_false, if_true] using hi

/-- A reply that reaches a powered site (R291). -/
theorem arrival_reply (ha : s.Arrives k h c x) (hr : s.retries c.kid (c.leafBase + x.dest) = false)
    (ho : s.ofKernel c.kid (c.leafBase + x.dest) = some r) (hrpy : imgRpy x.img = true)
    (hg : s.poweredSite (c.leafBase + x.dest) = true) : exec (.messageArrival k h) s = .next (s.replyArrival k x r) := by
  have hi := messageArrival_received ha hr ho (.inl hg)
  simpa only [hrpy, if_true] using hi

/-- A message that is answered `accept` once it has landed in a posted receive: its image and the count of the buffer (R290). -/
theorem lands_in_post {i : Instr} (hi : exec i s = .next ((s.matchPost r p img).answerSend k h .accept)) (hk : (s.ctx? k).isSome)
    (hs : Safe s) : SendBecomes i s k h (fun y => y.answer = some .accept) ∧ ∀ t, s.apart = false → exec i s = .next t →
      memRead t.mem (r.localPlace p.buf) 64 = img.toNat ∧
      memRead t.mem (r.localPlace p.buf + 64) 8 = (memRead s.mem (r.localPlace p.buf + 64) 8 + 1) % 2 ^ 64 := by
  refine ⟨sendBecomes_answer hi (matchPost_isSome hk), fun t hap ht => ?_⟩
  rw [hi] at ht
  cases ht
  rw [answerSend_mem, matchPost_mem]
  exact landPosted_reads hs hap

/-- A reply that is answered `accept` once it has landed in the ring: its image, and the tail beyond it (R291). -/
theorem lands_in_ring {i : Instr} {kid n : Nat} (hi : exec i s = .next ((s.ringReply r img).answerSend k h .accept))
    (hk : (s.ctx? k).isSome) (hs : Safe s) (ho : s.ofKernel kid n = some r) :
    SendBecomes i s k h (fun y => y.answer = some .accept) ∧ ∀ t, s.apart = false → exec i s = .next t →
      memRead t.mem (r.localPlace r.ringSlot) 64 = img.toNat ∧
      ∃ r', t.ofKernel kid n = some r' ∧ (r'.msg.rrhead.extractLsb' 16 16).toNat = (fld r.msg.rrhead 31 16 + 1) % 2 ^ 16 := by
  refine ⟨sendBecomes_answer hi (ringReply_isSome hk), fun t hap ht => ?_⟩
  rw [hi] at ht
  cases ht
  obtain ⟨d, hd, htail⟩ := ringReply_ofKernel (img := img) ho
  obtain ⟨l, hl⟩ := answerSend_ofKernel (k := k) (h := h) (a := .accept) hd
  have hread := (store_reads_back (u := s.writeImage .thread r.key (r.localPlace r.ringSlot) img) hs (writeImage_mem hap)).1
  have hlt := img.isLt
  refine ⟨?_, _, hl, htail⟩
  rw [answerSend_mem]
  refine hread.trans ?_
  omega

/-- A reply that its destination can not land waits in the hold slot (R291). -/
theorem reply_held {kid n : Nat} (ho : s.ofKernel kid n = some r) : (s.mapCtx r.key (Ctx.holding k x)).mem = s.mem ∧
    (s.mapCtx r.key (Ctx.holding k x)).ofKernel kid n = some (r.holding k x) := by
  refine ⟨rfl, ?_⟩
  rw [ofKernel_mapCtx (holding_stays k x) ho, if_pos rfl]

/-! ## Injection, answers and retries (R287 to R289) -/

theorem exec_packetInjection (k : Key) (h : Nat) (s : State) : exec (.packetInjection k h) s = execPacketInjection k h s := rfl
theorem exec_messageAnswer (k : Key) (h : Nat) (s : State) : exec (.messageAnswer k h) s = execMessageAnswer k h s := rfl
theorem exec_sendBackoffExpiry (k : Key) (h : Nat) (s : State) : exec (.sendBackoffExpiry k h) s = execSendBackoffExpiry k h s := rfl
theorem exec_messageRetryResend (k : Key) (h : Nat) (s : State) : exec (.messageRetryResend k h) s = execMessageRetryResend k h s := rfl

theorem packetInjection_injects (hc : s.ctx? k = some c) (hx : c.send? h = some x) (hh : h < 2 ^ 32) (hq : x.st = .queued) :
    exec (.packetInjection k h) s = .next (s.injectSend c x) := by
  rw [exec_packetInjection, execPacketInjection, hc]
  dsimp only
  rw [if_pos hh, hx]
  simp [hq]

theorem injectSend_waits (hf : c.sendsFirst x = false) : s.injectSend c x = s := by
  unfold State.injectSend
  dsimp only
  split
  · rfl
  · simp [hf]

theorem Ctx.stays_count (ev n : Nat) : Ctx.Stays fun c => c.count ev n := {}

theorem stampFor_ctx? {cls f n : Nat} (hc : s.ctx? k = some c) : (s.stampFor c cls f n).ctx? k = some (c.count 5 n) := by
  unfold State.stampFor State.countFor
  rw [(ctx?_spec hc).1]
  exact ctx?_mapCtx (Ctx.stays_count 5 n) hc

/-- A queued send that goes first and finds a frame is on its way (R288, R309). -/
theorem packetInjection_sends {f : Nat} (hc : s.ctx? k = some c) (hx : c.send? h = some x) (hh : h < 2 ^ 32) (hq : x.st = .queued)
    (hf : s.frameFor k.h c.leaf (if imgRpy x.img then 1 else 0) = some f) (hfirst : c.sendsFirst x = true) :
    SendBecomes (.packetInjection k h) s k h fun y => y.st = .sent ∧ y.answer = none := by
  have hkey : c.key = k := (ctx?_spec hc).1
  have hstep : s.injectSend c x = (((s.stampFor c (if imgRpy x.img then 1 else 0) f (Config.packetFlits s.tick)).mapCtx c.key fun c =>
      c.mapSend x.handle fun x => { x with st := .sent, order := s.order, answer := none }).tickOrder) := by
    unfold State.injectSend
    dsimp only
    rw [hkey, hf]
    simp [hfirst]
  rw [hkey, (send?_spec hx).1] at hstep
  have hi := packetInjection_injects hc hx hh hq
  rw [hstep] at hi
  exact sendBecomes_of_mapSend hi (mapCtx_id_ctxs _ k).symm Ctx.stays_id (fun _ => rfl) (stampFor_ctx? hc) fun _ _ _ => ⟨rfl, rfl⟩

theorem messageAnswer_found (hc : s.ctx? k = some c) (hx : c.send? h = some x) (ha : s.answerArrives c x = true) :
    ((s.ctx? k).bind fun c => (c.send? h).filter fun x => s.answerArrives c x) = some x := by
  simp [hc, hx, ha]

theorem messageAnswer_accepts (hc : s.ctx? k = some c) (hx : c.send? h = some x) (ha : s.answerArrives c x = true)
    (hans : x.answer = some .accept) : SendBecomes (.messageAnswer k h) s k h fun y => y.st = .accepted := by
  have hi : exec (.messageAnswer k h) s =
      .next (s.mapCtx k fun c => c.mapSend h fun x => { x with st := .accepted, answer := none }) := by
    rw [exec_messageAnswer, execMessageAnswer, messageAnswer_found hc hx ha]
    simp [hans]
  exact sendBecomes_put hi hc fun _ _ _ => rfl

theorem messageAnswer_rejects {n : Nat} (hc : s.ctx? k = some c) (hx : c.send? h = some x) (ha : s.answerArrives c x = true)
    (hans : x.answer = some (.reject n)) : SendBecomes (.messageAnswer k h) s k h fun y => y.st = .rejected ∧ y.rej = n := by
  have hi : exec (.messageAnswer k h) s =
      .next (s.mapCtx k fun c => c.mapSend h fun x => { x with st := .rejected, rej := n, answer := none }) := by
    rw [exec_messageAnswer, execMessageAnswer, messageAnswer_found hc hx ha]
    simp [hans]
  exact sendBecomes_put hi hc fun _ _ _ => ⟨rfl, rfl⟩

/-- A refusal ends a twin's send, and sends a blocking form's back to wait (R289). -/
theorem messageAnswer_refuses (hc : s.ctx? k = some c) (hx : c.send? h = some x) (ha : s.answerArrives c x = true)
    (hans : x.answer = some .refuse) : SendBecomes (.messageAnswer k h) s k h fun y =>
      ∃ z ∈ c.sends, z.handle = h ∧ y.st = if z.retry then .backoff else .refused := by
  have hi : exec (.messageAnswer k h) s = .next ((s.mapCtx k fun c => c.mapSend h fun x =>
      { x with st := if x.retry then .backoff else .refused, answer := none }).mapCtx k Ctx.addRefd) := by
    rw [exec_messageAnswer, execMessageAnswer, messageAnswer_found hc hx ha]
    simp only [hans]
  exact sendBecomes_of_mapSend hi rfl {} (fun _ => rfl) hc fun z hz hh => ⟨z, hz, hh, rfl⟩

theorem sendBackoffExpiry_queues (hc : s.ctx? k = some c) (hx : c.send? h = some x) (hb : x.st = .backoff) :
    SendBecomes (.sendBackoffExpiry k h) s k h fun y => y.st = .queued ∧ 0 < y.retries := by
  have hfind : ((s.ctx? k).bind fun c => c.send? h) = some x := by rw [hc]; exact hx
  have hi : exec (.sendBackoffExpiry k h) s =
      .next (s.mapCtx k fun c => c.mapSend h fun x => { x with st := .queued, n := x.n + 1, retries := x.retries + 1 }) := by
    rw [exec_sendBackoffExpiry, execSendBackoffExpiry, hfind]
    simp [hb]
  exact sendBecomes_put hi hc fun z _ _ => ⟨rfl, z.retries.succ_pos⟩

theorem messageRetryResend_queues (hc : s.ctx? k = some c) (hx : c.send? h = some x) (hans : x.answer = some .retry) :
    SendBecomes (.messageRetryResend k h) s k h fun y => y.st = .queued ∧ y.answer = none := by
  have hfind : ((s.ctx? k).bind fun c => c.send? h) = some x := by rw [hc]; exact hx
  have hi : exec (.messageRetryResend k h) s = .next (s.mapCtx k fun c => c.mapSend h fun x => { x with st := .queued, answer := none }) := by
    rw [exec_messageRetryResend, execMessageRetryResend, hfind]
    simp [hans]
  exact sendBecomes_put hi hc fun _ _ _ => ⟨rfl, rfl⟩

/-! ## The held reply (R291) -/

theorem exec_replyHoldRelease (k : Key) (s : State) : exec (.replyHoldRelease k) s = execReplyHoldRelease k s := rfl

/-- A held reply that can land leaves the slot, and changes memory as its landing does. -/
theorem replyHoldRelease_lands {q : HeldReply} (hc : s.ctx? k = some c) (hh : c.hold = some q) (hl : s.landReply c q.img = some u) :
    ∃ t c', exec (.replyHoldRelease k) s = .next t ∧ t.ctx? k = some c' ∧ c'.hold = none ∧ t.mem = u.mem := by
  have hi : exec (.replyHoldRelease k) s = .next ((u.mapCtx k fun c => { c with hold := none }).answerSend q.src q.handle .accept) := by
    rw [exec_replyHoldRelease, execReplyHoldRelease, hc]
    dsimp only
    rw [hh]
    dsimp only
    rw [hl]
  obtain ⟨d, hd⟩ := Option.isSome_iff_exists.mp (landReply_isSome (k := k) hl (by rw [hc]; rfl))
  have hmap := ctx?_mapCtx (f := fun c => { c with hold := none }) {} hd
  obtain ⟨l, hans⟩ := answerSend_ctx? (k := q.src) (h := q.handle) (a := .accept) hmap
  exact ⟨_, _, hi, hans, rfl, rfl⟩

/-! ## An image doubleword by doubleword (R339) -/

/-- An image that is written apart: eight doublewords join the writes on their way, and memory stays. -/
theorem writeImage_posts (ha : s.apart = true) (kind : PostKind) (pa : Nat) :
    ∃ ps, (s.writeImage kind k pa img).posts = s.posts ++ ps ∧ (s.writeImage kind k pa img).mem = s.mem ∧ ps.length = 8 ∧
      ∀ j < 8, ∃ p ∈ ps, p.kind = kind ∧ p.agent = k ∧ p.site = k.h ∧ p.pa = physOf (pa + 8 * j) ∧ p.n = 8 ∧ p.add = false ∧
        p.val = img.toNat / 256 ^ (8 * j) % 2 ^ 64 := by
  rw [writeImage_apart ha]
  refine ⟨_, rfl, rfl, by simp [imageParts], fun j hj => ?_⟩
  refine ⟨partPost kind k pa (s.order + j) (8 * j, 8, img.toNat / 256 ^ (8 * j) % 2 ^ 64), ?_, rfl, rfl, rfl, rfl, rfl, rfl, rfl⟩
  rw [List.mem_mapIdx]
  exact ⟨j, by simpa [imageParts] using hj, by simp [imageParts]⟩

theorem writeImage_reads (ha : s.apart = false) (hs : Safe s) (kind : PostKind) (pa : Nat) :
    memRead (s.writeImage kind k pa img).mem pa 64 = img.toNat ∧ MemSameBut s (s.writeImage kind k pa img) pa 64 := by
  obtain ⟨hread, hsame⟩ := store_reads_back hs (writeImage_mem (kind := kind) (k := k) (pa := pa) (img := img) ha)
  have hlt := img.isLt
  exact ⟨by omega, hsame⟩

end Sys2Proof.Machine
end

section

open Sys2Proof Sys2Proof.Machine

/-- Settles O10: performing an admitted entry takes its effect at its place and marks it in its context's log; an acknowledgement frees it,
and a failure leaves it FAILED. -/
theorem postedStoreLife : Obligations.PostedStoreLife := by
  unfold Obligations.PostedStoreLife
  refine ⟨?home, ?answers, ?retries⟩
  case home =>
    intro s k i pa c e h hm ht hs hp hr o ho p hpl
    have hmem := perform_mem (entry?_spec h).1 hp hr
    have hkernels := perform_kernels (entry?_spec h).1 hp hr
    have hlog := perform_log (entry?_spec h).1 hp hr
    have hog : s.gathered e pa = o := by
      rw [ho]
      simp [State.gathered, OpEntry.gathers]
    have hplace : o.effectPlace e pa = p := hpl.symm
    rw [State.takesEffect, hog, hplace] at hmem hkernels
    rw [entry?_idx h] at hlog
    have hsame : e.gathers = false → o = s := fun hn => hog ▸ gathered_of_not hn
    have hsafe : Safe o := hog ▸ hs.gathered
    refine ⟨_, homeAccess_performs h hm ht, hlog, ?store, ?red, ?laccAdd, ?laccClr, ?semV, ?trig⟩
    case store =>
      intro hk hn
      obtain rfl := hsame (by simp [OpEntry.gathers, hk])
      rw [applyEntry_store hk] at hmem
      exact storeCells_reads_back hs hmem hn
    case red =>
      intro hk
      obtain rfl := hsame (by simp [OpEntry.gathers, hk])
      rw [applyEntry_red hk] at hmem
      exact store_reads_back hs hmem
    case laccAdd =>
      intro hk
      rw [applyEntry_laccAdd_mem hk] at hmem
      exact (store_reads_back hsafe hmem).symm
    case laccClr =>
      intro hk
      rw [applyEntry_laccClr_mem hk] at hmem
      obtain ⟨hread, hbut⟩ := store_reads_back hsafe hmem
      exact ⟨hread.trans (Nat.zero_mod _), hbut⟩
    case semV =>
      intro hk
      obtain rfl := hsame (by simp [OpEntry.gathers, hk])
      rw [applyEntry_semV hk] at hmem
      obtain ⟨hread, hbut⟩ := store_reads_back hs hmem
      exact ⟨hread.trans (Nat.mod_eq_of_lt (by omega)), hbut⟩
    case trig =>
      intro hk
      obtain rfl := hsame (by simp [OpEntry.gathers, hk])
      rw [applyEntry_trig hk] at hmem hkernels
      refine ⟨hmem, hkernels.trans ?_⟩
      simp [State.countTrigger]
  case answers =>
    intro s k i c e h
    refine ⟨storeAck_frees h, fun hrej hpoi hret why => ?_, fun why => lateFailure_fails h⟩
    cases why with
    | rejected => exact lateFailure_waits h hrej
    | poison => exact lateFailure_waits h hpoi
    | retired => exact lateFailure_waits h hret
  case retries =>
    intro s k c hc
    refine ⟨fun q u hh hl => replyHoldRelease_lands hc hh hl, ?_⟩
    intro i e pa h _ hw hk hs hm hp hr hn p hpl
    have hmem := perform_mem hc hp hr
    have hplace : s.effectPlace e pa = p := hpl.symm
    rw [State.takesEffect, gathered_of_not (by simp [OpEntry.gathers, hk]), hplace, applyEntry_store hk] at hmem
    exact ⟨_, siteWindowRetry_performs h hm hw, storeCells_reads_back hs hmem hn⟩

/-- Settles O41: each clause is the arrival, the answer or the retry of one send; whatever else lands before it, the sender's context is
found again. -/
theorem messageTransit : Obligations.MessageTransit := by
  unfold Obligations.MessageTransit
  intro s k h c x hc hx becomes
  refine ⟨?injection, ?arrival, messageAnswer_accepts hc hx, fun n => messageAnswer_rejects hc hx, ?backoff, ?refused,
    sendBackoffExpiry_queues hc hx, messageRetryResend_queues hc hx, ?image⟩
  case injection =>
    intro f hh hq hf
    refine ⟨fun hfirst => ?_, packetInjection_sends hc hx hh hq hf⟩
    rw [packetInjection_injects hc hx hh hq, injectSend_waits hfirst]
  case arrival =>
    intro hfly hfirst hfree g hg
    have ha : s.Arrives k h c x := ⟨hc, hx, hfly, hfirst, hfree⟩
    subst hg
    refine ⟨fun hr => sendBecomes_answer (messageArrival_retries ha hr) ha.isSome,
      fun hr ho => sendBecomes_answer (messageArrival_absent ha hr ho) ha.isSome, ?mail, ?passive, ?reply⟩
    case mail =>
      intro r hr ho hrpy hpas
      refine ⟨arrival_noHandler ha hr ho hrpy hpas, fun hn => ⟨arrival_mailFull ha hr ho hrpy hpas hn, fun hm => ?_⟩⟩
      have hi := arrival_mailed ha hr ho hrpy hpas hn hm
      refine ⟨sendBecomes_answer hi (ctx?_mapCtx_isSome (mailed_stays _) ha.isSome), fun t ht => ?_⟩
      rw [hi] at ht
      cases ht
      exact mailed_ofKernel ho
    case passive =>
      intro r hr ho hrpy hpas hs
      refine ⟨fun p hp hg => messageArrival_gated ha hr ho hg hpas hp, fun p hp hg => ?_, fun hp hlt => ?_, fun hp hle => ?_⟩
      · have hi := arrival_passive ha hr ho hrpy hpas (.inl hg)
        rw [passiveArrival_posted hp, ha.handle] at hi
        exact lands_in_post hi ha.isSome hs
      · have hi := arrival_passive ha hr ho hrpy hpas (.inr hp)
        rw [passiveArrival_overflows hp hlt, ha.handle] at hi
        exact sendBecomes_answer hi (ctx?_mapCtx_isSome {} ha.isSome)
      · have hi := arrival_passive ha hr ho hrpy hpas (.inr hp)
        rw [passiveArrival_refused hp hle, ha.handle] at hi
        exact sendBecomes_answer hi (ctx?_mapCtx_isSome {} ha.isSome)
    case reply =>
      intro r hr ho hrpy hg hs lsz tail hlsz htail room
      have hi := arrival_reply ha hr ho hrpy hg
      have hroom : r.ringRoom ↔ room := by
        rw [ringRoom_iff, ← hlsz, ← htail]
      refine ⟨fun hh => ?_, fun p hh hp => ?_, fun hh hp hrm => ?_, fun hh hp hrm => ?_⟩
      · rw [hi, replyArrival_behind hh]
      · rw [replyArrival_lands hh (landReply_posted hp), ha.handle] at hi
        exact lands_in_post hi ha.isSome hs
      · rw [replyArrival_lands hh (landReply_ring hp (hroom.mpr hrm)), ha.handle] at hi
        have hring := lands_in_ring hi ha.isSome hs ho
        rw [ringSlot_eq, fld_eq_extract r.msg.rrhead 31 16, ← hlsz, ← htail] at hring
        exact hring
      · rw [replyArrival_holds hh (landReply_full hp fun hc => hrm (hroom.mp hc))] at hi
        obtain ⟨hmem, hheld⟩ := reply_held (k := k) (x := x) ho
        refine ⟨_, _, hi, hmem, hheld, ?_, rfl⟩
        rw [← ha.handle]
        rfl
  case backoff =>
    intro ha hans _ hretry
    refine (messageAnswer_refuses hc hx ha hans).mono fun y ⟨z, hz, hh, hy⟩ => ?_
    rw [hy, hretry z hz hh]
    rfl
  case refused =>
    intro ha hans hretry
    refine (messageAnswer_refuses hc hx ha hans).mono fun y ⟨z, hz, hh, hy⟩ => ?_
    rw [hy, hretry z hz hh]
    rfl
  case image => exact fun kind pa img => ⟨fun ha hs => writeImage_reads ha hs kind pa, fun ha => writeImage_posts ha kind pa⟩

end

section

open Sys2Proof Sys2Proof.Machine

/-- Settles O1: the kernel decodes each word of the list. -/
theorem decodedWords : Obligations.DecodedWords := by
  unfold Obligations.DecodedWords
  decide +kernel

end

section
/-! SUPPORT. The other direction of the round trip (R22 to R27): the fields that a row of the decoder is read from are those of its word. -/

namespace Sys2Proof.Laws.RoundTrip

open Sys2Proof

/-! ### A field whose fixed bits are known -/

theorem whole {n : Nat} (x : BitVec n) (k m : Nat) (h : m + k = n) : (x.extractLsb' k m ++ x.extractLsb' 0 k).cast h = x := by
  subst h
  simp

@[simp] theorem fixed2_1 {x : BitVec 3} {c : BitVec 2} (h : x.extractLsb' 1 2 = c) : c ++ x.extractLsb' 0 1 = x := h ▸ whole x 1 2 rfl
@[simp] theorem fixed1_2 {x : BitVec 3} {c : BitVec 1} (h : x.extractLsb' 2 1 = c) : c ++ x.extractLsb' 0 2 = x := h ▸ whole x 2 1 rfl
@[simp] theorem free1_2 {x : BitVec 3} {c : BitVec 2} (h : x.extractLsb' 0 2 = c) : x.extractLsb' 2 1 ++ c = x := h ▸ whole x 2 1 rfl
@[simp] theorem fixed3_2 {x : BitVec 5} {c : BitVec 3} (h : x.extractLsb' 2 3 = c) : c ++ x.extractLsb' 0 2 = x := h ▸ whole x 2 3 rfl
@[simp] theorem fixed2_3 {x : BitVec 5} {c : BitVec 2} (h : x.extractLsb' 3 2 = c) : c ++ x.extractLsb' 0 3 = x := h ▸ whole x 3 2 rfl
@[simp] theorem fixed1_4 {x : BitVec 5} {c : BitVec 1} (h : x.extractLsb' 4 1 = c) : c ++ x.extractLsb' 0 4 = x := h ▸ whole x 4 1 rfl
@[simp] theorem fixed6_1 {x : BitVec 7} {c : BitVec 6} (h : x.extractLsb' 1 6 = c) : c ++ x.extractLsb' 0 1 = x := h ▸ whole x 1 6 rfl
@[simp] theorem fixed4_3 {x : BitVec 7} {c : BitVec 4} (h : x.extractLsb' 3 4 = c) : c ++ x.extractLsb' 0 3 = x := h ▸ whole x 3 4 rfl
@[simp] theorem fixed2_5 {x : BitVec 7} {c : BitVec 2} (h : x.extractLsb' 5 2 = c) : c ++ x.extractLsb' 0 5 = x := h ▸ whole x 5 2 rfl
@[simp] theorem free6_1 {x : BitVec 7} {c : BitVec 1} (h : x.extractLsb' 0 1 = c) : x.extractLsb' 1 6 ++ c = x := h ▸ whole x 1 6 rfl
@[simp] theorem free2_5 {x : BitVec 7} {c : BitVec 5} (h : x.extractLsb' 0 5 = c) : x.extractLsb' 5 2 ++ c = x := h ▸ whole x 5 2 rfl
@[simp] theorem fixed1_2_2 {x : BitVec 5} {c : BitVec 1} (h : x.extractLsb' 4 1 = c) : c ++ x.extractLsb' 2 2 ++ x.extractLsb' 0 2 = x := by
  subst h; revert x; decide
@[simp] theorem fixed3_1_1 {x : BitVec 5} {c : BitVec 3} (h : x.extractLsb' 2 3 = c) : c ++ x.extractLsb' 1 1 ++ x.extractLsb' 0 1 = x := by
  subst h; revert x; decide
@[simp] theorem fixed5_1_1 {x : BitVec 7} {c : BitVec 5} (h : x.extractLsb' 2 5 = c) : c ++ x.extractLsb' 1 1 ++ x.extractLsb' 0 1 = x := by
  subst h; revert x; decide
@[simp] theorem free2_1_4 {x : BitVec 7} {c : BitVec 1} (h : x.extractLsb' 4 1 = c) : x.extractLsb' 5 2 ++ c ++ x.extractLsb' 0 4 = x := by
  subst h; revert x; decide
@[simp] theorem free2_2_3 {x : BitVec 7} {c : BitVec 3} (h : x.extractLsb' 0 3 = c) : x.extractLsb' 5 2 ++ x.extractLsb' 3 2 ++ c = x := by
  subst h; revert x; decide
@[simp] theorem fixed3_1_1_2 {x : BitVec 7} {c : BitVec 3} {e : BitVec 2} (h : x.extractLsb' 4 3 = c) (h' : x.extractLsb' 0 2 = e) :
    c ++ x.extractLsb' 3 1 ++ x.extractLsb' 2 1 ++ e = x := by
  subst h h'; revert x; decide
@[simp] theorem fixed4_1_1_1 {x : BitVec 7} {c : BitVec 4} {e : BitVec 1} (h : x.extractLsb' 3 4 = c) (h' : x.extractLsb' 0 1 = e) :
    c ++ x.extractLsb' 2 1 ++ x.extractLsb' 1 1 ++ e = x := by
  subst h h'; revert x; decide

/-! ### The parts of a joined operand -/

@[simp] theorem part12_hi (x : BitVec 7) (y : BitVec 5) : (x ++ y : BitVec 12).extractLsb' 5 7 = x := high x y
@[simp] theorem part12_lo (x : BitVec 7) (y : BitVec 5) : (x ++ y : BitVec 12).extractLsb' 0 5 = y := low x y
@[simp] theorem part6_hi (x : BitVec 1) (y : BitVec 5) : (x ++ y : BitVec 6).extractLsb' 5 1 = x := high x y
@[simp] theorem part6_lo (x : BitVec 1) (y : BitVec 5) : (x ++ y : BitVec 6).extractLsb' 0 5 = y := low x y
@[simp] theorem part4_hi (x : BitVec 3) (y : BitVec 1) : (x ++ y : BitVec 4).extractLsb' 1 3 = x := high x y
@[simp] theorem part4_lo (x : BitVec 3) (y : BitVec 1) : (x ++ y : BitVec 4).extractLsb' 0 1 = y := low x y
@[simp] theorem part2_hi (x : BitVec 1) (y : BitVec 1) : (x ++ y : BitVec 2).extractLsb' 1 1 = x := high x y
@[simp] theorem part2_lo (x : BitVec 1) (y : BitVec 1) : (x ++ y : BitVec 2).extractLsb' 0 1 = y := low x y
@[simp] theorem part10_hi (x : BitVec 7) (y : BitVec 3) : (x ++ y : BitVec 10).extractLsb' 3 7 = x := high x y
@[simp] theorem part10_lo (x : BitVec 7) (y : BitVec 3) : (x ++ y : BitVec 10).extractLsb' 0 3 = y := low x y
@[simp] theorem part253_hi (x : BitVec 2) (y : BitVec 5) (z : BitVec 3) : (x ++ y ++ z : BitVec 10).extractLsb' 8 2 = x :=
  (BitVec.extractLsb'_append_eq_of_le (by decide)).trans (high x y)
@[simp] theorem part253_mid (x : BitVec 2) (y : BitVec 5) (z : BitVec 3) : (x ++ y ++ z : BitVec 10).extractLsb' 3 5 = y :=
  (BitVec.extractLsb'_append_eq_of_le (by decide)).trans (low x y)
@[simp] theorem part253_lo (x : BitVec 2) (y : BitVec 5) (z : BitVec 3) : (x ++ y ++ z : BitVec 10).extractLsb' 0 3 = z := low _ z
@[simp] theorem part20_13 (x : BitVec 7) (y z : BitVec 5) (t : BitVec 3) : (x ++ y ++ z ++ t : BitVec 20).extractLsb' 13 7 = x :=
  (BitVec.extractLsb'_append_eq_of_le (by decide)).trans ((BitVec.extractLsb'_append_eq_of_le (by decide)).trans (high x y))
@[simp] theorem part20_8 (x : BitVec 7) (y z : BitVec 5) (t : BitVec 3) : (x ++ y ++ z ++ t : BitVec 20).extractLsb' 8 5 = y :=
  (BitVec.extractLsb'_append_eq_of_le (by decide)).trans ((BitVec.extractLsb'_append_eq_of_le (by decide)).trans (low x y))
@[simp] theorem part20_3 (x : BitVec 7) (y z : BitVec 5) (t : BitVec 3) : (x ++ y ++ z ++ t : BitVec 20).extractLsb' 3 5 = z :=
  (BitVec.extractLsb'_append_eq_of_le (by decide)).trans (low _ z)
@[simp] theorem part20_0 (x : BitVec 7) (y z : BitVec 5) (t : BitVec 3) : (x ++ y ++ z ++ t : BitVec 20).extractLsb' 0 3 = t := low _ t
@[simp] theorem branchHi_branchOff (x : BitVec 7) (y : BitVec 5) : branchHi (branchOff x y) = x := by
  simp (disch := decide) only [branchHi, branchOff, BitVec.extractLsb'_append_eq_of_le, low, Nat.reduceSub, BitVec.extractLsb'_eq_self]
  exact whole x 6 1 rfl
@[simp] theorem branchLo_branchOff (x : BitVec 7) (y : BitVec 5) : branchLo (branchOff x y) = y := by
  simp (disch := decide) only [branchLo, branchOff, BitVec.extractLsb'_append_eq_of_le, low, Nat.reduceSub]
  exact whole y 1 4 rfl
@[simp] theorem jalRaw_jalOff (r : BitVec 20) : jalRaw (jalOff r) = r := by
  simp (disch := decide) only [jalRaw, jalOff, BitVec.extractLsb'_append_eq_of_le, low, Nat.reduceSub, BitVec.extractLsb'_eq_self]
  exact (congrArg (· ++ r.extractLsb' 8 1 ++ r.extractLsb' 0 8) (join r 10 1 9)).trans
    ((congrArg (· ++ r.extractLsb' 0 8) (join r 1 11 8)).trans (whole r 8 12 rfl))

/-- Every instruction answered has the fields `x`. -/
def Encodes (x : Fields) (o : Option Instr) : Prop := ∀ i, o = some i → encodeFields i = some x

@[simp] theorem encodes_none (x : Fields) : Encodes x none := fun _ h => by cases h

theorem encodes_some {x y : Fields} {j : Instr} (hj : encodeFields j = some y) (h : y = x) : Encodes x (some j) := by
  intro i hi
  rw [← Option.some.inj hi, hj, h]

/-- One row of a major opcode: its word has the fields, and so have the words of the rows after it. -/
theorem encodes_row {x y : Fields} {c : Prop} {_ : Decidable c} {j : Instr} {r : Option Instr} (hj : encodeFields j = some y) (h : c → y = x)
    (hr : Encodes x r) : Encodes x (if c then some j else r) := by
  split
  · next hc => exact encodes_some hj (h hc)
  · exact hr

/-! ### The major opcodes -/

theorem rawLoad_encodes (x : Fields) : Encodes { x with op := 3#7 } (rawLoad x) := by
  unfold rawLoad
  repeat' refine encodes_row rfl ?_ ?_
  all_goals simp +contextual

theorem rawVld_encodes (x : Fields) : Encodes { x with op := 7#7 } (rawVld x) := by
  unfold rawVld
  repeat' refine encodes_row rfl ?_ ?_
  all_goals simp +contextual

theorem rawChan_encodes (x : Fields) : Encodes { x with op := 11#7 } (rawChan x) := by
  unfold rawChan
  repeat' refine encodes_row rfl ?_ ?_
  all_goals simp +contextual

theorem rawMiscMem_encodes (x : Fields) : Encodes { x with op := 15#7 } (rawMiscMem x) := by
  unfold rawMiscMem
  repeat' refine encodes_row rfl ?_ ?_
  all_goals simp +contextual

theorem rawOpImm_encodes (x : Fields) : Encodes { x with op := 19#7 } (rawOpImm x) := by
  unfold rawOpImm
  repeat' refine encodes_row rfl ?_ ?_
  all_goals simp +contextual

theorem rawAuipc_encodes (x : Fields) : Encodes { x with op := 23#7 } (rawAuipc x) := encodes_some rfl (by simp)

theorem rawOpImm32_encodes (x : Fields) : Encodes { x with op := 27#7 } (rawOpImm32 x) := by
  unfold rawOpImm32
  repeat' refine encodes_row rfl ?_ ?_
  all_goals simp +contextual

theorem rawHint_encodes (x : Fields) : Encodes { x with op := 31#7 } (rawHint x) := by
  unfold rawHint
  repeat' refine encodes_row rfl ?_ ?_
  all_goals simp +contextual

theorem rawStore_encodes (x : Fields) : Encodes { x with op := 35#7 } (rawStore x) := by
  unfold rawStore
  repeat' refine encodes_row rfl ?_ ?_
  all_goals simp +contextual

theorem rawVst_encodes (x : Fields) : Encodes { x with op := 39#7 } (rawVst x) := by
  unfold rawVst
  repeat' refine encodes_row rfl ?_ ?_
  all_goals simp +contextual

theorem rawMsg_encodes (x : Fields) : Encodes { x with op := 43#7 } (rawMsg x) := by
  unfold rawMsg
  repeat' refine encodes_row rfl ?_ ?_
  all_goals simp +contextual

theorem rawAmo_encodes (x : Fields) : Encodes { x with op := 47#7 } (rawAmo x) := by
  unfold rawAmo
  repeat' refine encodes_row rfl ?_ ?_
  all_goals simp +contextual

theorem rawOp_encodes (x : Fields) : Encodes { x with op := 51#7 } (rawOp x) := by
  unfold rawOp
  repeat' refine encodes_row rfl ?_ ?_
  all_goals simp +contextual

theorem rawLui_encodes (x : Fields) : Encodes { x with op := 55#7 } (rawLui x) := encodes_some rfl (by simp)

theorem rawOp32_encodes (x : Fields) : Encodes { x with op := 59#7 } (rawOp32 x) := by
  unfold rawOp32
  repeat' refine encodes_row rfl ?_ ?_
  all_goals simp +contextual

theorem rawTask_encodes (x : Fields) : Encodes { x with op := 63#7 } (rawTask x) := by
  unfold rawTask
  repeat' refine encodes_row rfl ?_ ?_
  all_goals simp +contextual

theorem rawVflt_encodes (x : Fields) : Encodes { x with op := 67#7 } (rawVflt x) := by
  unfold rawVflt
  repeat' refine encodes_row rfl ?_ ?_
  all_goals simp +contextual

theorem rawLink_encodes (x : Fields) : Encodes { x with op := 71#7 } (rawLink x) := by
  unfold rawLink
  repeat' refine encodes_row rfl ?_ ?_
  all_goals simp +contextual

theorem rawXcopy_encodes (x : Fields) : Encodes { x with op := 75#7 } (rawXcopy x) := by
  unfold rawXcopy
  repeat' refine encodes_row rfl ?_ ?_
  all_goals simp +contextual

theorem rawSmem_encodes (x : Fields) : Encodes { x with op := 79#7 } (rawSmem x) := by
  unfold rawSmem
  repeat' refine encodes_row rfl ?_ ?_
  all_goals simp +contextual

theorem rawVint_encodes (x : Fields) : Encodes { x with op := 83#7 } (rawVint x) := by
  unfold rawVint
  repeat' refine encodes_row rfl ?_ ?_
  all_goals simp +contextual

theorem rawVmisc_encodes (x : Fields) : Encodes { x with op := 87#7 } (rawVmisc x) := by
  unfold rawVmisc
  repeat' refine encodes_row rfl ?_ ?_
  all_goals simp +contextual

theorem rawBind_encodes (x : Fields) : Encodes { x with op := 91#7 } (rawBind x) := by
  unfold rawBind
  repeat' refine encodes_row rfl ?_ ?_
  all_goals simp +contextual

theorem rawBranch_encodes (x : Fields) : Encodes { x with op := 99#7 } (rawBranch x) := by
  unfold rawBranch
  repeat' refine encodes_row rfl ?_ ?_
  all_goals simp +contextual

theorem rawJalr_encodes (x : Fields) : Encodes { x with op := 103#7 } (rawJalr x) := by
  unfold rawJalr
  repeat' refine encodes_row rfl ?_ ?_
  all_goals simp +contextual

theorem rawSync_encodes (x : Fields) : Encodes { x with op := 107#7 } (rawSync x) := by
  unfold rawSync
  repeat' refine encodes_row rfl ?_ ?_
  all_goals simp +contextual

theorem rawJal_encodes (x : Fields) : Encodes { x with op := 111#7 } (rawJal x) := encodes_some rfl (by simp)

theorem rawSystem_encodes (x : Fields) : Encodes { x with op := 115#7 } (rawSystem x) := by
  unfold rawSystem
  repeat' refine encodes_row rfl ?_ ?_
  all_goals simp +contextual

theorem rawXop_encodes (x : Fields) : Encodes { x with op := 119#7 } (rawXop x) := by
  unfold rawXop
  repeat' refine encodes_row rfl ?_ ?_
  all_goals simp +contextual

theorem rawTile_encodes (x : Fields) : Encodes { x with op := 123#7 } (rawTile x) := by
  unfold rawTile
  repeat' refine encodes_row rfl ?_ ?_
  all_goals simp +contextual

/-! ### Every opcode, in both directions -/

theorem rawDecode_encodeFields : ∀ i, Statement i
  | .lui .. => lui _ _ | .auipc .. => auipc _ _ | .jal .. => jal _ _ | .jalr .. => jalr _ _ _ | .beq .. => beq _ _ _ | .bne .. => bne _ _ _
  | .blt .. => blt _ _ _ | .bge .. => bge _ _ _ | .bltu .. => bltu _ _ _ | .bgeu .. => bgeu _ _ _ | .lb .. => lb _ _ _ | .lh .. => lh _ _ _
  | .lw .. => lw _ _ _ | .ld .. => ld _ _ _ | .lbu .. => lbu _ _ _ | .lhu .. => lhu _ _ _ | .lwu .. => lwu _ _ _ | .sb .. => sb _ _ _
  | .sh .. => sh _ _ _ | .sw .. => sw _ _ _ | .sd .. => sd _ _ _ | .add .. => add _ _ _ | .sll .. => sll _ _ _ | .slt .. => slt _ _ _
  | .sltu .. => sltu _ _ _ | .xor .. => xor _ _ _ | .srl .. => srl _ _ _ | .or .. => or _ _ _ | .and .. => and _ _ _ | .sub .. => sub _ _ _
  | .xnor .. => xnor _ _ _ | .sra .. => sra _ _ _ | .orn .. => orn _ _ _ | .andn .. => andn _ _ _ | .mul .. => mul _ _ _
  | .mulh .. => mulh _ _ _ | .mulhsu .. => mulhsu _ _ _ | .mulhu .. => mulhu _ _ _ | .div .. => div _ _ _ | .divu .. => divu _ _ _
  | .rem .. => rem _ _ _ | .remu .. => remu _ _ _ | .sh1add .. => sh1add _ _ _ | .sh2add .. => sh2add _ _ _ | .sh3add .. => sh3add _ _ _
  | .min .. => min _ _ _ | .minu .. => minu _ _ _ | .max .. => max _ _ _ | .maxu .. => maxu _ _ _ | .rol .. => rol _ _ _
  | .ror .. => ror _ _ _ | .addw .. => addw _ _ _ | .sllw .. => sllw _ _ _ | .srlw .. => srlw _ _ _ | .subw .. => subw _ _ _
  | .sraw .. => sraw _ _ _ | .mulw .. => mulw _ _ _ | .divw .. => divw _ _ _ | .divuw .. => divuw _ _ _ | .remw .. => remw _ _ _
  | .remuw .. => remuw _ _ _ | .sh1addUw .. => sh1addUw _ _ _ | .sh2addUw .. => sh2addUw _ _ _ | .sh3addUw .. => sh3addUw _ _ _
  | .addUw .. => addUw _ _ _ | .zextH .. => zextH _ _ | .rolw .. => rolw _ _ _ | .rorw .. => rorw _ _ _ | .addi .. => addi _ _ _
  | .slti .. => slti _ _ _ | .sltiu .. => sltiu _ _ _ | .xori .. => xori _ _ _ | .ori .. => ori _ _ _ | .andi .. => andi _ _ _
  | .slli .. => slli _ _ _ | .srli .. => srli _ _ _ | .srai .. => srai _ _ _ | .rori .. => rori _ _ _ | .clz .. => clz _ _
  | .ctz .. => ctz _ _ | .cpop .. => cpop _ _ | .sextB .. => sextB _ _ | .sextH .. => sextH _ _ | .rev8 .. => rev8 _ _
  | .addiw .. => addiw _ _ _ | .slliw .. => slliw _ _ _ | .srliw .. => srliw _ _ _ | .sraiw .. => sraiw _ _ _ | .roriw .. => roriw _ _ _
  | .slliUw .. => slliUw _ _ _ | .clzw .. => clzw _ _ | .ctzw .. => ctzw _ _ | .cpopw .. => cpopw _ _ | .lr .. => lr _ _ _ _ _
  | .sc .. => sc _ _ _ _ _ _ | .amoswap .. => amoswap _ _ _ _ _ _ | .amoadd .. => amoadd _ _ _ _ _ _ | .amoxor .. => amoxor _ _ _ _ _ _
  | .amoand .. => amoand _ _ _ _ _ _ | .amoor .. => amoor _ _ _ _ _ _ | .amomin .. => amomin _ _ _ _ _ _ | .amomax .. => amomax _ _ _ _ _ _
  | .amominu .. => amominu _ _ _ _ _ _ | .amomaxu .. => amomaxu _ _ _ _ _ _ | .fence .. => fence _ _ | .fenceTso => fenceTso
  | .fenceI => fenceI | .ecall => ecall | .ebreak => ebreak | .csrrw .. => csrrw _ _ _ | .csrrs .. => csrrs _ _ _
  | .csrrc .. => csrrc _ _ _ | .csrrwi .. => csrrwi _ _ _ | .csrrsi .. => csrrsi _ _ _ | .csrrci .. => csrrci _ _ _ | .hnop .. => hnop _
  | .hwide .. => hwide _ | .hscope .. => hscope _ _ _ | .hwait .. => hwait _ | .hpred .. => hpred _ | .hbrh .. => hbrh _
  | .hprio .. => hprio _ | .hstream .. => hstream _ | .htileco .. => htileco _ _ | .qsub .. => qsub _ _ _ | .qsubT .. => qsubT _ _ _
  | .trig => trig | .lstat .. => lstat _ _ _ | .tlbInv .. => tlbInv _ _ _ _ | .tlbSync => tlbSync | .vadd .. => vadd _ _ _ _ _
  | .vsub .. => vsub _ _ _ _ _ | .vmul .. => vmul _ _ _ _ _ | .vmulh .. => vmulh _ _ _ _ _ _ | .vmin .. => vmin _ _ _ _ _ _
  | .vmax .. => vmax _ _ _ _ _ _ | .vabs .. => vabs _ _ _ | .vand .. => vand _ _ _ _ _ | .vor .. => vor _ _ _ _ _
  | .vxor .. => vxor _ _ _ _ _ | .vsll .. => vsll _ _ _ _ _ | .vsrl .. => vsrl _ _ _ _ _ | .vsra .. => vsra _ _ _ _ _
  | .vcmp .. => vcmp _ _ _ _ _ | .vsel .. => vsel _ _ _ _ _ | .vsadd .. => vsadd _ _ _ _ _ _ | .vfadd .. => vfadd _ _ _ _ _
  | .vfsub .. => vfsub _ _ _ _ _ | .vfmul .. => vfmul _ _ _ _ _ | .vfma .. => vfma _ _ _ _ _ | .vfmin .. => vfmin _ _ _ _ _
  | .vfmax .. => vfmax _ _ _ _ _ | .vfmaxabs .. => vfmaxabs _ _ _ _ _ | .vfabs .. => vfabs _ _ _ | .vfneg .. => vfneg _ _ _
  | .vfcmp .. => vfcmp _ _ _ _ _ | .vfclass .. => vfclass _ _ _ | .vfrcp .. => vfrcp _ _ _ | .vfrsq .. => vfrsq _ _ _
  | .vfexp2 .. => vfexp2 _ _ _ | .vflog2 .. => vflog2 _ _ _ | .vfdiv .. => vfdiv _ _ _ _ _ | .vcvt .. => vcvt _ _ _ _ _ _ _
  | .vpack .. => vpack _ _ _ | .vunpack .. => vunpack _ _ _ _ | .vdq .. => vdq _ _ _ _ _ | .vredsum .. => vredsum _ _ _ _
  | .vredmax .. => vredmax _ _ _ _ | .vredmin .. => vredmin _ _ _ _ | .vperm .. => vperm _ _ _ _ | .vslide .. => vslide _ _ _ _ _
  | .vbcast .. => vbcast _ _ _ _ | .vmvXv .. => vmvXv _ _ _ _ | .vmvVx .. => vmvVx _ _ _ | .vlut .. => vlut _ _ _ _ _
  | .vsettag .. => vsettag _ _ _ | .vtag .. => vtag _ _ | .pand .. => pand _ _ _ | .por .. => por _ _ _ | .pxor .. => pxor _ _ _
  | .pnot .. => pnot _ _ | .pcnt .. => pcnt _ _ | .pfirst .. => pfirst _ _ | .tzero .. => tzero _ _ | .tmov .. => tmov _ _
  | .ttrans .. => ttrans _ _ | .tcvt .. => tcvt _ _ _ _ | .tcvtSat .. => tcvtSat _ _ _ _ | .tcvtNosat .. => tcvtNosat _ _ _ _
  | .tqset .. => tqset _ _ | .tpick .. => tpick _ _ _ _ | .tplace .. => tplace _ _ _ _ | .ttagSet .. => ttagSet _ _
  | .ttagRead .. => ttagRead _ _ | .xop .. => xop _ _ _ _ _ | .xcfgLoad .. => xcfgLoad _ _ | .xcfgDrop .. => xcfgDrop _
  | .xcfgQuery .. => xcfgQuery _ _ | .compose .. => compose _ _ | .release .. => release _ | .cstat .. => cstat _
  | .vld .. => vld _ _ _ _ _ | .vlds .. => vlds _ _ _ _ _ | .vldx .. => vldx _ _ _ _ _ | .tld .. => tld _ _ _ | .vst .. => vst _ _ _ _
  | .vsts .. => vsts _ _ _ _ | .vstx .. => vstx _ _ _ _ | .tst .. => tst _ _ _ | .ldS .. => ldS _ _ _ _ _ _ | .stS .. => stS _ _ _ _ _
  | .ldAcq .. => ldAcq _ _ _ _ _ _ | .stRel .. => stRel _ _ _ _ _ | .red .. => red _ _ _ _ _ | .amof .. => amof _ _ _ _ _ _
  | .laccAdd .. => laccAdd _ _ _ _ | .laccRnd .. => laccRnd _ _ _ _ | .laccClr .. => laccClr _ _ | .pin .. => pin _ _ _
  | .unpin .. => unpin _ _ _ | .cwait .. => cwait _ _ | .xcopy1d .. => xcopy1d _ _ _ _ _ _ | .xcopy2d .. => xcopy2d _ _ _ _ _
  | .xcopyTile .. => xcopyTile _ _ _ _ _ | .xcopyGath .. => xcopyGath _ _ _ _ _ | .xcopyWait .. => xcopyWait _ _
  | .xcopyWaitT .. => xcopyWaitT _ _ | .xcopyStat .. => xcopyStat _ _ | .xcopyAbort .. => xcopyAbort _ _ | .lxProd .. => lxProd _ _
  | .lxFeed .. => lxFeed _ _ _ _ _ | .lxFeedt .. => lxFeedt _ _ _ _ _ _ | .lxWait .. => lxWait _ _ | .lxWaitT .. => lxWaitT _ _
  | .lxDwait .. => lxDwait _ _ _ | .lxDwaitT .. => lxDwaitT _ _ _ | .lxStat .. => lxStat _ _ | .lxAbort .. => lxAbort _ _
  | .lxEpi .. => lxEpi _ _ _ | .lxCfg .. => lxCfg _ _ _ | .msgSend .. => msgSend _ _ _ | .msgSendT .. => msgSendT _ _ _
  | .msgPut .. => msgPut _ _ _ | .msgPutT .. => msgPutT _ _ _ | .msgReply .. => msgReply _ _ _ | .msgPost .. => msgPost _ _ _
  | .msgUnpost .. => msgUnpost _ _ | .msgPoll .. => msgPoll _ _ _ | .msgPollTake .. => msgPollTake _ | .msgSpill .. => msgSpill _ _ _
  | .hdone => hdone | .chOpen .. => chOpen _ _ _ | .chClose .. => chClose _ | .chPush .. => chPush _ _ | .chPushT .. => chPushT _ _ _
  | .chPop .. => chPop _ _ | .chPopT .. => chPopT _ _ _ | .chBind .. => chBind _ _ _ _ | .chStat .. => chStat _ _
  | .nodeNew .. => nodeNew _ _ | .nodeLink .. => nodeLink _ _ _ | .nodeArm .. => nodeArm _ _ | .nodeDone .. => nodeDone _ _
  | .rngNext .. => rngNext _ | .enq .. => enq _ _ | .enqT .. => enqT _ _ | .taskCancel .. => taskCancel _ _ | .taskStat .. => taskStat _ _
  | .gbar .. => gbar _ | .gbarT .. => gbarT _ _ | .semP .. => semP _ | .semPT .. => semPT _ _ | .semV .. => semV _
  | .monArm .. => monArm _ _ | .monWait .. => monWait _ | .monWaitT .. => monWaitT _ | .tret => tret | .dret => dret | .pret => pret
  | .wfi => wfi | .wspSw .. => wspSw _ _ | .bindWb => bindWb | .inspect .. => inspect _ _ _ | .qcmdRegister .. => qcmdRegister _ _
  | .qcmdUnregister .. => qcmdUnregister _ _ | .qwidxWrite .. => qwidxWrite _ _ _ | .qcancelWrite .. => qcancelWrite _ _ _
  | .packetFetch .. => packetFetch _ | .packetDispatch .. => packetDispatch _ | .kernelPlacement .. => kernelPlacement _
  | .graphArm .. => graphArm _ | .peerDoorbellWrite .. => peerDoorbellWrite _ _ _ _ | .contextRetire .. => contextRetire _
  | .kernelComplete .. => kernelComplete _ | .pcmdCreate .. => pcmdCreate _ _ | .pcmdDestroy .. => pcmdDestroy _ _
  | .pcmdApply .. => pcmdApply _ _ | .spanDestroyComplete .. => spanDestroyComplete _ | .qoscmdApply .. => qoscmdApply _ _
  | .pageWalkComplete .. => pageWalkComplete _ _ _ | .tlbInvComplete .. => tlbInvComplete _ | .l2wayWrite .. => l2wayWrite _
  | .l2wayTransitionComplete .. => l2wayTransitionComplete _ | .wspCsrWrite .. => wspCsrWrite _ _ | .kendWrite .. => kendWrite _
  | .oplctlDrop => oplctlDrop | .cpctlRestart => cpctlRestart | .cpctlAbort => cpctlAbort | .cqctlHold .. => cqctlHold _
  | .cqctlRemove .. => cqctlRemove _ | .cqctlRebuild .. => cqctlRebuild _ | .copyHoldComplete .. => copyHoldComplete _
  | .registerWrite .. => registerWrite _ _ _ | .watchdogExpiry .. => watchdogExpiry _ | .timerCompare .. => timerCompare _
  | .frameBoundary => frameBoundary | .ctlTokenGain .. => ctlTokenGain _ | .rendezvousTimeout .. => rendezvousTimeout _ _
  | .pauseTimeout .. => pauseTimeout _ _ | .feedTimeout .. => feedTimeout _ _ | .sinkRetryTimeout .. => sinkRetryTimeout _ _
  | .sendBackoffExpiry .. => sendBackoffExpiry _ _ | .messageRetryResend .. => messageRetryResend _ _
  | .siteWindowRetry .. => siteWindowRetry _ _ | .channelAskRetry .. => channelAskRetry _ _ | .semPRetry .. => semPRetry _
  | .prodNodeReissue .. => prodNodeReissue _ | .switchSlotTimeout .. => switchSlotTimeout _ | .heartbeatMiss .. => heartbeatMiss _
  | .trapEntry => trapEntry | .xirqWrite .. => xirqWrite _ _ | .homeAccess .. => homeAccess _ _ | .storeAck .. => storeAck _ _
  | .lateFailure .. => lateFailure _ _ _ | .copyStart .. => copyStart _ | .copyGrant .. => copyGrant _ _
  | .copyComplete .. => copyComplete _ _ | .copyFault .. => copyFault _ _ | .copyAborted .. => copyAborted _ _
  | .productOpen .. => productOpen _ _ | .feedArrival .. => feedArrival _ _ | .productGrant .. => productGrant _ _
  | .productDelivery .. => productDelivery _ _ | .deliveryComplete .. => deliveryComplete _ _ | .residueMismatch .. => residueMismatch _
  | .feedResume .. => feedResume _ _ | .packetInjection .. => packetInjection _ _ | .messageArrival .. => messageArrival _ _
  | .replyHoldRelease .. => replyHoldRelease _ | .messageAnswer .. => messageAnswer _ _ | .activationStart .. => activationStart _
  | .channelEntryArrival .. => channelEntryArrival _ _ | .channelFlowSignal .. => channelFlowSignal _ _ | .channelAsk .. => channelAsk _ _
  | .channelCloseMarker .. => channelCloseMarker _ _ | .channelClosedNotice .. => channelClosedNotice _ _
  | .dispatchDecision .. => dispatchDecision _ | .nodeFinish .. => nodeFinish _ | .stealRequest .. => stealRequest _
  | .stealHalfArrival .. => stealHalfArrival _ | .stealAck .. => stealAck _ | .stealReturn .. => stealReturn _
  | .precmdSave .. => precmdSave _ _ | .precmdRestore .. => precmdRestore _ _ | .saveStop .. => saveStop _
  | .saveDrained .. => saveDrained _ | .restoreStart .. => restoreStart _ | .migcmdStart .. => migcmdStart _ _
  | .migcmdCancel .. => migcmdCancel _ _ | .migrationCheck .. => migrationCheck _ _
  | .migrationTransferDone .. => migrationTransferDone _ _ | .dbgcmdOpen .. => dbgcmdOpen _ | .dbgcmdClose .. => dbgcmdClose _
  | .dbgcmdHalt .. => dbgcmdHalt _ | .dbgcmdResume .. => dbgcmdResume _ | .dbgcmdStep .. => dbgcmdStep _
  | .dbgxvalWrite .. => dbgxvalWrite _ _ | .inspectionWindowRead .. => inspectionWindowRead _ | .swcmdAllocate .. => swcmdAllocate _ _
  | .switchAllocationAnswer .. => switchAllocationAnswer _ | .switchContribution .. => switchContribution _
  | .peerAccess .. => peerAccess _ _ _ | .siteWake .. => siteWake _ | .siteGate .. => siteGate _ _ | .boot .. => boot _
  | .attestationRequest .. => attestationRequest _ _ | .cxlDeviceRemoval .. => cxlDeviceRemoval _
  | .illegalInstruction .. => illegalInstruction _ | .fetchFault .. => fetchFault _ | .siteFault .. => siteFault _ _ _
  | .rasRetirement .. => rasRetirement _ | .powerLoss => powerLoss | .rmaWipe => rmaWipe | .reservationAging .. => reservationAging _

/-- Every row of the decoder has the fields it was read from. -/
theorem rawDecode_encodes (x : Fields) : Encodes x (rawDecode x) := by
  obtain ⟨f7, b, a, f3, d, op⟩ := x
  have key (n : Nat) (hn : op.toNat = n) : op = BitVec.ofNat 7 n := by rw [← hn, BitVec.ofNat_toNat, BitVec.setWidth_eq]
  unfold rawDecode
  split
  next e => exact key _ e ▸ rawLoad_encodes ⟨f7, b, a, f3, d, op⟩
  next e => exact key _ e ▸ rawVld_encodes ⟨f7, b, a, f3, d, op⟩
  next e => exact key _ e ▸ rawChan_encodes ⟨f7, b, a, f3, d, op⟩
  next e => exact key _ e ▸ rawMiscMem_encodes ⟨f7, b, a, f3, d, op⟩
  next e => exact key _ e ▸ rawOpImm_encodes ⟨f7, b, a, f3, d, op⟩
  next e => exact key _ e ▸ rawAuipc_encodes ⟨f7, b, a, f3, d, op⟩
  next e => exact key _ e ▸ rawOpImm32_encodes ⟨f7, b, a, f3, d, op⟩
  next e => exact key _ e ▸ rawHint_encodes ⟨f7, b, a, f3, d, op⟩
  next e => exact key _ e ▸ rawStore_encodes ⟨f7, b, a, f3, d, op⟩
  next e => exact key _ e ▸ rawVst_encodes ⟨f7, b, a, f3, d, op⟩
  next e => exact key _ e ▸ rawMsg_encodes ⟨f7, b, a, f3, d, op⟩
  next e => exact key _ e ▸ rawAmo_encodes ⟨f7, b, a, f3, d, op⟩
  next e => exact key _ e ▸ rawOp_encodes ⟨f7, b, a, f3, d, op⟩
  next e => exact key _ e ▸ rawLui_encodes ⟨f7, b, a, f3, d, op⟩
  next e => exact key _ e ▸ rawOp32_encodes ⟨f7, b, a, f3, d, op⟩
  next e => exact key _ e ▸ rawTask_encodes ⟨f7, b, a, f3, d, op⟩
  next e => exact key _ e ▸ rawVflt_encodes ⟨f7, b, a, f3, d, op⟩
  next e => exact key _ e ▸ rawLink_encodes ⟨f7, b, a, f3, d, op⟩
  next e => exact key _ e ▸ rawXcopy_encodes ⟨f7, b, a, f3, d, op⟩
  next e => exact key _ e ▸ rawSmem_encodes ⟨f7, b, a, f3, d, op⟩
  next e => exact key _ e ▸ rawVint_encodes ⟨f7, b, a, f3, d, op⟩
  next e => exact key _ e ▸ rawVmisc_encodes ⟨f7, b, a, f3, d, op⟩
  next e => exact key _ e ▸ rawBind_encodes ⟨f7, b, a, f3, d, op⟩
  next e => exact key _ e ▸ rawBranch_encodes ⟨f7, b, a, f3, d, op⟩
  next e => exact key _ e ▸ rawJalr_encodes ⟨f7, b, a, f3, d, op⟩
  next e => exact key _ e ▸ rawSync_encodes ⟨f7, b, a, f3, d, op⟩
  next e => exact key _ e ▸ rawJal_encodes ⟨f7, b, a, f3, d, op⟩
  next e => exact key _ e ▸ rawSystem_encodes ⟨f7, b, a, f3, d, op⟩
  next e => exact key _ e ▸ rawXop_encodes ⟨f7, b, a, f3, d, op⟩
  next e => exact key _ e ▸ rawTile_encodes ⟨f7, b, a, f3, d, op⟩
  next => exact encodes_none _

theorem rawDecode_op {x : Fields} {i : Instr} (h : rawDecode x = some i) :
    x.op.extractLsb' 0 2 = 3#2 ∧ x.op ≠ 0x5F#7 ∧ x.op ≠ 0x7F#7 := by
  unfold rawDecode at h
  split at h <;> simp_all [BitVec.toNat_eq]

theorem unpack_pack (x : Fields) : unpack (pack x) = x := by
  obtain ⟨f7, b, a, f3, d, op⟩ := x
  simp (disch := decide) only [unpack, pack, BitVec.extractLsb'_append_eq_of_le, low, Nat.reduceSub, BitVec.extractLsb'_eq_self]

theorem pack_unpack (w : IWord) : pack (unpack w) = w := by
  simp (disch := decide) only [pack, unpack, BitVec.extractLsb'_append_extractLsb'_eq_extractLsb', BitVec.extractLsb'_eq_self]

theorem low_unpack (w : IWord) : (unpack w).op.extractLsb' 0 2 = w.extractLsb' 0 2 := by
  simp [unpack, BitVec.extractLsb'_extractLsb'_of_le]

/-- `decode` answers exactly the well-formed instruction. -/
theorem decode_eq_ok {w : IWord} {i : Instr} : decode w = .ok i ↔ rawDecode (unpack w) = some i ∧ i.wf = true := by
  have hop : w.extractLsb' 0 7 = (unpack w).op := rfl
  unfold decode
  rw [hop, ← low_unpack]
  constructor
  · intro h
    split at h
    · cases h
    split at h
    · cases h
    split at h
    · cases h
    next j hj =>
    split at h
    · cases h; exact ⟨hj, ‹_›⟩
    · cases h
  · rintro ⟨h, hwf⟩
    obtain ⟨h1, h2, h3⟩ := rawDecode_op h
    simp [h, hwf, h1, h2, h3]

end Sys2Proof.Laws.RoundTrip
end

section

open Sys2Proof Sys2Proof.Laws.RoundTrip

/-- Settles O2: the rows of each major opcode give back the fields they are read from, and each instruction's fields their row. -/
theorem decodeEncode : Obligations.DecodeEncode := by
  unfold Obligations.DecodeEncode encode
  refine ⟨fun i w hwf hw => ?_, fun w i h => ?_⟩
  · obtain ⟨x, hx, rfl⟩ := Option.map_eq_some_iff.mp hw
    exact decode_eq_ok.mpr ⟨by rw [unpack_pack, rawDecode_encodeFields i x hx], hwf⟩
  · obtain ⟨hraw, hwf⟩ := decode_eq_ok.mp h
    exact ⟨hwf, by rw [rawDecode_encodes _ i hraw, Option.map_some, pack_unpack]⟩
end

section
/-! SUPPORT. The values of the register forms (R137, R139): what the named functions are, on operands of every value. -/

namespace Sys2Proof.Machine

variable {n : Nat}

/-! ## Comparison, selection and shifts -/

theorem boolWord_slt (x y : Word) : boolWord (x.slt y) = if x.toInt < y.toInt then 1 else 0 := by
  simp [boolWord, BitVec.slt]

theorem boolWord_ult (x y : Word) : boolWord (x.ult y) = if x.toNat < y.toNat then 1 else 0 := by
  simp [boolWord, BitVec.ult]

theorem smaller_slt (x y : BitVec n) : (if y.slt x then y else x) = if x.toInt ≤ y.toInt then x else y := by
  simp only [BitVec.slt, decide_eq_true_eq, ← Int.not_le, ite_not]

theorem smaller_ult (x y : BitVec n) : (if y.ult x then y else x) = if x.toNat ≤ y.toNat then x else y := by
  simp only [BitVec.ult, decide_eq_true_eq, ← Nat.not_le, ite_not]

/-- Equal operands are one operand: either is the larger. -/
theorem larger_slt (x y : BitVec n) : (if x.slt y then y else x) = if x.toInt ≤ y.toInt then y else x := by
  by_cases h : x = y
  · simp [h]
  · have : x.toInt ≠ y.toInt := fun e => h (BitVec.eq_of_toInt_eq e)
    simp only [BitVec.slt, decide_eq_true_eq, show x.toInt < y.toInt ↔ x.toInt ≤ y.toInt by omega]

theorem larger_ult (x y : BitVec n) : (if x.ult y then y else x) = if x.toNat ≤ y.toNat then y else x := by
  by_cases h : x = y
  · simp [h]
  · have : x.toNat ≠ y.toNat := fun e => h (BitVec.eq_of_toNat_eq e)
    simp only [BitVec.ult, decide_eq_true_eq, show x.toNat < y.toNat ↔ x.toNat ≤ y.toNat by omega]

theorem shift1_add (x y : Word) : (x <<< 1) + y = x * 2 + y := congrArg (· + y) (BitVec.shiftLeft_eq_mul_twoPow x 1)
theorem shift2_add (x y : Word) : (x <<< 2) + y = x * 4 + y := congrArg (· + y) (BitVec.shiftLeft_eq_mul_twoPow x 2)
theorem shift3_add (x y : Word) : (x <<< 3) + y = x * 8 + y := congrArg (· + y) (BitVec.shiftLeft_eq_mul_twoPow x 3)

/-- The shift count of a word form is that of the low word (R137). -/
theorem fld_low32 (y : Word) : fld y 4 0 = (y.setWidth 32).toNat % 32 := by
  simp [fld]

theorem fld_count (y : Word) : fld y 5 0 = y.toNat % 64 := by
  simp [fld]

/-! ## Products -/

theorem mul_eq_ofInt (x y : BitVec n) : x * y = BitVec.ofInt n (x.toInt * y.toInt) := by
  rw [BitVec.ofInt_mul, BitVec.ofInt_toInt, BitVec.ofInt_toInt]

theorem highWord_nat (p : Nat) : highWord p = BitVec.ofNat 64 (p / 2 ^ 64) := by
  unfold highWord
  rw [← BitVec.ofInt_natCast]
  rfl

/-! ## Division (R139) -/

theorem divS_eq (x y : BitVec n) : divS x y = if y = 0 then BitVec.allOnes n
    else if x.toInt = -2 ^ (n - 1) ∧ y.toInt = -1 then x else BitVec.ofInt n (x.toInt.tdiv y.toInt) := by
  unfold divS
  split
  · rfl
  split
  · next h =>
    obtain ⟨hx, hy⟩ := h
    have hmin : x = BitVec.intMin n := by
      have hn : 0 < n := Nat.pos_of_ne_zero fun h0 => by subst h0; simp [BitVec.of_length_zero] at hy
      exact BitVec.eq_of_toInt_eq (hx.trans (BitVec.toInt_intMin_of_pos hn).symm)
    rw [hy, Int.tdiv_neg, Int.tdiv_one, BitVec.ofInt_neg, BitVec.ofInt_toInt, hmin, BitVec.neg_intMin]
  · rfl

theorem remS_eq (x y : BitVec n) : remS x y = if y = 0 then x
    else if x.toInt = -2 ^ (n - 1) ∧ y.toInt = -1 then 0 else BitVec.ofInt n (x.toInt.tmod y.toInt) := by
  unfold remS
  split
  · rfl
  split
  · next h => rw [h.2]; simp
  · rfl

end Sys2Proof.Machine
end

section

open Sys2Proof Sys2Proof.Machine

/-- Settles O4: each form answers its value in d, and the values are those of the functions named. -/
theorem registerForms : Obligations.RegisterForms := by
  unfold Obligations.RegisterForms
  refine ⟨?op, ?op32, ?m⟩
  case op =>
    simp only [List.forall_mem_cons, List.not_mem_nil, false_implies, implies_true, and_true]
    refine ⟨?_, ?_, ?_, ?_, ?_, ?_, ?_, ?_, ?_, ?_, ?_, ?_, ?_, ?_, ?_, ?_, ?_, ?_, ?_, ?_, ?_, ?_⟩ <;> intro b a d s <;> refine gives_of rfl ?_
    all_goals simp only [fld_count, boolWord_slt, boolWord_ult, smaller_slt, smaller_ult, larger_slt, larger_ult, shift1_add, shift2_add, shift3_add]
  case op32 =>
    intro f g b a d s
    refine ⟨?word, ?uw, gives_of rfl rfl⟩
    case word =>
      simp only [f, List.forall_mem_cons, List.not_mem_nil, false_implies, implies_true, and_true]
      refine ⟨?_, ?_, ?_, ?_, ?_, ?_, ?_⟩ <;> refine gives_of rfl ?_
      all_goals simp only [fld_low32, low32, sext32]
    case uw =>
      simp only [g, List.forall_mem_cons, List.not_mem_nil, false_implies, implies_true, and_true]
      exact ⟨gives_of rfl rfl, gives_of rfl (shift1_add _ _), gives_of rfl (shift2_add _ _), gives_of rfl (shift3_add _ _)⟩
  case m =>
    intro quot rem quotU remU b a d s x y hx hy u v hu hv
    subst hx hy hu hv
    exact ⟨gives_of rfl (mul_eq_ofInt _ _), gives_of rfl rfl, gives_of rfl rfl, gives_of rfl (highWord_nat _),
      gives_of rfl (divS_eq _ _), gives_of rfl (remS_eq _ _), gives_of rfl rfl, gives_of rfl rfl,
      gives_of rfl (congrArg sext32 (mul_eq_ofInt _ _)), gives_of rfl (congrArg sext32 (divS_eq _ _)),
      gives_of rfl (congrArg sext32 (remS_eq _ _)), gives_of rfl rfl, gives_of rfl rfl⟩
end

section
/-! SUPPORT. Operands that a card does not accept (R33): a body that reads its first source first stops there. -/

namespace Sys2Proof.Machine

variable {s : State}

theorem traps_of {i : Instr} {e : Exn} {r : Try State} (h : exec i s = s.finish r) (hr : r = .error (.trap e)) : Traps i s e := by
  rw [Traps, h, hr, finish_trap]

/-- Cause 24 of a source whose card accepts a set of tags (R33). -/
theorem exnTagSet_eq (file reg : Nat) (t : Tag) : exnTagSet file reg t = exn 24 (BitVec.ofNat 64 (reg + 32 * file + 256 * t.toNat)) := by
  simp [exnTagSet, exnTag, toWord, Nat.mul_comm]

/-- The report of v[a] where its card accepts other tags. -/
def State.refusal (s : State) (a : BitVec 5) : Exn := exn 24 (BitVec.ofNat 64 (a.toNat + 256 * (s.getV a).tag.toNat))

theorem vSource_refused {a : BitVec 5} {ok : Tag → Bool} (h : ok (s.getV a).tag = false) :
    s.vSource a ok = .error (.trap (s.refusal a)) := by
  simp [State.vSource, h, raiseStop, exnTagSet_eq, State.refusal]

theorem vAny_refused {a : BitVec 5} (h : (s.getV a).tag = 0) :
    s.vAny a = .error (.trap (exn 24 (BitVec.ofNat 64 (a.toNat + 2 ^ 16)))) := by
  simp [State.vAny, h, raiseStop, exnTagAny, exnTag, toWord]

theorem tileSource_refused {m : BitVec 3} (h : isTileTag (s.getM m).tag = false) :
    s.tileSource m = .error (.trap (exn 24 (BitVec.ofNat 64 (m.toNat + 32 + 256 * (s.getM m).tag.toNat)))) := by
  simp [State.tileSource, h, raiseStop, exnTagSet_eq]

theorem vint_refused {a : BitVec 5} {ok : Tag → Bool} (h : ok (s.getV a).tag = false) (pg : BitVec 3) (b : BitVec 5) (f : BitVec 2)
    (d : BitVec 5) (op : Nat → Nat → Nat → Nat × Bool) : vint s ok pg b a f d op = .error (.trap (s.refusal a)) := by
  rw [vint, vSource_refused h]; rfl

theorem vcompare_refused {a : BitVec 5} {ok : Tag → Bool} (h : ok (s.getV a).tag = false) (b : BitVec 5) (f : BitVec 2) (d : BitVec 5)
    (cond : Tag → Nat → Nat → Bool × VFlags) : vcompare s ok b a f d cond = .error (.trap (s.refusal a)) := by
  rw [vcompare, vSource_refused h]; rfl

theorem vflt_refused {a : BitVec 5} (h : isVflt (s.getV a).tag = false) (pg : BitVec 3) (b : BitVec 5) (f : BitVec 2) (d : BitVec 5)
    (op : Fmt → Nat → Nat → Nat → Rounded) : vflt s pg b a f d op = .error (.trap (s.refusal a)) := by
  rw [vflt, vSource_refused h]; rfl

theorem vfltUnary_refused {a : BitVec 5} (h : isVflt (s.getV a).tag = false) (pg : BitVec 3) (d : BitVec 5)
    (op : Fmt → Nat → Nat → Rounded) : vfltUnary s pg a d op = .error (.trap (s.refusal a)) := by
  rw [vfltUnary, vSource_refused h]; rfl

theorem isInt_eq_false : ∀ {t : Tag}, t ≠ 2 → t ≠ 3 → t ≠ 4 → t ≠ 5 → isInt t = false := by decide

theorem intOrBits_eq_false : ∀ {t : Tag}, t ≠ 2 → t ≠ 3 → t ≠ 4 → t ≠ 5 → t ≠ 1 → intOrBits t = false := by decide

theorem isVflt_eq_false : ∀ {t : Tag}, t ≠ 6 → t ≠ 7 → t ≠ 8 → isVflt t = false := by decide

end Sys2Proof.Machine
end

section

open Sys2Proof Sys2Proof.Machine

/-- Settles O17: each instruction reads its first source first, and that read raises the report. -/
theorem tagTraps : Obligations.TagTraps := by
  unfold Obligations.TagTraps
  rintro pg b a d o h s _ _ rfl rfl
  simp only [List.forall_mem_cons, List.not_mem_nil, false_implies, implies_true, and_true]
  refine ⟨fun h2 h3 h4 h5 => ?int, fun h6 h7 h8 => ?float, fun h0 => ?sel, fun m k e ht => ?tile⟩
  case int =>
    have hi := isInt_eq_false h2 h3 h4 h5
    refine ⟨⟨?_, ?_, ?_, ?_, ?_, ?_, ?_, ?_, ?_, ?_, ?_, ?cmp⟩, fun h1 => ?logic⟩
    case cmp => exact traps_of rfl (vcompare_refused hi ..)
    case logic =>
      have hib := intOrBits_eq_false h2 h3 h4 h5 h1
      refine ⟨?_, ?_, ?_⟩ <;> exact traps_of rfl (vint_refused hib ..)
    all_goals exact traps_of rfl (vint_refused hi ..)
  case float =>
    have hf := isVflt_eq_false h6 h7 h8
    refine ⟨?_, ?_, ?_, ?fma, ?_, ?_, ?_, ?_, ?fcmp, ?fabs, ?neg, ?rcp, ?rsq, ?exp2, ?log2, ?cls⟩
    case fma => exact traps_of rfl (by rw [vSource_refused hf]; rfl)
    case fcmp => exact traps_of rfl (vcompare_refused hf ..)
    case cls => exact traps_of rfl (by rw [vSource_refused hf]; rfl)
    case fabs | neg | rcp | rsq | exp2 | log2 => exact traps_of rfl (vfltUnary_refused hf ..)
    all_goals exact traps_of rfl (vflt_refused hf ..)
  case sel => exact traps_of rfl (by rw [vAny_refused h0]; rfl)
  case tile =>
    refine ⟨?_, ?_, ?_⟩ <;> exact traps_of rfl (by rw [tileSource_refused ht]; rfl)
end

section
/-! SUPPORT. VSEL under a tag whose lanes are wider than its format (R34, R159): the operand it takes loses the bits above the format. -/

namespace Sys2Proof.Machine

/-- VSEL over the state in which operand b was read (R159). -/
theorem exec_vsel {s u : State} {c : BitVec 3} {b a d : BitVec 5} {o : BitVec 2} {y : Nat → Nat} (ha : (s.getV a).tag ≠ 0)
    (hb : s.operandB o (s.getV a).tag b = .ok (y, u)) :
    exec (.vsel c b a o d) s = .next (u.setV d (mergeV (s.getV d) (s.getV a).tag (fun _ => true) fun i =>
      if enabledBy (s.getP c) i then (s.getV a).elem i else trimLane (s.getV a).tag (y i))).advanceV := by
  have hx : s.vAny a = .ok (s.getV a) := if_pos ha
  change execVsel c b a o d s = _
  simp only [execVsel, hx, bind, Except.bind, hb]
  rfl

/-- A commit writes no v register. -/
theorem Committed.getV {u t : State} {pc : Word} {vec : Bool} (h : Committed u t pc vec) (d : BitVec 5) : t.getV d = u.getV d :=
  (congrArg (fun w : State => w.getV d) h.rest : t.sansCommit.getV d = u.sansCommit.getV d)

/-- What VSEL wrote in v[d], from the statement that it completed with `r` there. -/
theorem Completes.wrote {i : Instr} {s u : State} {d : BitVec 5} {r r' : VReg} (h : Completes i s (u.setV d r) true)
    (he : exec i s = .next (u.setV d r').advanceV) : r = r' := by
  obtain ⟨t, ht, hc⟩ := h
  obtain rfl : (u.setV d r').advanceV = t := by rw [he] at ht; exact Host.Outcome.next.inj ht
  have hd := hc.getV d
  rw [State.getV_setV, if_pos rfl] at hd
  rw [← hd]
  exact (State.getV_setV ..).trans (if_pos rfl)

/-- Every v register holds FP6 zeros, every x register 255, and every predicate is 0. -/
def State.fp6Lab : State :=
  { State.reset with cx := { State.reset.cx with v := Vector.replicate 32 ⟨11, 0⟩, x := Vector.replicate 32 255, p := Vector.replicate 8 0 } }

theorem fp6Lab_getV (a : BitVec 5) : State.fp6Lab.getV a = ⟨11, 0⟩ := by simp [State.getV, State.fp6Lab]

theorem fp6Lab_disabled : ¬ Enabled State.fp6Lab 1 0 := by simp [Enabled, State.fp6Lab]

theorem fp6Lab_scalar : State.fp6Lab.operandB 1 11 1 = .ok (fun _ => 255, State.fp6Lab) := by
  have hx : State.fp6Lab.getX 1 = 255 := by decide +kernel
  change Except.ok (fun _ => (State.fp6Lab.getX 1).toNat % 2 ^ tagWidth 11, State.fp6Lab) = _
  rw [hx]
  rfl

end Sys2Proof.Machine
end

section

open Sys2Proof Sys2Proof.Machine

/-- Refutes O16: where v[a] holds FP6 and operand b is the scalar 255, VSEL writes 63, the six bits that the format holds, where the
statement asks for all eight. -/
theorem not_vectorInteger : ¬ Obligations.VectorInteger := by
  unfold Obligations.VectorInteger
  rintro ⟨-, -, h⟩
  have htag : (State.fp6Lab.getV 1).tag = 11 := by rw [fp6Lab_getV]
  have hb : State.fp6Lab.operandB 1 (State.fp6Lab.getV 1).tag 1 = .ok (fun _ => 255, State.fp6Lab) := by rw [htag, fp6Lab_scalar]
  obtain ⟨hsel, -⟩ := (h 1 1 1 1 1 State.fp6Lab _ rfl 8 (by rw [htag]; rfl)).2 _ _ hb (fun _ => by decide)
  have hne : (State.fp6Lab.getV 1).tag ≠ 0 := by rw [htag]; decide
  obtain ⟨r, -, hr, hc⟩ := hsel hne
  have h255 := (hr 0 (by rw [htag]; decide)).2 fp6Lab_disabled
  rw [hc.wrote (exec_vsel hne hb), htag, fp6Lab_getV] at h255
  revert h255
  decide +kernel

end

section
/-! SUPPORT. Fetching (R129, R130) and the storage of registers (R155): what the instruction cache holds after a fetch, and that storage
shows in nothing but its own record. -/

namespace Sys2Proof.Machine

variable {s t : State}

/-! ## A part of a value in memory -/

theorem memRead_drop (m : List Host.Cell) (a k n : Nat) : memRead m a (k + n) / 256 ^ k = memRead m (a + k) n := by
  induction k generalizing a with
  | zero => simp
  | succ k ih =>
    have hb := (memGet m a).isLt
    rw [show k + 1 + n = (k + n) + 1 by omega, memRead, Nat.pow_succ', ← Nat.div_div_eq_div_mul, Nat.add_mul_div_left _ _ (by omega),
      Nat.div_eq_of_lt hb, Nat.zero_add, ih, Nat.add_right_comm, Nat.add_assoc]

theorem memRead_take (m : List Host.Cell) (a k n : Nat) : memRead m a (k + n) % 256 ^ k = memRead m a k := by
  induction k generalizing a with
  | zero => simp [memRead, Nat.mod_one]
  | succ k ih =>
    have hb := (memGet m a).isLt
    rw [show k + 1 + n = (k + n) + 1 by omega, memRead, memRead, Nat.pow_succ', Nat.mod_mul, Nat.add_mul_div_left _ _ (by omega),
      Nat.div_eq_of_lt hb, Nat.zero_add, ih, Nat.add_mul_mod_self_left, Nat.mod_eq_of_lt hb]

theorem toNat_ofNat_memRead (m : List Host.Cell) (a n : Nat) : (BitVec.ofNat (8 * n) (memRead m a n)).toNat = memRead m a n := by
  rw [BitVec.toNat_ofNat, Nat.pow_mul]
  exact Nat.mod_eq_of_lt (memRead_lt m a n)

/-! ## The instruction cache -/

theorem eraseP_or_self {α : Type} {p q : α → Bool} {k : Nat} {l : List α} {x : α} (h : x ∈ if k ≤ (l.filter p).length then l.eraseP q else l) :
    x ∈ l := by
  split at h
  · exact List.mem_of_mem_eraseP h
  · exact h

theorem mem_addBounded {α : Type} {same : α → Bool} {cap : Nat} {x y : α} {l : List α} (h : y ∈ addBounded same cap x l) : y ∈ l ∨ y = x := by
  simp only [addBounded, List.mem_append, List.mem_singleton] at h
  exact h.imp_left eraseP_or_self

theorem self_mem_addBounded {α : Type} (same : α → Bool) (cap : Nat) (x : α) (l : List α) : x ∈ addBounded same cap x l := by
  simp [addBounded]

/-- The element added is found where nothing before it is. -/
theorem find_addBounded {α : Type} {same p : α → Bool} {cap : Nat} {x : α} {l : List α} (hl : l.find? p = none) (hx : p x = true) :
    (addBounded same cap x l).find? p = some x := by
  have hnone : (if cap ≤ (l.filter same).length then l.eraseP same else l).find? p = none := by
    rw [List.find?_eq_none] at hl ⊢
    exact fun y hy => hl y (eraseP_or_self hy)
  rw [addBounded, List.find?_append, hnone]
  simp [hx]

/-- The block of a place as its home answers it (R129). -/
def State.homeBlock (s : State) (h pa : Nat) : FetchBlock := ⟨h, physOf pa / 64, BitVec.ofNat 512 (memRead s.mem (pa / 64 * 64) 64)⟩

theorem homeBlock_bytes (s : State) (h pa : Nat) : (s.homeBlock h pa).bytes.toNat = memRead s.mem (pa / 64 * 64) 64 := by
  simpa only [State.homeBlock] using toNat_ofNat_memRead s.mem (pa / 64 * 64) 64

theorem fillBlock_miss {h pa : Nat} (hm : s.blockOf h (physOf pa / 64) = none) :
    s.fillBlock h pa = { s with icache := addBounded (fun x => decide (x.h = h)) fetchBlocks (s.homeBlock h pa) s.icache } := by
  rw [State.fillBlock, hm]
  rfl

theorem fillBlock_cx (s : State) (h pa : Nat) : (s.fillBlock h pa).cx = s.cx := by
  unfold State.fillBlock
  split <;> rfl

/-- A word lies in one block, so a fetch that misses reads it from memory. -/
theorem fetchWord_miss {h pa : Nat} (hm : s.blockOf h (physOf pa / 64) = none) (ha : pa % 4 = 0) :
    s.fetchWord h pa = BitVec.ofNat 32 (memRead s.mem pa 4) := by
  have hb : (s.fillBlock h pa).blockOf h (physOf pa / 64) = some (s.homeBlock h pa) := by
    rw [fillBlock_miss hm]
    exact find_addBounded hm (by simp [State.homeBlock])
  obtain ⟨n, hn⟩ : ∃ n, 64 = pa % 64 + (4 + n) := ⟨60 - pa % 64, by omega⟩
  have hdrop : memRead s.mem (pa / 64 * 64) 64 / 256 ^ (pa % 64) = memRead s.mem pa (4 + n) := by
    have h := memRead_drop s.mem (pa / 64 * 64) (pa % 64) (4 + n)
    rwa [← hn, Nat.div_add_mod'] at h
  have htake : memRead s.mem pa (4 + n) % 2 ^ 32 = memRead s.mem pa 4 := memRead_take s.mem pa 4 n
  have hblock := homeBlock_bytes s h pa
  rw [State.fetchWord, hb]
  apply BitVec.eq_of_toNat_eq
  simp only [hblock, BitVec.toNat_ofNat]
  rw [Nat.shiftRight_eq_div_pow, Nat.pow_mul, hdrop, ← htake, Nat.mod_mod]

/-! ## The storage of registers -/

/-- Changes of contexts that storage alone shows, show in nothing else. -/
theorem mapAll_sansStorage {f : Ctx → Ctx} (hf : ∀ c, (f c).sansStorage = c.sansStorage) : (s.mapAll f).sansStorage = s.sansStorage := by
  simp only [State.sansStorage, State.mapAll, hf, List.map_map, Function.comp_def]

theorem mapCx_sansStorage {f : Ctx → Ctx} (hf : ∀ c, (f c).sansStorage = c.sansStorage) : (s.mapCx f).sansStorage = s.sansStorage := by
  simp only [State.sansStorage, State.mapCx, hf]

theorem moveReg_sansStorage (s : State) (k : Key) (r : Nat) (home : RegHome) : (s.moveReg k r home).sansStorage = s.sansStorage :=
  mapAll_sansStorage fun c => by split <;> rfl

theorem freeReserve_sansStorage (s : State) (h n f : Nat) : (s.freeReserve h n f).sansStorage = s.sansStorage := by
  induction f generalizing s with
  | zero => rfl
  | succ f ih =>
    unfold State.freeReserve
    split
    · rfl
    split
    · rfl
    · rw [ih, moveReg_sansStorage]

theorem freeBankBytes_sansStorage (s : State) (n f : Nat) : (s.freeBankBytes n f).sansStorage = s.sansStorage := by
  induction f generalizing s with
  | zero => rfl
  | succ f ih =>
    unfold State.freeBankBytes
    split
    · rfl
    split
    · rfl
    · rw [ih, moveReg_sansStorage, freeReserve_sansStorage]

theorem tickOrder_sansStorage (s : State) : s.tickOrder.sansStorage = s.sansStorage := rfl

theorem bindReg_sansStorage (s : State) (r : Nat) : (s.bindReg r).sansStorage = s.sansStorage := by
  have h := freeBankBytes_sansStorage s (regBytes r) 40
  rw [State.bindReg, tickOrder_sansStorage]
  generalize s.freeBankBytes (regBytes r) 40 = t at h ⊢
  exact (mapCx_sansStorage fun _ => rfl).trans h

theorem useReg_sansStorage (s : State) (r : Nat) : (s.useReg r).sansStorage = s.sansStorage := by
  unfold State.useReg
  split
  · rfl
  · next b _ =>
    have h : (if b.home = .banks then s else (s.freeBankBytes (regBytes r) 40).moveReg s.cx.key r .banks).sansStorage = s.sansStorage := by
      split
      · rfl
      · rw [moveReg_sansStorage, freeBankBytes_sansStorage]
    generalize (if b.home = .banks then s else (s.freeBankBytes (regBytes r) 40).moveReg s.cx.key r .banks) = t at h ⊢
    exact (mapCx_sansStorage fun _ => rfl).trans h

theorem foldl_sansStorage {α : Type} {f : State → α → State} (hf : ∀ u x, (f u x).sansStorage = u.sansStorage) (l : List α) (s : State) :
    (l.foldl f s).sansStorage = s.sansStorage := by
  induction l generalizing s with
  | nil => rfl
  | cons x l ih => rw [List.foldl_cons, ih, hf]

theorem settleRegs_sansStorage (s : State) : s.settleRegs.sansStorage = s.sansStorage :=
  (foldl_sansStorage bindReg_sansStorage ..).trans (mapCx_sansStorage fun _ => rfl)

theorem useRegs_sansStorage (s : State) (i : Instr) : (s.useRegs i).sansStorage = s.sansStorage :=
  (foldl_sansStorage useReg_sansStorage ..).trans (settleRegs_sansStorage s)

/-! ## The step of the running context (R22, R29, R202, R360, R365) -/

theorem spend_idle {c : Ctx} (h : c.comp.due = none) : c.spend = c := by
  rw [Ctx.spend, h, Option.map_none, ← h]

theorem opening_idle (hp : s.posts = []) (hd : s.cx.comp.due = none) : s.opening = s := by
  rw [State.opening, landWhere_nil hp, State.mapCx, spend_idle hd]

theorem step_runCore (ht : s.turns = []) : step s = ({ s with tick := s.tick + 1 } : State).opening.runCore := by
  rw [step, ht]

theorem runCore_waits (hr : s.canRun = true) (hw : s.cx.waiting = true) : s.runCore = exec .wfi s := by
  simp [State.runCore, hr, hw]

/-- With no boundary due the context fetches its next word, and runs it. -/
theorem runCore_fetches {pa : Nat} (hr : s.canRun = true) (hw : s.cx.waiting = false) (hb : s.cx.hint = none → s.boundary = none)
    (hp : s.fetchPlace s.cx.pc = .ok pa) :
    s.runCore = (s.fillBlock (s.cx.fetchSite s.cx.pc.toNat) pa).runWord (s.fetchWord (s.cx.fetchSite s.cx.pc.toNat) pa) := by
  have hn : s.runCore = s.runNext := by
    cases hh : s.cx.hint with
    | none => simp [State.runCore, hr, hw, hh, hb hh]
    | some k => simp [State.runCore, hr, hw, hh]
  rw [hn, State.runNext, hp]

theorem runWord_illegal {w : IWord} {e : DecodeError} (h : decode w = .error e) : s.runWord w = exec (.illegalInstruction w) s := by
  rw [State.runWord, h]

theorem runWord_plain {w : IWord} {i : Instr} (h : decode w = .ok i) (hh : s.cx.hint = none) : s.runWord w = exec i (s.useRegs i) := by
  rw [State.runWord, h, hh]

theorem runWord_refused {w : IWord} {i : Instr} {k : Hint} (h : decode w = .ok i) (hh : s.cx.hint = some k) (ht : takes k w = false) :
    s.runWord w = exec (.illegalInstruction k.word) s := by
  simp only [State.runWord, h, hh, ht]
  rfl

theorem runWord_taken {w : IWord} {i : Instr} {k : Hint} (h : decode w = .ok i) (hh : s.cx.hint = some k) (ht : takes k w = true)
    (hs : s.cx.suppressed w = false) : s.runWord w = exec i (s.useRegs i) := by
  simp only [State.runWord, h, hh, ht, hs]
  rfl

theorem runWord_suppressed {w : IWord} {i : Instr} {k : Hint} (h : decode w = .ok i) (hh : s.cx.hint = some k) (ht : takes k w = true)
    (hs : s.cx.suppressed w = true) : s.runWord w = .next s.advance := by
  simp only [State.runWord, h, hh, ht, hs]
  rfl

/-! ## Hints (R28, R29) -/

theorem toNat_append_add {n m : Nat} (x : BitVec n) (y : BitVec m) : (x ++ y).toNat = y.toNat + 2 ^ m * x.toNat := by
  rw [BitVec.toNat_append, ← Nat.shiftLeft_add_eq_or_of_lt y.isLt, Nat.shiftLeft_eq, Nat.add_comm, Nat.mul_comm]

theorem scopePayload : ∀ (t : BitVec 1) (c o : BitVec 2),
    (t ++ c ++ o).setWidth 20 = BitVec.ofNat 20 (o.toNat + 4 * c.toNat + 16 * t.toNat) := by decide

theorem tilePayload (r l : BitVec 10) : r ++ l = BitVec.ofNat 20 (l.toNat + 1024 * r.toNat) := by
  have h : (r ++ l).toNat = l.toNat + 1024 * r.toNat := toNat_append_add r l
  rw [← h, BitVec.ofNat_toNat, BitVec.setWidth_eq]

theorem widePayload (p : BitVec 20) : p = BitVec.ofNat 20 p.toNat := by simp

theorem narrowPayload {n : Nat} (q : BitVec n) : q.setWidth 20 = BitVec.ofNat 20 q.toNat := (BitVec.ofNat_toNat 20 q).symm

/-- A hint stands pending with its payload. -/
theorem exec_hint {i : Instr} {kind n : Nat} {payload : BitVec 20} (h : exec i s = .next (s.hint kind payload)) (e : payload = BitVec.ofNat 20 n) :
    exec i s = .next { s with cx := { s.cx with hint := some ⟨kind, BitVec.ofNat 20 n, s.cx.pc⟩, pc := s.cx.pc + 4 } } := by
  rw [h, e]
  rfl

end Sys2Proof.Machine
end

section

open Sys2Proof Sys2Proof.Machine

/-- Settles O3: a hint stands pending, and a step fetches and runs the word at the program counter. -/
theorem stepRunsDecoded : Obligations.StepRunsDecoded := by
  unfold Obligations.StepRunsDecoded
  refine ⟨?hints, fun i s => useRegs_sansStorage s i, ?step⟩
  case hints =>
    intro p t c o w q g r l s
    refine ⟨⟨_, rfl, s.advance_committed⟩, ?_⟩
    simp only [List.forall_mem_cons, List.not_mem_nil, false_implies, implies_true, and_true]
    exact ⟨exec_hint rfl (widePayload p), exec_hint rfl (scopePayload t c o),
      exec_hint rfl (narrowPayload w), exec_hint rfl (narrowPayload g), exec_hint rfl (widePayload p), exec_hint rfl (narrowPayload q),
      exec_hint rfl (narrowPayload q), exec_hint rfl (tilePayload r l)⟩
  case step =>
    intro s t ht hturns
    refine ⟨fun hp hd => ht.trans (opening_idle hp hd), fun hrun => ?_⟩
    have hstep : step s = t.runCore := (step_runCore hturns).trans (congrArg State.runCore ht.symm)
    refine ⟨fun hw => hstep.trans (runCore_waits hrun hw), ?_⟩
    rintro hw hb pa hp _ _ _ _ rfl rfl rfl rfl
    have hword := hstep.trans (runCore_fetches hrun hw hb hp)
    have hcx := fillBlock_cx t (t.cx.fetchSite t.cx.pc.toNat) pa
    refine ⟨fun hm ha => ⟨fetchWord_miss hm ha, ?_⟩, fun e he => hword.trans (runWord_illegal he), fun i hi => ⟨fun hh => ?_, fun k hk => ?_⟩⟩
    · rw [fillBlock_miss hm]
      exact ⟨rfl, self_mem_addBounded .., fun x hx => mem_addBounded hx⟩
    · exact hword.trans (runWord_plain hi (by rwa [hcx]))
    · rw [← hcx] at hk
      refine ⟨fun hn => hword.trans (runWord_refused hi hk hn), fun hy hs => ?_, fun hy hs => ?_⟩
      · exact hword.trans (runWord_taken hi hk hy hs)
      · exact hword.trans (runWord_suppressed hi hk hy hs)
end

section
/-! SUPPORT. The lanes and flags of a register written under a predicate, and what the reads of a configuration image leave
alone (R156, R185, R186). -/

namespace Sys2Proof.Machine

/-! ## Packed elements -/

theorem packElems_succ (w : Nat) (f : Nat → Nat) (n : Nat) : packElems w f (n + 1) = packElems w f n + 2 ^ (w * n) * (f n % 2 ^ w) := by
  rw [packElems, Nat.shiftLeft_eq, Nat.mul_comm]

theorem packElems_lt (w : Nat) (f : Nat → Nat) : ∀ n, packElems w f n < 2 ^ (w * n)
  | 0 => by simp [packElems]
  | n + 1 => by
    calc packElems w f (n + 1) < 2 ^ (w * n) + 2 ^ (w * n) * (f n % 2 ^ w) := by
          rw [packElems_succ]; exact Nat.add_lt_add_right (packElems_lt w f n) _
      _ = 2 ^ (w * n) * (f n % 2 ^ w + 1) := by rw [Nat.mul_add, Nat.mul_one, Nat.add_comm]
      _ ≤ 2 ^ (w * n) * 2 ^ w := Nat.mul_le_mul_left _ (Nat.mod_lt _ (Nat.two_pow_pos w))
      _ = 2 ^ (w * (n + 1)) := by rw [← pow_add, Nat.mul_succ]

theorem packElems_elem (w : Nat) (f : Nat → Nat) {i : Nat} : ∀ {n}, i < n → packElems w f n / 2 ^ (w * i) % 2 ^ w = f i % 2 ^ w
  | n + 1, h => by
    rw [packElems_succ]
    obtain rfl | hi := (Nat.lt_succ_iff.mp h).eq_or_lt
    · rw [Nat.add_mul_div_left _ _ (Nat.two_pow_pos _), Nat.div_eq_of_lt (packElems_lt w f i), Nat.zero_add, Nat.mod_mod]
    · obtain ⟨k, rfl⟩ := Nat.exists_eq_add_of_lt hi
      have hp : 2 ^ (w * (i + k + 1)) * (f (i + k + 1) % 2 ^ w) = 2 ^ (w * i) * (2 ^ w * (2 ^ (w * k) * (f (i + k + 1) % 2 ^ w))) := by
        ring
      rw [hp, Nat.add_mul_div_left _ _ (Nat.two_pow_pos _), Nat.add_mul_mod_self_left, packElems_elem w f hi]

theorem packElems_lt_of_le {w n m : Nat} (f : Nat → Nat) (h : w * n ≤ m) : packElems w f n < 2 ^ m :=
  (packElems_lt w f n).trans_le (Nat.pow_le_pow_right Nat.two_pos h)

theorem toNat_ofNat_packElems {w n m : Nat} (f : Nat → Nat) (h : w * n ≤ m) :
    (BitVec.ofNat m (packElems w f n)).toNat = packElems w f n := by
  rw [BitVec.toNat_ofNat, Nat.mod_eq_of_lt (packElems_lt_of_le f h)]

/-- An element of a register that packed elements fill. -/
theorem elemOf_packElems {w n i : Nat} (f : Nat → Nat) (hw : w * n ≤ 1024) (hi : i < n) :
    elemOf w (BitVec.ofNat 1024 (packElems w f n)) i = f i % 2 ^ w := by
  rw [elemOf, toNat_ofNat_packElems f hw, Nat.shiftRight_eq_div_pow, packElems_elem w f hi]

theorem elemOf_lt (w : Nat) (b : BitVec 1024) (i : Nat) : elemOf w b i < 2 ^ w := Nat.mod_lt _ (Nat.two_pow_pos w)

/-- The lanes of a register written under a predicate: the results where it enables, else the old lanes if the tag stays (R156). -/
theorem laneWrite_elem {old : VReg} {t : Tag} {w n i : Nat} {en : Nat → Bool} {res : Nat → Nat} (hw : w * n ≤ 1024) (hi : i < n) :
    elemOf w (laneWrite old t w n en res).bits i =
      if en i then res i % 2 ^ w else if old.tag = t then elemOf w old.bits i else 0 := by
  rw [laneWrite, elemOf_packElems _ hw hi]
  split
  · rfl
  · split
    · exact Nat.mod_eq_of_lt (elemOf_lt ..)
    · rfl

/-! ## Predicates and flags -/

theorem enabledBy_getP (s : State) (pg : BitVec 3) (i : Nat) : enabledBy (s.getP pg) i = true ↔ Enabled s pg i := by
  have hp : pg.toFin = 0 ↔ pg = 0 := by rw [← BitVec.toNat_inj, Fin.ext_iff]; rfl
  simp only [enabledBy, Enabled, State.getP, Ctx.getP, hp, Bool.or_eq_true, decide_eq_true_eq]
  split
  next h =>
    simp only [BitVec.getLsbD_allOnes, decide_eq_true_eq, h, true_or, or_true, iff_true]
    omega
  next h => simp only [h, false_or]

/-- The flags that the enabled ones of `n` elements raise (R58). -/
def gatherFlags (en : Nat → Bool) (g : Nat → VFlags) (n : Nat) : VFlags :=
  (List.range n).foldl (fun acc i => if en i then acc ||| g i else acc) 0

theorem gatherFlags_succ (en : Nat → Bool) (g : Nat → VFlags) (n : Nat) :
    gatherFlags en g (n + 1) = if en n then gatherFlags en g n ||| g n else gatherFlags en g n := by
  simp [gatherFlags, List.range_succ]

theorem gatherFlags_bit (en : Nat → Bool) (g : Nat → VFlags) (k : Nat) :
    ∀ n, (gatherFlags en g n).getLsbD k = true ↔ ∃ i < n, en i = true ∧ (g i).getLsbD k = true
  | 0 => by simp [gatherFlags]
  | n + 1 => by
    simp only [gatherFlags_succ, Nat.exists_lt_succ_right, ← gatherFlags_bit en g k n]
    cases h : en n <;> simp

theorem flagsOf_gatherFlags {s : State} {pg : BitVec 3} {n : Nat} (g : Nat → VFlags) :
    FlagsOf (gatherFlags (fun i => enabledBy (s.getP pg) i) g n) n (Enabled s pg) g := fun k => by
  simp only [gatherFlags_bit, enabledBy_getP]

/-! ## Reads that leave control alone -/

variable {s : State}

theorem mapCtx_pc {k : Key} {f : Ctx → Ctx} (hf : ∀ c, (f c).pc = c.pc) : (s.mapCtx k f).cx.pc = s.cx.pc := by
  simp only [State.mapCtx, State.mapIf, State.mapAll]
  split
  · exact hf _
  · rfl

theorem countSlice_pc {k : Key} : (s.countSlice k).cx.pc = s.cx.pc := mapCtx_pc fun _ => rfl

theorem countFor_pc {k : Key} {ev n : Nat} : (s.countFor k ev n).cx.pc = s.cx.pc := mapCtx_pc fun _ => rfl

theorem trip_pc {src dst : Nat} : (s.trip src dst).cx.pc = s.cx.pc := countFor_pc (s := s.stampNext src s.cx.leaf 0)

theorem fillLine_cx {h place : Nat} : (s.fillLine h place).cx = s.cx := by
  unfold State.fillLine
  split <;> rfl

theorem loadWeak_pc {t : Target} {va : Word} {n w : Nat} : (s.loadWeak t va n w).2.cx.pc = s.cx.pc := by
  simp only [State.loadWeak]
  split
  · rfl
  · split
    · split
      · rfl
      · exact (congrArg Ctx.pc fillLine_cx).trans (countSlice_pc.trans trip_pc)
    · exact trip_pc

theorem readMem_weak_pc {va : Word} {n : Nat} : Yields (fun p => p.2.cx.pc = s.cx.pc) (s.readMem .weak va n) :=
  .skip fun _ => .skip fun _ => .ok loadWeak_pc

theorem readWords_pc {va : Word} {n : Nat} : Yields (fun p => p.2.cx.pc = s.cx.pc) (s.readWords va n) := by
  induction n generalizing s va with
  | zero => exact .ok rfl
  | succ n ih => exact readMem_weak_pc.bind fun _ ht => ih.bind fun _ hu => .ok (hu.trans ht)

theorem readImage_pc {va : Word} : Yields (fun p => p.2.cx.pc = s.cx.pc) (s.readImage va) :=
  readWords_pc.bind fun _ ht => .ite (readWords_pc.bind fun _ hu => .ok (hu.trans ht)) (.ok ht)

end Sys2Proof.Machine
end

section
/-! SUPPORT. The custom operations: XOP, and the four things that XCFG does to the slots (R185 to R187). -/

namespace Sys2Proof.Machine

theorem mem_upsert {α : Type} (same : α → Bool) (x : α) (l : List α) : x ∈ upsert same x l := by
  unfold upsert
  split
  case isTrue h =>
    obtain ⟨y, hy, hs⟩ := List.any_eq_true.mp h
    exact List.mem_map.mpr ⟨y, hy, if_pos hs⟩
  case isFalse => exact List.mem_append_right _ List.mem_cons_self

variable {s : State}

theorem xWidth_mul_xLanes (img : XImage) : xWidth img * xLanes img ≤ 1024 := Nat.mul_div_le ..

theorem vExact_ok {a : BitVec 5} {t : Tag} (h : (s.getV a).tag = t) : s.vExact a t = .ok (s.getV a) := if_pos h

/-- A source of an image that holds the tag it asks for, or that it has not (R185). -/
theorem xSource_ok {img : XImage} {j : Nat} {r : BitVec 5} {v : VReg} (hv : v = if xNsrc img ≤ j then VReg.empty else s.getV r)
    (ht : j < xNsrc img → v.tag = BitVec.ofNat 4 (xItag img j)) : s.xSource img j r = .ok v := by
  unfold State.xSource
  split
  next h =>
    rw [if_neg (Nat.not_le.mpr h)] at hv
    subst hv
    exact vExact_ok (ht h)
  next h => rw [hv, if_pos (Nat.le_of_not_lt h)]

/-- The graph of an image on lane `i` of three sources (R185). -/
def xopLane (s : State) (img : XImage) (src : List VReg) (i : Nat) : Nat × VFlags :=
  graph img s.cx.rm fun j => elemOf (xWidth img) (src.getD j VReg.empty).bits i

/-- The register that an XOP writes. -/
def xopReg (s : State) (img : XImage) (src : List VReg) (pg : BitVec 3) (d : BitVec 5) : VReg :=
  laneWrite (s.getV d) (BitVec.ofNat 4 (xOtag img)) (xWidth img) (xLanes img) (fun i => enabledBy (s.getP pg) i) fun i => (xopLane s img src i).1

/-- The flags that an XOP sets. -/
def xopFlags (s : State) (img : XImage) (src : List VReg) (pg : BitVec 3) : VFlags :=
  gatherFlags (fun i => enabledBy (s.getP pg) i) (fun i => (xopLane s img src i).2) (xLanes img)

/-- The state over which an XOP commits: its slot is used, its register and flags are written. -/
def xopWritten (s : State) (x : XSlot) (r : VReg) (fl : VFlags) (d : BitVec 5) : State :=
  (((s.putSlot { x with age := s.order }).setV d r).addFlags fl).tickOrder

theorem exec_xop {op : BitVec 6} {b a d : BitVec 5} {pg : BitVec 3} {x : XSlot} {v0 v1 v2 : VReg} (hx : s.xslot? s.cx.key op.toNat = some x)
    (hb : xNsrc x.image < 2 → b = 0) (ha : xNsrc x.image < 1 → a = 0) (h0 : s.xSource x.image 0 a = .ok v0)
    (h1 : s.xSource x.image 1 b = .ok v1) (h2 : s.xSource x.image 2 d = .ok v2) :
    exec (.xop op b a pg d) s =
      .next (xopWritten s x (xopReg s x.image [v0, v1, v2] pg d) (xopFlags s x.image [v0, v1, v2] pg) d).advanceV := by
  have hc : (!(decide (xNsrc x.image < 2) && b ≠ 0) && !(decide (xNsrc x.image < 1) && a ≠ 0)) = true := by
    simpa [imp_iff_not_or] using And.intro hb ha
  change execXop op b a pg d s = _
  simp only [execXop, hx, hc, h0, h1, h2, check_true]
  rfl

/-- An opcode or an entry out of range is refused after the reads (R186). -/
theorem exec_xcfgLoad_outOfRange {a d : BitVec 5} {e : Nat} {t u : State} {img : XImage} (hr : s.leafGrants 6 = true)
    (he : s.readMem .weak (s.cx.xTable + toWord (8 * (s.getX a).toNat)) 8 = .ok (e, t))
    (hi : t.readImage (s.cx.xBase + toWord (e % 2 ^ 48)) = .ok (img, u))
    (h : 64 ≤ (s.getX a).toNat ∨ s.cx.xEntries ≤ (s.getX a).toNat ∨ e < 2 ^ 63) :
    Traps (.xcfgLoad a d) s (exnAster 1 0 (s.getX a).toNat) := by
  have hc : (decide ((s.getX a).toNat < 64) && decide ((s.getX a).toNat < s.cx.xEntries) && decide (2 ^ 63 ≤ e)) = false := by
    simp only [Bool.and_eq_false_iff, decide_eq_false_iff_not, Nat.not_lt, Nat.not_le, or_assoc]
    exact h
  refine traps_of (rfl : _ = execXcfgLoad a d s) ?_
  simp only [rightXop, hr, he, hi, hc, check_true, check_false, bind, Except.bind]

/-- The slot number that a load fills: that of the opcode if it is resident, else the victim's (R181). -/
def xLoadIdx (u : State) (k : Key) (op : Nat) : Nat := ((u.xslot? k op).map (·.idx)).getD (u.xvictim k.h)

/-- The slot that a load puts in place. -/
def xLoaded (u : State) (k : Key) (op : Nat) (img : XImage) : XSlot := ⟨k.h, xLoadIdx u k op, k, op, img, u.order⟩

theorem exec_xcfgLoad {a d : BitVec 5} {e : Nat} {t u : State} {img : XImage} (hr : s.leafGrants 6 = true)
    (he : s.readMem .weak (s.cx.xTable + toWord (8 * (s.getX a).toNat)) 8 = .ok (e, t))
    (hi : t.readImage (s.cx.xBase + toWord (e % 2 ^ 48)) = .ok (img, u))
    (hn : (s.getX a).toNat < 64) (hx : (s.getX a).toNat < s.cx.xEntries) (hv : 2 ^ 63 ≤ e)
    (hva : (s.cx.xBase + toWord (e % 2 ^ 48)).toNat % 64 = 0) (hf : imageFail img = none) :
    exec (.xcfgLoad a d) s = .next (((u.putSlot (xLoaded u s.cx.key (s.getX a).toNat img)).tickOrder.result d
      (toWord (xLoadIdx u s.cx.key (s.getX a).toNat))).mapCx (·.count 3 1)) := by
  change execXcfgLoad a d s = _
  simp only [execXcfgLoad, rightXop, hr, he, hi, hn, hx, hv, hva, hf, decide_true, Bool.and_self, check_true, bind, Except.bind, xLoaded,
    xLoadIdx]
  cases u.xslot? s.cx.key (s.getX a).toNat <;> rfl

end Sys2Proof.Machine
end

section

open Sys2Proof Sys2Proof.Machine

/-- Settles O38: XOP writes the graph's lanes and flags under its predicate, DROP filters the slots, QUERY describes one, and LOAD ends in
the first check that fails or puts the image it read into a slot. -/
theorem engines : Obligations.Engines := by
  unfold Obligations.Engines
  intro op b a d pg s
  refine ⟨fun hx => ?absent, ?lanes, ?drop, ?query, fun hr => ?right, ?range, ?load⟩
  case absent =>
    refine traps_of (rfl : _ = execXop op b a pg d s) ?_
    simp only [hx]
    rfl
  case lanes =>
    rintro x w n hx rfl rfl hb ha src hsrc htag res hres
    have h0 := xSource_ok (s := s) (hsrc 0) (htag 0 (by decide))
    have h1 := xSource_ok (s := s) (hsrc 1) (htag 1 (by decide))
    have h2 := xSource_ok (s := s) (hsrc 2) (htag 2 (by decide))
    have hlane : res = xopLane s x.image [src 0, src 1, src 2] := funext fun i => (hres i).trans (congrArg _ (funext fun j => ?_))
    · subst hlane
      refine ⟨xopReg s x.image [src 0, src 1, src 2] pg d, xopFlags s x.image [src 0, src 1, src 2] pg, _, rfl, flagsOf_gatherFlags _,
        fun i hi => ?_, ⟨_, exec_xop hx hb ha h0 h1 h2, State.advanceV_committed _⟩, ?_, rfl, rfl⟩
      · rw [xopReg, laneWrite_elem (xWidth_mul_xLanes _) hi]
        exact ⟨fun he => if_pos ((enabledBy_getP ..).mpr he), fun he => if_neg fun hf => he ((enabledBy_getP ..).mp hf)⟩
      · exact (State.getV_setV ..).trans (if_pos rfl)
    · match j with
      | 0 | 1 | 2 => rfl
      | j + 3 => rfl
  case drop =>
    refine ⟨_, rfl, rfl, fun x => ?_⟩
    change x ∈ s.slots.filter _ ↔ _
    simp [imp_iff_not_or]
  case query =>
    refine ⟨_, (match s.xslot? s.cx.key (s.getX a).toNat with | none => 0 | some x => x.describe), rfl, ?_, fun r => State.getX_setX ..,
      fun hx => by rw [hx], fun x hx => by rw [hx]; rfl⟩
    exact congrArg (· + 4) (Ctx.setX_pc ..)
  case right =>
    refine traps_of (rfl : _ = execXcfgLoad a d s) ?_
    simp only [rightXop, hr, check_false]
    rfl
  case range =>
    rintro hr n e t u img rfl he hi h
    exact ⟨_, rfl, exec_xcfgLoad_outOfRange hr he hi h⟩
  case load =>
    rintro hr n rfl hn hx e t u img va he hv rfl hva hi hf
    refine ⟨_, xLoaded u s.cx.key (s.getX a).toNat img, exec_xcfgLoad hr he hi hn hx hv hva hf, ?_, mem_upsert .., rfl, rfl, rfl, rfl, ?_⟩
    · have hpc := (readImage_pc _ hi).trans (readMem_weak_pc _ he)
      exact congrArg (· + 4) ((Ctx.setX_pc ..).trans hpc)
    · refine (State.getX_setX ..).trans ?_
      by_cases h : d = 0
      · subst h
        rfl
      · rw [if_pos ⟨h, rfl⟩, if_neg h]
        rfl

end

section
/-! SUPPORT. Workspaces (R32, R133, R366, R367): what a write-back leaves in memory and in its context, and what a switch of pointers
sets. -/

namespace Sys2Proof.Machine

variable {s t : State}

/-! ## Write-back -/

/-- The first `n` registers of a write-back at a place. -/
def State.wroteBack (s : State) (base n : Nat) : State := (List.range' 1 n).foldl (writeBackOne base) s

theorem wroteBack_succ (s : State) (base n : Nat) : s.wroteBack base (n + 1) = writeBackOne base (s.wroteBack base n) (n + 1) := by
  simp [State.wroteBack, List.range'_concat, Nat.add_comm]

theorem MemSameBut.mono {a b n m : Nat} (h : MemSameBut s t a n) (ha : b ≤ a) (hn : a + n ≤ b + m) : MemSameBut s t b m :=
  fun x hx => h x (by omega)

theorem MemSameBut.trans {u : State} {a n : Nat} (h : MemSameBut s t a n) (h' : MemSameBut t u a n) : MemSameBut s u a n :=
  fun x hx => (h' x hx).trans (h x hx)

/-- What a read outside the bytes that changed finds. -/
theorem MemSameBut.memRead {a n b m : Nat} (h : MemSameBut s t a n) (hb : b + m ≤ a ∨ a + n ≤ b) : memRead t.mem b m = memRead s.mem b m :=
  memRead_congr b m fun x _ _ => h x (by omega)

theorem writeBackOne_marks (base : Nat) (s : State) (i : Nat) : (writeBackOne base s i).cx.sansMarks = s.cx.sansMarks := by
  unfold writeBackOne
  split <;> rfl

theorem writeBackOne_safe (h : Safe s) (base i : Nat) : Safe (writeBackOne base s i) := by
  unfold writeBackOne
  split
  · exact h.store ..
  · exact h

theorem writeBackOne_memSameBut (h : Safe s) (base i : Nat) : MemSameBut s (writeBackOne base s i) (base + 8 * i) 8 := by
  unfold writeBackOne
  split
  · exact store_memSameBut h _ _ _
  · exact fun _ _ => rfl

/-- A dirty register is in its doubleword. -/
theorem writeBackOne_read (h : Safe s) (base : Nat) {i : Nat} (hd : s.cx.dirty.getLsbD i = true) :
    memRead (writeBackOne base s i).mem (base + 8 * i) 8 = (s.cx.getX (BitVec.ofNat 5 i)).toNat := by
  rw [writeBackOne, if_pos hd, store_read h]
  exact Nat.mod_eq_of_lt (BitVec.isLt _)

theorem wroteBack_marks (s : State) (base : Nat) : ∀ n, (s.wroteBack base n).cx.sansMarks = s.cx.sansMarks
  | 0 => rfl
  | n + 1 => by rw [wroteBack_succ, writeBackOne_marks, wroteBack_marks]

theorem wroteBack_safe (h : Safe s) (base : Nat) : ∀ n, Safe (s.wroteBack base n)
  | 0 => h
  | n + 1 => by rw [wroteBack_succ]; exact writeBackOne_safe (wroteBack_safe h base n) ..

theorem wroteBack_memSameBut (h : Safe s) (base : Nat) : ∀ n, MemSameBut s (s.wroteBack base n) base (8 * (n + 1))
  | 0 => fun _ _ => rfl
  | n + 1 => by
    rw [wroteBack_succ]
    exact ((wroteBack_memSameBut h base n).mono (by omega) (by omega)).trans
      ((writeBackOne_memSameBut (wroteBack_safe h base n) _ _).mono (by omega) (by omega))

theorem wroteBack_read (h : Safe s) (base : Nat) {i : Nat} (hi : 0 < i) (hd : s.cx.dirty.getLsbD i = true) :
    ∀ {n}, i ≤ n → memRead (s.wroteBack base n).mem (base + 8 * i) 8 = (s.cx.getX (BitVec.ofNat 5 i)).toNat
  | 0, hn => absurd hn (by omega)
  | n + 1, hn => by
    have hm := wroteBack_marks s base n
    have hs := wroteBack_safe h base n
    have hx : (s.wroteBack base n).cx.x = s.cx.x := (congrArg Ctx.x hm :)
    have hdirty : (s.wroteBack base n).cx.dirty = s.cx.dirty := (congrArg Ctx.dirty hm :)
    rw [wroteBack_succ]
    obtain rfl | hlt := hn.eq_or_lt
    · rw [writeBackOne_read hs base (by rw [hdirty]; exact hd), Ctx.getX, hx, Ctx.getX]
    · rw [(writeBackOne_memSameBut hs base (n + 1)).memRead (by omega), wroteBack_read h base hi hd (by omega)]

/-- A write-back changes of its own context the dirty bits alone, but for the marks of writes. -/
theorem writeBack_marks (s : State) : s.writeBack.cx.sansMarks = { s.cx.sansMarks with dirty := 0 } :=
  congrArg (fun c : Ctx => { c with dirty := 0 }) (wroteBack_marks s (s.cx.workspace s.cx.level) 31)

theorem writeBack_memSameBut (h : Safe s) : MemSameBut s s.writeBack (s.cx.workspace s.cx.level) 256 :=
  wroteBack_memSameBut h (s.cx.workspace s.cx.level) 31

theorem writeBack_read (h : Safe s) {i : Nat} (hi : 0 < i) (hlt : i < 32) (hd : s.cx.dirty.getLsbD i = true) :
    memRead s.writeBack.mem (s.cx.workspace s.cx.level + 8 * i) 8 = (s.cx.getX (BitVec.ofNat 5 i)).toNat :=
  wroteBack_read h (s.cx.workspace s.cx.level) hi hd (Nat.le_of_lt_succ hlt)

theorem getX_ofNat {c : Ctx} {i : Nat} (hi : 0 < i) (hlt : i < 32) : c.getX (BitVec.ofNat 5 i) = c.x.get (BitVec.ofNat 5 i).toFin := by
  refine if_neg fun h => ?_
  have := congrArg BitVec.toNat h
  rw [BitVec.toNat_ofNat, Nat.mod_eq_of_lt hlt] at this
  exact hi.ne' this

/-! ## A switch of workspaces -/

/-- The pointer of a level moved, the old one going to Lscratch where the instruction names x0 (R366). -/
def Ctx.switchWsp (c : Ctx) (l : Level) (a : BitVec 5) (new : Nat) (old : Word) : Ctx :=
  if a = 0 then (c.setWsp l (toWord (new * 512))).setTr l { (c.setWsp l (toWord (new * 512))).tr l with scratch := old }
  else c.setWsp l (toWord (new * 512))

section

variable {c : Ctx} {l : Level} {a : BitVec 5} {new : Nat} {old : Word}

theorem switchWsp_level : (c.switchWsp l a new old).level = c.level := by
  unfold Ctx.switchWsp
  split <;> cases l <;> rfl

theorem switchWsp_pc : (c.switchWsp l a new old).pc = c.pc := by
  unfold Ctx.switchWsp
  split <;> cases l <;> rfl

theorem switchWsp_wspOf : (c.switchWsp l a new old).wspOf l = toWord (new * 512) := by
  unfold Ctx.switchWsp
  split <;> cases l <;> rfl

theorem switchWsp_scratch (ha : a = 0) : ((c.switchWsp l a new old).tr l).scratch = old := by
  rw [Ctx.switchWsp, if_pos ha]
  cases l <;> rfl

end

/-- x[r] of a context whose registers come from its workspace. -/
theorem loadX_getX (s : State) (r : BitVec 5) :
    s.loadX.getX r = if r = 0 then 0 else toWord (memRead s.mem (s.cx.workspace s.cx.level + 8 * r.toNat) 8) := by
  change (if r = 0 then 0 else (readWorkspace s.mem (s.cx.workspace s.cx.level)).get r.toFin) = _
  split
  next => rfl
  next h =>
    have hr : r.toFin.val ≠ 0 := fun h0 => h (BitVec.eq_of_toNat_eq h0)
    simp only [readWorkspace, Vector.get_ofFn, hr, if_false]
    rfl

/-- The state over which WSP.SW answers the old pointer, outside a composition. -/
def State.switchedWsp (s : State) (a : BitVec 5) (new : Nat) : State :=
  s.writeBack.mapCx fun c => c.switchWsp s.cx.level a new (s.cx.wspOf s.cx.level)

theorem switchedWsp_level {a : BitVec 5} {new : Nat} : (s.switchedWsp a new).cx.level = s.cx.level :=
  switchWsp_level.trans (congrArg Ctx.level (writeBack_marks s) :)

theorem switchedWsp_pc {a : BitVec 5} {new : Nat} : (s.switchedWsp a new).cx.pc = s.cx.pc :=
  switchWsp_pc.trans (congrArg Ctx.pc (writeBack_marks s) :)

/-- The pointer that WSP.SW takes, as a number of 512-byte places (R366). -/
def State.wspSource (s : State) (a : BitVec 5) : Nat := fld (if a = 0 then (s.cx.tr s.cx.level).scratch else s.getX a) 19 9

theorem wspSource_eq (s : State) (a : BitVec 5) :
    s.wspSource a = (if a = 0 then (s.cx.tr s.cx.level).scratch else s.getX a).toNat / 512 % 2048 := by
  rw [State.wspSource, fld, Nat.shiftRight_eq_div_pow]
  norm_num

theorem dissolve_lone (h : s.cx.comp.n ≤ 1) (last : Nat) : s.dissolve last = s := if_pos h

theorem exec_wspSw {a d : BitVec 5} (hn : s.cx.comp.n ≤ 1) (hl : s.cx.level ≠ .K ∨ a ≠ 0)
    (hf : s.cx.wspFits s.cx.level (s.wspSource a) = true) :
    exec (.wspSw a d) s = .next ((s.switchedWsp a (s.wspSource a)).loadX.result d (s.cx.wspOf s.cx.level)) := by
  have hc : (!(decide (s.cx.level = .K) && decide (a = 0))) = true := by
    simpa [← imp_iff_not_or] using hl
  have hw : s.writeBack.cx.wsp = s.cx.wsp := (congrArg Ctx.wsp (writeBack_marks s) :)
  have hold : s.writeBack.cx.wspOf s.cx.level = s.cx.wspOf s.cx.level := by
    cases s.cx.level <;> simp only [Ctx.wspOf, hw]
  change execWspSw a d s = _
  rw [State.wspSource] at hf ⊢
  simp only [execWspSw, dissolve_lone hn, hc, hf, check_true, bind, Except.bind, hold]
  rfl

theorem wspSw_misfit {a d : BitVec 5} (hl : s.cx.level ≠ .K ∨ a ≠ 0)
    (hf : s.cx.wspFits s.cx.level (s.wspSource a) = false) :
    Traps (.wspSw a d) s (exnBoundary (toWord (s.wspSource a * 512)) 7 (wspOwner s.cx.level)) := by
  have hc : (!(decide (s.cx.level = .K) && decide (a = 0))) = true := by
    simpa [← imp_iff_not_or] using hl
  refine traps_of (rfl : _ = execWspSw a d s) ?_
  rw [State.wspSource] at hf ⊢
  simp only [hc, hf, check_true, check_false, bind, Except.bind]

/-! ## What WSP.SW leaves -/

theorem result_pc {d : BitVec 5} {v : Word} : (s.result d v).cx.pc = s.cx.pc + 4 := congrArg (· + 4) (Ctx.setX_pc ..)

theorem result_level {d : BitVec 5} {v : Word} : (s.result d v).cx.level = s.cx.level := by
  simp only [State.result, State.advance_cx, State.setX_cx, Ctx.advance_level, Ctx.setX_level]

theorem result_wspOf {d : BitVec 5} {v : Word} {l : Level} : (s.result d v).cx.wspOf l = s.cx.wspOf l := by
  cases l <;> simp only [State.result, State.advance_cx, State.setX_cx, Ctx.wspOf, Ctx.advance_wsp, Ctx.setX_wsp]

theorem result_tr {d : BitVec 5} {v : Word} {l : Level} : (s.result d v).cx.tr l = s.cx.tr l := by
  cases l <;> simp [State.result, Ctx.tr]

theorem result_workspace {d : BitVec 5} {v : Word} {l : Level} : (s.result d v).cx.workspace l = s.cx.workspace l := by
  cases l <;> simp [State.result, Ctx.workspace, Ctx.wspOf, Ctx.poolOff]

theorem result_getX {d r : BitVec 5} {v : Word} : (s.result d v).getX r = if r ≠ 0 ∧ r = d then v else s.getX r := State.getX_setX ..

theorem loadX_level : s.loadX.cx.level = s.cx.level := by
  simp only [State.loadX]

theorem loadX_pc : s.loadX.cx.pc = s.cx.pc := by
  simp only [State.loadX]

theorem loadX_wspOf {l : Level} : s.loadX.cx.wspOf l = s.cx.wspOf l := by
  cases l <;> simp only [State.loadX, Ctx.wspOf]

theorem loadX_tr {l : Level} : s.loadX.cx.tr l = s.cx.tr l := by
  cases l <;> simp only [State.loadX, Ctx.tr]

theorem loadX_workspace {l : Level} : s.loadX.cx.workspace l = s.cx.workspace l := by
  cases l <;> simp only [State.loadX, Ctx.workspace, Ctx.wspOf, Ctx.poolOff]

/-- A register once the workspace at the pointer has been loaded and x[d] answered. -/
theorem loadX_result_getX {d r : BitVec 5} {v : Word} : (s.loadX.result d v).getX r =
    if r = 0 then 0 else if r = d then v else
      toWord (memRead (s.loadX.result d v).mem ((s.loadX.result d v).cx.workspace s.cx.level + 8 * r.toNat) 8) := by
  have hm : (s.loadX.result d v).mem = s.mem := by
    simp only [State.result, State.advance_mem, State.setX_mem, State.loadX]
  rw [result_getX, loadX_getX, result_workspace, loadX_workspace, hm]
  by_cases h0 : r = 0
  · rw [if_neg fun h => h.1 h0, if_pos h0, if_pos h0]
  · rw [if_neg h0, if_neg h0]
    exact if_congr (and_iff_right h0) rfl rfl

end Sys2Proof.Machine
end

section
/-! SUPPORT. Removals of translations and the end of page walks (R113, R115, R117 to R120, R127, R312). -/

namespace Sys2Proof.Machine

variable {s : State}

/-! ## Waiting for an interrupt -/

theorem exec_wfi_wakes (hl : s.cx.level ≠ .K) (hw : (s.cx.wakes s.now || s.cx.saveReq.isSome || s.cx.halt.isSome) = true) :
    exec .wfi s = .next s.advance := by
  change execWfi s = _
  simp only [execWfi, hl, hw, ne_eq, not_false_eq_true, decide_true, check_true, if_true]
  rfl

theorem exec_wfi_waits (hl : s.cx.level ≠ .K) (hw : (s.cx.wakes s.now || s.cx.saveReq.isSome || s.cx.halt.isSome) = false) :
    exec .wfi s = .next (s.mapCx fun c => { c with waiting := true }) := by
  change execWfi s = _
  simp only [execWfi, hl, hw, ne_eq, not_false_eq_true, decide_true, check_true, Bool.false_eq_true, if_false]
  rfl

/-! ## Words of SYSTEM -/


/-- A word of SYSTEM as a sum of its fields. -/
theorem systemWord_toNat (f7 : BitVec 7) (b a d : BitVec 5) :
    (systemWord f7 b a d).toNat = 0x73 + f7.toNat * 2 ^ 25 + b.toNat * 2 ^ 20 + a.toNat * 2 ^ 15 + d.toNat * 2 ^ 7 := by
  have h0 : (0 : BitVec 3).toNat = 0 := rfl
  have h73 : (0x73 : BitVec 7).toNat = 0x73 := rfl
  simp only [systemWord, toNat_append_add, h0, h73]
  omega

theorem wspWord_value (d : BitVec 5) : (systemWord 12 0 0 d).setWidth 64 = 0x18000073 + d.setWidth 64 * 128 := by
  have h12 : (12 : BitVec 7).toNat = 12 := rfl
  have h0 : (0 : BitVec 5).toNat = 0 := rfl
  have hw : (systemWord 12 0 0 d).toNat = 0x18000073 + d.toNat * 128 := by
    rw [systemWord_toNat, h12, h0]
    omega
  simp only [← BitVec.ofNat_toNat, hw, BitVec.ofNat_add, BitVec.ofNat_mul]
  rfl

theorem invWord_value (b a : BitVec 5) (rl st : BitVec 2) : (invWord b a rl st).setWidth 64 =
    0x12000073 + b.setWidth 64 * 2 ^ 20 + a.setWidth 64 * 2 ^ 15 + rl.setWidth 64 * 2 ^ 9 + st.setWidth 64 * 2 ^ 7 := by
  have hd : ((0 : BitVec 1) ++ rl ++ st : BitVec 5).toNat = rl.toNat * 2 ^ 2 + st.toNat := by
    have h0 : (0 : BitVec 1).toNat = 0 := rfl
    simp only [toNat_append_add, h0]
    omega
  have hw : (invWord b a rl st).toNat = 0x12000073 + b.toNat * 2 ^ 20 + a.toNat * 2 ^ 15 + rl.toNat * 2 ^ 9 + st.toNat * 2 ^ 7 := by
    have h9 : (9 : BitVec 7).toNat = 9 := rfl
    rw [invWord, systemWord_toNat, hd, h9]
    omega
  simp only [← BitVec.ofNat_toNat, hw, BitVec.ofNat_add, BitVec.ofNat_mul]
  rfl

/-! ## Issuing and awaiting a removal -/

theorem mem_invStages {l : Level} {st : BitVec 2} {k : Nat} : k ∈ invStages l st ↔ if st = 0 then 1 ≤ k ∧ k ≤ l.rank else k = st.toNat := by
  unfold invStages
  split
  · rw [List.mem_range'_1]
    omega
  · exact List.mem_singleton

theorem invStages_length {l : Level} {st : BitVec 2} (h : st = 0 → l = .T) : (invStages l st).length ≤ 1 := by
  unfold invStages
  split
  next hst =>
    rw [h hst]
    decide
  next => exact Nat.le_refl 1

/-- The removal that a TLB.INV issues (R117, R118). -/
def State.issuedInv (s : State) (a : BitVec 5) (rl st : BitVec 2) (leaf fl : Nat) : TlbInv :=
  ⟨s.cx.key, invStages s.cx.level st, leaf, fl, if rl = 0 then some (fld (s.getX a) 47 0) else none⟩

theorem exec_tlbInv {b a : BitVec 5} {rl st : BitVec 2} {leaf fl : Nat} (hl : s.cx.level ≠ .K) (hrl : rl.toNat ≤ 1)
    (hst : st.toNat ≤ s.cx.level.rank) (hall : st = 0 → s.cx.level ≠ .T → rl ≠ 0) (ht : s.invTarget (s.getX b) = .ok (leaf, fl))
    (hd : s.cx.drained = true) (ho : tabGet s.tokens s.cx.key.h 0 < 16) :
    exec (.tlbInv b a rl st) s = .next (({ s with invs := s.invs ++ [s.issuedInv a rl st leaf fl] } : State).ctl s.cx.key.h s.cx.leaf).advance := by
  have hstages : (invStages s.cx.level st).all (· ≤ s.cx.level.rank) = true := by
    rw [List.all_eq_true]
    intro k hk
    rw [mem_invStages] at hk
    split at hk
    · exact decide_eq_true hk.2
    · exact decide_eq_true (hk ▸ hst)
  have hlen : (decide ((invStages s.cx.level st).length ≤ 1) || decide (rl ≠ 0)) = true := by
    rw [Bool.or_eq_true, decide_eq_true_iff, decide_eq_true_iff]
    by_cases h : st = 0 ∧ s.cx.level ≠ .T
    · exact .inr (hall h.1 h.2)
    · exact .inl (invStages_length fun h0 => by_contra fun hT => h ⟨h0, hT⟩)
  have hopen : (s.cx.drained && s.ctlOpen s.cx.key.h) = true := by
    rw [hd, State.ctlOpen, Bool.true_and, decide_eq_true_iff]
    exact ho
  have hok : (decide (s.cx.level ≠ .K) && decide (rl.toNat ≤ 1) && (invStages s.cx.level st).all (· ≤ s.cx.level.rank) &&
      (decide ((invStages s.cx.level st).length ≤ 1) || decide (rl ≠ 0))) = true := by
    rw [hstages, hlen, decide_eq_true hl, decide_eq_true hrl]
    rfl
  change execTlbInv b a rl st s = _
  simp only [execTlbInv, hok, ht, hopen, check_true, tryExn_ok, waitUntil_true, bind, Except.bind]
  rfl

theorem exec_tlbSync (hl : s.cx.level ≠ .K) (hi : ∀ i ∈ s.invs, i.key ≠ s.cx.key) : exec .tlbSync s = .next s.advance := by
  have hw : (s.invs.all fun i => i.key ≠ s.cx.key) = true := List.all_eq_true.mpr fun i h => decide_eq_true (hi i h)
  change execTlbSync s = _
  simp only [execTlbSync, hl, hw, ne_eq, not_false_eq_true, decide_true, check_true, waitUntil_true]
  rfl

/-! ## A removal completes -/

/-- The write-back of the lines that a removal unpins. -/
def State.cleanLines (s : State) (lines : List (Nat × Nat)) : State := lines.foldl (fun s p => s.sliceClean p.1 p.2) s

theorem cleanLines_cons (s : State) (p : Nat × Nat) (lines : List (Nat × Nat)) :
    s.cleanLines (p :: lines) = (s.sliceClean p.1 p.2).cleanLines lines := rfl

/-- A write-back of lines changes memory and the slices alone. -/
theorem cleanLines_slicedTo (s : State) (lines : List (Nat × Nat)) : s.SlicedTo (s.cleanLines lines) := by
  induction lines generalizing s with
  | nil => exact .refl s
  | cons p lines ih => exact (sliceClean_slicedTo s p.1 p.2).trans (ih _)

/-- A line of which no byte is dirty leaves memory as it is. -/
theorem sliceClean_clean (h : ∀ l ∈ s.slices, l.dirty = 0) (home line : Nat) :
    (s.sliceClean home line).mem = s.mem ∧ ∀ l ∈ (s.sliceClean home line).slices, l.dirty = 0 := by
  unfold State.sliceClean
  split
  next => exact ⟨rfl, h⟩
  next x hx =>
    have hd := h x (List.mem_of_find?_eq_some hx)
    refine ⟨?_, fun l hl => ?_⟩
    · simp [hd]
    · obtain ⟨y, hy, rfl⟩ := List.mem_map.mp hl
      split
      · rfl
      · exact h y hy

theorem cleanLines_clean (lines : List (Nat × Nat)) (h : ∀ l ∈ s.slices, l.dirty = 0) : (s.cleanLines lines).mem = s.mem := by
  induction lines generalizing s with
  | nil => rfl
  | cons p lines ih =>
    obtain ⟨hm, hd⟩ := sliceClean_clean h p.1 p.2
    exact (ih hd).trans hm

theorem mem_revokePins {c : Ctx} {lines : List (Nat × Nat)} {p : PinEntry} (h : p ∈ (c.revokePins lines).pins) : p ∈ c.pins := by
  unfold Ctx.revokePins at h
  split at h
  · exact h
  · exact List.mem_of_mem_filter h

/-- A context once a removal has taken its pins and its watch. -/
def State.bereft (s : State) (i : TlbInv) (c : Ctx) : Ctx := s.losesWatch i (c.revokePins (s.unpinned i))

theorem mem_bereft_pins {i : TlbInv} {c : Ctx} {p : PinEntry} (h : p ∈ (s.bereft i c).pins) : p ∈ c.pins := mem_revokePins h

/-- The state in which a removal is complete. -/
def State.invalidated (s : State) (i : TlbInv) : State :=
  let t := (s.cleanLines (s.unpinned i)).mapAll (s.bereft i)
  { t with
    tlb := t.tlb.filter fun e => !i.hits e
    ext := t.ext.filter fun e => !i.removes e.entry
    walks := t.walks.filter fun w => !i.restarts w
    invs := t.invs.erase i }

theorem exec_tlbInvComplete {k : Key} {i : TlbInv} (hf : s.invs.find? (fun j => j.key = k) = some i) (hp : s.invPerformed i = true) :
    exec (.tlbInvComplete k) s = .next (s.invalidated i) := by
  change execTlbInvComplete k s = _
  simp only [execTlbInvComplete, hf, hp, Bool.not_true, Bool.false_eq_true, if_false]
  rfl

theorem invalidated_mem {i : TlbInv} (h : ∀ l ∈ s.slices, l.dirty = 0) : (s.invalidated i).mem = s.mem := cleanLines_clean (s.unpinned i) h

theorem mem_invalidated_tlb {i : TlbInv} {e : TlbEntry} : e ∈ (s.invalidated i).tlb ↔ e ∈ s.tlb ∧ i.hits e = false := by
  obtain ⟨m, l, ht⟩ := cleanLines_slicedTo s (s.unpinned i)
  simp only [State.invalidated, ht, State.mapAll, List.mem_filter, Bool.not_eq_true']

theorem mem_invalidated_ext {i : TlbInv} {e : ExtEntry} : e ∈ (s.invalidated i).ext ↔ e ∈ s.ext ∧ i.removes e.entry = false := by
  obtain ⟨m, l, ht⟩ := cleanLines_slicedTo s (s.unpinned i)
  simp only [State.invalidated, ht, State.mapAll, List.mem_filter, Bool.not_eq_true']

theorem mem_invalidated_walks {i : TlbInv} {w : Walk} : w ∈ (s.invalidated i).walks ↔ w ∈ s.walks ∧ i.restarts w = false := by
  obtain ⟨m, l, ht⟩ := cleanLines_slicedTo s (s.unpinned i)
  simp only [State.invalidated, ht, State.mapAll, List.mem_filter, Bool.not_eq_true']

theorem invalidated_invs (s : State) (i : TlbInv) : (s.invalidated i).invs = s.invs.erase i := by
  obtain ⟨m, l, ht⟩ := cleanLines_slicedTo s (s.unpinned i)
  simp only [State.invalidated, ht, State.mapAll]

theorem invalidated_ctxs (s : State) (i : TlbInv) : (s.invalidated i).ctxs = s.ctxs.map (s.bereft i) := by
  obtain ⟨m, l, ht⟩ := cleanLines_slicedTo s (s.unpinned i)
  simp only [State.invalidated, ht, State.mapAll, State.ctxs, List.map_cons]

/-! ## A page walk completes -/

theorem self_mem_addTlb (l : List TlbEntry) (e : TlbEntry) : e ∈ addTlb l e := self_mem_addBounded ..

/-- An entry of another TLB stays. -/
theorem mem_addTlb_of_ne {l : List TlbEntry} {e x : TlbEntry} (hx : x ∈ l) (h : x.at_ ≠ e.at_) : x ∈ addTlb l e := by
  have hf : x ∈ l.filter fun y => y ≠ e := List.mem_filter.mpr ⟨hx, decide_eq_true fun he => h (he ▸ rfl)⟩
  refine List.mem_append_left _ ?_
  split
  · exact (List.mem_eraseP_of_neg (by simpa using h)).mpr hf
  · exact hf

theorem mem_of_mem_addTlb {l : List TlbEntry} {e x : TlbEntry} (h : x ∈ addTlb l e) : x ∈ l ∨ x = e :=
  (mem_addBounded h).imp_left List.mem_of_mem_filter

theorem mem_addExt {die : Nat} {used : List UsedEntry} {y : UsedEntry} (h : y ∈ used) : ⟨die, y⟩ ∈ (s.addExt die used).ext :=
  List.mem_append_right _ (List.mem_map.mpr ⟨y, List.mem_eraseDups.mpr h, rfl⟩)

theorem xlat_used {f : Found} {x : Xlat} (h : f.xlat? = some x) : x.used = f.used := by
  unfold Found.xlat? at h
  split at h
  · cases h; rfl
  · cases h

/-- The state in which a walk for a context's address has found a whole translation. -/
def State.walked (s : State) (k : Key) (c : Ctx) (va : Nat) (x : Xlat) : State :=
  let t := ({ s with walks := s.walks.filter fun w => !w.serves c.client va } : State).addExt c.client.die (s.missFound c.client va).used
  { t with tlb := addTlb (addTlb s.tlb (x.entry (.die c.client.die) c.client va)) (x.entry (.core k.h) c.client va) }

theorem exec_pageWalkComplete {k : Key} {acc : Access} {va : Word} {c : Ctx} {x : Xlat} (hc : s.ctx? k = some c) (hr : regionOf va = .global)
    (hx : (s.missFound c.client va.toNat).xlat? = some x) : exec (.pageWalkComplete k acc va) s = .next (s.walked k c va.toNat x) := by
  change execPageWalkComplete k acc va s = _
  simp only [execPageWalkComplete, hc, hr, ne_eq, not_true_eq_false, if_false, hx, State.fillDie]
  rfl

end Sys2Proof.Machine
end

section

open Sys2Proof Sys2Proof.Machine

/-- Settles O30: the write-back and the switch of workspaces by the registers of a workspace one after the other, the removals by what
each filters. -/
theorem systemInstructions : Obligations.SystemInstructions := by
  unfold Obligations.SystemInstructions
  refine ⟨fun a d s => ⟨fun hl => ?wfiAtK, fun hl => ⟨fun hw => ?wfiWakes, fun hw hs hh => ?wfiWaits⟩, fun hs => ?bindWb,
    fun hn => ⟨fun hl ha => ?wspAtK, fun hl => ?wsp⟩⟩, fun b a rl st s => ⟨fun hl => ⟨?invAtK, ?syncAtK⟩,
    fun hl hrl hst hall leaf fl ht hd ho => ?inv, fun hl hi => ?sync, fun k i hf hp => ?invComplete, ?walk⟩⟩
  case wfiAtK =>
    refine traps_of (rfl : _ = execWfi s) ?_
    simp only [hl]
    rfl
  case wfiWakes =>
    have hc : (s.cx.wakes s.now || s.cx.saveReq.isSome || s.cx.halt.isSome) = true := by
      simpa only [Bool.or_eq_true, Option.isSome_iff_ne_none, or_assoc] using hw
    exact ⟨_, exec_wfi_wakes hl hc, State.advance_committed s⟩
  case wfiWaits =>
    exact exec_wfi_waits hl (by rw [hw, hs, hh]; rfl)
  case bindWb =>
    have hm := writeBack_marks s
    refine ⟨_, rfl, (congrArg (·.pc + 4) hm :), (congrArg Ctx.x hm :), rfl, writeBack_memSameBut hs, fun i hlt hi hd => ?_⟩
    exact (writeBack_read hs hi hlt hd).trans (congrArg _ (getX_ofNat hi hlt))
  case wspAtK =>
    subst ha
    refine traps_of (rfl : _ = execWspSw 0 d s) ?_
    rw [← wspWord_value]
    simp only [hl]
    rfl
  case wsp =>
    rintro src rfl new hnew
    obtain rfl : new = s.wspSource a := hnew.trans (wspSource_eq s a).symm
    refine ⟨fun hf => wspSw_misfit hl hf, ?_⟩
    rintro hf old rfl
    refine ⟨_, exec_wspSw hn hl hf, ?_, ?_, ?_, fun ha => ?_, fun r => ?_⟩
    · rw [result_pc, loadX_pc, switchedWsp_pc]
    · rw [result_level, loadX_level, switchedWsp_level]
    · rw [result_wspOf, loadX_wspOf]
      exact switchWsp_wspOf
    · rw [result_tr, loadX_tr]
      exact switchWsp_scratch ha
    · rw [loadX_result_getX, switchedWsp_level]
      rfl
  case invAtK =>
    refine traps_of (rfl : _ = execTlbInv b a rl st s) ?_
    rw [← invWord_value]
    simp only [hl]
    rfl
  case syncAtK =>
    refine traps_of (rfl : _ = execTlbSync s) ?_
    simp only [hl]
    rfl
  case inv =>
    exact ⟨s.issuedInv a rl st leaf fl, rfl, rfl, rfl, rfl, fun k => mem_invStages, _, exec_tlbInv hl hrl hst hall ht hd ho,
      State.advance_committed _⟩
  case sync => exact ⟨_, exec_tlbSync hl hi, State.advance_committed s⟩
  case invComplete =>
    refine ⟨_, exec_tlbInvComplete hf hp, fun e => mem_invalidated_tlb, fun e => mem_invalidated_ext, fun w => mem_invalidated_walks,
      invalidated_invs s i, invalidated_mem, fun c hc p hpin => ?_⟩
    rw [invalidated_ctxs] at hc
    obtain ⟨o, ho, rfl⟩ := List.mem_map.mp hc
    exact ⟨o, ho, mem_bereft_pins hpin⟩
  case walk =>
    rintro k acc va c x p q hc hr hx rfl rfl
    have hne : (x.entry (.die c.client.die) c.client va.toNat).at_ ≠ (x.entry (.core k.h) c.client va.toNat).at_ := nofun
    refine ⟨_, exec_pageWalkComplete hc hr hx, self_mem_addTlb .., mem_addTlb_of_ne (self_mem_addTlb ..) hne, rfl, rfl,
      fun y hy => mem_addExt (xlat_used hx ▸ hy), fun e he => ?_⟩
    rcases mem_of_mem_addTlb he with h | h
    · exact (mem_of_mem_addTlb h).imp_right .inr
    · exact .inr (.inl h)

end

section
/-! SUPPORT. Posted read–modify–writes that return nothing (R208, R213, R221, R223): RED, LACC.ADD and LACC.CLR at once in the local window and
as an entry of the operand log elsewhere, and the read of an accumulator at its place (R54, R223). -/

namespace Sys2Proof.Machine

variable {s : State} {t : Target} {kind : OpKind} {op n : Nat} {va : Word} {data : BitVec 1024}

/-! ## Issue -/

theorem mayLeave_weak (c : Ctx) : c.mayLeave .weak = true := rfl

theorem mayIssue_weak (h : t.direct = true ∨ s.roomFor (s.cx.bankSite va) s.cx.leaf 0 = true) : s.mayIssue .weak t va = true := by
  simpa [State.mayIssue, mayLeave_weak] using h

/-- What RED, LACC.ADD and LACC.CLR do once their target is known: wait until the operation may leave, and send it. -/
def State.issueRmw (s : State) (kind : OpKind) (op : Nat) (t : Target) (va : Word) (n : Nat) (data : BitVec 1024) : Try State := do
  waitUntil (s.mayIssue .weak t va)
  let u ← s.postRmw kind op .weak t va n data
  return u.advance

theorem exec_red {w : BitVec 2} {b a c : BitVec 5} {z : BitVec 1} (hw : s.cx.waitMet w.toNat 0 = true)
    (ha : (s.getX a).toNat % amoBytes z = 0) (ht : s.postedTarget (s.getX a) (amoBytes z) = .ok t) :
    exec (.red w b a z c) s = s.finish (s.issueRmw .red c.toNat t (s.getX a) (amoBytes z) ((s.getX b).setWidth 1024)) := by
  change execRed w b a z c s = _
  simp only [execRed, hw, ha, ht, decide_true, waitUntil_true, check_true]
  rfl

theorem aligned_of_laccTarget (h : s.laccTarget va = .ok t) : va.toNat % 8 = 0 := by
  by_contra ha
  simp [State.laccTarget, ha, bind, Except.bind] at h

theorem exec_laccClr {w : BitVec 2} {a : BitVec 5} (hw : s.cx.waitMet w.toNat 0 = true) (ht : s.laccTarget (s.getX a) = .ok t) :
    exec (.laccClr w a) s = s.finish (s.issueRmw .laccClr 0 t (s.getX a) 72 0) := by
  change execLaccClr w a s = _
  simp only [execLaccClr, hw, ht, waitUntil_true]
  rfl

theorem exec_laccAdd {w : BitVec 2} {b a : BitVec 5} {p : BitVec 1} (hw : s.cx.waitMet w.toNat 0 = true)
    (hr : laccRefuses (p = 1) (s.getX b) = false) (ht : s.laccTarget (s.getX a) = .ok t) :
    exec (.laccAdd w b a p) s = s.finish (s.issueRmw .laccAdd p.toNat t (s.getX a) 72 ((s.getX b).setWidth 1024)) := by
  change execLaccAdd w b a p s = _
  simp only [execLaccAdd, hw, aligned_of_laccTarget ht, hr, ht, decide_true, waitUntil_true, check_true]
  rfl

/-- An operand that is a NaN or an infinity sends nothing (R223). -/
theorem exec_laccAdd_refused {w : BitVec 2} {b a : BitVec 5} {p : BitVec 1} (hw : s.cx.waitMet w.toNat 0 = true)
    (ha : (s.getX a).toNat % 8 = 0) (hr : laccRefuses (p = 1) (s.getX b) = true) :
    exec (.laccAdd w b a p) s = .next (s.addFlags flagNV).advance := by
  change execLaccAdd w b a p s = _
  simp only [execLaccAdd, hw, ha, hr, decide_true, waitUntil_true, check_true]
  rfl

/-- The entry that a posted read–modify–write enters at an index of the operand log (R213). -/
def State.rmwEntry (s : State) (kind : OpKind) (op : Nat) (t : Target) (va : Word) (n : Nat) (data : BitVec 1024) (i : Nat) : OpEntry :=
  ⟨i, va, kind, op, n, 0, false, data, [], n, t.pa, t.site, t.countClass s.cx.key.h, .sent, s.cx.level, s.cx.key.h, 0, 0, false, false⟩

/-! ## In the local window -/

/-- The state in which a local operation has taken its effect: no load performed early is left (R345). -/
def State.reducedHere (s : State) (kind : OpKind) (op : Nat) (t : Target) (va : Word) (n : Nat) (data : BitVec 1024) : State :=
  (s.mapCx Ctx.settleLoads).applyEntry s.cx.key s.cx.kid (s.rmwEntry kind op t va n data 0) t.pa

theorem issueRmw_local (hk : t.kind = .localWin) (ho : s.localOpen t.pa n = true) :
    s.issueRmw kind op t va n data = .ok (s.reducedHere kind op t va n data).advance := by
  have hm : s.mayIssue .weak t va = true := mayIssue_weak (.inl (by simp [Target.direct, hk]))
  simp only [State.issueRmw, hm, waitUntil_true, State.postRmw, hk, State.beforeLocal, State.ownPool, ho, if_true]
  rfl

/-- The effect of an entry changes memory, first-level copies and the marks of writes alone; TRIG's count is no access (R78). -/
theorem applyEntry_sansMem {k : Key} {kid pa : Nat} {e : OpEntry} (he : e.kind ≠ .trig) : (s.applyEntry k kid e pa).sansMem = s.sansMem := by
  unfold State.applyEntry
  cases h : e.kind with
  | store => exact storeCells_sansMem ..
  | red => exact store_sansMem ..
  | laccAdd => exact (countFor_sansMem ..).trans (store_sansMem ..)
  | laccClr => exact (countFor_sansMem ..).trans (store_sansMem ..)
  | trig => exact absurd h he
  | semV => exact store_sansMem ..

theorem reducedHere_sansMem (hk : kind ≠ .trig) :
    (s.reducedHere kind op t va n data).sansMem = (s.mapCx Ctx.settleLoads).sansMem := applyEntry_sansMem hk

/-- A local operation whose effect is that of a write of `f` of what its place held. -/
theorem reduces_local {i : Instr} {f : Nat → Nat} (hs : Safe s) (hi : exec i s = s.finish (s.issueRmw kind op t va n data))
    (hk : t.kind = .localWin) (ho : s.localOpen t.pa n = true) (htrig : kind ≠ .trig)
    (hm : (s.reducedHere kind op t va n data).mem = (s.store t.pa n (f (memRead s.mem t.pa n))).mem) :
    ∃ u, exec i s = .next u ∧ u.cx.pc = s.cx.pc + 4 ∧ memRead u.mem t.pa n = f (memRead s.mem t.pa n) % 256 ^ n ∧
      MemSameBut s u t.pa n ∧ u.sansCommit.sansMem.sansTraffic = s.sansCommit.sansMem.sansTraffic := by
  have hsans := reducedHere_sansMem (s := s) (op := op) (t := t) (va := va) (n := n) (data := data) htrig
  have hpc : (s.reducedHere kind op t va n data).cx.pc = s.cx.pc := (congrArg (fun w : State => w.cx.pc) hsans :)
  obtain ⟨hread, hsame⟩ := store_reads_back (u := (s.reducedHere kind op t va n data).advance) hs hm
  exact ⟨_, by rw [hi, issueRmw_local hk ho, finish_ok], congrArg (· + 4) hpc, hread, hsame,
    congrArg (fun w : State => w.sansCommit.sansTraffic) hsans⟩

theorem reducedHere_red : (s.reducedHere .red op t va n data).mem = (s.store t.pa n (portOp op n (memRead s.mem t.pa n) data.toNat)).mem := by
  rw [State.reducedHere, applyEntry_red rfl]
  rfl

theorem reducedHere_laccClr : (s.reducedHere .laccClr op t va 72 data).mem = (s.store t.pa 72 0).mem := by
  rw [State.reducedHere, applyEntry_laccClr_mem rfl]
  rfl

theorem reducedHere_laccAdd : (s.reducedHere .laccAdd op t va 72 data).mem =
    (s.store t.pa 72 (laccAdd (memRead s.mem t.pa 72) (laccTerm (op = 1) (data.setWidth 64)).num)).mem := by
  rw [State.reducedHere, applyEntry_laccAdd_mem rfl]
  rfl

/-! ## Elsewhere -/

/-- The state with an entry at the end of the running context's log. -/
def State.withEntry (s : State) (x : OpEntry) : State := { s with cx := { s.cx with log := s.cx.log ++ [x] } }

/-- The state once an entry has entered the log and its packet has left `src` (R213, R309). -/
def State.logged (s : State) (src : Nat) (x : OpEntry) : State :=
  ((s.withEntry x).request s.cx.key src s.cx.leaf).tickOrder

theorem post_ok {src j : Nat} {f : Nat → OpEntry} (hj : s.freeIdx src = some j) :
    s.post src f = .ok (s.logged src { f j with lvl := s.cx.level, src := src, seq := s.order }) := by
  simp only [State.post, hj, State.logged, State.withEntry]

/-- A packet leaves nothing behind but its stamp, the count of it and the running order (R309, R380). -/
theorem logged_sansMem (s : State) (src : Nat) (x : OpEntry) :
    (s.logged src x).sansMem.sansTraffic = (s.withEntry x).sansMem.sansTraffic :=
  (congrArg State.sansTraffic (countFor_sansMem ((s.withEntry x).stampNext src s.cx.leaf 0)
    s.cx.key 5 (Config.packetFlits s.tick)) :)

/-- What two states that differ in memory, marks and traffic alone agree on in their running contexts. -/
theorem cx_eq_of_traffic {u w : State} (h : u.sansMem.sansTraffic = w.sansMem.sansTraffic) :
    u.cx.pc = w.cx.pc ∧ u.cx.log = w.cx.log ∧ u.cx.vflags = w.cx.vflags :=
  ⟨(congrArg (fun v : State => v.cx.pc) h :), (congrArg (fun v : State => v.cx.log) h :), (congrArg (fun v : State => v.cx.vflags) h :)⟩

/-- The entry of a posted read–modify–write as it stands in the log. -/
def State.sentEntry (s : State) (kind : OpKind) (op : Nat) (t : Target) (va : Word) (n : Nat) (data : BitVec 1024) (j : Nat) : OpEntry :=
  { s.rmwEntry kind op t va n data j with src := s.cx.bankSite va, seq := s.order }

/-- The state in which a posted read–modify–write has left: the copies of its lines, and the loads performed early that it meets, are
dropped (R209, R345). -/
def State.reducedAway (s : State) (x : OpEntry) (t : Target) (va : Word) (n : Nat) : State :=
  (if t.kind = .glob then (s.logged (s.cx.bankSite va) x).dropCopy t.pa n else s.logged (s.cx.bankSite va) x).mapCx fun c =>
    c.forget (physOf t.pa) n

theorem issueRmw_posted {j : Nat} (hk : t.kind = .siteWin ∨ t.kind = .glob) (hr : s.roomFor (s.cx.bankSite va) s.cx.leaf 0 = true)
    (hj : s.freeIdx (s.cx.bankSite va) = some j) :
    s.issueRmw kind op t va n data = .ok (s.reducedAway (s.sentEntry kind op t va n data j) t va n).advance := by
  have hm : s.mayIssue .weak t va = true := mayIssue_weak (.inr hr)
  rcases hk with hk | hk <;>
  · simp only [State.issueRmw, hm, waitUntil_true, State.postRmw, hk, post_ok hj, State.reducedAway]
    rfl

theorem reducedAway_sansMem (s : State) (x : OpEntry) (t : Target) (va : Word) (n : Nat) :
    (s.reducedAway x t va n).sansMem.sansTraffic = (s.withEntry x).sansMem.sansTraffic := by
  rw [← logged_sansMem s (s.cx.bankSite va) x, State.reducedAway]
  split <;> rfl

theorem reducedAway_mem (s : State) (x : OpEntry) (t : Target) (va : Word) (n : Nat) : (s.reducedAway x t va n).mem = s.mem := by
  unfold State.reducedAway
  split <;> rfl

/-- A posted operation enters the log as a sent entry, and changes nothing else but what its packet leaves behind (R213, R309). -/
theorem reduces_posted {i : Instr} {j : Nat} (hi : exec i s = s.finish (s.issueRmw kind op t va n data))
    (hk : t.kind = .siteWin ∨ t.kind = .glob) (hr : s.roomFor (s.cx.bankSite va) s.cx.leaf 0 = true)
    (hj : s.freeIdx (s.cx.bankSite va) = some j) {word : Word} (hd : kind ≠ .laccClr → data = word.setWidth 1024) :
    ∃ u x, exec i s = .next u ∧ u.cx.pc = s.cx.pc + 4 ∧ u.mem = s.mem ∧
      u.cx.log = s.cx.log ++ [x] ∧ x.idx = j ∧ x.addr = va ∧ x.kind = kind ∧ x.op = op ∧ x.len = n ∧ x.pa = t.pa ∧ x.st = .sent ∧
      (kind ≠ .laccClr → x.data = word.setWidth 1024) ∧
      u.sansCommit.sansLog.sansMem.sansTraffic = s.sansCommit.sansLog.sansMem.sansTraffic := by
  let x := s.sentEntry kind op t va n data j
  have hexec : exec i s = .next (s.reducedAway x t va n).advance := by rw [hi, issueRmw_posted hk hr hj, finish_ok]
  have hsans := reducedAway_sansMem s x t va n
  obtain ⟨hpc, hlog, -⟩ := cx_eq_of_traffic hsans
  exact ⟨_, x, hexec, congrArg (· + 4) hpc, reducedAway_mem .., hlog, rfl, rfl, rfl, rfl, rfl, rfl, rfl, hd,
    (congrArg (fun w : State => w.sansCommit.sansLog) hsans :)⟩

/-! ## LACC.RND (R54, R223) -/

/-- A step that changes nothing but the marks of each context shows in nothing else (R144, R336, R380). -/
theorem mapCtx_sansMem {f : Ctx → Ctx} (hf : ∀ c, (f c).sansMarks = c.sansMarks) (s : State) (k : Key) : (s.mapCtx k f).sansMem = s.sansMem := by
  have hone : ∀ c : Ctx, (if (decide (c.key = k) && c.resident) = true then f c else c).sansMarks = c.sansMarks := fun c => by
    split
    · exact hf c
    · rfl
  simp only [State.mapCtx, State.mapIf, State.mapAll, State.sansMem, List.map_map, Function.comp_def, hone]

theorem count_sansMarks (c : Ctx) (ev n : Nat) : (c.count ev n).sansMarks = c.sansMarks := rfl

theorem countSlice_sansMem (s : State) (k : Key) : (s.countSlice k).sansMem = s.sansMem :=
  mapCtx_sansMem (fun _ => (count_sansMarks ..).trans (count_sansMarks ..)) s k

/-- A packet to a home and the reply to it leave their stamps and the count (R309, R380). -/
theorem trip_sansMem (s : State) (src dst : Nat) : (s.trip src dst).sansMem.sansTraffic = s.sansMem.sansTraffic :=
  (congrArg State.sansTraffic (countFor_sansMem (s.stampNext src s.cx.leaf 0) s.cx.key 5 (Config.packetFlits s.tick)) :)

/-- The packets of a strong load, if it needs any. -/
def State.strongTrip (s : State) (t : Target) (va : Word) : State := if t.kind = .localWin then s else s.trip (s.cx.bankSite va) t.site

theorem strongTrip_sansMem : (s.strongTrip t va).sansMem.sansTraffic = s.sansMem.sansTraffic := by
  unfold State.strongTrip
  split
  · rfl
  · exact trip_sansMem ..

theorem strongTrip_mem : (s.strongTrip t va).mem = s.mem := by
  unfold State.strongTrip
  split <;> rfl

theorem strongTrip_early (h : s.cx.early = []) : (s.strongTrip t va).cx.early = [] := by
  unfold State.strongTrip
  split
  · exact h
  · exact ((congrArg (fun w : State => w.cx.early) (countFor_sansMem (s.stampNext (s.cx.bankSite va) s.cx.leaf 0) s.cx.key 5
      (Config.packetFlits s.tick)) :)).trans h

/-- A load of which no part was performed early reads its place (R210, R345). -/
theorem see_place {strong : Bool} {site a n : Nat} (hn : 0 < n) (h : s.cx.early = []) : s.see strong site a n n = memRead s.mem a n := by
  simp [State.see, Nat.div_self hn, List.range_one, State.seePart, Ctx.earlyValue, h, State.load]

theorem loadStrong_value (hn : 0 < n) (h : s.cx.early = []) : (s.loadStrong t va n).1 = memRead s.mem t.pa n := by
  change (s.strongTrip t va).see true t.site t.pa n n = _
  rw [see_place hn (strongTrip_early h), strongTrip_mem]

theorem loadStrong_mem : (s.loadStrong t va n).2.mem = s.mem := by
  change (State.mapCx (if t.kind = .glob then (s.strongTrip t va).countSlice s.cx.key else s.strongTrip t va) _).mem = _
  refine Eq.trans ?_ (strongTrip_mem (t := t) (va := va))
  split <;> rfl

theorem loadStrong_sansMem : (s.loadStrong t va n).2.sansMem.sansTraffic = s.sansMem.sansTraffic := by
  change (State.mapCx (if t.kind = .glob then (s.strongTrip t va).countSlice s.cx.key else s.strongTrip t va) _).sansMem.sansTraffic = _
  refine Eq.trans ?_ (strongTrip_sansMem (t := t) (va := va))
  split
  · exact (congrArg State.sansTraffic (countSlice_sansMem (s.strongTrip t va) s.cx.key) :)
  · rfl

/-- The state in which LACC.RND reads: the lines of a global accumulator stand in one copy of their home (R124, R223). -/
def State.laccState (s : State) (t : Target) : State := if t.kind = .glob then s.together t.site t.pa 72 else s

/-- The place that LACC.RND reads. -/
def State.laccPlace (s : State) (t : Target) : Nat := if t.kind = .glob then (s.laccState t).placeAt t.site (physOf t.pa) else t.pa

theorem laccState_slicedTo : s.SlicedTo (s.laccState t) := by
  unfold State.laccState
  split
  · exact together_slicedTo ..
  · exact .refl s

theorem laccState_cx : (s.laccState t).cx = s.cx := by
  obtain ⟨m, l, h⟩ := laccState_slicedTo (s := s) (t := t)
  rw [h]

theorem laccRead_eq : s.laccRead t va = (s.laccState t).loadStrong { t with pa := s.laccPlace t } va 72 := by
  unfold State.laccRead State.laccPlace State.laccState
  split <;> rfl

/-- The state in which LACC.RND has read and counted its access (R380 code 11). -/
def State.laccSeen (s : State) (t : Target) (va : Word) : State := (s.laccRead t va).2.countFor (s.laccRead t va).2.cx.key 11 1

theorem laccSeen_mem : (s.laccSeen t va).mem = (s.laccState t).mem := by
  rw [State.laccSeen, countFor_mem, laccRead_eq, loadStrong_mem]

theorem laccSeen_sansMem : (s.laccSeen t va).sansMem.sansTraffic = (s.laccState t).sansMem.sansTraffic := by
  rw [State.laccSeen, countFor_sansMem, laccRead_eq, loadStrong_sansMem]

theorem laccSeen_cx : (s.laccSeen t va).cx.pc = s.cx.pc ∧ (s.laccSeen t va).cx.vflags = s.cx.vflags := by
  obtain ⟨hpc, -, hflags⟩ := cx_eq_of_traffic (laccSeen_sansMem (s := s) (t := t) (va := va))
  rw [hpc, hflags, laccState_cx]
  exact ⟨rfl, rfl⟩

theorem exec_laccRnd {w : BitVec 2} {a d : BitVec 5} {f : BitVec 1} (hw : s.cx.waitMet w.toNat 0 = true) (ha : (s.getX a).toNat % 8 = 0)
    (ht : s.resolve .load (s.getX a) 72 s.cx.tileco = .ok t) (hk : t.kind ≠ .device) (hl : s.laccWhole .load t (s.getX a) = true)
    (hr : t.retry = false) (hc : s.checkPlace .load t (s.getX a) 72 = .ok ()) (hs : s.settled t (s.getX a) 72) :
    exec (.laccRnd w a f d) s = .next
      (((s.laccSeen t (s.getX a)).addFlags (laccRound s.cx f (memRead (s.laccState t).mem (s.laccPlace t) 72)).flags).result d
        (toWord (laccRound s.cx f (memRead (s.laccState t).mem (s.laccPlace t) 72)).bits)) := by
  obtain ⟨he, hgo⟩ := hs
  have hv : (s.laccRead t (s.getX a)).1 = memRead (s.laccState t).mem (s.laccPlace t) 72 := by
    rw [laccRead_eq, loadStrong_value (by decide) (by rw [laccState_cx, he])]
  change execLaccRnd w a f d s = _
  simp only [execLaccRnd, hw, ha, ht, hk, hl, hr, hc, hgo, tryExn_ok, ne_eq, not_false_eq_true, Bool.not_false, decide_true, waitUntil_true,
    check_true, ← hv, bind, Except.bind]
  rfl

end Sys2Proof.Machine
end

section

open Sys2Proof Sys2Proof.Machine

/-- Settles O14: RED, LACC.ADD and LACC.CLR send one operation, which takes effect at once in the local window and enters the log elsewhere;
LACC.RND reads its place as the lines stand together. -/
theorem postedReductions : Obligations.PostedReductions := by
  unfold Obligations.PostedReductions
  refine ⟨fun w b a z p c s hw hs => ⟨?red, fun t ht => ⟨?clr, fun hr => ?add⟩⟩, fun w b a d p f s hw ha => ⟨fun hr => ?refused, ?rnd⟩⟩
  case red =>
    rintro n t hn ha ht
    obtain rfl : n = amoBytes z := hn
    have hi := exec_red (b := b) (c := c) hw ha ht
    have hv : ((s.getX b).setWidth 1024).toNat = (s.getX b).toNat := BitVec.toNat_setWidth_of_le (by decide)
    have hm := reducedHere_red (s := s) (op := c.toNat) (t := t) (va := s.getX a) (n := amoBytes z) (data := (s.getX b).setWidth 1024)
    rw [hv] at hm
    exact ⟨fun hk ho => reduces_local (f := fun old => portOp c.toNat (amoBytes z) old (s.getX b).toNat) hs hi hk ho nofun hm,
      fun hk hroom j hj => reduces_posted hi hk hroom hj fun _ => rfl⟩
  case clr =>
    have hi := exec_laccClr hw ht
    exact ⟨fun hk ho => reduces_local (f := fun _ => 0) hs hi hk ho nofun reducedHere_laccClr,
      fun hk hroom j hj => reduces_posted hi hk hroom hj fun h => absurd rfl h⟩
  case add =>
    have hi := exec_laccAdd hw hr ht
    have hp : (decide (p.toNat = 1)) = decide (p = 1) := decide_eq_decide.mpr (BitVec.toNat_inj (y := 1#1))
    have hd : (((s.getX b).setWidth 1024).setWidth 64) = s.getX b := BitVec.setWidth_setWidth_of_le _ (by decide)
    have hm := reducedHere_laccAdd (s := s) (op := p.toNat) (t := t) (va := s.getX a) (data := (s.getX b).setWidth 1024)
    rw [hp, hd] at hm
    exact ⟨fun hk ho => reduces_local (f := fun old => laccAdd old (laccTerm (p = 1) (s.getX b)).num) hs hi hk ho nofun hm,
      fun hk hroom j hj => reduces_posted hi hk hroom hj fun _ => rfl⟩
  case refused => exact ⟨_, exec_laccAdd_refused hw ha hr, State.advance_committed _⟩
  case rnd =>
    rintro t ht hk hl hretry hc hset o pl rfl rfl r hround
    obtain ⟨hpc, hflags⟩ := laccSeen_cx (s := s) (t := t) (va := s.getX a)
    have hexec := exec_laccRnd (d := d) (f := f) hw ha ht hk hl hretry hc hset
    rw [← show r = laccRound s.cx f (memRead (s.laccState t).mem (s.laccPlace t) 72) from hround] at hexec
    refine ⟨_, hexec, result_pc.trans (congrArg (· + 4) hpc), laccSeen_mem, ?_,
      (Ctx.setX_vflags ..).trans (congrArg (· ||| r.flags.setWidth 64) hflags)⟩
    rw [result_getX]
    by_cases hd : d = 0
    · simp [hd, State.getX, Ctx.getX]
    · rw [if_pos ⟨hd, rfl⟩, if_neg hd]
      rfl

end

section
/-! SUPPORT. What a vector instruction writes under a predicate (R31, R58, R156), and conversions and packed images (R47, R49, R163 to R165). -/

namespace Sys2Proof.Machine

variable {s u : State} {d : BitVec 5} {t : Tag} {on : Nat → Prop} {en : Nat → Bool} {res f : Nat → Nat} {g : Nat → VFlags} {i : Instr}

/-! ## Sources -/

theorem vSource_ok {a : BitVec 5} {ok : Tag → Bool} (h0 : (s.getV a).tag ≠ 0) (h : ok (s.getV a).tag = true) :
    s.vSource a ok = .ok (s.getV a) := if_pos ((Bool.and_eq_true ..).mpr ⟨decide_eq_true h0, h⟩)

/-! ## Results -/

theorem tagWidth_mul_tagElems (t : Tag) : tagWidth t * tagElems t ≤ 1024 := by
  unfold tagElems
  split
  · exact Nat.zero_le _
  · exact Nat.mul_div_le ..

theorem tagElems_pos : ∀ {t : Tag}, t ≠ 0 → 0 < tagElems t := by decide

/-- The lanes that a predicate writes and those that it leaves (R156). -/
theorem vWritten_mergeV {old : VReg} (hon : ∀ k < tagElems t, en k = true ↔ on k)
    (hres : ∀ k < tagElems t, on k → res k % 2 ^ tagWidth t = f k % 2 ^ tagWidth t) : VWritten old (mergeV old t en res) t on f := by
  refine ⟨rfl, fun k hk => ?_⟩
  have hlane : (mergeV old t en res).elem k = if en k then res k % 2 ^ tagWidth t else
      if old.tag = t then elemOf (tagWidth t) old.bits k else 0 := laneWrite_elem (tagWidth_mul_tagElems t) hk
  rw [hlane]
  refine ⟨fun h => (if_pos ((hon k hk).mpr h)).trans (hres k hk h), fun h => (if_neg fun he => h ((hon k hk).mp he)).trans ?_⟩
  split
  · next ht => rw [VReg.elem, ht]
  · rfl

theorem flagsOf_gather {n : Nat} (hon : ∀ k < n, en k = true ↔ on k) : FlagsOf (gatherFlags en g n) n on g := fun j => by
  rw [gatherFlags_bit]
  exact exists_congr fun k => and_congr_right fun hk => and_congr_left fun _ => hon k hk

theorem flagsOf_zero {n : Nat} : FlagsOf 0 n on fun _ => 0 := fun j => by simp

/-- An instruction that writes one register under a predicate and sets flags gives the lanes and flags of its enabled elements. -/
theorem givesV_mergeV {fl : VFlags} (hx : exec i s = .next ((u.setV d (mergeV (s.getV d) t en res)).addFlags fl).advanceV)
    (hpc : u.cx.pc = s.cx.pc) (hon : ∀ k < tagElems t, en k = true ↔ on k)
    (hres : ∀ k < tagElems t, on k → res k % 2 ^ tagWidth t = f k % 2 ^ tagWidth t) (hfl : FlagsOf fl (tagElems t) on g) :
    GivesV i s u d t on f g := by
  refine ⟨_, fl, vWritten_mergeV hon hres, hfl, _, hx, ?_⟩
  rw [← hpc]
  exact State.advanceV_committed _

theorem addFlags_zero (s : State) : s.addFlags 0 = s := by
  have h : s.cx.vflags ||| (0 : VFlags).setWidth 64 = s.cx.vflags := by simp
  rw [State.addFlags, h]

/-- As `givesV_mergeV`, for an instruction that sets no flag. -/
theorem givesV_unflagged (hx : exec i s = .next (s.setV d (mergeV (s.getV d) t en res)).advanceV)
    (hon : ∀ k < tagElems t, en k = true ↔ on k) (hres : ∀ k < tagElems t, on k → res k % 2 ^ tagWidth t = f k % 2 ^ tagWidth t) :
    GivesV i s s d t on f fun _ => 0 :=
  givesV_mergeV (by rw [addFlags_zero, hx]) rfl hon hres flagsOf_zero

/-- The write of a VFLT member (R58, R156). -/
theorem givesV_vfltWrite {pg : BitVec 3} {op : Fmt → Nat → Nat → Rounded} (hx : exec i s = .next (vfltWrite s u pg t d op))
    (hpc : u.cx.pc = s.cx.pc) :
    GivesV i s u d t (Enabled s pg) (fun k => (op (vfltFmt t) s.cx.rm k).bits) fun k => (op (vfltFmt t) s.cx.rm k).flags :=
  givesV_mergeV (fl := gatherFlags (enabledBy (s.getP pg)) (fun k => (op (vfltFmt t) s.cx.rm k).flags) (tagElems t)) hx hpc
    (fun k _ => enabledBy_getP s pg k) (fun _ _ _ => rfl) (flagsOf_gather fun k _ => enabledBy_getP s pg k)

/-! ## VCVT (R163) -/

theorem isNumeric_ne_zero : ∀ {t : Tag}, isNumeric t = true → t ≠ 0 := by decide

/-- The elements that VCVT writes: those enabled that a source element falls to. -/
def State.cvtOn (s : State) (pg : BitVec 3) (src : Nat → Option Nat) (k : Nat) : Bool := enabledBy (s.getP pg) k && (src k).isSome

/-- Element `k` of VCVT's result. -/
def State.cvtElem (s : State) (x : VReg) (t : Tag) (uns force : Bool) (src : Nat → Option Nat) (k : Nat) : Rounded :=
  convertElem x.tag t uns s.cx.rm (s.cx.satFor t force) (x.elem ((src k).getD 0))

theorem cvtOn_iff {pg : BitVec 3} {src : Nat → Option Nat} {k : Nat} : s.cvtOn pg src k = true ↔ Enabled s pg k ∧ (src k).isSome := by
  rw [State.cvtOn, Bool.and_eq_true, enabledBy_getP]

theorem exec_vcvt {pg : BitVec 3} {a : BitVec 5} {c z : BitVec 1} {j : BitVec 2} {src : Nat → Option Nat}
    (hn : isNumeric (s.getV a).tag = true) (hsrc : src = cvtSource (tagElems (s.getV a).tag) (tagElems t) j.toNat)
    (hnan : ∀ k < tagElems t, s.cvtOn pg src k = true → nanLost s.cx (s.getV a).tag t ((s.getV a).elem ((src k).getD 0)) = false) :
    exec (.vcvt pg c t a z j d) s = .next ((s.setV d (mergeV (s.getV d) t (s.cvtOn pg src) fun k =>
      (s.cvtElem (s.getV a) t (z = 1) (c = 1) src k).bits)).addFlags
        (gatherFlags (s.cvtOn pg src) (fun k => (s.cvtElem (s.getV a) t (z = 1) (c = 1) src k).flags) (tagElems t))).advanceV := by
  subst hsrc
  have hkeep : ((List.range (tagElems t)).find? fun k => (enabledBy (s.getP pg) k &&
      (cvtSource (tagElems (s.getV a).tag) (tagElems t) j.toNat k).isSome) && nanLost s.cx (s.getV a).tag t
        ((s.getV a).elem ((cvtSource (tagElems (s.getV a).tag) (tagElems t) j.toNat k).getD 0))) = none := by
    refine List.find?_eq_none.mpr fun k hk h => ?_
    obtain ⟨hon, hlost⟩ := (Bool.and_eq_true ..).mp h
    exact absurd hlost (by rw [hnan k (List.mem_range.mp hk) hon]; decide)
  change execVcvt pg c t a z j d s = _
  simp only [execVcvt, vSource_ok (isNumeric_ne_zero hn) hn, bind, Except.bind, hkeep]
  rfl

/-! ## VPACK, VUNPACK and VDQ (R47, R49, R164, R165) -/

/-- A bit of packed elements is a bit of the element it falls in. -/
theorem packElems_bit {w n q : Nat} (f : Nat → Nat) (hw : 0 < w) (hq : q < w * n) :
    (packElems w f n >>> q) % 2 = f (q / w) % 2 ^ w / 2 ^ (q % w) % 2 := by
  have hlane := packElems_elem w f (Nat.div_lt_of_lt_mul hq)
  have hbit : (packElems w f n / 2 ^ (w * (q / w)) % 2 ^ w).testBit (q % w) = (packElems w f n).testBit q := by
    rw [Nat.testBit_mod_two_pow, Nat.testBit_div_two_pow, decide_eq_true (Nat.mod_lt q hw), Bool.true_and, Nat.mod_add_div]
  rw [← hlane, Nat.shiftRight_eq_div_pow, ← Nat.toNat_testBit, ← Nat.toNat_testBit, hbit]

theorem lacksNan_ne_zero : ∀ {t : Tag}, lacksNan t = true → t ≠ 0 := by decide

/-- The tags of six bits that VPACK and VUNPACK take. -/
theorem sixBit_image : ∀ {t : Tag}, t = 11 ∨ t = 12 → lacksNan t = true ∧ packedBits t = 6 := by decide

/-- The tags of four bits that VPACK and VUNPACK take. -/
theorem fourBit_image : ∀ {t : Tag}, t = 13 ∨ t = 14 → lacksNan t = true ∧ packedBits t = 4 := by decide

theorem packPlace_sixBit {j : Nat} (h : packedBits t = 6) : packPlace t j = (0, 6 * 128) := if_pos h

theorem packPlace_fourBit {j : Nat} (h : packedBits t = 4) : packPlace t j = (512 * j, 4 * 128) := if_neg (by rw [h]; decide)

/-- The bits of the image that VPACK writes, at their places (R164). -/
theorem exec_vpack {a : BitVec 5} {h : BitVec 1} {at0 len : Nat} (ha : lacksNan (s.getV a).tag = true)
    (h6 : (decide (packedBits (s.getV a).tag = 6) && decide (h = 1)) = false) (hp : packPlace (s.getV a).tag h.toNat = (at0, len)) :
    exec (.vpack a h d) s = .next (s.setV d (mergeV (s.getV d) 1 (fun k => decide (at0 ≤ k) && decide (k < at0 + len)) fun k =>
      (packElems (packedBits (s.getV a).tag) (s.getV a).elem 128 >>> (k - at0)) % 2)).advanceV := by
  change execVpack a h d s = _
  simp only [execVpack, vSource_ok (lacksNan_ne_zero ha) ha, bind, Except.bind, h6, hp]
  rfl

/-- VPACK writes the bits of 128 elements of `w` bits from a place on (R47, R164). -/
theorem givesV_vpack {a : BitVec 5} {h : BitVec 1} {at0 w : Nat} (ha : lacksNan (s.getV a).tag = true) (hw : packedBits (s.getV a).tag = w)
    (hpos : 0 < w) (h6 : w = 6 → h ≠ 1) (hp : packPlace (s.getV a).tag h.toNat = (at0, w * 128)) :
    GivesV (.vpack a h d) s s d 1 (fun k => at0 ≤ k ∧ k < at0 + w * 128)
      (fun k => (s.getV a).elem ((k - at0) / w) % 2 ^ w / 2 ^ ((k - at0) % w) % 2) fun _ => 0 := by
  refine givesV_unflagged (exec_vpack ha (by simpa [hw] using h6) hp) (fun k _ => by simp) fun k _ hk => ?_
  obtain ⟨hle, hlt⟩ := hk
  rw [hw, packElems_bit _ hpos (by omega)]

theorem exec_vunpack {a : BitVec 5} {h : BitVec 1} {at0 len : Nat} (ha : (s.getV a).tag = 1) (hp : packPlace t h.toNat = (at0, len)) :
    exec (.vunpack t a h d) s = .next (s.setV d (mergeV (s.getV d) t (fun _ => true) fun k =>
      ((s.getV a).bits.toNat >>> (at0 + packedBits t * k)) % 2 ^ packedBits t)).advanceV := by
  change execVunpack t a h d s = _
  simp only [execVunpack, vExact_ok ha, bind, Except.bind, hp]
  rfl

/-- VUNPACK takes elements of `w` bits from a place on (R47, R164). -/
theorem givesV_vunpack {a : BitVec 5} {h : BitVec 1} {at0 len w : Nat} (ha : (s.getV a).tag = 1) (hw : packedBits t = w)
    (hp : packPlace t h.toNat = (at0, len)) :
    GivesV (.vunpack t a h d) s s d t (fun _ => True) (fun k => (s.getV a).bits.toNat / 2 ^ (at0 + w * k) % 2 ^ w) fun _ => 0 :=
  givesV_unflagged (exec_vunpack ha hp) (fun _ _ => by simp) fun k _ _ => by rw [hw, Nat.shiftRight_eq_div_pow]

/-- Element `k` of VDQ's result (R49, R165). -/
def State.dqElem (s : State) (b a : BitVec 5) (j : BitVec 2) (rm k : Nat) : Rounded :=
  fRound fp32 rm (qc4Scaled (fp32.decode (fld (s.getX b) 63 32))
    (if 32 * j.toNat + k < 64 then fld (s.getX b) 7 0 else fld (s.getX b) 15 8) ((s.getV a).elem (32 * j.toNat + k)))

theorem exec_vdq {pg : BitVec 3} {b a : BitVec 5} {j : BitVec 2} (ha : (s.getV a).tag = 14) :
    exec (.vdq pg b a j d) s = .next (vfltWrite s s pg 6 d fun _ => s.dqElem b a j) := by
  change execVdq pg b a j d s = _
  simp only [execVdq, vExact_ok ha]
  rfl

end Sys2Proof.Machine
end

section
/-! SUPPORT. Reductions (R166): the tree over the enabled elements, for sums, for the largest and the smallest, and for float tags. -/

namespace Sys2Proof.Machine

variable {s : State} {d a : BitVec 5} {pg : BitVec 3} {i : Instr}

/-! ## The tree -/

/-- The elements present under node `i` of the level `k`, from left to right. -/
def leavesUnder (leaf : Nat → Option Nat) (k i : Nat) : List Nat := (List.range' (i * 2 ^ k) (2 ^ k)).filterMap leaf

theorem leavesUnder_succ (leaf : Nat → Option Nat) (k i : Nat) :
    leavesUnder leaf (k + 1) i = leavesUnder leaf k (2 * i) ++ leavesUnder leaf k (2 * i + 1) := by
  have hleft : i * 2 ^ (k + 1) = 2 * i * 2 ^ k := by ring
  have hright : (2 * i + 1) * 2 ^ k = 2 * i * 2 ^ k + 2 ^ k := by ring
  have hlen : 2 ^ (k + 1) = 2 ^ k + 2 ^ k := by ring
  unfold leavesUnder
  rw [← List.filterMap_append, hleft, hright, List.range'_append_1, hlen]

/-- What holds of no element and of one, and of two nodes joined if it holds of each, holds of every node. -/
theorem reduceTree_induct {f : Nat → Nat → Rounded} {leaf : Nat → Option Nat} {P : List Nat → Option Nat → Prop} (hnil : P [] none)
    (hone : ∀ e, P [e] (some e))
    (hjoin : ∀ l m (x y : Option Nat × VFlags), P l x.1 → P m y.1 → P (l ++ m) (joinNodes f x y).1) :
    ∀ k i, P (leavesUnder leaf k i) (reduceTree f leaf k i).1
  | 0, i => by
    cases h : leaf i with
    | none => simpa [leavesUnder, reduceTree, h] using hnil
    | some e => simpa [leavesUnder, reduceTree, h] using hone e
  | k + 1, i => by
    rw [leavesUnder_succ]
    exact hjoin _ _ _ _ (reduceTree_induct hnil hone hjoin k _) (reduceTree_induct hnil hone hjoin k _)

/-- Nodes that raise nothing leave no flag. -/
theorem reduceTree_unflagged {f : Nat → Nat → Rounded} {leaf : Nat → Option Nat} (hf : ∀ p q, (f p q).flags = 0) :
    ∀ k i, (reduceTree f leaf k i).2 = 0
  | 0, _ => rfl
  | k + 1, i => by
    have hjoin : ∀ x y : Option Nat × VFlags, x.2 = 0 → y.2 = 0 → (joinNodes f x y).2 = 0 := by
      rintro ⟨_ | p, fx⟩ ⟨_ | q, fy⟩ rfl rfl <;> simp [joinNodes, hf]
    exact hjoin _ _ (reduceTree_unflagged hf k _) (reduceTree_unflagged hf k _)

/-! ## Sums -/

/-- A node holds the sum of the elements under it modulo `m`. -/
theorem reduceTree_sum (m : Nat) (leaf : Nat → Option Nat) (k i : Nat) :
    ((reduceTree (fun p q => ⟨(p + q) % m, 0⟩) leaf k i).1.getD 0) % m = (leavesUnder leaf k i).sum % m := by
  have hjoin : ∀ x y : Option Nat × VFlags,
      (joinNodes (fun p q => ⟨(p + q) % m, 0⟩) x y).1.getD 0 % m = (x.1.getD 0 + y.1.getD 0) % m := by
    rintro ⟨_ | p, fx⟩ ⟨_ | q, fy⟩ <;> simp [joinNodes]
  refine reduceTree_induct (P := fun l o => o.getD 0 % m = l.sum % m) rfl (fun e => by simp) (fun l l' x y hl hl' => ?_) k i
  rw [hjoin, List.sum_append, Nat.add_mod, hl, hl', ← Nat.add_mod]

/-- A sum over the elements that are present takes 0 for the others. -/
theorem sum_filterMap (leaf : Nat → Option Nat) (l : List Nat) : (l.filterMap leaf).sum = (l.map fun j => (leaf j).getD 0).sum := by
  induction l with
  | nil => rfl
  | cons j l ih => cases h : leaf j <;> simp [h, ih]

/-! ## The largest and the smallest -/

/-- `o` is an element of a list of the greatest value under `v`, or `none` of no elements. -/
def Greatest (v : Nat → Int) (l : List Nat) : Option Nat → Prop
  | none => l = []
  | some m => m ∈ l ∧ ∀ e ∈ l, v e ≤ v m

/-- A tree that keeps the child of the greater value ends with the greatest of the elements under it. -/
theorem reduceTree_greatest {v : Nat → Int} {f : Nat → Nat → Rounded} (hf : ∀ p q, (f p q).bits = if v q ≤ v p then p else q)
    (leaf : Nat → Option Nat) (k i : Nat) : Greatest v (leavesUnder leaf k i) (reduceTree f leaf k i).1 := by
  refine reduceTree_induct (P := Greatest v) rfl (fun e => by simp [Greatest]) ?_ k i
  rintro l l' ⟨_ | p, fx⟩ ⟨_ | q, fy⟩ hl hl'
  case none.none => exact List.append_eq_nil_iff.mpr ⟨hl, hl'⟩
  case none.some =>
    obtain rfl : l = [] := hl
    exact hl'
  case some.none =>
    obtain rfl : l' = [] := hl'
    rw [List.append_nil]
    exact hl
  case some.some =>
    obtain ⟨hp, hmaxp⟩ := hl
    obtain ⟨hq, hmaxq⟩ := hl'
    simp only [joinNodes, hf, Greatest, List.mem_append]
    split
    next hle => exact ⟨.inl hp, fun e he => he.elim (hmaxp e) fun he => (hmaxq e he).trans hle⟩
    next hlt => exact ⟨.inr hq, fun e he => he.elim (fun he => (hmaxp e he).trans (le_of_not_ge hlt)) (hmaxq e)⟩

/-! ## The enabled elements of a register -/

/-- Element `k` of a register, where the predicate enables it. -/
def State.enabledElem (s : State) (pg : BitVec 3) (x : VReg) (k : Nat) : Option Nat := if enabledBy (s.getP pg) k then some (x.elem k) else none

theorem enabledElem_eq_some {x : VReg} {k e : Nat} : s.enabledElem pg x k = some e ↔ Enabled s pg k ∧ x.elem k = e := by
  rw [State.enabledElem, ← enabledBy_getP]
  split <;> simp [*]

theorem enabledElem_getD {x : VReg} {k : Nat} : (s.enabledElem pg x k).getD 0 = if enabledBy (s.getP pg) k then x.elem k else 0 := by
  unfold State.enabledElem
  split <;> rfl

theorem two_pow_log2_tagElems : ∀ {t : Tag}, t ≠ 0 → 2 ^ (tagElems t).log2 = tagElems t := by decide

theorem leavesUnder_root {t : Tag} (h : t ≠ 0) (leaf : Nat → Option Nat) :
    leavesUnder leaf (tagElems t).log2 0 = (List.range (tagElems t)).filterMap leaf := by
  rw [leavesUnder, Nat.zero_mul, two_pow_log2_tagElems h, ← List.range_eq_range']

theorem mem_root {x : VReg} {t : Tag} (h : t ≠ 0) {e : Nat} :
    e ∈ leavesUnder (s.enabledElem pg x) (tagElems t).log2 0 ↔ ∃ k < tagElems t, Enabled s pg k ∧ x.elem k = e := by
  simp only [leavesUnder_root h, List.mem_filterMap, List.mem_range, enabledElem_eq_some]

/-! ## Readings of elements (R43) -/

theorem isInt_ne_zero : ∀ {t : Tag}, isInt t = true → t ≠ 0 := by decide

theorem isInt_width_pos : ∀ {t : Tag}, isInt t = true → 0 < tagWidth t := by decide

theorem isVflt_ne_zero : ∀ {t : Tag}, isVflt t = true → t ≠ 0 := by decide

theorem isInt_of_isVflt : ∀ {t : Tag}, isVflt t = true → isInt t = false := by decide

/-- The integer that a pattern of `w` bits stands for, under each reading. -/
theorem bitsInt_eq {w e : Nat} (hw : 0 < w) (he : e < 2 ^ w) (h : BitVec 1) :
    bitsInt w (h = 1) e = if h = 1 then (e : Int) else (BitVec.ofNat w e).toInt := by
  have hhalf : 2 ^ w = 2 * 2 ^ (w - 1) := by rw [← Nat.pow_succ', Nat.succ_eq_add_one, Nat.sub_add_cancel hw]
  by_cases h1 : h = 1
  · simp [bitsInt, h1, Nat.mod_eq_of_lt he]
  · simp only [bitsInt, h1, decide_false, Bool.false_or, if_false, decide_eq_true_eq, BitVec.toInt_eq_toNat_cond, BitVec.toNat_ofNat,
      Nat.mod_eq_of_lt he]
    exact if_congr (by omega) rfl (by push_cast; rfl)

/-- The pattern of the least value (R43). -/
theorem intBits_least : ∀ {t : Tag}, isInt t = true → ∀ h : BitVec 1, intBits (tagWidth t) (intRange (tagWidth t) (h = 1)).1 =
    if h = 1 then 0 else 2 ^ (tagWidth t - 1) := by decide

/-- The pattern of the greatest value (R43). -/
theorem intBits_greatest : ∀ {t : Tag}, isInt t = true → ∀ h : BitVec 1, intBits (tagWidth t) (intRange (tagWidth t) (h = 1)).2 =
    if h = 1 then 2 ^ tagWidth t - 1 else 2 ^ (tagWidth t - 1) - 1 := by decide

/-! ## The instructions -/

/-- The state in which a reduction commits: element 0 takes the tree's result, or `e` of a tree without elements (R166). -/
def State.reduced (s : State) (d : BitVec 5) (t : Tag) (r : Option Nat × VFlags) (e : Nat) : State :=
  ((s.setV d (mergeV (s.getV d) t (fun _ => true) fun k => if k = 0 then r.1.getD e else 0)).addFlags r.2).advanceV

/-- Element 0 takes the tree's result and its flags, and the others are 0 (R166). -/
theorem givesV_reduced {t : Tag} {r : Option Nat × VFlags} {e v : Nat} (ht : t ≠ 0)
    (hx : exec i s = .next (s.reduced d t r e))
    (hv : r.1.getD e % 2 ^ tagWidth t = v % 2 ^ tagWidth t) :
    GivesV i s s d t (fun _ => True) (fun k => if k = 0 then v else 0) fun k => if k = 0 then r.2 else 0 := by
  refine givesV_mergeV hx rfl (fun _ _ => by simp) (fun k _ _ => ?_) fun j => ⟨fun h => ⟨0, tagElems_pos ht, trivial, h⟩, ?_⟩
  · split
    · exact hv
    · rfl
  · rintro ⟨k, -, -, hk⟩
    split at hk
    · exact hk
    · simp at hk

variable {uns : Bool} {fint : Nat → Bool → Nat → Nat → Nat} {ffloat : Fmt → Nat → Nat → Nat → Rounded} {eint : Nat → Bool → Nat}
  {efloat : Fmt → Nat}

/-- The tree of a reduction under `f` over the enabled elements of v[a]. -/
def State.tree (s : State) (pg : BitVec 3) (a : BitVec 5) (f : Nat → Nat → Rounded) : Option Nat × VFlags :=
  reduceTree f (s.enabledElem pg (s.getV a)) (tagElems (s.getV a).tag).log2 0

/-- A tree that keeps the child of the greater value ends with the greatest enabled element, or with what stands for it where none is
enabled. -/
theorem tree_greatest {v : Nat → Int} {f : Nat → Nat → Rounded} (hf : ∀ p q, (f p q).bits = if v q ≤ v p then p else q)
    (ht : (s.getV a).tag ≠ 0) (pg : BitVec 3) (empty : Nat) :
    ((∃ k < tagElems (s.getV a).tag, Enabled s pg k) → ∃ k < tagElems (s.getV a).tag, Enabled s pg k ∧
      (s.tree pg a f).1.getD empty = (s.getV a).elem k ∧
        ∀ j < tagElems (s.getV a).tag, Enabled s pg j → v ((s.getV a).elem j) ≤ v ((s.getV a).elem k)) ∧
    ((∀ k < tagElems (s.getV a).tag, ¬ Enabled s pg k) → (s.tree pg a f).1.getD empty = empty) := by
  have hg := reduceTree_greatest hf (s.enabledElem pg (s.getV a)) (tagElems (s.getV a).tag).log2 0
  unfold State.tree
  cases h : (reduceTree f (s.enabledElem pg (s.getV a)) (tagElems (s.getV a).tag).log2 0).1 with
  | none =>
    rw [h] at hg
    have hnone : ∀ k < tagElems (s.getV a).tag, ¬ Enabled s pg k := fun k hk hen => by
      have hmem : (s.getV a).elem k ∈ leavesUnder (s.enabledElem pg (s.getV a)) (tagElems (s.getV a).tag).log2 0 :=
        (mem_root ht).mpr ⟨k, hk, hen, rfl⟩
      rw [Greatest] at hg
      rw [hg] at hmem
      exact List.not_mem_nil hmem
    exact ⟨fun ⟨k, hk, hen⟩ => absurd hen (hnone k hk), fun _ => rfl⟩
  | some m =>
    rw [h] at hg
    obtain ⟨hm, hmax⟩ := hg
    obtain ⟨k, hk, hen, rfl⟩ := (mem_root ht).mp hm
    exact ⟨fun _ => ⟨k, hk, hen, rfl, fun j hj hjen => hmax _ ((mem_root ht).mpr ⟨j, hj, hjen, rfl⟩)⟩,
      fun hnone => absurd hen (hnone k hk)⟩

theorem vreduce_int (ht : isInt (s.getV a).tag = true) : vreduce s pg a uns d fint ffloat eint efloat = .ok (s.reduced d (s.getV a).tag
    (s.tree pg a fun p q => ⟨fint (tagWidth (s.getV a).tag) uns p q, 0⟩) (eint (tagWidth (s.getV a).tag) uns)) := by
  have hok := vSource_ok (ok := fun t => isInt t || isVflt t) (isInt_ne_zero ht) (by simp [ht])
  simp only [vreduce, hok, bind, Except.bind, ht, if_true]
  rfl

theorem vreduce_float (ht : isVflt (s.getV a).tag = true) : vreduce s pg a uns d fint ffloat eint efloat = .ok (s.reduced d (s.getV a).tag
    (s.tree pg a (ffloat (vfltFmt (s.getV a).tag) s.cx.rm)) (efloat (vfltFmt (s.getV a).tag))) := by
  have hok := vSource_ok (ok := fun t => isInt t || isVflt t) (isVflt_ne_zero ht) (by simp [ht])
  simp only [vreduce, hok, bind, Except.bind, isInt_of_isVflt ht, Bool.false_eq_true, if_false]
  rfl

/-- A reduction of an integer tag (R166). -/
theorem givesV_vreduce_int {v : Nat} (hx : exec i s = s.finish (vreduce s pg a uns d fint ffloat eint efloat)) (ht : isInt (s.getV a).tag = true)
    (hv : (s.tree pg a fun p q => ⟨fint (tagWidth (s.getV a).tag) uns p q, 0⟩).1.getD (eint (tagWidth (s.getV a).tag) uns) %
      2 ^ tagWidth (s.getV a).tag = v % 2 ^ tagWidth (s.getV a).tag) :
    GivesV i s s d (s.getV a).tag (fun _ => True) (fun k => if k = 0 then v else 0) fun _ => 0 := by
  have hg := givesV_reduced (isInt_ne_zero ht) (by rw [hx, vreduce_int ht, finish_ok]) hv
  have hflags : (s.tree pg a fun p q => ⟨fint (tagWidth (s.getV a).tag) uns p q, 0⟩).2 = 0 := reduceTree_unflagged (fun _ _ => rfl) _ _
  simpa only [hflags, ite_self] using hg

/-- A reduction of a float tag (R166). -/
theorem givesV_vreduce_float (hx : exec i s = s.finish (vreduce s pg a uns d fint ffloat eint efloat)) (ht : isVflt (s.getV a).tag = true)
    {r : Option Nat × VFlags} (hr : r = s.tree pg a (ffloat (vfltFmt (s.getV a).tag) s.cx.rm)) :
    GivesV i s s d (s.getV a).tag (fun _ => True) (fun k => if k = 0 then r.1.getD (efloat (vfltFmt (s.getV a).tag)) else 0)
      fun k => if k = 0 then r.2 else 0 :=
  givesV_reduced (isVflt_ne_zero ht) (by rw [hx, vreduce_float ht, finish_ok, hr]) rfl

end Sys2Proof.Machine
end

section

open Sys2Proof Sys2Proof.Machine

/-- Settles O19: what each instruction writes under its predicate, with the bits of packed elements and, for the reductions, what the tree
keeps of the enabled elements. -/
theorem vectorConversions : Obligations.VectorConversions := by
  unfold Obligations.VectorConversions
  refine ⟨?conversions, ?reductions⟩
  case conversions =>
    rintro pg b a d t u1 h f j s x rfl
    refine ⟨?cvt, fun ht => ?pack6, fun ht => ?pack4, fun ha ht => ?unpack6, fun ha ht => ?unpack4, ?dq⟩
    case cvt =>
      rintro hn - src hsrc on hon hnan r hr
      obtain rfl : r = s.cvtElem (s.getV a) f (u1 = 1) (t = 1) src := funext hr
      have hiff : ∀ k < tagElems f, s.cvtOn pg src k = true ↔ on k := fun k _ => cvtOn_iff.trans (hon k).symm
      exact givesV_mergeV (exec_vcvt hn hsrc fun k hk hk' => hnan k hk ((hiff k hk).mp hk')) rfl hiff (fun _ _ _ => rfl) (flagsOf_gather hiff)
    case pack6 =>
      obtain ⟨hnan, hbits⟩ := sixBit_image ht
      simpa using givesV_vpack (d := d) (h := 0) hnan hbits (by decide) (fun _ => by decide) (packPlace_sixBit hbits)
    case pack4 =>
      obtain ⟨hnan, hbits⟩ := fourBit_image ht
      simpa using givesV_vpack (d := d) (h := h) hnan hbits (by decide) nofun (packPlace_fourBit hbits)
    case unpack6 =>
      obtain ⟨-, hbits⟩ := sixBit_image ht
      simpa using givesV_vunpack (d := d) (h := 0) ha hbits (packPlace_sixBit hbits)
    case unpack4 =>
      obtain ⟨-, hbits⟩ := fourBit_image ht
      exact givesV_vunpack (d := d) (h := h) ha hbits (packPlace_fourBit hbits)
    case dq =>
      intro ha r hr
      obtain rfl : r = s.dqElem b a j s.cx.rm := funext hr
      exact givesV_vfltWrite (exec_vdq ha) rfl
  case reductions =>
    rintro pg a d h s x rfl w n rfl rfl v first
    have hint : isInt (s.getV a).tag = true → ∀ k, v ((s.getV a).elem k) = bitsInt (tagWidth (s.getV a).tag) (h = 1) ((s.getV a).elem k) :=
      fun ht k => (bitsInt_eq (isInt_width_pos ht) (elemOf_lt ..) h).symm
    refine ⟨fun ht => ⟨?sum, ?max, ?min⟩, ?float⟩
    case sum =>
      refine givesV_vreduce_int rfl ht ((reduceTree_sum ..).trans ?_)
      rw [leavesUnder_root (isInt_ne_zero ht), sum_filterMap]
      simp only [enabledElem_getD]
    case max =>
      obtain ⟨hsome, hnone⟩ := tree_greatest (v := bitsInt (tagWidth (s.getV a).tag) (h = 1)) (f := fun p q => ⟨if
        bitsInt (tagWidth (s.getV a).tag) (h = 1) q ≤ bitsInt (tagWidth (s.getV a).tag) (h = 1) p then p else q, 0⟩) (fun _ _ => rfl)
        (isInt_ne_zero ht) pg (intBits (tagWidth (s.getV a).tag) (intRange (tagWidth (s.getV a).tag) (h = 1)).1)
      refine ⟨_, fun hen => ?_, fun hen => (hnone hen).trans (intBits_least ht h), givesV_vreduce_int rfl ht rfl⟩
      obtain ⟨k, hk, hken, hm, hmax⟩ := hsome hen
      exact ⟨⟨k, hk, hken, hm⟩, fun l hl hlen => by rw [hm, hint ht, hint ht]; exact hmax l hl hlen⟩
    case min =>
      obtain ⟨hsome, hnone⟩ := tree_greatest (v := fun e => -bitsInt (tagWidth (s.getV a).tag) (h = 1) e) (f := fun p q => ⟨if
        bitsInt (tagWidth (s.getV a).tag) (h = 1) p ≤ bitsInt (tagWidth (s.getV a).tag) (h = 1) q then p else q, 0⟩)
        (fun _ _ => if_congr neg_le_neg_iff.symm rfl rfl)
        (isInt_ne_zero ht) pg (intBits (tagWidth (s.getV a).tag) (intRange (tagWidth (s.getV a).tag) (h = 1)).2)
      refine ⟨_, fun hen => ?_, fun hen => (hnone hen).trans (intBits_greatest ht h), givesV_vreduce_int rfl ht rfl⟩
      obtain ⟨k, hk, hken, hm, hmin⟩ := hsome hen
      exact ⟨⟨k, hk, hken, hm⟩, fun l hl hlen => by rw [hm, hint ht, hint ht]; exact neg_le_neg_iff.mp (hmin l hl hlen)⟩
    case float =>
      rintro ht _ rfl red
      exact ⟨fun r hr => givesV_vreduce_float (ffloat := fun t m p q => fRound t m (numAdd m (t.decode p) (t.decode q))) (efloat := fun _ => 0)
          rfl ht hr,
        fun r hr => givesV_vreduce_float (ffloat := fun t _ p q => fMax t p q) (efloat := fun t => t.infBits true) rfl ht hr,
        fun r hr => givesV_vreduce_float (ffloat := fun t _ p q => fMin t p q) (efloat := fun t => t.infBits false) rfl ht hr⟩

end

section
/-! SUPPORT. Commands to launch queues from a core (R78, R83 to R85): a block that is read from the local window, how QSUB ends, and the
entry of TRIG. -/

namespace Sys2Proof.Machine

variable {s u : State} {va : Word} {t : Target}

/-! ## A block in the local window (R83, R238) -/

/-- The sum of the bytes from a place up, lowest first, is what is read there. -/
theorem sum_bytes (m : List Host.Cell) (a j n : Nat) :
    (List.range' j n).foldr (fun i acc => memRead m (a + i) 1 * 2 ^ (8 * i) + acc) 0 = 2 ^ (8 * j) * memRead m (a + j) n := by
  induction n generalizing j with
  | zero => simp [memRead]
  | succ n ih =>
    have hp : 2 ^ (8 * (j + 1)) = 2 ^ (8 * j) * 256 := by rw [Nat.mul_add, Nat.pow_add]
    rw [List.range'_succ, List.foldr_cons, ih, hp, ← Nat.add_assoc]
    simp only [memRead]
    ring

/-- A load of which no part was performed early reads its place, byte by byte (R339, R345). -/
theorem see_bytes {strong : Bool} {site a n : Nat} (h : s.cx.early = []) : s.see strong site a n 1 = memRead s.mem a n := by
  have hpart : ∀ i, s.seePart strong site (a + 1 * i) 1 * 2 ^ (8 * (1 * i)) = memRead s.mem (a + i) 1 * 2 ^ (8 * i) := fun i => by
    simp [State.seePart, Ctx.earlyValue, h, State.load]
  simp only [State.see, hpart, Nat.div_one, List.range_eq_range', sum_bytes]
  simp

theorem passLoad_settled {c : Ctx} {strong : Bool} {site a n : Nat} (h : c.early = []) : c.passLoad strong site a n = c := by
  have hnil : c.passLoad strong site a n = { c with early := [] } := by simp [Ctx.passLoad, h]
  rw [hnil, ← h]

theorem loadAt_local {n : Nat} (hk : t.kind = .localWin) (hm : isMmio t.pa = false) (h : s.cx.early = []) :
    s.loadAt .weak t va n 1 = (memRead s.mem t.pa n, s) := by
  have hcx : (s.mapCx fun c => c.passLoad false t.site (physOf t.pa) n) = s := by
    rw [State.mapCx, passLoad_settled h]
  simp [State.loadAt, hm, State.loadOrd, Order.weak, State.loadWeak, hk, see_bytes h, hcx]

theorem mayLoad_local {n : Nat} (hk : t.kind = .localWin) (hn : 0 < n) (h : s.settled t va n) : s.mayLoad .weak t va n 1 = .ok () := by
  obtain ⟨he, hgo⟩ := h
  have hseen : s.cx.seen false t.site (physOf t.pa) n 1 = false := by
    simpa [Ctx.seen, Ctx.earlyValue, he] using ⟨0, hn⟩
  simp [State.mayLoad, Order.weak, hseen, State.hits, hk, hgo]

theorem readBlock_local (ha : va.toNat % 64 = 0) (hr : s.reach .load va 64 = .ok t) (hk : t.kind = .localWin) (hm : isMmio t.pa = false)
    (h : s.settled t va 64) : s.readBlock va = .ok (BitVec.ofNat 512 (memRead s.mem t.pa 64), s) := by
  simp [State.readBlock, ha, hr, mayLoad_local hk (by decide) h, loadAt_local hk hm h.1, bind, Except.bind, pure, Except.pure]

/-! ## QSUB (R83) -/

theorem exec_qsub (b a d : BitVec 5) (s : State) : exec (.qsub b a d) s = s.finish (queueSubmit s false b a d) := rfl

theorem exec_qsubT (b a d : BitVec 5) (s : State) : exec (.qsubT b a d) s = s.finish (queueSubmit s true b a d) := rfl

theorem Queue.full_iff {x : Queue} : x.full = true ↔ (x.widx - x.ridx).toNat = x.size := decide_eq_true_iff

section

variable {twin : Bool} {b a d : BitVec 5} {pkt : BitVec 512}

theorem queueSubmit_blocked (h : s.cx.thread = false) : queueSubmit s false b a d = .error (.trap (exn 27 0)) := by
  simp [queueSubmit, State.blocking, Ctx.handlerDiscipline, h, bind, Except.bind]

variable (ht : s.cx.thread = true) (hd : s.cx.drained = true) (hr : s.readBlock (s.getX a) = .ok (pkt, s))

include ht hd hr

/-- QSUB once its packet is read: it is turned away, waits for room, or submits. -/
theorem queueSubmit_read : queueSubmit s twin b a d =
    if s.submitReason (s.getX b).toNat ≠ 0 then .ok (s.turnedAway twin (s.getX b).toNat (s.submitReason (s.getX b).toNat) d)
    else if (s.queue (s.getX b).toNat).full then (if twin then .ok (s.turnedAway twin (s.getX b).toNat 1 d) else waitStop)
    else .ok (s.submit twin (s.getX b).toNat pkt d) := by
  simp only [queueSubmit, State.blocking, Ctx.handlerDiscipline, ht, hr, Ctx.released, hd, Bool.not_true, Bool.not_false, Bool.or_true,
    check_true, waitUntil_true, bind, Except.bind, pure, Except.pure]

theorem queueSubmit_refused (hw : s.submitReason (s.getX b).toNat ≠ 0) :
    queueSubmit s twin b a d = .ok (s.turnedAway twin (s.getX b).toNat (s.submitReason (s.getX b).toNat) d) := by
  rw [queueSubmit_read ht hd hr, if_pos hw]

theorem queueSubmit_full (hw : s.submitReason (s.getX b).toNat = 0)
    (hf : ((s.queue (s.getX b).toNat).widx - (s.queue (s.getX b).toNat).ridx).toNat = (s.queue (s.getX b).toNat).size) :
    queueSubmit s twin b a d = if twin then .ok (s.turnedAway twin (s.getX b).toNat 1 d) else waitStop := by
  rw [queueSubmit_read ht hd hr, if_neg (not_not.mpr hw), if_pos (Queue.full_iff.mpr hf)]

theorem queueSubmit_room (hw : s.submitReason (s.getX b).toNat = 0)
    (hf : ((s.queue (s.getX b).toNat).widx - (s.queue (s.getX b).toNat).ridx).toNat ≠ (s.queue (s.getX b).toNat).size) :
    queueSubmit s twin b a d = .ok (s.submit twin (s.getX b).toNat pkt d) := by
  rw [queueSubmit_read ht hd hr, if_neg (not_not.mpr hw), if_neg (mt Queue.full_iff.mp hf)]

end

/-- The bytes that a unit writes change nothing but memory and its marks. -/
theorem unitWrite_sansMem {cl : Client} {a n v : Nat} : Yields (fun u => u.sansMem = s.sansMem) (s.unitWrite cl a n v) := by
  refine .skip fun ts => .ok ?_
  induction ts generalizing s with
  | nil => rfl
  | cons x ts ih => exact ih.trans (store_sansMem ..)

theorem result_committed (u : State) (d : BitVec 5) (v : Word) : Committed (u.setX d v) (u.result d v) (u.cx.pc + 4) false := by
  have h := (u.setX d v).advance_committed
  rwa [State.setX_cx, Ctx.setX_pc] at h

/-- A packet whose bytes go to its slot is submitted: WIDX advances, and QSUB answers the index (R83). -/
theorem submit_completes {i : Instr} {twin : Bool} {q : Nat} {pkt : BitVec 512} {d : BitVec 5} {w : Word}
    (hi : exec i s = .next (s.submit twin q pkt d)) (hw : w = if twin then accepted (s.queue q).widx.toNat else (s.queue q).widx.setWidth 64)
    (hu : s.unitWrite (s.queueClient (s.queue q)) ((s.queue q).base.toNat + 64 * ((s.queue q).widx.toNat % (s.queue q).size)) 64 pkt.toNat =
      .ok u) : Completes i s ((u.setQueue { s.queue q with widx := (s.queue q).widx + 1 }).setX d w) false := by
  have hpc : u.cx.pc = s.cx.pc := (congrArg (fun w : State => w.cx.pc) (unitWrite_sansMem u hu) :)
  refine ⟨_, hi, ?_⟩
  simp only [State.submit, hu, ← hw, ← hpc]
  exact result_committed ..

/-! ## TRIG (R78, R84) -/

/-- The entry of a TRIG (R84). -/
def State.trigEntry (s : State) : OpEntry :=
  ⟨s.trigIdx, 0, .trig, 0, 0, 2, true, 0, [], 1, 0, 1024, .none, .sent, s.cx.level, s.cx.key.h, s.order, 0, true, false⟩

/-- TRIG commits with its entry at the end of the log. -/
theorem exec_trig (s : State) :
    exec .trig s = .next ({ s with cx := { s.cx with log := s.cx.log ++ [s.trigEntry] }, order := s.order + 1 } : State).advance := rfl

/-- A log leaves one of its length and one more indices free. -/
theorem exists_free_idx (log : List OpEntry) (j : Nat) : ∃ i ∈ List.range' j (log.length + 1), ∀ e ∈ log, e.idx ≠ i := by
  by_contra h
  push Not at h
  have hsub : List.range' j (log.length + 1) ⊆ log.map (·.idx) := fun i hi => by
    obtain ⟨e, he, rfl⟩ := h i hi
    exact List.mem_map_of_mem he
  have hle := (List.nodup_range' (s := j) (n := log.length + 1)).subperm hsub |>.length_le
  simp at hle

/-- No other entry of the running context has the index of its TRIG (R84, R213). -/
theorem trigIdx_fresh (hr : s.cx.resident = true) : ∀ e ∈ s.cx.log, e.idx ≠ s.trigIdx := by
  intro e he
  unfold State.trigIdx
  cases hf : s.freeIdx s.cx.key.h with
  | some i =>
    have hall := List.find?_some hf
    simpa [State.inLog, hr] using List.all_eq_true.mp (List.all_eq_true.mp hall s.cx (.head _)) e he
  | none =>
    obtain ⟨i, hi, hfree⟩ := exists_free_idx s.cx.log 32
    have hsome : ((List.range' 32 (s.cx.log.length + 1)).find? fun i => s.cx.log.all fun e => e.idx ≠ i).isSome = true :=
      List.find?_isSome.mpr ⟨i, hi, by simpa using hfree⟩
    obtain ⟨j, hj⟩ := Option.isSome_iff_exists.mp hsome
    have hall : (s.cx.log.all fun e => e.idx ≠ j) = true := List.find?_some (p := fun i => s.cx.log.all fun e => e.idx ≠ i) hj
    change e.idx ≠ Option.getD (List.find? _ _) 32
    rw [hj]
    simpa using List.all_eq_true.mp hall e he

end Sys2Proof.Machine
end

section

open Sys2Proof Sys2Proof.Machine

/-- Settles O34: QSUB reads its packet from the local window and then goes by the reason that the queue gives it and by its room; TRIG's
index is free in its own log by counting, and LSTAT is what the queue reads. -/
theorem submissions : Obligations.Submissions := by
  unfold Obligations.Submissions
  rintro b a d f s q x rfl rfl
  refine ⟨fun h => traps_of rfl (queueSubmit_blocked h), ?lstat, ?trig, ?qsub⟩
  case lstat =>
    rintro y rfl
    exact gives_of rfl rfl
  case trig =>
    refine ⟨s.trigEntry, rfl, rfl, rfl, rfl, rfl, fun x hx => ?_, fun k hk => ?_, _, exec_trig s, State.advance_committed _⟩
    · cases hr : s.cx.resident with
      | false => exact .inr rfl
      | true => exact .inl (trigIdx_fresh hr x hx)
    · simp [State.trigEntry, State.trigIdx, hk]
  case qsub =>
    intro ht ha hd t hr hk hm hset v hv why hwhy
    obtain rfl : why = s.submitReason (s.getX b).toNat := by simpa [State.submitReason] using hwhy
    have hread := readBlock_local ha hr hk hm hset
    refine ⟨fun h => ⟨?_, ?_⟩, fun h hfull => ⟨?_, ?_⟩, fun h hroom u hu => ?_⟩
    · rw [Traps, exec_qsub, queueSubmit_refused ht hd hread h]
      rfl
    · exact gives_of (by rw [exec_qsubT, queueSubmit_refused ht hd hread h]; rfl) (rfl : refusal _ = _)
    · rw [exec_qsub, queueSubmit_full ht hd hread h hfull]
      rfl
    · exact gives_of (by rw [exec_qsubT, queueSubmit_full ht hd hread h hfull]; rfl) (rfl : refusal 1 = 2)
    · rw [hv, ← toNat_ofNat_memRead] at hu
      exact ⟨submit_completes (by rw [exec_qsub, queueSubmit_room ht hd hread h hroom, finish_ok]) rfl hu,
        submit_completes (by rw [exec_qsubT, queueSubmit_room ht hd hread h hroom, finish_ok]) rfl hu⟩

end

section
/-! SUPPORT. Launch queues (R65 to R77): looking up a queue after an update, what the translation of a unit's access sees of a queue, and what
a doorbell, a cancel and a registration leave. -/

namespace Sys2Proof.Machine

variable {s t : State} {q j : Nat} {x y : Queue} {cl : Client}

/-! ## Looking up a queue after an update -/

/-- The record that replaces those of its kind is the first of them. -/
theorem find?_upsert_same {α : Type} {same : α → Bool} {x : α} (l : List α) (hx : same x = true) :
    (upsert same x l).find? same = some x := by
  unfold upsert
  split
  next h =>
    induction l with
    | nil => simp at h
    | cons y l ih =>
      cases hy : same y with
      | true => simp [hy, hx]
      | false =>
        rw [List.any_cons, hy, Bool.false_or] at h
        simp [hy, ih h]
  next h =>
    rw [List.find?_append, List.find?_eq_none.mpr (by simpa using h)]
    simp [hx]

/-- A look-up that neither the record nor what it replaces meets is not disturbed. -/
theorem find?_upsert_other {α : Type} {same p : α → Bool} {x : α} (l : List α) (hx : p x = false) (h : ∀ y, same y = true → p y = false) :
    (upsert same x l).find? p = l.find? p := by
  have hmap : (l.map fun y => if same y then x else y).find? p = l.find? p := by
    induction l with
    | nil => rfl
    | cons y l ih =>
      rw [List.map_cons, List.find?_cons, List.find?_cons, ih]
      cases hy : same y with
      | true => rw [if_pos rfl, hx, h y hy]
      | false => rfl
  unfold upsert
  split
  · exact hmap
  · simp [hx]

theorem queue_q (s : State) (q : Nat) : (s.queue q).q = q := by
  unfold State.queue
  cases h : s.queues.find? fun x => x.q = q with
  | none => rfl
  | some x => simpa using List.find?_some h

theorem queue_setQueue (h : y.q = q) : (s.setQueue y).queue q = y := by
  subst h
  have hf : (upsert (fun x => decide (x.q = y.q)) y s.queues).find? (fun x => decide (x.q = y.q)) = some y :=
    find?_upsert_same s.queues (decide_eq_true rfl)
  rw [State.queue, State.setQueue, hf, Option.getD_some]

theorem queue_setQueue_other (h : y.q ≠ q) : (s.setQueue y).queue q = s.queue q := by
  have hf : (upsert (fun x => decide (x.q = y.q)) y s.queues).find? (fun x => decide (x.q = q)) = s.queues.find? fun x => decide (x.q = q) :=
    find?_upsert_other s.queues (decide_eq_false h) fun z hz => decide_eq_false (of_decide_eq_true hz ▸ h)
  rw [State.queue, State.setQueue, hf, State.queue]

theorem queue_congr (h : t.queues = s.queues) : t.queue q = s.queue q := by rw [State.queue, State.queue, h]

/-! ## What the translation of an access sees of the queues (R66, R113) -/

section

variable {qs : List Queue} (h : ∀ j o, ({ s with queues := qs } : State).queueReg j o = s.queueReg j o)

include h

theorem mmioRead_queues (r : Requester) (host : Bool) (g : MmioReg) :
    ({ s with queues := qs } : State).mmioRead r host g = s.mmioRead r host g := by
  cases g with
  | queue j o => simp only [State.mmioRead, h]; rfl
  | _ => rfl

theorem mmioLoad_queues (r : Requester) (a n : Nat) : ({ s with queues := qs } : State).mmioLoad r a n = s.mmioLoad r a n := by
  have hread : ({ s with queues := qs } : State).mmioRead r false = s.mmioRead r false := funext (mmioRead_queues h r false)
  have hdouble : ({ s with queues := qs } : State).mmioDouble r = s.mmioDouble r := by
    funext b
    unfold State.mmioDouble
    rw [hread]
  unfold State.mmioLoad
  rw [hread, hdouble]

theorem tableLoad_queues (shared : Bool) (mt : Nat) : ({ s with queues := qs } : State).tableLoad cl shared mt = s.tableLoad cl shared mt := by
  funext pa
  simp only [State.tableLoad, mmioLoad_queues h]
  rfl

theorem walk_queues (va : Nat) : ({ s with queues := qs } : State).walk cl va = s.walk cl va := by
  have h3 : ({ s with queues := qs } : State).stage3 cl = s.stage3 cl := by
    funext input
    unfold State.stage3
    rw [tableLoad_queues h]
    rfl
  have hr3 : ({ s with queues := qs } : State).tableRead3 cl = s.tableRead3 cl := by
    funext mt a
    simp only [State.tableRead3, h3, tableLoad_queues h]
  have h2 : ({ s with queues := qs } : State).stage2 cl = s.stage2 cl := by
    funext input
    simp only [State.stage2, hr3]
    rfl
  have hr2 : ({ s with queues := qs } : State).tableRead2 cl = s.tableRead2 cl := by
    funext a
    simp only [State.tableRead2, h2, hr3]
  have hstage : ({ s with queues := qs } : State).stage cl = s.stage cl := by
    funext n input
    simp only [State.stage, State.stage1, hr2, h2, h3]
  rw [State.walk, State.walk, hstage]

theorem unitTarget_queues (kid : Nat) (acc : Access) (va n : Nat) :
    ({ s with queues := qs } : State).unitTarget cl kid acc va n = s.unitTarget cl kid acc va n := by
  have ht : ({ s with queues := qs } : State).translateUnit cl acc va = s.translateUnit cl acc va := by
    simp only [State.translateUnit, State.missWalk, State.missFound, walk_queues h]
    rfl
  simp only [State.unitTarget, ht]
  rfl

end

/-- No register shows which packets of a queue are cancelled ahead (R66, R77). -/
theorem queueReg_cancelled (l : List (BitVec 32)) (j o : Nat) :
    (s.setQueue { s.queue q with cancelled := l }).queueReg j o = s.queueReg j o := by
  have hj : ∃ c, (s.setQueue { s.queue q with cancelled := l }).queue j = { s.queue j with cancelled := c } := by
    by_cases h : q = j
    · subst h
      exact ⟨l, queue_setQueue (queue_q s q)⟩
    · exact ⟨(s.queue j).cancelled, queue_setQueue_other (y := { s.queue q with cancelled := l }) (by rw [queue_q]; exact h)⟩
  obtain ⟨c, hc⟩ := hj
  simp only [State.queueReg, State.qstat, hc]
  rfl

/-! ## What the walker reports (R69, R74, R317, R430) -/

/-- An interrupt shows in nothing but the queues of its contexts (R359). -/
theorem irqWhere_sansMem (s : State) (p : Ctx → Bool) (code : Nat) (floor : Level) (val : Word) :
    (s.irqWhere p code floor val).sansMem = s.sansMem := by
  have hone : ∀ c : Ctx, (if (decide (c.status ≠ .free) && p c) = true then c.irq code floor val else c).sansMarks = c.sansMarks := fun c => by
    split <;> rfl
  simp only [State.irqWhere, State.mapIf, State.mapAll, State.sansMem, List.map_map, Function.comp_def, hone]

theorem walkerStore_sansMem {kid va : Nat} {v : Word} : Yields (fun u => u.sansMem = s.sansMem) (s.walkerStore cl kid va v) := by
  unfold State.walkerStore State.walkerBytes
  split
  · exact .error
  · refine .ite .error ?_
    split
    · exact .error
    · exact .error
    · exact .error
    · exact .ok (store_sansMem ..)

/-- A completion signal changes memory and what reports it, and nothing else. -/
theorem signal_sansMem {sig : Word} {status : Nat} {idx : BitVec 32} : (s.signal cl sig status idx).sansMem = s.sansMem := by
  unfold State.signal State.walkerReport
  split
  · rfl
  · split
    next u hu => exact walkerStore_sansMem u hu
    next => exact irqWhere_sansMem ..

theorem queueError_sansMem {reason : Nat} {idx : BitVec 32} :
    (s.queueError x reason idx).sansMem = (s.setQueue { x with st := .error, reason := reason, erridx := idx }).sansMem := by
  have hmessage : ∀ (u : State) (f i : Nat), (u.interruptMessage f i).sansMem = u.sansMem := fun u f i => by
    unfold State.interruptMessage
    dsimp only
    split
    · rfl
    · exact store_sansMem ..
  unfold State.queueError
  dsimp only
  rw [apply_ite State.sansMem, hmessage, ite_self]
  split
  · exact irqWhere_sansMem ..
  · exact irqWhere_sansMem ..
  · rfl

theorem queues_of_sansMem (h : t.sansMem = s.sansMem) : t.queues = s.queues := (congrArg State.queues h :)

theorem queueError_queue {reason : Nat} {idx : BitVec 32} (h : x.q = q) :
    (s.queueError x reason idx).queue q = { x with st := .error, reason := reason, erridx := idx } := by
  rw [queue_congr (queues_of_sansMem queueError_sansMem)]
  exact queue_setQueue h

/-- A completion signal that finds its place is written there: the status, and the index above it (R74). -/
theorem signal_written {sig : Word} {status : Nat} {idx : BitVec 32} {tg : Target} (h0 : sig ≠ 0) (h8 : sig.toNat % 8 = 0)
    (hst : status < 2 ^ 32) (hp : s.unitTarget cl 0 .store sig.toNat 8 = .ok tg) (hk : tg.kind ≠ .device) (hr : s.refusedAt tg 8 = none) :
    s.signal cl sig status idx = s.store tg.pa 8 (status + idx.toNat * 2 ^ 32) := by
  have hv : (toWord (status + idx.toNat * 2 ^ 32)).toNat = status + idx.toNat * 2 ^ 32 := by
    have := idx.isLt
    rw [toWord, BitVec.toNat_ofNat]
    exact Nat.mod_eq_of_lt (by omega)
  have hstore : s.walkerStore cl 0 sig.toNat (toWord (status + idx.toNat * 2 ^ 32)) = .ok (s.store tg.pa 8 (status + idx.toNat * 2 ^ 32)) := by
    simp only [State.walkerStore, State.walkerBytes, hp, hk, hr, hv, if_false]
  rw [State.signal, if_neg (by simp [show ¬ sig = 0#64 from h0, h8]), State.walkerReport, hstore]

/-! ## Registration (R67) -/

variable {r : Requester} {n : BitVec 32}

theorem queueCommand_unreached (h : s.reachesQueue r q = false) (cmd : Nat) : s.queueCommand q r cmd = s := by
  simp [State.queueCommand, h]

theorem queueCommand_unregister (h : s.reachesQueue r q = true) : s.queueCommand q r 2 = s.setQueue (s.queue q).unregister := by
  simp [State.queueCommand, h]

theorem queueCommand_refused (h : s.reachesQueue r q = true) (hw : s.registerReason q r ≠ 0) :
    s.queueCommand q r 1 = s.setQueue { (s.queue q).unregister with reason := s.registerReason q r } := by
  simp [State.queueCommand, h, hw]

theorem queueCommand_register (h : s.reachesQueue r q = true) (hw : s.registerReason q r = 0) :
    s.queueCommand q r 1 = (s.detach q).setQueue (s.registration q r) := by
  simp [State.queueCommand, h, hw]

theorem exec_qcmdRegister (q : Nat) (r : Requester) (s : State) : exec (.qcmdRegister q r) s = .next (s.queueCommand q r 1) := rfl

theorem exec_qcmdUnregister (q : Nat) (r : Requester) (s : State) : exec (.qcmdUnregister q r) s = .next (s.queueCommand q r 2) := rfl

theorem detach_mem (s : State) (q : Nat) : (s.detach q).mem = s.mem := by
  unfold State.detach
  split <;> rfl

theorem spareQueue_ge (s : State) (q : Nat) : 4096 ≤ s.spareQueue q := by
  unfold State.spareQueue
  cases h : ((List.range (s.queues.length + 1)).map fun i => q + 4096 * (i + 1)).find? fun n => s.queues.all fun y => y.q ≠ n with
  | none => exact Nat.le_add_left ..
  | some n =>
    obtain ⟨i, -, rfl⟩ := List.mem_map.mp (List.mem_of_find?_eq_some h)
    rw [Option.getD_some]
    omega

/-- Packets of an earlier registration stand in a queue of a number of 4,096 or more (R67). -/
theorem mem_detach (h : (s.queue q).packets ≠ []) : { (s.queue q).unregister with q := s.spareQueue q } ∈ (s.detach q).queues := by
  have hne : (s.queue q).packets.isEmpty = false := by simpa using h
  have hmem : s.queue q ∈ s.queues := by
    unfold State.queue at h ⊢
    cases hf : s.queues.find? fun x => x.q = q with
    | none => simp [hf, Queue.none] at h
    | some x => exact List.mem_of_find?_eq_some hf
  rw [State.detach, if_neg (by simp [hne])]
  exact List.mem_map.mpr ⟨_, hmem, if_pos (queue_q s q)⟩

theorem mem_setQueue_other {z : Queue} (hz : z ∈ s.queues) (h : z.q ≠ y.q) : z ∈ (s.setQueue y).queues := by
  unfold State.setQueue upsert
  dsimp only
  split
  · exact List.mem_map.mpr ⟨z, hz, if_neg (by simpa using h)⟩
  · exact List.mem_append_left _ hz

theorem levelField_eq {w : Word} : fld w 7 6 = w.toNat / 64 % 4 := congrArg (· % 4) (Nat.shiftRight_eq_div_pow w.toNat 6)

theorem levelField_rank {w : Word} : (levelOf (fld w 7 6)).rank = w.toNat / 64 % 4 := by
  have hrank : ∀ k < 4, (levelOf k).rank = k := by decide
  exact (hrank (fld w 7 6) (Nat.mod_lt _ (by decide))).trans levelField_eq

theorem ksubField_eq {w : Word} : decide (fld w 5 5 = 1) = w.getLsbD 5 := by
  rw [BitVec.getLsbD, Nat.testBit_eq_decide_div_mod_eq, fld, Nat.shiftRight_eq_div_pow]
  rfl

/-- 1 in QCMD: the queue without registration and the reason, or the new registration beside the packets of the one before (R67). -/
theorem qcmdRegister_outcome {base cfg : Word} {why : Nat} (hb : base = s.reg (queueBlock q)) (hc : cfg = s.reg (queueBlock q + 8))
    (hy : y = s.registration q r) (hwhy : why = s.registerReason q r) (h : s.reachesQueue r q = true) :
    ∃ t, exec (.qcmdRegister q r) s = .next t ∧ t.mem = s.mem ∧
      (why ≠ 0 → t.queue q = { s.queue q with st := .unreg, widx := (s.queue q).ridx, cancelled := [], reason := why }) ∧
      (why = 0 → t.queue q = y ∧ ((s.queue q).packets ≠ [] →
          ∃ z ∈ t.queues, 4096 ≤ z.q ∧ z.packets = (s.queue q).packets ∧ z.lvl = (s.queue q).lvl ∧ z.leaf = (s.queue q).leaf) ∧
        y.packets = [] ∧ y.st = .active ∧ y.reason = 0 ∧ y.ridx = 0 ∧ y.widx = 0 ∧ y.base = base ∧
        y.lsz = cfg.toNat % 32 ∧ y.lvl.rank = cfg.toNat / 64 % 4 ∧ y.ksub = cfg.getLsbD 5) := by
  subst hb hc hy hwhy
  rw [exec_qcmdRegister]
  by_cases hw : s.registerReason q r = 0
  · rw [queueCommand_register h hw]
    refine ⟨_, rfl, detach_mem s q, fun hne => absurd hw hne, fun _ => ⟨queue_setQueue (y := s.registration q r) rfl, fun hp => ?_,
      rfl, rfl, rfl, rfl, rfl, rfl, rfl, levelField_rank, ksubField_eq⟩⟩
    have hq : q < 4096 := by
      rw [State.reachesQueue, Bool.and_eq_true] at h
      exact of_decide_eq_true h.1
    have hspare : s.spareQueue q ≠ q := (Nat.lt_of_lt_of_le hq (spareQueue_ge s q)).ne'
    exact ⟨_, mem_setQueue_other (y := s.registration q r) (mem_detach hp) hspare, spareQueue_ge s q, rfl, rfl, rfl⟩
  · rw [queueCommand_refused h hw]
    exact ⟨_, rfl, rfl, fun _ => queue_setQueue (y := { (s.queue q).unregister with reason := s.registerReason q r }) (queue_q s q),
      fun h0 => absurd h0 hw⟩

/-! ## Doorbells (R68) -/

/-- The queue once a doorbell comes through a function window (R69). -/
def Queue.isFed (x : Queue) : Queue := { x with fed := x.fed || decide (x.st ≠ .unreg) }

theorem feed_queue (s : State) (q : Nat) : (s.feed q).queue q = (s.queue q).isFed := by
  unfold State.feed Queue.isFed
  split
  next h =>
    rw [decide_eq_false (not_not_intro h), Bool.or_false]
  next h =>
    rw [decide_eq_true h, Bool.or_true]
    exact queue_setQueue (queue_q s q)

theorem feed_mem (s : State) (q : Nat) : (s.feed q).mem = s.mem := by
  unfold State.feed
  split <;> rfl

theorem exec_qwidxWrite (h : s.reachesQueue r q = true) : exec (.qwidxWrite q n r) s = .next ((s.feed q).doorbell q n) := by
  change execQwidxWrite q n r s = _
  rw [execQwidxWrite, if_pos h]

theorem exec_qwidxWrite_unreached (h : s.reachesQueue r q = false) : exec (.qwidxWrite q n r) s = .next s := by
  change execQwidxWrite q n r s = _
  rw [execQwidxWrite, if_neg (by simp [h])]

theorem doorbell_still (h : (s.queue q).st ≠ .active ∨ n = (s.queue q).widx) : s.doorbell q n = s := by
  simp [State.doorbell, h]

theorem doorbell_past (ha : (s.queue q).st = .active) (hn : n ≠ (s.queue q).widx)
    (h : (s.queue q).size < (n - (s.queue q).widx).toNat ∨ (s.queue q).size < (n - (s.queue q).ridx).toNat) :
    s.doorbell q n = s.queueError (s.queue q) 5 n := by
  rw [State.doorbell, if_neg (by simp [ha, hn]), if_pos (by rwa [Bool.or_eq_true, decide_eq_true_iff, decide_eq_true_iff])]

theorem doorbell_moves (ha : (s.queue q).st = .active) (hn : n ≠ (s.queue q).widx) (hw : (n - (s.queue q).widx).toNat ≤ (s.queue q).size)
    (hr : (n - (s.queue q).ridx).toNat ≤ (s.queue q).size) : s.doorbell q n = s.setQueue { s.queue q with widx := n } := by
  rw [State.doorbell, if_neg (by simp [ha, hn]), if_neg]
  rw [Bool.or_eq_true, decide_eq_true_iff, decide_eq_true_iff]
  exact not_or.mpr ⟨Nat.not_lt.mpr hw, Nat.not_lt.mpr hr⟩

/-! ## Cancels (R77) -/

theorem Packet.dispatched_iff {p : Packet} : p.dispatched = true ↔ p.st = .running ∨ p.st = .placing ∧ pktKind p.bytes = 2 := by
  simp [Packet.dispatched]

theorem exec_qcancelWrite (h : s.reachesQueue r q = true) : exec (.qcancelWrite q n r) s = .next (s.cancelPacket q n) := by
  change execQcancelWrite q n r s = _
  rw [execQcancelWrite, if_pos h]

theorem exec_qcancelWrite_unreached (h : s.reachesQueue r q = false) : exec (.qcancelWrite q n r) s = .next s := by
  change execQcancelWrite q n r s = _
  rw [execQcancelWrite, if_neg (by simp [h])]

/-- The state in which a packet has left its queue, and its signal is still to be written (R74). -/
def State.withoutPacket (s : State) (q : Nat) (i : BitVec 32) : State :=
  s.setQueue { s.queue q with packets := (s.queue q).packets.filter fun e => e.idx ≠ i }

theorem completePacket_queue {status : Nat} {p : Packet} : (s.completePacket q p status).queue q =
    { s.queue q with packets := (s.queue q).packets.filter fun e => e.idx ≠ p.idx } := by
  rw [State.completePacket, queue_congr (queues_of_sansMem signal_sansMem)]
  exact queue_setQueue (queue_q s q)

theorem completePacket_waits {status : Nat} {p : Packet} :
    (s.completePacket q p status).ready = s.ready ∧ (s.completePacket q p status).placing = s.placing := by
  have h : (s.completePacket q p status).sansMem =
      (s.withoutPacket q p.idx).sansMem := signal_sansMem
  exact ⟨(congrArg State.ready h :), (congrArg State.placing h :)⟩

theorem stopPacket_queue : (s.stopPacket q n).queue q =
    { s.queue q with packets := (s.queue q).packets.map fun e => if e.idx = n then { e with stop := true } else e } :=
  queue_setQueue (queue_q s q)

theorem cancelPacket_dispatched {p : Packet} (hf : (s.queue q).packets.find? (fun p => p.idx = n) = some p) (hp : p.dispatched = true) :
    s.cancelPacket q n = s.stopPacket q n := by
  simp [State.cancelPacket, hf, hp]

/-- The state without what waits for a packet: its entry of the ready pool, and its kernel's wait for a span. -/
def State.unlist (s : State) (q : Nat) (n : BitVec 32) : State :=
  { s with ready := s.ready.filter fun e => e.packet ≠ some (q, n), placing := s.placing.filter fun e => e.src ≠ .packet q n }

theorem cancelPacket_waiting {p : Packet} (hf : (s.queue q).packets.find? (fun p => p.idx = n) = some p) (hp : p.dispatched = false) :
    s.cancelPacket q n = (s.unlist q n).completePacket q p 1 := by
  simp [State.cancelPacket, hf, hp, State.unlist]

theorem cancelPacket_ahead (hf : (s.queue q).packets.find? (fun p => p.idx = n) = none) (hu : (s.queue q).st ≠ .unreg)
    (hc : n ∉ (s.queue q).cancelled) (hn : (n - (s.queue q).ridx).toNat < ((s.queue q).widx - (s.queue q).ridx).toNat) :
    s.cancelPacket q n = s.cancelAhead (s.queue q) n := by
  simp only [State.cancelPacket, hf]
  rw [if_pos]
  rw [Bool.and_eq_true, Bool.and_eq_true, decide_eq_true_iff, decide_eq_true_iff]
  exact ⟨⟨hu, hn⟩, by simpa using hc⟩

theorem cancelPacket_again (hf : (s.queue q).packets.find? (fun p => p.idx = n) = none) (hc : n ∈ (s.queue q).cancelled) :
    s.cancelPacket q n = s := by
  simp [State.cancelPacket, hf, hc]

theorem cancelAhead_sansMem : (s.cancelAhead x n).sansMem = (s.setQueue { x with cancelled := n :: x.cancelled }).sansMem := by
  unfold State.cancelAhead
  dsimp only
  split
  · exact signal_sansMem
  · unfold State.unitRas State.walkerRas
    split
    · exact irqWhere_sansMem ..
    · rfl

theorem cancelAhead_queue : (s.cancelAhead (s.queue q) n).queue q = { s.queue q with cancelled := n :: (s.queue q).cancelled } := by
  rw [queue_congr (queues_of_sansMem cancelAhead_sansMem)]
  exact queue_setQueue (queue_q s q)

/-- The signal of a packet that is cancelled ahead reads CANCELLED (R77): what is cancelled does not show in the translation. -/
theorem cancelAhead_signal {v : Nat} {tg : Target} (hx : x = s.queue q)
    (hv : s.unitRead (s.queueClient x) (x.base.toNat + 64 * (n.toNat % x.size)) 64 = .ok v) (h0 : pktSig (BitVec.ofNat 512 v) ≠ 0)
    (h8 : (pktSig (BitVec.ofNat 512 v)).toNat % 8 = 0)
    (hp : s.unitPlace (s.queueClient x) .store (pktSig (BitVec.ofNat 512 v)).toNat 8 = .ok tg) (hk : tg.kind ≠ .device)
    (hr : s.refusedAt tg 8 = none) : (s.cancelAhead x n).mem = (s.store tg.pa 8 (1 + n.toNat * 2 ^ 32)).mem := by
  have hplace : (s.setQueue { x with cancelled := n :: x.cancelled }).unitTarget (s.queueClient x) 0 .store
      (pktSig (BitVec.ofNat 512 v)).toNat 8 = .ok tg := by
    subst hx
    exact (unitTarget_queues (queueReg_cancelled (n :: (s.queue q).cancelled)) ..).trans hp
  simp only [State.cancelAhead, hv]
  rw [signal_written h0 h8 (by decide) hplace hk hr]
  rfl

/-- The check that a registration fails, in the words of R67: the alignment of its ring, its size, its level and rights, its mapping. -/
theorem registerReason_eq {base cfg : Word} {y : Queue} (hb : base = s.reg (queueBlock q)) (hc : cfg = s.reg (queueBlock q + 8))
    (hy : y = s.registration q r) :
    s.registerReason q r = (if base.toNat % 4096 ≠ 0 then 1 else if (cfg.toNat % 32 < 6 ∨ 16 < cfg.toNat % 32) then 3
      else if cfg.toNat / 64 % 4 = 0 ∨ r.acts.rank < cfg.toNat / 64 % 4 ∨ s.holds r rightQueues = false then 4
      else if s.ringMapped (s.queueClient y) base.toNat (64 * 2 ^ (cfg.toNat % 32)) = false then 2 else 0) := by
  subst hb hc hy
  have hbase : (s.registration q r).base = s.reg (queueBlock q) := rfl
  have hlsz : (s.registration q r).lsz = (s.reg (queueBlock q + 8)).toNat % 32 := rfl
  rw [State.registerReason]
  simp only [hbase, hlsz, Queue.size, levelField_eq, Bool.or_eq_true, decide_eq_true_eq, Bool.not_eq_true', or_assoc]

end Sys2Proof.Machine
end

section
/-! OBLIGATION O48. -/

open Sys2Proof Sys2Proof.Machine

/-- Settles O48: each register's write is the update that the lemmas above name, and looking the queue up after it gives the record that was
set. The signal of a packet cancelled ahead has the place that it had before, as no register shows which packets are cancelled. -/
theorem queueCommands : Obligations.QueueCommands := by
  unfold Obligations.QueueCommands
  rintro s q r n x rfl
  intro fed
  refine ⟨fun h => ?unreached, fun h => ⟨?unregister, fun base cfg y why hb hc hy hwhy => ?register, fun hstill => ?still,
    fun ha hne => ⟨fun hpast => ?past, fun hw hr => ?moves⟩, fun p hf => ⟨fun hp => ?dispatched, fun hp => ?waiting⟩,
    fun hf hu hc hn => ?ahead, fun hf hc => ?again⟩⟩
  case unreached =>
    rw [exec_qcmdRegister, exec_qcmdUnregister, queueCommand_unreached h, queueCommand_unreached h]
    exact ⟨rfl, rfl, exec_qwidxWrite_unreached h, exec_qcancelWrite_unreached h⟩
  case unregister =>
    rw [exec_qcmdUnregister, queueCommand_unregister h]
    exact ⟨_, rfl, queue_setQueue (y := (s.queue q).unregister) (queue_q s q), rfl⟩
  case register =>
    rw [← registerReason_eq hb hc hy] at hwhy
    exact qcmdRegister_outcome hb hc hy hwhy h
  case still =>
    have hbell : (s.feed q).doorbell q n = s.feed q := doorbell_still (by rw [feed_queue]; exact hstill)
    rw [exec_qwidxWrite h, hbell]
    exact ⟨_, rfl, feed_queue s q, feed_mem s q⟩
  case past =>
    rw [exec_qwidxWrite h, doorbell_past (by rw [feed_queue]; exact ha) (by rw [feed_queue]; exact hne)
      (by rw [feed_queue]; exact hpast), feed_queue]
    exact ⟨_, rfl, queueError_queue (queue_q s q)⟩
  case moves =>
    rw [exec_qwidxWrite h, doorbell_moves (by rw [feed_queue]; exact ha) (by rw [feed_queue]; exact hne) (by rw [feed_queue]; exact hw)
      (by rw [feed_queue]; exact hr), feed_queue]
    exact ⟨_, rfl, queue_setQueue (y := { fed with widx := n }) (queue_q s q), feed_mem s q⟩
  case dispatched =>
    rw [exec_qcancelWrite h, cancelPacket_dispatched hf (Packet.dispatched_iff.mpr hp)]
    exact ⟨_, rfl, rfl, stopPacket_queue, rfl⟩
  case waiting =>
    rw [exec_qcancelWrite h, cancelPacket_waiting hf (by rwa [← Bool.not_eq_true, Packet.dispatched_iff])]
    have hidx : p.idx = n := by simpa using List.find?_some hf
    obtain ⟨hready, hplacing⟩ := completePacket_waits (s := s.unlist q n) (q := q) (p := p) (status := 1)
    refine ⟨_, rfl, hidx ▸ completePacket_queue, fun e he => ?_, fun e he => ?_⟩
    · rw [hready] at he
      exact of_decide_eq_true (List.mem_filter.mp he).2
    · rw [hplacing] at he
      exact of_decide_eq_true (List.mem_filter.mp he).2
  case ahead =>
    rw [exec_qcancelWrite h, cancelPacket_ahead hf hu hc hn]
    refine ⟨_, rfl, cancelAhead_queue, fun v sig tg hv hsig h0 h8 hsafe hp hk hr => ?_⟩
    subst hsig
    have hmod : (1 + n.toNat * 2 ^ 32) % 256 ^ 8 = 1 + n.toNat * 2 ^ 32 := Nat.mod_eq_of_lt (by have := n.isLt; omega)
    have hread := store_reads_back hsafe (cancelAhead_signal rfl hv h0 h8 hp hk hr)
    rwa [hmod] at hread
  case again => rw [exec_qcancelWrite h, cancelPacket_again hf hc]

end

section
/-! SUPPORT. Completion signals whose translation goes through platform MMIO (R66, R74, R113, R382): a table may lie where a register of a
queue or of a migration stands, and then the step that ends a packet moves or unmaps the signal's own page before the signal is written. -/

namespace Sys2Proof.Machine

variable {s : State} {cl : Client}

/-- A store of the walker that finds no place leaves memory alone (R430). -/
theorem walkerReport_unplaced {va : Nat} {v : Word} {f : WalkFail} (h : s.unitPlace cl .store va 8 = .error f) :
    (s.walkerReport cl va v).mem = s.mem := by
  have hw : s.walkerStore cl 0 va v = .error .address := by
    unfold State.walkerStore State.walkerBytes
    rw [show s.unitTarget cl 0 .store va 8 = .error f from h]
  unfold State.walkerReport
  rw [hw]
  rfl

/-- A signal whose address does not translate is dropped (R74, R317). -/
theorem signal_unplaced {sig : Word} {status : Nat} {idx : BitVec 32} {f : WalkFail} (h : s.unitPlace cl .store sig.toNat 8 = .error f) :
    (s.signal cl sig status idx).mem = s.mem := by
  unfold State.signal
  split
  · rfl
  · exact walkerReport_unplaced h

theorem finishAtHead_unplaced {x : Queue} {b : BitVec 512} {status : Nat} {f : WalkFail}
    (h : (s.passHead x).unitPlace (s.queueClient x) .store (pktSig b).toNat 8 = .error f) : (s.finishAtHead x b status).mem = s.mem :=
  signal_unplaced h

/-- A packet out of order at the head of its ring is finished with status 3 (R73). -/
theorem exec_packetFetch_refused {q v : Nat} (hst : (s.queue q).st = .active) (hne : (s.queue q).ridx ≠ (s.queue q).widx)
    (hc : (s.queue q).ridx ∉ (s.queue q).cancelled)
    (hv : s.unitRead (s.queueClient (s.queue q)) ((s.queue q).base.toNat + 64 * ((s.queue q).ridx.toNat % (s.queue q).size)) 64 = .ok v)
    (hp : packetOk (BitVec.ofNat 512 v) = false) :
    exec (.packetFetch q) s = .next (s.finishAtHead (s.queue q) (BitVec.ofNat 512 v) 3) := by
  change execPacketFetch q s = _
  simp [execPacketFetch, hst, hne, hc, hv, hp]

/-- What the end of a kernel has changed when its signal is written (R386, R391): the kernel is gone, and its migration is cancelled. -/
def State.overFor (s : State) (kid : Nat) : State :=
  ({ s with kernels := s.kernels.filter fun x => x.kid ≠ kid, asks := s.asks.filter fun a => a.kid ≠ kid } : State).cancelFor kid

/-- A kernel that is over completes the packet that launched it (R391). -/
theorem exec_kernelComplete_packet {kid q : Nat} {i : BitVec 32} {k : Kernel} {p : Packet} (hk : s.kernel? kid = some k)
    (ho : s.kernelOver kid = true) (hq : k.queue = some (q, i)) (hp : (s.queue q).packets.find? (fun p => p.idx = i) = some p) :
    exec (.kernelComplete kid) s = .next ((s.overFor kid).completePacket q p (if k.ended then 4 else 0)) := by
  change execKernelComplete kid s = _
  simp [execKernelComplete, hk, ho, hq, hp, State.overFor]

/-- A packet whose signal finds no place completes without it. -/
theorem completePacket_unplaced {q status : Nat} {p : Packet} {f : WalkFail}
    (h : (s.withoutPacket q p.idx).unitPlace (s.queueClient (s.queue q)) .store (pktSig p.bytes).toNat 8 = .error f) :
    (s.completePacket q p status).mem = s.mem :=
  signal_unplaced h

/-! ## A stage-3 table in QSTAT -/

/-- A packet of no kind, with a completion signal. -/
def signalOnly : Nat := 0xC00000000 * 2 ^ 320

/-- Queue 0 at P, its ring at the address of the signal. RIDX is 1, so that QSTAT, where the root of stage 3 has the entry of that
address, is a pointer to the table at 2^32; the table maps the page to 2^30. -/
def qstatTable : State :=
  { State.reset with
    patp := [(0, 0x80003F0000100000)]
    queues := [⟨0, .active, 0, 1, 2, 0, 0xC00000000, 6, .P, false, 0, 0, 0, false, [], []⟩]
    mem := memWrite (memWrite [] 0x100000000 8 0x40000007) 0x40000040 64 signalOnly }

/-- The place of the signal, as the pointer in QSTAT leads to it. -/
def signalTarget : Target := ⟨0x40000000, .glob, 866, 0, false⟩

theorem qstatTable_reads : qstatTable.unitRead (qstatTable.queueClient (qstatTable.queue 0)) 0xC00000040 64 = .ok signalOnly := by
  decide +kernel

theorem qstatTable_places :
    qstatTable.unitPlace (qstatTable.queueClient (qstatTable.queue 0)) .store 0xC00000000 8 = .ok signalTarget ∧
      qstatTable.refusedAt signalTarget 8 = none ∧ memRead qstatTable.mem signalTarget.pa 8 = 0 := by
  decide +kernel

/-- Once the packet counts as consumed RIDX is 2, and the entry in QSTAT is invalid. -/
theorem qstatTable_passed :
    (qstatTable.passHead (qstatTable.queue 0)).unitPlace (qstatTable.queueClient (qstatTable.queue 0)) .store 0xC00000000 8 =
      .error ⟨3, 0xC00000000, false⟩ := by
  decide +kernel

/-! ## A stage-3 table in MIGSTAT -/

/-- A KERNEL packet of index 1 that runs, with a completion signal, and the kernel that it launched. -/
def migstatPacket : Packet := ⟨1, BitVec.ofNat 512 (1 + 0x380C00000000 * 2 ^ 320), .running, some 1, none, false, false⟩
def migstatKernel : Kernel := ⟨1, 0, 0, 4, 0x1000, 0x380C00000000, 0, .P, some (0, 1), 1, none, 0, 0, [], false⟩

/-- A kernel whose packet has a completion signal, with a migration of it in CHECK. Its MIGSTAT, where the root of stage 3 has the entry of the
signal's address, is a pointer to the table at 2 · 2^32; the table maps the page to 2^30. -/
def migstatTable : State :=
  { State.reset with
    patp := [(0, 0x80003F0000000000)]
    queues := [⟨0, .active, 0, 2, 2, 0, 0x80000, 6, .P, false, 0, 0, 0, false, [], [migstatPacket]⟩]
    kernels := [migstatKernel]
    migs := [⟨0, 1, 0, .check, 0, 1, 0⟩]
    mem := memWrite [] 0x200000000 8 0x40000007 }

theorem migstatTable_places :
    migstatTable.unitPlace (migstatTable.queueClient (migstatTable.queue 0)) .store 0x380C00000000 8 = .ok signalTarget ∧
      migstatTable.refusedAt signalTarget 8 = none ∧ memRead migstatTable.mem signalTarget.pa 8 = 0 := by
  decide +kernel

/-- Once the migration is cancelled MIGSTAT reads REFUSED, CANCELLED, and points to a table that holds nothing. -/
theorem migstatTable_cancelled : ((migstatTable.overFor 1).withoutPacket 0 1).unitPlace
    ((migstatTable.overFor 1).queueClient ((migstatTable.overFor 1).queue 0)) .store 0x380C00000000 8 = .error ⟨3, 0x380C00000000, false⟩ := by
  decide +kernel

/-- The kernel and its packet are found by their names. -/
theorem migstatTable_finds : migstatTable.kernel? 1 = some migstatKernel ∧ migstatTable.kernelOver 1 = true ∧
    (migstatTable.queue 0).packets.find? (fun p => p.idx = 1) = some migstatPacket ∧ pktSig migstatPacket.bytes = 0x380C00000000 := by
  decide +kernel

end Sys2Proof.Machine
end

section

open Sys2Proof Sys2Proof.Machine

/-- Refutes O49: a table of stage 3 may lie in platform MMIO (R113, log entry 21). Where the entry of the signal's page
is QSTAT of the queue itself, the signal of a packet out of order has a place as the packet is read; RIDX then advances, the entry turns
invalid, and no status 3 is written. -/
theorem not_packets : ¬ Obligations.Packets := by
  unfold Obligations.Packets
  intro h
  obtain ⟨-, -, hfetch, -⟩ := h qstatTable 0 _ _ rfl rfl
  obtain ⟨-, hread⟩ := hfetch (by decide) (by decide) (by decide)
  obtain ⟨hbad, -⟩ := hread _ _ qstatTable_reads rfl
  have hp : packetOk (BitVec.ofNat 512 signalOnly) = false := by decide +kernel
  have hsig : pktSig (BitVec.ofNat 512 signalOnly) = 0xC00000000 := by decide +kernel
  obtain ⟨t, hexec, hwritten, -⟩ := hbad hp
  obtain ⟨hplace, hfree, hzero⟩ := qstatTable_places
  have hmem : t.mem = qstatTable.mem := by
    rw [exec_packetFetch_refused (by decide) (by decide) (by decide) qstatTable_reads hp] at hexec
    rw [← Host.Outcome.next.inj hexec]
    exact finishAtHead_unplaced (by rw [hsig]; exact qstatTable_passed)
  have hsafe : Safe qstatTable := by unfold Safe; decide +kernel
  obtain ⟨hval, -⟩ := hwritten _ signalTarget hsig.symm (by decide) (by decide) hsafe hplace (by decide) hfree
  rw [hmem, hzero] at hval
  exact absurd hval (by decide)

end

section

open Sys2Proof Sys2Proof.Machine

/-- Refutes O50: a table of stage 3 may lie in platform MMIO (R113, log entry 21). Where the entry of the signal's page
is MIGSTAT of a migration of the kernel, the end of the kernel cancels the migration, the entry changes, and the signal is not written
where its address led before. -/
theorem not_kernels : ¬ Obligations.Kernels := by
  unfold Obligations.Kernels
  intro h
  obtain ⟨-, -, hcomplete, -⟩ := h migstatTable
  obtain ⟨hkernel, hover, hfind, hsig⟩ := migstatTable_finds
  obtain ⟨hplace, hfree, hzero⟩ := migstatTable_places
  obtain ⟨-, hends⟩ := hcomplete 1 migstatKernel hkernel
  obtain ⟨⟨t, hexec, -, -, hpacket⟩, -⟩ := hends hover
  obtain ⟨-, hwritten⟩ := hpacket 0 1 migstatPacket rfl hfind
  have hmem : t.mem = migstatTable.mem := by
    rw [exec_kernelComplete_packet hkernel hover rfl hfind] at hexec
    rw [← Host.Outcome.next.inj hexec, completePacket_unplaced (by rw [hsig]; exact migstatTable_cancelled)]
    rfl
  have hsafe : Safe migstatTable := by unfold Safe; decide +kernel
  have hval := hwritten _ signalTarget hsig.symm (by decide) (by decide) hsafe hplace (by decide) hfree
  rw [hmem, hzero] at hval
  exact absurd hval (by decide)

end

section
/-! SUPPORT. Partition blocks, quotas and scratch ways (R89 to R93, R125, R126, R310): what each command and each completion leaves, and what
a check that passed says of the staged values. -/

namespace Sys2Proof.Machine

variable {s t : State} {b : Block} {r : Requester} {p : Part} {i j : Nat}

/-! ## Memory and slices after a flush (R91, R125, R126) -/

/-- Memory with the cells that `p` picks taken out: those places read as what nothing has written. -/
theorem memGet_filter_not (m : List Host.Cell) (p : Nat → Bool) (a : Nat) :
    memGet (m.filter fun c => !p c.1) a = if p a then 0 else memGet m a := by
  induction m with
  | nil => simp [memGet, memDefault]
  | cons c m ih =>
    obtain ⟨k, v⟩ := c
    by_cases hk : k = a
    · subst hk
      cases h : p k <;> simp [memGet, ih, h]
    · cases h : p k <;> simp [memGet, ih, h, hk]

theorem memGet_discard (s : State) (p : Nat → Bool) (a : Nat) : memGet (s.discard p).mem a = if p a then 0 else memGet s.mem a :=
  memGet_filter_not s.mem p a

theorem State.SlicedTo.foldl {α : Type} {f : State → α → State} (hf : ∀ (t : State) x, t.SlicedTo (f t x)) (l : List α) (s : State) :
    s.SlicedTo (l.foldl f s) := by
  induction l generalizing s with
  | nil => exact .refl s
  | cons x l ih => exact (hf s x).trans (ih _)

theorem State.SlicedTo.cx (h : s.SlicedTo t) : t.cx = s.cx := by
  obtain ⟨m, l, rfl⟩ := h
  rfl

theorem sliceShrink_slicedTo (s : State) (h n : Nat) : s.SlicedTo (s.sliceShrink h n) :=
  .foldl (fun t (l : SliceLine) => sliceEvict_slicedTo t l.home l.line) _ s

/-- Slices that hold nothing apart have nothing to write back. -/
theorem sliceFlush_idle {homes : Nat → Bool} (h : ∀ l ∈ s.slices, homes l.home = false) : s.sliceFlush homes = s := by
  rw [State.sliceFlush, List.filter_eq_nil_iff.mpr fun l hl => by simp [h l hl], List.foldl_nil]

theorem sliceShrink_idle {h n : Nat} (hl : ∀ l ∈ s.slices, l.home ≠ h) : s.sliceShrink h n = s := by
  rw [State.sliceShrink, List.filter_eq_nil_iff.mpr fun l hm => by simp [hl l hm], List.foldl_nil]

/-- The slices of a span give up their last `n` ways (R126). -/
def State.shrinkSpan (s : State) (base len n : Nat) : State := (List.range' base len).foldl (fun s h => s.sliceShrink h n) s

theorem shrinkSpan_slicedTo (s : State) (base len n : Nat) : s.SlicedTo (s.shrinkSpan base len n) :=
  .foldl (fun t h => sliceShrink_slicedTo t h n) _ s

theorem shrinkSpan_idle {base len n : Nat} (h : ∀ l ∈ s.slices, l.home < base ∨ base + len ≤ l.home) : s.shrinkSpan base len n = s := by
  induction len generalizing base with
  | zero => rfl
  | succ len ih =>
    have hhead : s.sliceShrink base n = s := sliceShrink_idle fun l hl => by have := h l hl; omega
    rw [State.shrinkSpan, List.range'_succ, List.foldl_cons, hhead]
    exact ih fun l hl => by have := h l hl; omega

/-! ## Looking up a partition, quotas and ways after an update -/

theorem part_blk (s : State) (b : Block) : (s.part b).blk = b := by
  unfold State.part
  cases h : s.parts.find? fun p => p.blk = b with
  | none => rfl
  | some p => simpa using List.find?_some h

theorem part_congr (h : t.parts = s.parts) : t.part b = s.part b := by rw [State.part, State.part, h]

theorem part_setPart (h : p.blk = b) : (s.setPart p).part b = p := by
  subst h
  have hf : (upsert (fun q => decide (q.blk = p.blk)) p s.parts).find? (fun q => decide (q.blk = p.blk)) = some p :=
    find?_upsert_same s.parts (decide_eq_true rfl)
  rw [State.part, State.setPart, hf, Option.getD_some]

theorem part_setPart_other (h : p.blk ≠ b) : (s.setPart p).part b = s.part b := by
  have hf : (upsert (fun q => decide (q.blk = p.blk)) p s.parts).find? (fun q => decide (q.blk = b)) =
      s.parts.find? fun q => decide (q.blk = b) :=
    find?_upsert_other s.parts (decide_eq_false h) fun z hz => decide_eq_false (of_decide_eq_true hz ▸ h)
  rw [State.part, State.setPart, hf, State.part]

theorem quotas_leaf (s : State) (j : Nat) : (s.quotas j).leaf = j := by
  unfold State.quotas
  cases h : s.qos.find? fun q => q.leaf = j with
  | none => rfl
  | some q => simpa using List.find?_some h

theorem quotas_setQuotas {q : Qos} (h : q.leaf = j) : (s.setQuotas q).quotas j = q := by
  subst h
  have hf : (upsert (fun x => decide (x.leaf = q.leaf)) q s.qos).find? (fun x => decide (x.leaf = q.leaf)) = some q :=
    find?_upsert_same s.qos (decide_eq_true rfl)
  rw [State.quotas, State.setQuotas, hf, Option.getD_some]

theorem leafWays_of_upsert {w : Ways} {l : List Ways} (hw : w.leaf = j) (h : t.ways = upsert (fun x => x.leaf = j) w l) :
    t.leafWays j = w := by
  have hf : (upsert (fun x => decide (x.leaf = j)) w l).find? (fun x => decide (x.leaf = j)) = some w :=
    find?_upsert_same l (decide_eq_true hw)
  rw [State.leafWays, h, hf, Option.getD_some]

/-! ## A narrowed mask (R93, R94) -/

/-- A halted context that runs on has the interrupts that it had. -/
@[simp] theorem resume_irqs (c : Ctx) : c.resume.irqs = c.irqs := by
  unfold Ctx.resume
  split <;> rfl

@[simp] theorem endSession_irqs (s : State) (f : Nat) : (s.endSession f).cx.irqs = s.cx.irqs := by
  change (if _ then s.cx.resume else s.cx).irqs = _
  split
  · exact resume_irqs s.cx
  · rfl

theorem irqWhere_irqs {f : Ctx → Bool} (hst : s.cx.status ≠ .free) (hf : f s.cx = true) (code : Nat) (floor : Level) (val : Word) :
    (s.irqWhere f code floor val).cx.irqs = pushIrq s.cx.irqs code floor val := by
  simp [State.irqWhere, State.mapIf, State.mapAll, hst, hf, Ctx.irq]

theorem narrowLeaf_parts (s : State) (j : Nat) (m : BitVec 10) :
    (s.narrowLeaf j m).parts = (s.setPart { s.part (.leaf j) with rights := m }).parts := by
  unfold State.narrowLeaf
  dsimp only
  split <;> split <;> rfl

theorem narrowLeaf_mem (s : State) (j : Nat) (m : BitVec 10) : (s.narrowLeaf j m).mem = s.mem := by
  unfold State.narrowLeaf
  dsimp only
  split <;> split <;> rfl

theorem narrowLeaf_part (s : State) (j : Nat) (m : BitVec 10) :
    (s.narrowLeaf j m).part (.leaf j) = { s.part (.leaf j) with rights := m } :=
  (part_congr (narrowLeaf_parts s j m)).trans (part_setPart (part_blk s _))

theorem narrowLeaf_part_first (s : State) (j i : Nat) (m : BitVec 10) : (s.narrowLeaf j m).part (.first i) = s.part (.first i) := by
  have hne : (s.part (.leaf j)).blk ≠ .first i := by simp [part_blk]
  exact (part_congr (narrowLeaf_parts s j m)).trans (part_setPart_other hne)

/-- A leaf that loses a right interrupts its contexts (R93). -/
theorem narrowLeaf_irqs {m : BitVec 10} (hlost : (s.part (.leaf j)).rights &&& ~~~m ≠ 0) (hst : s.cx.status ≠ .free)
    (hleaf : s.cx.leaf = j) : (s.narrowLeaf j m).cx.irqs = pushIrq s.cx.irqs 19 .T (m.setWidth 64) := by
  have hirq := irqWhere_irqs (s := s.setPart { s.part (.leaf j) with rights := m }) (f := fun c => c.leaf = j) hst
    (decide_eq_true hleaf) 19 .T (m.setWidth 64)
  unfold State.narrowLeaf
  dsimp only
  rw [if_pos hlost]
  split
  · exact hirq
  · exact (endSession_irqs ..).trans hirq

/-- What a leaf keeps once its first-level span is `up` (R93): the rights and the queues that lie within the span's. -/
def State.narrowUnder (up : Part) (s : State) (p : Part) : State :=
  if p.qcnt = 0 || (up.qfirst ≤ p.qfirst && p.qfirst + p.qcnt ≤ up.qfirst + up.qcnt) then
    s.narrowLeaf p.blk.num (p.rights &&& up.rights)
  else (s.narrowLeaf p.blk.num (p.rights &&& up.rights)).unregisterRange p

theorem narrowBelow_eq (s : State) (i : Nat) :
    s.narrowBelow i = (s.leavesOf i).foldl (State.narrowUnder (s.part (.first i))) s := rfl

theorem narrowUnder_mem (up : Part) (s : State) (p : Part) : (s.narrowUnder up p).mem = s.mem := by
  unfold State.narrowUnder
  split
  · exact narrowLeaf_mem ..
  · exact narrowLeaf_mem ..

theorem narrowUnder_part_first (up : Part) (s : State) (p : Part) (i : Nat) : (s.narrowUnder up p).part (.first i) = s.part (.first i) := by
  unfold State.narrowUnder
  split
  · exact narrowLeaf_part_first ..
  · exact narrowLeaf_part_first ..

theorem narrowBelow_mem (s : State) (i : Nat) : (s.narrowBelow i).mem = s.mem := by
  rw [narrowBelow_eq]
  exact List.foldlRecOn (motive := fun t => t.mem = s.mem) _ _ rfl fun t ht p _ => (narrowUnder_mem _ t p).trans ht

/-- Narrowing the leaves below a first-level span leaves the span itself alone. -/
theorem narrowBelow_part_first (s : State) (i : Nat) : (s.narrowBelow i).part (.first i) = s.part (.first i) := by
  rw [narrowBelow_eq]
  exact List.foldlRecOn (motive := fun t => t.part (.first i) = s.part (.first i)) _ _ rfl
    fun t ht p _ => (narrowUnder_part_first _ t p i).trans ht

/-! ## The checks of a command (R90) -/

theorem apart_of_intervalsMeet {a n c m : Nat} (h : intervalsMeet a n c m = false) (hn : n ≠ 0) (hm : m ≠ 0) :
    a + n ≤ c ∨ c + m ≤ a := by
  simp only [intervalsMeet, Bool.and_eq_false_iff, decide_eq_false_iff_not] at h
  omega

theorem inRange_iff {g : Staged} :
    g.inRange = true ↔ 1 ≤ g.len ∧ g.len ≤ 1024 ∧ g.base + g.len ≤ 1024 ∧ g.qfirst + g.qcnt ≤ 4096 := by
  simp [Staged.inRange, and_assoc]

/-- A staged span that overlaps none lies apart from every other span of its level. -/
theorem apart_of_overlaps {g : Staged} {y : Part} (h : s.overlaps b g = false) (hg : g.len ≠ 0) (hy : y ∈ s.parts)
    (hl : sameLevel y.blk b = true) (hne : y.blk ≠ b) (hst : y.st ≠ .free) (hlen : y.len ≠ 0) :
    y.base + y.len ≤ g.base ∨ g.base + g.len ≤ y.base := by
  have hnone := List.any_eq_false.mp h y hy
  have hmeet : intervalsMeet y.base y.len g.base g.len = false := by
    simp only [hne, hl, hst, ne_eq, not_false_eq_true, decide_true, Bool.true_and, Bool.or_true, Bool.or_eq_true, not_or,
      Bool.not_eq_true] at hnone
    exact hnone.1
  exact apart_of_intervalsMeet hmeet hlen hg

/-- A leaf within its parent's rights has none that the parent lacks. -/
theorem right_of_withinRights {g : Staged} {n : Nat} (h : s.withinRights (.leaf j) g = true) (hn : g.rights.getLsbD n = true) :
    (s.part (.first g.parent)).rights.getLsbD n = true := by
  have hbit : (g.rights &&& ~~~(s.part (.first g.parent)).rights).getLsbD n = false := by
    rw [of_decide_eq_true h]
    exact BitVec.getLsbD_zero
  have hlt : n < 10 := BitVec.lt_of_getLsbD hn
  simpa [hn, hlt] using hbit

theorem insideParent_leaf {g : Staged} (h : s.insideParent (.leaf j) g = true) :
    (s.part (.first g.parent)).st = .active ∧ (s.part (.first g.parent)).base ≤ g.base ∧
      g.base + g.len ≤ (s.part (.first g.parent)).base + (s.part (.first g.parent)).len := by
  simp only [State.insideParent, Bool.and_eq_true, decide_eq_true_eq] at h
  obtain ⟨⟨⟨hst, hbase⟩, hend⟩, -⟩ := h
  exact ⟨hst, hbase, hend⟩

/-- A create that fails no check has passed each of them. -/
theorem checks_of_create (h : s.pcmdReason b r 1 = 0) : (s.staged b r).inRange = true ∧ s.insideParent b (s.staged b r) = true ∧
    s.overlaps b (s.staged b r) = false ∧ s.withinRights b (s.staged b r) = true := by
  unfold State.pcmdReason at h
  dsimp only at h
  split_ifs at h with _ hrange hinside hover hrights
  simp only [ne_eq, OfNat.one_ne_ofNat, not_false_eq_true, decide_true, Bool.true_and, Bool.not_eq_true, Bool.not_eq_false']
    at hrange hinside hover hrights
  exact ⟨hrange, hinside, hover, hrights⟩

theorem nctx_of_destroy (h : s.pcmdReason b r 2 = 0) : s.nctx b = 0 := by
  have hbusy : s.busyBlock b = false := by
    unfold State.pcmdReason at h
    dsimp only at h
    split_ifs at h
    simp_all
  simp only [State.busyBlock, Bool.or_eq_false_iff, decide_eq_false_iff_not, not_not] at hbusy
  exact hbusy.1

/-! ## The commands (R89 to R93) -/

/-- What a command does to a block: nothing unless the module has booted, the requester writes the block and its state is `st`; a command that
fails a check sets REASON, and any other one leads to `u`. -/
def State.commanded (s : State) (b : Block) (r : Requester) (cmd : Nat) (st : PartState) (u : State) : State :=
  if !(s.sol.boot = .done && s.writesBlock b r && (s.part b).st = st) then s
  else if s.pcmdReason b r cmd ≠ 0 then s.setPart { s.part b with reason := s.pcmdReason b r cmd } else u

theorem exec_pcmdCreate (b : Block) (r : Requester) (s : State) :
    exec (.pcmdCreate b r) s = .next (s.commanded b r 1 .free (s.createSpan b r)) := rfl

theorem exec_pcmdDestroy (b : Block) (r : Requester) (s : State) :
    exec (.pcmdDestroy b r) s = .next (s.commanded b r 2 .active (s.setPart { s.part b with st := .changing, reason := 0 })) := rfl

theorem exec_pcmdApply (b : Block) (r : Requester) (s : State) :
    exec (.pcmdApply b r) s = .next (s.commanded b r 3 .active (s.applySpan b r)) := rfl

section

variable {cmd : Nat} {st : PartState} {u : State}

theorem commanded_unreached (h : s.writesBlock b r = false) : s.commanded b r cmd st u = s := if_pos (by simp [h])

theorem commanded_unbooted (h : s.sol.boot ≠ .done) : s.commanded b r cmd st u = s := if_pos (by simp [h])

theorem commanded_wrongState (h : (s.part b).st ≠ st) : s.commanded b r cmd st u = s := if_pos (by simp [h])

/-- A command that the block obeys fails a check, or leads to `u`. -/
theorem commanded_outcome {P : State → Prop} (hb : s.sol.boot = .done) (hw : s.writesBlock b r = true) (hst : (s.part b).st = st)
    (hmem : u.mem = s.mem) (hpass : s.pcmdReason b r cmd = 0 → P u) :
    ∃ t, Host.Outcome.next (s.commanded b r cmd st u) = (.next t : Result) ∧ t.mem = s.mem ∧
      (s.pcmdReason b r cmd ≠ 0 → t.part b = { s.part b with reason := s.pcmdReason b r cmd }) ∧ (s.pcmdReason b r cmd = 0 → P t) := by
  have hgo : ¬ (!(s.sol.boot = .done && s.writesBlock b r && (s.part b).st = st)) = true := by simp [hb, hw, hst]
  rw [State.commanded, if_neg hgo]
  by_cases hwhy : s.pcmdReason b r cmd = 0
  · rw [if_neg (not_not_intro hwhy)]
    exact ⟨u, rfl, hmem, fun hne => absurd hwhy hne, hpass⟩
  · rw [if_pos hwhy]
    exact ⟨_, rfl, rfl, fun _ => part_setPart (part_blk s b), fun h0 => absurd h0 hwhy⟩

end

/-! ### Create and apply (R90, R91, R93) -/

theorem createSpan_part (s : State) (b : Block) (r : Requester) : (s.createSpan b r).part b =
    ⟨b, .active, (s.staged b r).base, (s.staged b r).len, (s.staged b r).parent, (s.staged b r).rights, (s.staged b r).qfirst,
      (s.staged b r).qcnt, 0⟩ :=
  part_setPart (s := s) rfl

/-- The block with the staged queues in force: its mask and what that takes from its contexts come after (R93). -/
def State.requeued (s : State) (b : Block) (r : Requester) : State :=
  s.setPart { s.part b with qfirst := (s.staged b r).qfirst, qcnt := (s.staged b r).qcnt, reason := 0 }

theorem requeued_part (s : State) (b : Block) (r : Requester) : (s.requeued b r).part b =
    { s.part b with qfirst := (s.staged b r).qfirst, qcnt := (s.staged b r).qcnt, reason := 0 } :=
  part_setPart (part_blk s b)

theorem applySpan_leaf (s : State) (j : Nat) (r : Requester) :
    s.applySpan (.leaf j) r = (s.requeued (.leaf j) r).narrowLeaf j (s.staged (.leaf j) r).rights := rfl

/-- A first-level span with its new mask in force, before the leaves below it are narrowed (R93, R94). -/
def State.narrowFirst (s : State) (i : Nat) (g : BitVec 10) (lost : Bool) : State :=
  let u := s.setPart { s.part (.first i) with rights := g }
  let u := if lost then u.irqWhere (fun c => c.fl = i) 19 .D (g.setWidth 64) else u
  if g.getLsbD rightDebug then u else u.endSession (1 + i)

theorem narrowFirst_part (s : State) (i : Nat) (g : BitVec 10) (lost : Bool) :
    (s.narrowFirst i g lost).part (.first i) = { s.part (.first i) with rights := g } := by
  have hparts : (s.narrowFirst i g lost).parts = (s.setPart { s.part (.first i) with rights := g }).parts := by
    unfold State.narrowFirst
    dsimp only
    split <;> split <;> rfl
  exact (part_congr hparts).trans (part_setPart (part_blk s _))

theorem narrowFirst_mem (s : State) (i : Nat) (g : BitVec 10) (lost : Bool) : (s.narrowFirst i g lost).mem = s.mem := by
  unfold State.narrowFirst
  dsimp only
  split <;> split <;> rfl

theorem applySpan_first (s : State) (i : Nat) (r : Requester) : s.applySpan (.first i) r =
    ((s.requeued (.first i) r).narrowFirst i (s.staged (.first i) r).rights
      (decide ((s.part (.first i)).rights &&& ~~~(s.staged (.first i) r).rights ≠ 0))).narrowBelow i := by
  simp only [State.narrowFirst, decide_eq_true_eq]
  rfl

theorem applySpan_mem (s : State) (b : Block) (r : Requester) : (s.applySpan b r).mem = s.mem := by
  cases b with
  | leaf j => exact narrowLeaf_mem ..
  | first i => rw [applySpan_first, narrowBelow_mem, narrowFirst_mem]; rfl

theorem applySpan_part (s : State) (b : Block) (r : Requester) : (s.applySpan b r).part b = { s.part b with
    qfirst := (s.staged b r).qfirst, qcnt := (s.staged b r).qcnt, rights := (s.staged b r).rights, reason := 0 } := by
  cases b with
  | leaf j => rw [applySpan_leaf, narrowLeaf_part, requeued_part]
  | first i => rw [applySpan_first, narrowBelow_part_first, narrowFirst_part, requeued_part]

/-- A leaf's new mask interrupts its contexts where it lost a right (R93). -/
theorem applySpan_irqs (hlost : (s.part (.leaf j)).rights &&& ~~~(s.staged (.leaf j) r).rights ≠ 0) (hst : s.cx.status ≠ .free)
    (hleaf : s.cx.leaf = j) :
    (s.applySpan (.leaf j) r).cx.irqs = pushIrq s.cx.irqs 19 .T ((s.staged (.leaf j) r).rights.setWidth 64) :=
  narrowLeaf_irqs (s := s.requeued (.leaf j) r) (by rw [requeued_part]; exact hlost) hst hleaf

/-! ### The end of a destroy (R91) -/

/-- A destroyed span once its slices are written back and its scratch is discarded. -/
def State.freed (s : State) (b : Block) : State := (s.clearSpan (s.part b)).setPart { s.part b with st := .free }

theorem freed_part (s : State) (b : Block) : (s.freed b).part b = { s.part b with st := .free } := part_setPart (part_blk s b)

theorem freed_scratch {a : Nat} (h : inScratch (s.part b).base (s.part b).len a = true) : memGet (s.freed b).mem a = 0 :=
  (memGet_discard ..).trans (if_pos h)

theorem freed_other {a : Nat} (hl : ∀ l ∈ s.slices, l.home < (s.part b).base ∨ (s.part b).base + (s.part b).len ≤ l.home)
    (h : inScratch (s.part b).base (s.part b).len a = false) : memGet (s.freed b).mem a = memGet s.mem a := by
  have hflush : (s.sliceFlush fun h => decide ((s.part b).base ≤ h) && decide (h < (s.part b).base + (s.part b).len)) = s :=
    sliceFlush_idle fun l hm => by have := hl l hm; simp; omega
  have hmem : (s.freed b).mem = (s.discard (inScratch (s.part b).base (s.part b).len)).mem := by
    rw [State.freed, State.setPart_mem, State.clearSpan, hflush]
  rw [hmem, memGet_discard, if_neg (Bool.eq_false_iff.mp h)]

theorem exec_spanDestroyComplete_unchanged (h : (s.part b).st ≠ .changing) : exec (.spanDestroyComplete b) s = .next s := if_pos h

/-- A first-level span waits for the leaves below it. -/
theorem exec_spanDestroyComplete_waits (h : s.leavesOf i ≠ []) : exec (.spanDestroyComplete (.first i)) s = .next s := by
  change execSpanDestroyComplete (.first i) s = _
  simp [execSpanDestroyComplete, h]

/-- A span that is CHANGING is freed, a first-level one once no leaf below it is left. -/
theorem exec_spanDestroyComplete_frees (hst : (s.part b).st = .changing) (h : ∀ i, b = .first i → s.leavesOf i = []) :
    ∃ t, exec (.spanDestroyComplete b) s = .next t ∧ t.parts = (s.freed b).parts ∧ t.mem = (s.freed b).mem := by
  change ∃ t, execSpanDestroyComplete b s = .next t ∧ _
  unfold execSpanDestroyComplete
  dsimp only
  rw [if_neg (not_not_intro hst)]
  cases b with
  | leaf j => exact ⟨_, rfl, rfl, rfl⟩
  | first i => exact ⟨_, congrArg Host.Outcome.next (if_pos (by simp [h i rfl])), rfl, rfl⟩

/-! ## Quotas (R310) -/

theorem fld_eq_div_mod {n : Nat} (w : BitVec n) (hi lo : Nat) : fld w hi lo = w.toNat / 2 ^ lo % 2 ^ (hi - lo + 1) :=
  congrArg (· % _) (Nat.shiftRight_eq_div_pow w.toNat lo)

theorem stagedQuotas_eq (s : State) (j : Nat) :
    s.stagedQuotas j = (List.range 4).map fun i => (s.reg (qosBlock j + 8 * i)).toNat % 2 ^ 13 := by
  simp only [State.stagedQuotas, fld_eq_div_mod, Nat.pow_zero, Nat.div_one]

theorem exec_qoscmdApply (j : Nat) (r : Requester) (s : State) : exec (.qoscmdApply j r) s = .next (s.qosCommand j r) := rfl

theorem qosCommand_unreached (h : s.ownsLeaf r j = false ∨ (r.acts ≠ .P ∧ r.acts ≠ .D)) : s.qosCommand j r = s := by
  unfold State.qosCommand
  dsimp only
  exact if_pos (by rcases h with h | ⟨hp, hd⟩ <;> simp [*])

/-- The quotas that a command leaves in force: those of before with a reason, or the staged ones. -/
def State.quotasAfter (s : State) (j : Nat) (r : Requester) (v : List Nat) : Qos :=
  if s.holds r rightQos = false then { s.quotas j with reason := 3 }
  else if ∃ x ∈ v, x < 32 ∨ 4096 < x then { s.quotas j with reason := 1 }
  else if Config.overcommitted (s.allQuotas j) then { s.quotas j with reason := 2 }
  else ⟨j, v.getD 0 32, v.getD 1 32, v.getD 2 32, v.getD 3 32, 0⟩

theorem quotasAfter_leaf (s : State) (j : Nat) (r : Requester) (v : List Nat) : (s.quotasAfter j r v).leaf = j := by
  unfold State.quotasAfter
  split_ifs
  · exact quotas_leaf s j
  · exact quotas_leaf s j
  · exact quotas_leaf s j
  · rfl

theorem qosCommand_reached (ho : s.ownsLeaf r j = true) (ha : r.acts = .P ∨ r.acts = .D) :
    s.qosCommand j r = s.setQuotas (s.quotasAfter j r (s.stagedQuotas j)) := by
  have hgo : ¬ (!(s.ownsLeaf r j && (decide (r.acts = .P) || decide (r.acts = .D)))) = true := by rcases ha with ha | ha <;> simp [ho, ha]
  unfold State.qosCommand State.quotasAfter
  dsimp only
  rw [if_neg hgo]
  simp only [Bool.not_eq_true', List.any_eq_true, Bool.or_eq_true, decide_eq_true_eq]
  split_ifs <;> rfl

/-! ## Scratch ways (R125, R126) -/

theorem exec_l2wayWrite (v : Word) (s : State) : exec (.l2wayWrite v) s = .next (s.writeL2way v) := rfl

theorem waysField_eq (v : Word) : fld v 4 0 = v.toNat % 32 := by
  simp [fld_eq_div_mod]

theorem reservedField_eq (v : Word) : fld v 62 5 = v.toNat / 32 % 2 ^ 58 := fld_eq_div_mod v 62 5

theorem writeL2way_ignored {v : Word} (h : 14 < v.toNat % 32 ∨ v.toNat / 32 % 2 ^ 58 ≠ 0 ∨ (s.leafWays s.cx.leaf).target.isSome ∨
    v.toNat % 32 = (s.leafWays s.cx.leaf).scrw) : s.writeL2way v = s := by
  unfold State.writeL2way
  dsimp only
  rw [waysField_eq, reservedField_eq]
  exact if_pos (by simpa [or_assoc] using h)

/-- The copies that a transition of a leaf's scratch ways waits for: those under way of its contexts, and of P (R126). -/
def State.copiesBefore (s : State) (leaf : Nat) : List (Key × Nat) :=
  (s.copies.filter fun x => !x.ended && !x.removed && (x.lvl = .P || (s.owner? x.agent).any fun c => c.leaf = leaf)).map
    fun x => (x.agent, x.handle)

/-- A transition of a leaf's scratch ways begins: memory and the program counter stay, and l2way is BUSY (R126). -/
theorem writeL2way_starts {v : Word} (hn : v.toNat % 32 ≤ 14) (hr : v.toNat / 32 % 2 ^ 58 = 0)
    (ht : (s.leafWays s.cx.leaf).target = none) (hne : v.toNat % 32 ≠ (s.leafWays s.cx.leaf).scrw) :
    (s.writeL2way v).mem = s.mem ∧ (s.writeL2way v).cx.pc = s.cx.pc ∧ (s.writeL2way v).leafWays s.cx.leaf =
      ⟨s.cx.leaf, (s.leafWays s.cx.leaf).scrw, some (v.toNat % 32), s.copiesBefore s.cx.leaf⟩ := by
  have htake : ¬ (decide (14 < v.toNat % 32) || decide (v.toNat / 32 % 2 ^ 58 ≠ 0) || (s.leafWays s.cx.leaf).target.isSome ||
      decide (v.toNat % 32 = (s.leafWays s.cx.leaf).scrw)) = true := by
    simp only [ht, hr, hne, Nat.not_lt.mpr hn, decide_false, Option.isSome_none, ne_eq, not_true_eq_false, Bool.or_self,
      Bool.false_eq_true, not_false_eq_true]
  unfold State.writeL2way
  dsimp only
  rw [waysField_eq, reservedField_eq, if_neg htake]
  split
  · exact ⟨rfl, rfl, leafWays_of_upsert (l := s.ways) rfl rfl⟩
  · exact ⟨rfl, rfl, leafWays_of_upsert (l := s.ways) rfl rfl⟩

theorem exec_l2wayTransitionComplete_waits {leaf : Nat} (h : (s.leafWays leaf).target = none ∨ s.oldCopiesDone (s.leafWays leaf) = false) :
    exec (.l2wayTransitionComplete leaf) s = .next s := by
  change execL2wayTransitionComplete leaf s = _
  unfold execL2wayTransitionComplete
  dsimp only
  split
  · rfl
  next n hn =>
    have hold : s.oldCopiesDone (s.leafWays leaf) = false := h.resolve_left (by simp [hn])
    rw [hold]
    rfl

/-- The state once `n` scratch ways of a leaf are in force: the ways that changed hold nothing (R126). -/
def State.waysChanged (s : State) (leaf n : Nat) : State :=
  let p := s.part (.leaf leaf)
  let w := s.leafWays leaf
  let t := (s.shrinkSpan p.base p.len n).discard (scratchPlace p.base p.len (min n w.scrw * 2 ^ 17) (max n w.scrw * 2 ^ 17))
  { t with ways := upsert (fun x => x.leaf = leaf) ⟨leaf, n, none, []⟩ t.ways }

theorem exec_l2wayTransitionComplete {leaf n : Nat} (hn : (s.leafWays leaf).target = some n)
    (hd : s.oldCopiesDone (s.leafWays leaf) = true) : exec (.l2wayTransitionComplete leaf) s = .next (s.waysChanged leaf n) := by
  change execL2wayTransitionComplete leaf s = _
  unfold execL2wayTransitionComplete
  dsimp only
  rw [hn]
  simp only [hd]
  rfl

theorem waysChanged_memGet (s : State) (leaf n a : Nat) : memGet (s.waysChanged leaf n).mem a =
    if scratchPlace (s.part (.leaf leaf)).base (s.part (.leaf leaf)).len (min n (s.leafWays leaf).scrw * 2 ^ 17)
      (max n (s.leafWays leaf).scrw * 2 ^ 17) a then 0
    else memGet (s.shrinkSpan (s.part (.leaf leaf)).base (s.part (.leaf leaf)).len n).mem a :=
  memGet_discard ..

theorem waysChanged_cx (s : State) (leaf n : Nat) : (s.waysChanged leaf n).cx = s.cx := (shrinkSpan_slicedTo s _ _ n).cx

theorem waysChanged_leafWays (s : State) (leaf n : Nat) : (s.waysChanged leaf n).leafWays leaf = ⟨leaf, n, none, []⟩ :=
  leafWays_of_upsert rfl rfl

end Sys2Proof.Machine
end

section

open Sys2Proof Sys2Proof.Machine

/-- Settles O51: the three commands share one check of the block's state and of REASON, and differ in what a command that passes leads to; the
scratch that a destroyed span or a change of ways discards is taken out of memory. -/
theorem partitions : Obligations.Partitions := by
  unfold Obligations.Partitions
  refine ⟨?commands, fun s => ⟨?quotas, ?write, ?complete⟩⟩
  case commands =>
    rintro s b r p g rfl rfl
    refine ⟨?unreached, ?unbooted, fun h => ?inUse, fun h => ?inactive, fun hb hw => ⟨?create, ?destroy, ?apply⟩, ?still, ?ends⟩
    case unreached =>
      intro h
      rw [exec_pcmdCreate, exec_pcmdDestroy, exec_pcmdApply, commanded_unreached h, commanded_unreached h, commanded_unreached h]
      exact ⟨rfl, rfl, rfl⟩
    case unbooted =>
      intro h
      rw [exec_pcmdCreate, exec_pcmdDestroy, exec_pcmdApply, commanded_unbooted h, commanded_unbooted h, commanded_unbooted h]
      exact ⟨rfl, rfl, rfl⟩
    case inUse => rw [exec_pcmdCreate, commanded_wrongState h]
    case inactive =>
      rw [exec_pcmdDestroy, exec_pcmdApply, commanded_wrongState h, commanded_wrongState h]
      exact ⟨rfl, rfl⟩
    case create =>
      rintro hst _ rfl
      refine commanded_outcome hb hw hst rfl fun hpass => ?_
      obtain ⟨hrange, hinside, hover, hrights⟩ := checks_of_create hpass
      obtain ⟨hlen, -, hend, hqueues⟩ := inRange_iff.mp hrange
      refine ⟨createSpan_part s b r, hlen, hend, hqueues,
        fun y hy hlevel hne hfree hy0 => apart_of_overlaps hover (Nat.ne_of_gt hlen) hy hlevel hne hfree hy0, ?_⟩
      rintro j rfl _ rfl
      obtain ⟨hactive, hbase, hlast⟩ := insideParent_leaf hinside
      exact ⟨hactive, hbase, hlast, fun i hi => right_of_withinRights hrights hi⟩
    case destroy =>
      rintro hst _ rfl
      exact commanded_outcome hb hw hst rfl fun hpass => ⟨part_setPart (part_blk s b), nctx_of_destroy hpass⟩
    case apply =>
      rintro hst _ rfl
      refine commanded_outcome hb hw hst (applySpan_mem s b r) fun _ => ⟨applySpan_part s b r, ?_⟩
      rintro j rfl hlost hrun hleaf
      exact applySpan_irqs hlost hrun hleaf
    case still => exact exec_spanDestroyComplete_unchanged
    case ends =>
      intro hst waits hwaits
      refine ⟨fun h => ?waits, fun h => ?frees⟩
      case waits =>
        cases b with
        | leaf j => exact (hwaits.mp h).elim
        | first i => exact exec_spanDestroyComplete_waits (hwaits.mp h)
      case frees =>
        obtain ⟨t, ht, hparts, hmem⟩ := exec_spanDestroyComplete_frees hst fun i hi => by
          subst hi
          exact not_not.mp (mt hwaits.mpr h)
        refine ⟨t, ht, ?_⟩
        rw [hmem, part_congr hparts]
        exact ⟨freed_part s b, fun a => freed_scratch, fun hl a => freed_other hl⟩
  case quotas =>
    rintro j r _ rfl
    rw [← stagedQuotas_eq, exec_qoscmdApply]
    refine ⟨fun h => by rw [qosCommand_unreached h], fun ho ha => ?_⟩
    rw [qosCommand_reached ho ha]
    refine ⟨_, rfl, rfl, ?_⟩
    rw [quotas_setQuotas (quotasAfter_leaf ..), State.quotasAfter]
    refine ⟨fun h => if_pos h, fun h hbad => ?_, fun h hok => ?_⟩
    · rw [if_neg (by simp [h]), if_pos hbad]
    · have hgood : ¬ ∃ x ∈ s.stagedQuotas j, x < 32 ∨ 4096 < x := by
        rintro ⟨x, hx, hlim⟩
        have := hok x hx
        omega
      rw [if_neg (by simp [h]), if_neg hgood]
  case write =>
    rintro v _ rfl _ rfl
    refine ⟨fun h => by rw [exec_l2wayWrite, writeL2way_ignored h], fun hn hr ht hne => ?_⟩
    obtain ⟨hmem, hpc, hways⟩ := writeL2way_starts hn hr ht hne
    exact ⟨_, exec_l2wayWrite v s, hmem, _, hways, rfl, rfl, hpc⟩
  case complete =>
    rintro leaf _ rfl
    refine ⟨exec_l2wayTransitionComplete_waits, ?_⟩
    rintro n _ _ hn hdone rfl rfl
    refine ⟨_, exec_l2wayTransitionComplete hn hdone, waysChanged_leafWays s leaf n, waysChanged_cx s leaf n, fun a ha => ?_,
      fun hl a ha => ?_⟩
    · rw [waysChanged_memGet, if_pos ha]
    · rw [waysChanged_memGet, if_neg (Bool.eq_false_iff.mp ha), shrinkSpan_idle hl]

end

section
/-! SUPPORT. The values of the immediate and unary forms (R29, R138, R139): shifts by a constant as divisions and products, counts of bits,
and the bytes of a word in the other order. -/

namespace Sys2Proof.Machine

/-! ## Immediates (R29) -/

theorem imm_of_no_hint {s : State} (h : s.cx.hint = none) (i : BitVec 12) : s.imm i = i.signExtend 64 := by
  simp [State.imm, Ctx.wide, h]

theorem imm_of_wide {s : State} {k : Hint} (h : s.cx.hint = some k) (hk : k.kind = 1) (i : BitVec 12) :
    s.imm i = (k.payload ++ i).signExtend 64 := by
  simp [State.imm, Ctx.wide, h, hk]

/-- A form with an immediate answers its function of x[a] and the immediate, as a WIDE hint extends it (R29, R138). -/
theorem gives_imm {i : BitVec 12 → BitVec 5 → BitVec 5 → Instr} {f : Word → Word → Word}
    (h : ∀ imm a d (s : State), Gives (i imm a d) s d (f (s.getX a) (s.imm imm))) (imm : BitVec 12) (a d : BitVec 5) (s : State) :
    (s.cx.hint = none → Gives (i imm a d) s d (f (s.getX a) (imm.signExtend 64))) ∧
      ∀ k, s.cx.hint = some k → k.kind = 1 → Gives (i imm a d) s d (f (s.getX a) ((k.payload ++ imm).signExtend 64)) :=
  ⟨fun hn => imm_of_no_hint hn imm ▸ h imm a d s, fun _ hs hk => imm_of_wide hs hk imm ▸ h imm a d s⟩

/-! ## Shifts by a constant -/

theorem sshiftRight_eq_ofInt {n : Nat} (x : BitVec n) (k : Nat) : x.sshiftRight k = BitVec.ofInt n (x.toInt / 2 ^ k) := by
  rw [BitVec.sshiftRight, Int.shiftRight_eq_div_pow]
  norm_cast

theorem sext32_sshiftRight (x : BitVec 32) (k : Nat) : sext32 (x.sshiftRight k) = BitVec.ofInt 64 (x.toInt / 2 ^ k) := by
  rw [sext32, BitVec.signExtend, BitVec.toInt_sshiftRight, Int.shiftRight_eq_div_pow]
  norm_cast

theorem low32_shiftLeft (x : Word) (k : Nat) : (low32 x).setWidth 64 <<< k = BitVec.ofNat 64 (x.toNat % 2 ^ 32 * 2 ^ k) := by
  apply BitVec.eq_of_toNat_eq
  simp [low32, Nat.shiftLeft_eq]

theorem sext32_add (x y : Word) : sext32 (low32 (x + y)) = (x.setWidth 32 + y.setWidth 32).signExtend 64 := by
  rw [sext32, low32, BitVec.setWidth_add _ _ (by decide)]

/-! ## Counts of bits -/

theorem countP_range_ge {n k : Nat} (hk : k ≤ n) : (List.range n).countP (fun i => decide (k ≤ i)) = n - k := by
  obtain ⟨m, rfl⟩ := Nat.exists_eq_add_of_le hk
  rw [List.range_add, List.countP_append, List.countP_eq_zero.mpr (by simp), List.countP_eq_length.mpr (by simp)]
  simp

theorem countP_range_lt {n k : Nat} (hk : k ≤ n) : (List.range n).countP (fun i => decide (i < k)) = k := by
  obtain ⟨m, rfl⟩ := Nat.exists_eq_add_of_le hk
  rw [List.range_add, List.countP_append, List.countP_eq_length.mpr (by simp), List.countP_eq_zero.mpr (by simp)]
  simp

/-- The zeros above the highest one stand in the places above the value. -/
theorem leadingZeros_eq_countP {n v : Nat} (hv : v < 2 ^ n) : leadingZeros n v = (List.range n).countP fun i => decide (v < 2 ^ i) := by
  unfold leadingZeros
  split
  case isTrue h => simp [h, List.countP_eq_length.mpr]
  case isFalse h =>
    have hlog : v.log2 + 1 ≤ n := (Nat.log2_lt h).mpr hv
    have hplace : ∀ i, decide (v < 2 ^ i) = decide (v.log2 + 1 ≤ i) := fun i => decide_eq_decide.mpr (Nat.log2_lt h).symm
    simp only [hplace]
    rw [countP_range_ge hlog]
    omega

theorem mod_two_pow_eq_zero {v m : Nat} : v % 2 ^ m = 0 ↔ ∀ j < m, v.testBit j = false := by
  refine ⟨fun h j hj => ?_, fun h => Nat.eq_of_testBit_eq fun j => ?_⟩
  · simpa [hj, h] using (Nat.testBit_mod_two_pow v m j).symm
  · rw [Nat.testBit_mod_two_pow, Nat.zero_testBit]
    simpa using h j

/-- A zero below the lowest one stands where the value ends in zeros. -/
theorem trailingZeros_eq_countP (n v : Nat) : trailingZeros n v = (List.range n).countP fun i => decide (v % 2 ^ (i + 1) = 0) := by
  unfold trailingZeros
  cases hf : (List.range n).find? fun i => v.testBit i with
  | none =>
    simp only [List.find?_eq_none, List.mem_range, Bool.not_eq_true] at hf
    have hall : ∀ i ∈ List.range n, decide (v % 2 ^ (i + 1) = 0) = true := fun i hi =>
      decide_eq_true (mod_two_pow_eq_zero.mpr fun j hj => hf j (by have := List.mem_range.mp hi; omega))
    rw [List.countP_eq_length.mpr hall, List.length_range, Option.getD_none]
  | some k =>
    obtain ⟨hk, hmem, hlow⟩ := List.find?_range_eq_some.mp hf
    have hplace : ∀ i, decide (v % 2 ^ (i + 1) = 0) = decide (i < k) := fun i => decide_eq_decide.mpr (mod_two_pow_eq_zero.trans
      ⟨fun h => by_contra fun hi => by simp [h k (by omega)] at hk, fun hi j hj => by simpa using hlow j (by omega)⟩)
    simp only [hplace]
    rw [countP_range_lt (List.mem_range.mp hmem).le, Option.getD_some]

theorem onesIn_eq_countP (n v : Nat) : onesIn n v = (List.range n).countP fun i => v / 2 ^ i % 2 = 1 := by
  rw [onesIn, List.countP_eq_length_filter]
  simp only [Nat.testBit_eq_decide_div_mod_eq]

/-! ## The bytes in the other order -/

/-- The bytes of a concatenation: the last operand is byte 0, and the others follow. -/
theorem append_byte {n : Nat} (x : BitVec n) (y : BitVec 8) (i : Nat) :
    (x ++ y).toNat / 256 ^ i % 256 = if i = 0 then y.toNat else x.toNat / 256 ^ (i - 1) % 256 := by
  have happ : (x ++ y).toNat = x.toNat * 256 + y.toNat := by
    rw [BitVec.toNat_append, ← Nat.shiftLeft_add_eq_or_of_lt y.isLt, Nat.shiftLeft_eq]
  have hy := y.isLt
  cases i with
  | zero => simp only [happ, pow_zero, if_true]; omega
  | succ i =>
    rw [happ, Nat.pow_succ', ← Nat.div_div_eq_div_mul, if_neg (by omega), Nat.add_sub_cancel]
    congr 2
    omega

theorem reverseBytes_byte (x : Word) {i : Nat} (hi : i < 8) :
    (reverseBytes x).toNat / 2 ^ (8 * i) % 256 = x.toNat / 2 ^ (56 - 8 * i) % 256 := by
  have hbyte : ∀ k, (x.extractLsb' k 8).toNat = x.toNat / 2 ^ k % 256 := fun k => by
    rw [BitVec.extractLsb'_toNat, Nat.shiftRight_eq_div_pow]
  rw [Nat.pow_mul, reverseBytes, show 2 ^ 8 = 256 from rfl, append_byte]
  interval_cases i <;> simp only [append_byte, hbyte, OfNat.ofNat_ne_zero, one_ne_zero, if_true, if_false, Nat.reduceMul, Nat.reduceSub]
  rw [pow_zero, pow_zero, Nat.div_one, Nat.div_one, Nat.mod_mod]

end Sys2Proof.Machine
end

section

open Sys2Proof Sys2Proof.Machine

/-- Settles O5: each form answers its value in d; shifts are products and divisions by a power of two, and counts are of the places of
the bits. -/
theorem immediateForms : Obligations.ImmediateForms := by
  unfold Obligations.ImmediateForms
  refine ⟨?imm, ?shift, ?unary⟩
  case imm =>
    intro f
    suffices h : ∀ e ∈ f, ∀ imm a d (s : State), Gives (e.1 imm a d) s d (e.2 (s.getX a) (s.imm imm)) from fun e he => gives_imm (h e he)
    simp only [f, List.forall_mem_cons, List.not_mem_nil, false_implies, implies_true, and_true]
    refine ⟨?_, ?_, ?_, ?_, ?_, ?_, ?_⟩ <;> intro imm a d s <;> refine gives_of rfl ?_
    all_goals simp only [boolWord_slt, boolWord_ult, sext32_add]
  case shift =>
    rintro sh n a d s x w rfl rfl
    exact ⟨gives_of rfl rfl, gives_of rfl rfl, gives_of rfl (sshiftRight_eq_ofInt _ _), gives_of rfl rfl,
      gives_of rfl (low32_shiftLeft _ _), gives_of rfl rfl, gives_of rfl rfl, gives_of rfl (sext32_sshiftRight _ _), gives_of rfl rfl⟩
  case unary =>
    rintro clz ctz pop a d s x v rfl rfl
    have hlow : (low32 (s.getX a)).toNat = (s.getX a).toNat % 2 ^ 32 := BitVec.toNat_setWidth ..
    refine ⟨gives_of rfl (congrArg toWord (leadingZeros_eq_countP (s.getX a).isLt)), gives_of rfl (congrArg toWord (trailingZeros_eq_countP ..)),
      gives_of rfl (congrArg toWord (onesIn_eq_countP ..)),
      gives_of rfl (congrArg toWord (hlow ▸ leadingZeros_eq_countP (low32 (s.getX a)).isLt)),
      gives_of rfl (congrArg toWord (hlow ▸ trailingZeros_eq_countP ..)), gives_of rfl (congrArg toWord (hlow ▸ onesIn_eq_countP ..)),
      gives_of rfl rfl, gives_of rfl rfl, _, gives_of rfl rfl, fun i hi => reverseBytes_byte _ hi⟩

end

section
/-! SUPPORT. Control transfer (R132): where a jump and a branch go, and what they raise where bit 1 of the target is set. -/

namespace Sys2Proof.Machine

variable {s : State} {t : Word}

theorem aligned_ok (h : t.getLsbD 1 = false) : aligned t = .ok () := by
  rw [aligned, h]
  rfl

theorem aligned_error (h : t.getLsbD 1 = true) : aligned t = .error (.trap (exn 0 t)) := by
  rw [aligned, h]
  rfl

/-- An offset counts halfwords (R23). -/
theorem offset_eq {n : Nat} (o : BitVec n) : offset o = o.signExtend 64 <<< 1 := by
  have h : (o ++ (0 : BitVec 1)).toInt = 2 ^ 1 * o.toInt := BitVec.toInt_append_zero
  rw [offset, BitVec.signExtend, h, BitVec.ofInt_mul, BitVec.mul_comm]
  exact (BitVec.shiftLeft_eq_mul_twoPow (BitVec.ofInt 64 o.toInt) 1).symm

theorem upper_imm (u : BitVec 20) : u ++ (0 : BitVec 12) = u.setWidth 32 <<< 12 := by
  apply BitVec.eq_of_toNat_eq
  rw [BitVec.toNat_append]
  simp [Nat.shiftLeft_eq]
  omega

/-- The target of JALR has bit 0 cleared (R132). -/
theorem clear_bit0 (x : Word) : x &&& ~~~1 = BitVec.ofNat 64 (x.toNat / 2 * 2) := by
  apply BitVec.eq_of_getLsbD_eq
  intro i hi
  rw [BitVec.getLsbD_and, BitVec.getLsbD_not, BitVec.getLsbD_ofNat, show (1 : Word) = 1#64 from rfl, BitVec.getLsbD_one]
  cases i with
  | zero => simp
  | succ i => simp [hi, BitVec.getElem_eq_testBit_toNat, Nat.testBit_succ]

/-- A jump whose target is aligned links and goes there; another links nothing and raises cause 0 (R132). -/
theorem transfer_goes {i : Instr} {d : BitVec 5} (hi : exec i s = s.finish (transfer s d t)) :
    (t.getLsbD 1 = false → Goes i s (s.setX d (s.cx.pc + 4)) t) ∧ (t.getLsbD 1 = true → Traps i s (exn 0 t)) := by
  refine ⟨fun h => ⟨_, by rw [hi, transfer, aligned_ok h]; rfl, State.jump_committed _ _⟩, fun h => ?_⟩
  rw [Traps, hi, transfer, aligned_error h]
  rfl

/-- A branch that is not taken goes on; a taken one goes to its target, or raises cause 0 (R132). -/
theorem branch_goes {i : Instr} {off : BitVec 12} {p : Bool} {c : Prop} (hi : exec i s = s.finish (branch s p off)) (hp : p = true ↔ c) :
    ∀ t, t = s.cx.pc + (off.signExtend 64 <<< 1) → (¬ c → Goes i s s (s.cx.pc + 4)) ∧ (c → t.getLsbD 1 = false → Goes i s s t) ∧
      (c → t.getLsbD 1 = true → Traps i s (exn 0 t)) := by
  rintro t rfl
  rw [← offset_eq off]
  refine ⟨fun h => ⟨_, ?_, State.advance_committed _⟩, fun h ha => ⟨_, ?_, State.jump_committed _ _⟩, fun h ha => ?_⟩
  · rw [hi, branch, if_neg (mt hp.mp h), finish_ok]
  · simp only [hi, branch, hp.mpr h, if_true, aligned_ok ha]
    rfl
  · simp only [Traps, hi, branch, hp.mpr h, if_true, aligned_error ha]
    rfl

end Sys2Proof.Machine
end

section

open Sys2Proof Sys2Proof.Machine

/-- Settles O6: jumps and branches go to an aligned target and raise cause 0 at another. -/
theorem jumpsAndBranches : Obligations.JumpsAndBranches := by
  unfold Obligations.JumpsAndBranches
  refine ⟨?jump, ?branch⟩
  case jump =>
    rintro u imm a d s up t r rfl rfl rfl
    rw [← offset_eq u, ← upper_imm, ← clear_bit0]
    obtain ⟨hjal, hjal'⟩ := transfer_goes (i := .jal u d) (s := s) rfl
    obtain ⟨hjalr, hjalr'⟩ := transfer_goes (i := .jalr imm a d) (s := s) rfl
    exact ⟨gives_of rfl rfl, gives_of rfl rfl, hjal, hjal', hjalr, hjalr'⟩
  case branch =>
    simp only [List.forall_mem_cons, List.not_mem_nil, false_implies, implies_true, and_true]
    refine ⟨?_, ?_, ?_, ?_, ?_, ?_⟩ <;> intro b a off s <;> refine branch_goes rfl ?_
    all_goals simp [BitVec.slt, BitVec.ult]

end

section
/-! SUPPORT. Alignment (R140): what each kind of scalar access raises before its address is translated. -/

namespace Sys2Proof.Machine

variable {s : State} {n : Nat} {va : Word}

theorem check_misaligned (h : va.toNat % n ≠ 0) (e : Exn) : check (decide (va.toNat % n = 0)) e = .error (.trap e) := by
  rw [decide_eq_false h, check_false]

theorem loadInto_misaligned {o : Order} {signed : Bool} {d : BitVec 5} (h : va.toNat % n ≠ 0) :
    loadInto s o va n signed d = .error (.trap (exn 4 va)) := by
  rw [loadInto, check_misaligned h]
  rfl

theorem storeFrom_misaligned {o : Order} {v : Word} (h : va.toNat % n ≠ 0) : storeFrom s o va n v = .error (.trap (exn 6 va)) := by
  rw [storeFrom, check_misaligned h]
  rfl

theorem load_traps {i : Instr} {imm : BitVec 12} {a d : BitVec 5} {signed : Bool} (hi : exec i s = s.finish (scalarLoad s imm a d n signed))
    (hw : s.cx.waitMet s.cx.waitHint 0 = true) (h : (s.getX a + s.imm imm).toNat % n ≠ 0) : Traps i s (exn 4 (s.getX a + s.imm imm)) := by
  rw [Traps, hi, scalarLoad, hw, loadInto_misaligned h]
  rfl

theorem store_traps {i : Instr} {imm : BitVec 12} {a b : BitVec 5} (hi : exec i s = s.finish (scalarStore s b a imm n))
    (hw : s.cx.waitMet s.cx.waitHint 0 = true) (h : (s.getX a + s.imm imm).toNat % n ≠ 0) : Traps i s (exn 6 (s.getX a + s.imm imm)) := by
  rw [Traps, hi, scalarStore, hw, storeFrom_misaligned h]
  rfl

theorem amo_traps {i : Instr} {aq rl z : BitVec 1} {a b d : BitVec 5} {op : Nat → Nat → Nat → Nat}
    (hi : exec i s = s.finish (amo s aq rl z b a d op)) (h : (s.getX a).toNat % amoBytes z ≠ 0) : Traps i s (exn 6 (s.getX a)) := by
  simp only [Traps, hi, amo, check_misaligned h]
  rfl

theorem lr_traps {aq rl z : BitVec 1} {a d : BitVec 5} (h : (s.getX a).toNat % amoBytes z ≠ 0) :
    Traps (.lr aq rl a z d) s (exn 4 (s.getX a)) := by
  change execLr aq rl a z d s = _
  simp only [execLr, check_misaligned h]
  rfl

theorem sc_traps {aq rl z : BitVec 1} {a b d : BitVec 5} (h : (s.getX a).toNat % amoBytes z ≠ 0) :
    Traps (.sc aq rl b a z d) s (exn 6 (s.getX a)) := by
  change execSc aq rl b a z d s = _
  simp only [execSc, check_misaligned h]
  rfl

end Sys2Proof.Machine
end

section

open Sys2Proof Sys2Proof.Machine

/-- Settles O7: each access checks its address before anything else but the wait of its hint. -/
theorem misalignedAccesses : Obligations.MisalignedAccesses := by
  unfold Obligations.MisalignedAccesses
  intro ls ss rs s aq rl z b a d imm va
  refine ⟨?hinted, ?atomic⟩
  case hinted =>
    rintro hw rfl
    simp only [ls, ss, List.forall_mem_cons, List.not_mem_nil, false_implies, implies_true, and_true]
    exact ⟨⟨load_traps rfl hw, load_traps rfl hw, load_traps rfl hw, load_traps rfl hw, load_traps rfl hw, load_traps rfl hw, load_traps rfl hw⟩,
      store_traps rfl hw, store_traps rfl hw, store_traps rfl hw, store_traps rfl hw⟩
  case atomic =>
    rintro rfl h
    refine ⟨lr_traps h, ?_⟩
    simp only [rs, List.forall_mem_cons, List.not_mem_nil, false_implies, implies_true, and_true]
    exact ⟨sc_traps h, amo_traps rfl h, amo_traps rfl h, amo_traps rfl h, amo_traps rfl h, amo_traps rfl h, amo_traps rfl h, amo_traps rfl h,
      amo_traps rfl h, amo_traps rfl h⟩

end

section
/-! SUPPORT. Calls (R149, R361): what taking an exception leaves in the trap CSRs of the level it goes to. -/

namespace Sys2Proof.Machine

variable {s : State}

/-- Registers written one after the other change of their context its marks alone. -/
theorem gather_marks (base : Nat) (l : List Nat) (s : State) :
    (l.foldl (fun s i => s.store (base + 8 * i) 8 (s.cx.getX (BitVec.ofNat 5 i)).toNat) s).cx.sansMarks = s.cx.sansMarks := by
  induction l generalizing s with
  | nil => rfl
  | cons i l ih => exact ih _

theorem gatherX_marks (s : State) : s.gatherX.cx.sansMarks = { s.cx.sansMarks with dirty := 0 } :=
  congrArg (fun c : Ctx => { c with dirty := 0 }) (gather_marks (s.cx.workspace s.cx.level) (List.range' 1 31) s)

/-- The precise point rests on the program counter and a pending hint alone (R30). -/
theorem precise_congr {c d : Ctx} (hpc : c.pc = d.pc) (hh : c.hint = d.hint) : c.precise = d.precise := by
  rw [Ctx.precise, Ctx.precise, hpc, hh]

/-- The state in which a composition has ended, over one in which the registers are gathered (R201, R202). -/
def State.dissolved (s g : State) (last : Nat) : State :=
  let t := g.invalidateAll s.cx.members
  { t with cx := { t.cx.gatherLog with comp := { t.cx.comp with n := 1, last := last, due := none } } }

theorem dissolve_composed {last : Nat} (h : ¬ s.cx.comp.n ≤ 1) : s.dissolve last = s.dissolved s.gatherX last := if_neg h

theorem dissolved_precise {g : State} {last : Nat} (hg : g.cx.sansMarks = { s.cx.sansMarks with dirty := 0 }) :
    (s.dissolved g last).cx.precise = s.cx.precise :=
  precise_congr (congrArg Ctx.pc hg :) (congrArg Ctx.hint hg :)

/-- A composition that ends leaves the precise point where it is (R30, R202). -/
theorem dissolve_precise (s : State) (last : Nat) : (s.dissolve last).cx.precise = s.cx.precise := by
  by_cases h : s.cx.comp.n ≤ 1
  · rw [dissolve_lone h]
  · rw [dissolve_composed h, dissolved_precise (gatherX_marks s)]

theorem toLevel_level (s : State) (l : Level) : (s.toLevel l).cx.level = l := by
  unfold State.toLevel
  split
  case isTrue h => exact h.symm
  case isFalse => exact loadX_level

theorem setTr_level (c : Ctx) (l : Level) (r : TrapRegs) : (c.setTr l r).level = c.level := by
  cases l <;> rfl

theorem tr_setTr (c : Ctx) (l : Level) (r : TrapRegs) : (c.setTr l r).tr l = r := by
  cases l <;> rfl

/-- The trap CSRs of the level that a trap is taken to (R361). -/
theorem takeTrap_tr (s : State) (l : Level) (code : Nat) (int : Bool) (val val2 : Word) :
    ∃ r, (s.takeTrap l code int val val2).cx.tr (s.takeTrap l code int val val2).cx.level = r ∧
      r.epc = s.cx.precise ∧ r.val = val ∧ r.cause = causeWord code int := by
  unfold State.takeTrap
  dsimp only
  rw [dissolve_precise]
  generalize (s.dissolve 2).cx.level = run
  have hu := toLevel_level (s.dissolve 2) l
  generalize (s.dissolve 2).toLevel l = u at hu ⊢
  refine ⟨(u.cx.tr l).enter s.cx.precise code int val val2 run, ?_, rfl, rfl, rfl⟩
  generalize (u.cx.tr l).enter s.cx.precise code int val val2 run = r
  change (u.cx.setTr l r).tr (u.cx.setTr l r).level = r
  rw [setTr_level, hu, tr_setTr]

/-- An instruction that raises outside the first instruction of a handler reports its own address (R30, R361). -/
theorem raise_tr {i : Instr} {e : Exn} (hi : Traps i s e) (hf : s.cx.first = none) (hh : s.cx.hint = none) :
    ∃ t r, exec i s = .next t ∧ r = t.cx.tr t.cx.level ∧ r.epc = s.cx.pc ∧ r.val = e.val ∧ r.cause = causeWord e.cause false := by
  obtain ⟨r, hr, hepc, hval, hcause⟩ := takeTrap_tr s (s.cx.route e.cause false e.floor) e.cause false e.val e.val2
  have hpc : s.cx.precise = s.cx.pc := by rw [Ctx.precise, hh]
  have hraise : s.raise e = s.takeTrap (s.cx.route e.cause false e.floor) e.cause false e.val e.val2 := by rw [State.raise, hf]
  exact ⟨_, r, hi.trans (congrArg _ hraise), hr.symm, hepc.trans hpc, hval, hcause⟩

/-- ECALL at a level (R149). -/
theorem ecall_traps {l : Level} (h : s.cx.level = l) : Traps .ecall s ⟨8 + l.rank, 0, 0, levelOf (l.rank + 1)⟩ := by
  subst h
  rfl

end Sys2Proof.Machine
end

section

open Sys2Proof Sys2Proof.Machine

/-- Settles O27: each call is the exception of its level, and taking it is what leaves Lepc, Lval and Lcause. -/
theorem calls : Obligations.Calls := by
  unfold Obligations.Calls
  refine ⟨decodeEncode.1 .ecall _ rfl rfl, decodeEncode.1 .ebreak _ rfl rfl, fun s => ⟨rfl, ecall_traps, ecall_traps, ecall_traps, ecall_traps, fun hf hh => ⟨?ebreak, ?ecall⟩⟩⟩
  case ebreak => exact raise_tr (e := exn 3 s.cx.pc) rfl hf hh
  case ecall =>
    obtain ⟨t, r, ht, hr, hepc, hval, hcause⟩ := raise_tr (ecall_traps (s := s) rfl) hf hh
    refine ⟨t, r, ht, hr, hepc, hval, ?_⟩
    rw [hcause]
    cases s.cx.level <;> rfl

end

section
/-! SUPPORT. Scalar loads (R136, R140, R141, R209, R210): what a load leaves alone, what a weak one answers, and the line that it takes into the
first-level cache. -/

namespace Sys2Proof.Machine

variable {s u w : State} {t : Target} {va : Word} {n : Nat} {o : Order}

/-! ## What an access leaves alone -/

/-- An acquire drops first-level copies and loads performed early (R209, R342). -/
theorem acquire_traffic (s : State) (scope : Nat) : (s.acquire scope).sansMem.sansTraffic = s.sansMem.sansTraffic := by
  unfold State.acquire
  split <;> rfl

theorem heed_traffic (s : State) (t : Target) (n : Nat) : (s.heed t n).sansMem.sansTraffic = s.sansMem.sansTraffic := rfl

/-- What an access under an order leaves behind where the order acquires (R210, R342, R346). -/
theorem heedIf_traffic (s : State) (o : Order) (t : Target) (n : Nat) :
    (if o.acq then (s.heed t n).acquire o.scope else s).sansMem.sansTraffic = s.sansMem.sansTraffic := by
  split
  · exact (acquire_traffic (s.heed t n) o.scope).trans (heed_traffic s t n)
  · rfl

theorem fillLine_sansMem (s : State) (h place : Nat) : (s.fillLine h place).sansMem = s.sansMem := by
  unfold State.fillLine
  split <;> rfl

theorem fillLine_mem (s : State) (h place : Nat) : (s.fillLine h place).mem = s.mem := by
  unfold State.fillLine
  split <;> rfl

theorem countedTrip_traffic (s : State) (src dst : Nat) (k : Key) :
    ((s.trip src dst).countSlice k).sansMem.sansTraffic = s.sansMem.sansTraffic :=
  (congrArg State.sansTraffic (countSlice_sansMem ..)).trans (trip_sansMem ..)

theorem passLoad_traffic (s : State) (strong : Bool) (site a n : Nat) :
    (s.mapCx fun c => c.passLoad strong site a n).sansMem.sansTraffic = s.sansMem.sansTraffic := rfl

/-- The state in which a weak load that no copy serves has taken its line (R209). -/
def State.tookLine (s : State) (t : Target) (va : Word) : State :=
  ((s.trip (s.cx.bankSite va) t.site).countSlice s.cx.key).fillLine (s.cx.bankSite va) t.pa

theorem tookLine_traffic (s : State) (t : Target) (va : Word) : (s.tookLine t va).sansMem.sansTraffic = s.sansMem.sansTraffic :=
  (congrArg State.sansTraffic (fillLine_sansMem ..)).trans (countedTrip_traffic ..)

theorem loadWeak_traffic (s : State) (t : Target) (va : Word) (n w : Nat) :
    (s.loadWeak t va n w).2.sansMem.sansTraffic = s.sansMem.sansTraffic := by
  simp only [State.loadWeak]
  split
  · rfl
  · split
    · split
      · rfl
      · exact (passLoad_traffic (s.tookLine t va) ..).trans (tookLine_traffic ..)
    · exact (passLoad_traffic (s.trip (s.cx.bankSite va) t.site) ..).trans (trip_sansMem ..)

theorem loadOrd_traffic (s : State) (o : Order) (t : Target) (va : Word) (n w : Nat) :
    (s.loadOrd o t va n w).2.sansMem.sansTraffic = s.sansMem.sansTraffic := by
  unfold State.loadOrd
  split
  · exact (heedIf_traffic ..).trans loadStrong_sansMem
  · exact loadWeak_traffic ..

/-- A load shows in nothing but first-level copies, counts and what its packets leave (R209, R309, R380). -/
theorem loadAt_traffic (s : State) (o : Order) (t : Target) (va : Word) (n w : Nat) :
    (s.loadAt o t va n w).2.sansMem.sansTraffic = s.sansMem.sansTraffic := by
  unfold State.loadAt
  split
  · dsimp only
    split
    · exact acquire_traffic ..
    · rfl
  · exact loadOrd_traffic ..

/-! ## The value in its register (R136) -/

theorem ofNat_mod_width (w b : Nat) : BitVec.ofNat w (b % 2 ^ w) = BitVec.ofNat w b := BitVec.eq_of_toNat_eq (by simp)

/-- A pattern's signed reading (R43). -/
theorem bitsInt_signed (w b : Nat) : bitsInt w false b = (BitVec.ofNat w b).toInt := by
  cases w with
  | zero => simp [bitsInt, BitVec.of_length_zero, Nat.mod_one]
  | succ w =>
    have h := bitsInt_eq (w := w + 1) (Nat.succ_pos w) (Nat.mod_lt b (Nat.two_pow_pos _)) 0
    rw [show BitVec.ofNat (w + 1) (b % 2 ^ (w + 1)) = BitVec.ofNat (w + 1) b from ofNat_mod_width ..] at h
    simpa [bitsInt] using h

theorem extend_eq (n : Nat) (signed : Bool) (v : Nat) :
    extend n signed v = if signed then (BitVec.ofNat (8 * n) v).signExtend 64 else (BitVec.ofNat (8 * n) v).setWidth 64 := by
  unfold extend
  split
  · rw [bitsInt_signed, ofNat_mod_width, BitVec.signExtend]
  · apply BitVec.eq_of_toNat_eq
    simp [toWord]

/-- A load whose place is reached, and which may be performed, completes over the state that it leaves (R136, R140). -/
theorem load_completes {i : Instr} {imm : BitVec 12} {a d : BitVec 5} {signed : Bool} {v : Nat} {u : State}
    (hi : exec i s = s.finish (scalarLoad s imm a d n signed)) (hw : s.cx.waitMet s.cx.waitHint 0 = true)
    (hva : va = s.getX a + s.imm imm) (hal : va.toNat % n = 0)
    (ht : s.reach .load va n = .ok t) (hm : s.mayLoad s.cx.scopeOf t va n n = .ok ()) (hl : s.loadAt s.cx.scopeOf t va n n = (v, u)) :
    Completes i s (u.setX d (extend n signed v)) false := by
  have hpc : u.cx.pc = s.cx.pc := by
    have h := loadAt_traffic s s.cx.scopeOf t va n n
    rw [hl] at h
    exact (cx_eq_of_traffic h).1
  have hexec : exec i s = .next (u.result d (extend n signed v)) := by
    simp only [hi, scalarLoad, hw, ← hva, loadInto, hal, ht, hm, hl, decide_true, check_true, waitUntil_true, bind, Except.bind]
    rfl
  refine ⟨_, hexec, ?_⟩
  have := (u.setX d (extend n signed v)).advance_committed
  rwa [State.setX_cx, Ctx.setX_pc, hpc] at this

/-! ## What a weak load answers (R209) -/

theorem passLoad_of_no_early {c : Ctx} (h : c.early = []) (strong : Bool) (site a n : Nat) : c.passLoad strong site a n = c := by
  cases c
  simp_all [Ctx.passLoad]

/-- With no load performed early, a load that goes to its own pool reads its place and leaves the state as it is. -/
theorem loadWeak_local (he : s.cx.early = []) (hn : 0 < n) (hk : t.kind = .localWin) : s.loadWeak t va n n = (memRead s.mem t.pa n, s) := by
  simp only [State.loadWeak, hk, if_true, see_place hn he, State.mapCx, passLoad_of_no_early he]

theorem loadAt_weak (h : isMmio t.pa = false) : s.loadAt .weak t va n n = s.loadWeak t va n n := by
  simp [State.loadAt, h, State.loadOrd, Order.weak]

/-- A line of normal type that first-level caches may hold (R209). -/
def Target.cacheable (t : Target) : Bool := t.kind = .glob && t.mt = 0 && !isPeer t.pa

theorem cacheable_iff : t.cacheable = true ↔ t.kind = .glob ∧ t.mt = 0 ∧ isPeer t.pa = false := by
  simp [Target.cacheable, and_assoc]

theorem earlyValue_none (he : s.cx.early = []) (strong : Bool) (site a : Nat) : s.cx.earlyValue strong site a n = none := by
  simp [Ctx.earlyValue, he]

theorem loadWeak_hit {l : L1Line} (he : s.cx.early = []) (hc : t.cacheable = true)
    (hl : s.copyOf (s.cx.bankSite va) (lineOf t.pa) = some l) : s.loadWeak t va n n = (l.read t.pa n, s) := by
  obtain ⟨hk, hmt, hp⟩ := cacheable_iff.mp hc
  simp [State.loadWeak, hk, hmt, hp, hl, earlyValue_none he, State.mapCx, passLoad_of_no_early he]

theorem tookLine_mem : (s.tookLine t va).mem = s.mem := fillLine_mem ..

/-- The line taken is that of the home (R209). -/
theorem tookLine_copyOf (hl : s.copyOf (s.cx.bankSite va) (lineOf t.pa) = none) :
    ∃ l, (s.tookLine t va).copyOf (s.cx.bankSite va) (lineOf t.pa) = some l ∧
      l.bytes = BitVec.ofNat 1024 (memRead s.mem (t.pa / 128 * 128) 128) := by
  have hnone : ((s.trip (s.cx.bankSite va) t.site).countSlice s.cx.key).copyOf (s.cx.bankSite va) (lineOf t.pa) = none := hl
  refine ⟨⟨s.cx.bankSite va, lineOf t.pa, _⟩, ?_, rfl⟩
  simp only [State.tookLine, State.fillLine, hnone]
  exact find_addBounded hnone (by simp)

theorem trip_early (he : s.cx.early = []) (hk : t.kind ≠ .localWin) : (s.trip (s.cx.bankSite va) t.site).cx.early = [] := by
  have h := strongTrip_early (t := t) (va := va) he
  rwa [State.strongTrip, if_neg hk] at h

theorem countSlice_early (s : State) (k : Key) : (s.countSlice k).cx.early = s.cx.early :=
  (congrArg (fun w : State => w.cx.early) (countSlice_sansMem s k) :)

theorem loadWeak_miss (he : s.cx.early = []) (hn : 0 < n) (hc : t.cacheable = true)
    (hl : s.copyOf (s.cx.bankSite va) (lineOf t.pa) = none) :
    s.loadWeak t va n n = (memRead s.mem t.pa n, (s.tookLine t va).mapCx fun c => c.passLoad false t.site (physOf t.pa) n) := by
  obtain ⟨hk, hmt, hp⟩ := cacheable_iff.mp hc
  have hearly : ((s.trip (s.cx.bankSite va) t.site).countSlice s.cx.key).cx.early = [] :=
    (countSlice_early ..).trans (trip_early he (by simp [hk]))
  have hsee := see_place (strong := false) (site := t.site) (a := t.pa) hn hearly
  simp only [State.loadWeak, hk, hmt, hp, hl, reduceCtorEq, if_false, decide_true, Bool.not_false, Bool.and_self, if_true, hsee]
  rfl

theorem loadWeak_uncached (he : s.cx.early = []) (hn : 0 < n) (hk : t.kind ≠ .localWin) (hc : t.cacheable = false) :
    s.loadWeak t va n n =
      (memRead s.mem t.pa n, (s.trip (s.cx.bankSite va) t.site).mapCx fun c => c.passLoad false t.site (physOf t.pa) n) := by
  have hsee := see_place (strong := false) (site := t.site) (a := t.pa) hn (trip_early (va := va) he hk)
  rw [Target.cacheable] at hc
  simp only [State.loadWeak, hk, if_false, hc, hsee, Bool.false_eq_true]
  rfl

/-- A weak load that no copy serves reads its place, leaves all but its traffic as it is, and takes the line where it may be held. -/
theorem loadWeak_place (he : s.cx.early = []) (hn : 0 < n) (hk : t.kind ≠ .localWin)
    (hl : t.cacheable = true → s.copyOf (s.cx.bankSite va) (lineOf t.pa) = none) :
    ∃ u, s.loadWeak t va n n = (memRead s.mem t.pa n, u) ∧ u.mem = s.mem ∧ (t.cacheable = true →
      ∃ l, u.copyOf (s.cx.bankSite va) (lineOf t.pa) = some l ∧ l.bytes = BitVec.ofNat 1024 (memRead s.mem (t.pa / 128 * 128) 128)) := by
  cases hc : t.cacheable with
  | true =>
    obtain ⟨l, hcopy, hbytes⟩ := tookLine_copyOf (hl hc)
    exact ⟨_, loadWeak_miss he hn hc (hl hc), tookLine_mem, fun _ => ⟨l, hcopy, hbytes⟩⟩
  | false => exact ⟨_, loadWeak_uncached he hn hk hc, rfl, nofun⟩

end Sys2Proof.Machine
end

section

open Sys2Proof Sys2Proof.Machine

/-- Settles O8: a load that may be performed completes over the state it leaves, and where nothing was performed early a weak one answers the
bytes of the copy that serves it, or those of its place. -/
theorem scalarLoads : Obligations.ScalarLoads := by
  unfold Obligations.ScalarLoads
  refine ⟨?load, ?weak⟩
  case load =>
    intro f
    suffices h : ∀ e ∈ f, ∀ imm a d (s : State), exec (e.1 imm a d) s = s.finish (scalarLoad s imm a d e.2.1 e.2.2) by
      rintro e he imm a d s va rfl hw
      refine ⟨fun hal => load_traps (h e he imm a d s) hw hal, fun hal t ht hm v u hl => ?_⟩
      rw [← extend_eq]
      exact load_completes (h e he imm a d s) hw rfl hal ht hm hl
    simp only [f, List.forall_mem_cons, List.not_mem_nil, false_implies, implies_true, and_true]
    exact ⟨fun _ _ _ _ => rfl, fun _ _ _ _ => rfl, fun _ _ _ _ => rfl, fun _ _ _ _ => rfl, fun _ _ _ _ => rfl, fun _ _ _ _ => rfl,
      fun _ _ _ _ => rfl⟩
  case weak =>
    rintro s t va n h he hmmio hn rfl
    rw [loadAt_weak hmmio]
    refine ⟨loadWeak_local he hn, fun l hk hmt hp hl => loadWeak_hit he (cacheable_iff.mpr ⟨hk, hmt, hp⟩) hl, fun hk hl v u hload => ?_⟩
    obtain ⟨u', hu, hmem, hline⟩ := loadWeak_place he hn hk fun hc => by
      obtain ⟨hk, hmt, hp⟩ := cacheable_iff.mp hc
      exact hl hk hmt hp
    have htraffic := loadWeak_traffic s t va n n
    rw [hload] at hu htraffic
    obtain ⟨rfl, rfl⟩ := Prod.mk.inj hu
    exact ⟨rfl, hmem, htraffic, fun hk hmt hp => hline (cacheable_iff.mpr ⟨hk, hmt, hp⟩)⟩

end

section
/-! SUPPORT. Scalar stores (R136, R140, R208, R213): at once in the local window and at device type, as an entry of the operand log elsewhere. -/

namespace Sys2Proof.Machine

variable {s g : State} {t : Target} {va : Word} {n bank : Nat} {o : Order}

/-! ## A scalar is one part (R339) -/

theorem eraseDups_alike {l : List Nat} {a : Nat} (h : ∀ x ∈ l, x = a) : l.eraseDups.length ≤ 1 := by
  cases l with
  | nil => simp
  | cons y l =>
    have hnone : (l.filter fun x => !x == y) = [] := List.filter_eq_nil_iff.mpr fun x hx => by
      simp [h x (List.mem_cons_of_mem _ hx), h y List.mem_cons_self]
    rw [List.eraseDups_cons, hnone]
    simp

theorem partsOf_scalar (n v : Nat) : (partsOf (valueCells n v) n).length ≤ 1 := by
  rw [partsOf, List.length_map]
  refine eraseDups_alike (a := 0) fun x hx => ?_
  simp only [valueCells, List.map_map, List.mem_map, List.mem_range, Function.comp_apply] at hx
  obtain ⟨i, hi, rfl⟩ := hx
  exact Nat.div_eq_of_lt hi

/-- A scalar is written whole, whatever the schedule does to writes of several parts. -/
theorem writeParts_scalar (s : State) (kind : PostKind) (agent : Key) (pa n v : Nat) :
    s.writeParts kind agent pa (valueCells n v) n = s.storeCells pa (valueCells n v) := by
  have h : ¬ 1 < (partsOf (valueCells n v) n).length := by have := partsOf_scalar n v; omega
  simp [State.writeParts, h]

/-! ## At once (R208) -/

theorem beforeLocal_open {a : Nat} (h : s.localOpen a n = true) : s.beforeLocal a n = .ok (s.mapCx Ctx.settleLoads) := by
  rw [State.beforeLocal, State.ownPool, if_pos h]
  rfl

/-- A strong write leaves nothing at its issue but its mark (R342). -/
theorem mark_marks (s : State) (o : Order) (t : Target) (n : Nat) : ∃ ms, s.mark o t n = { s with marks := ms } := by
  unfold State.mark
  dsimp only
  split
  · exact ⟨s.marks, rfl⟩
  · exact ⟨_, rfl⟩

/-- Memory, and all but first-level copies, marks and traffic, are the same. -/
structure State.Agrees (s g : State) : Prop where
  mem : g.mem = s.mem
  l1 : g.l1 = s.l1
  rest : g.sansMem.sansTraffic = s.sansMem.sansTraffic

theorem mark_agrees (s : State) (o : Order) (t : Target) (n : Nat) : s.Agrees (s.mark o t n) := by
  obtain ⟨ms, h⟩ := mark_marks s o t n
  rw [h]
  exact ⟨rfl, rfl, rfl⟩

theorem settleLoads_agrees (s : State) : s.Agrees (s.mapCx Ctx.settleLoads) := ⟨rfl, rfl, rfl⟩

theorem State.Agrees.trans {u : State} (h : s.Agrees g) (h' : g.Agrees u) : s.Agrees u :=
  ⟨h'.mem.trans h.mem, h'.l1.trans h.l1, h'.rest.trans h.rest⟩

/-- Where a store is performed at once its cells are written over a state that agrees with the one before. -/
theorem put_here {v : Nat} {data : BitVec 1024} (hk : t.kind = .localWin ∨ t.kind = .device) (hm : isMmio t.pa = false)
    (ho : s.localOpen t.pa n = true) :
    ∃ g, s.put o bank t va n data (valueCells n v) n = .ok (g.storeCells t.pa (valueCells n v)) ∧ s.Agrees g := by
  have hb := beforeLocal_open ho
  rcases hk with hk | hk
  · refine ⟨(s.mapCx Ctx.settleLoads).mark o t n, ?_, (settleLoads_agrees s).trans (mark_agrees ..)⟩
    simp only [State.put, hm, State.storeAt, hk, hb, Except.map, writeParts_scalar]
    rfl
  · refine ⟨s.mapCx Ctx.settleLoads, ?_, settleLoads_agrees s⟩
    simp only [State.put, hm, State.storeAt, hk, hb, Except.map]
    rfl

/-- A commit over states that agree but for traffic. -/
theorem advance_traffic {u w : State} (h : u.sansMem.sansTraffic = w.sansMem.sansTraffic) :
    u.advance.sansCommit.sansMem.sansTraffic = w.sansCommit.sansMem.sansTraffic := (congrArg State.sansCommit h :)

/-- What a scalar store leaves once its cells are written over a state that agrees with the one before. -/
theorem stored_leaves (hs : Safe s) (hg : s.Agrees g) (pa n v : Nat) :
    let u := (g.storeCells pa (valueCells n v)).advance
    u.cx.pc = s.cx.pc + 4 ∧ memRead u.mem pa n = v % 256 ^ n ∧ MemSameBut s u pa n ∧ u.l1 = s.l1 ∧
      u.sansCommit.sansMem.sansTraffic = s.sansCommit.sansMem.sansTraffic := by
  have hrest : (g.storeCells pa (valueCells n v)).sansMem.sansTraffic = s.sansMem.sansTraffic := by
    rw [storeCells_sansMem, hg.rest]
  have hmem : (g.storeCells pa (valueCells n v)).mem = (s.store pa n v).mem := by
    rw [storeCells_value, hg.mem, State.store_mem]
  obtain ⟨hread, hsame⟩ := store_reads_back (u := (g.storeCells pa (valueCells n v)).advance) hs hmem
  exact ⟨congrArg (· + 4) (cx_eq_of_traffic hrest).1, hread, hsame, (storeCells_l1 ..).trans hg.l1, advance_traffic hrest⟩

/-- A store whose target is reached and which may go out does what `put` does, and commits (R140). -/
theorem exec_store {i : Instr} {a b : BitVec 5} {imm : BitVec 12} {u : State} (hi : exec i s = s.finish (scalarStore s b a imm n))
    (hw : s.cx.waitMet s.cx.waitHint 0 = true) (hva : va = s.getX a + s.imm imm) (hal : va.toNat % n = 0)
    (ht : s.storeTarget va n s.cx.tileco = .ok t) (hissue : s.mayIssue s.cx.scopeOf t va = true)
    (hput : s.put s.cx.scopeOf (s.cx.bankSite va) t va n ((s.getX b).setWidth 1024) (valueCells n (s.getX b).toNat) n = .ok u) :
    exec i s = .next u.advance := by
  simp only [hi, scalarStore, hw, ← hva, storeFrom, hal, ht, hissue, hput, decide_true, check_true, waitUntil_true, bind, Except.bind]
  rfl

/-! ## Posted (R213) -/

theorem mark_freeIdx (s : State) (o : Order) (t : Target) (n src : Nat) : (s.mark o t n).freeIdx src = s.freeIdx src := by
  obtain ⟨ms, h⟩ := mark_marks s o t n
  rw [h]
  rfl

/-- The free index that is found is the lowest one (R213). -/
theorem freeIdx_lowest {src k : Nat} (h : s.freeIdx src = some k) : s.lowestFree src k := by
  obtain ⟨hfree, hk, hlow⟩ := List.find?_range_eq_some.mp h
  refine ⟨List.mem_range.mp hk, fun c hc e he hin => ?_, fun j hj => ?_⟩
  · have := List.all_eq_true.mp (List.all_eq_true.mp hfree c hc) e he
    simpa [hin] using this
  · simpa [and_assoc] using hlow j hj

/-- The entry of a posted scalar store as it stands in the log. -/
def State.storeEntry (s : State) (o : Order) (bank : Nat) (t : Target) (va : Word) (n : Nat) (v : Word) (k : Nat) : OpEntry :=
  ⟨k, va, .store, 0, n, BitVec.ofNat 2 (if o.strong || o.rel then o.scope else 0), o.strong || o.rel, v.setWidth 1024, valueCells n v.toNat, n,
    t.pa, t.site, t.countClass s.cx.key.h, .sent, s.cx.level, bank, s.order, 0, o.rel, false⟩

/-- What a posted store does to its core as it leaves: the thread's copies show it, and the loads performed early that it meets are forgotten
(R209, R345). -/
def State.shown (s : State) (t : Target) (n : Nat) (cells : List Host.Cell) : State :=
  (if t.kind = .glob then s.updateCopy t.pa cells else s).mapCx fun c => c.forget (physOf t.pa) n

theorem shown_traffic (s : State) (t : Target) (n : Nat) (cells : List Host.Cell) :
    (s.shown t n cells).sansMem.sansTraffic = s.sansMem.sansTraffic := by
  unfold State.shown
  split <;> rfl

theorem shown_mem (s : State) (t : Target) (n : Nat) (cells : List Host.Cell) : (s.shown t n cells).mem = s.mem := by
  unfold State.shown
  split <;> rfl

/-- The state in which a posted store has left. -/
def State.storedAway (s : State) (o : Order) (bank : Nat) (t : Target) (n : Nat) (x : OpEntry) : State :=
  ((s.mark o t n).logged bank x).shown t n x.cells

theorem mark_entry (s : State) (o : Order) (t : Target) (n : Nat) :
    (s.mark o t n).cx = s.cx ∧ (s.mark o t n).order = s.order := by
  obtain ⟨ms, h⟩ := mark_marks s o t n
  rw [h]
  exact ⟨rfl, rfl⟩

theorem put_away {v : Word} {k : Nat} (hk : t.kind = .siteWin ∨ t.kind = .glob) (hm : isMmio t.pa = false) (hj : s.freeIdx bank = some k) :
    s.put o bank t va n (v.setWidth 1024) (valueCells n v.toNat) n = .ok (s.storedAway o bank t n (s.storeEntry o bank t va n v k)) := by
  obtain ⟨hcx, hord⟩ := mark_entry s o t n
  have hpost := fun f => post_ok (f := f) ((mark_freeIdx s o t n bank).trans hj)
  rcases hk with hk | hk <;>
  · simp only [State.put, hm, State.storeAt, hk, hpost, hcx, hord, State.storedAway, State.shown]
    rfl

theorem storedAway_traffic (s : State) (o : Order) (bank : Nat) (t : Target) (n : Nat) (x : OpEntry) :
    (s.storedAway o bank t n x).sansMem.sansTraffic = (s.withEntry x).sansMem.sansTraffic := calc
  _ = ((s.mark o t n).logged bank x).sansMem.sansTraffic := shown_traffic ..
  _ = ((s.mark o t n).withEntry x).sansMem.sansTraffic := logged_sansMem ..
  _ = (s.withEntry x).sansMem.sansTraffic := congrArg (fun w : State => w.withEntry x) (mark_agrees s o t n).rest

theorem storedAway_mem (s : State) (o : Order) (bank : Nat) (t : Target) (n : Nat) (x : OpEntry) : (s.storedAway o bank t n x).mem = s.mem :=
  (shown_mem ..).trans (mark_agrees s o t n).mem

theorem valueCells_eq (n v : Nat) : valueCells n v = (List.range n).map fun i => (i, BitVec.ofNat 8 (v / 256 ^ i)) := by
  refine List.map_congr_left fun i _ => ?_
  rw [Nat.shiftRight_eq_div_pow, Nat.pow_mul]

/-- What a posted store leaves: its entry at the end of the log, and nothing else but its traffic (R213). -/
theorem storedAway_leaves (s : State) (o : Order) (bank : Nat) (t : Target) (n : Nat) (x : OpEntry) :
    let u := (s.storedAway o bank t n x).advance
    u.cx.pc = s.cx.pc + 4 ∧ u.mem = s.mem ∧ u.cx.log = s.cx.log ++ [x] ∧
      u.sansCommit.sansLog.sansMem.sansTraffic = s.sansCommit.sansLog.sansMem.sansTraffic := by
  have h := storedAway_traffic s o bank t n x
  obtain ⟨hpc, hlog, -⟩ := cx_eq_of_traffic h
  exact ⟨congrArg (· + 4) hpc, storedAway_mem .., hlog, (congrArg (fun w : State => w.sansCommit.sansLog) h :)⟩

end Sys2Proof.Machine
end

section

open Sys2Proof Sys2Proof.Machine

/-- Settles O9: a store that may go out writes its bytes at once where it is not posted, and enters the log of its core where it is. -/
theorem scalarStores : Obligations.ScalarStores := by
  have hexec : ∀ e ∈ [((Instr.sb : BitVec 5 → BitVec 5 → BitVec 12 → Instr), 1), (.sh, 2), (.sw, 4), (.sd, 8)], ∀ b a imm (s : State),
      exec (e.1 b a imm) s = s.finish (scalarStore s b a imm e.2) := by
    simp only [List.forall_mem_cons, List.not_mem_nil, false_implies, implies_true, and_true]
    exact ⟨fun _ _ _ _ => rfl, fun _ _ _ _ => rfl, fun _ _ _ _ => rfl, fun _ _ _ _ => rfl⟩
  unfold Obligations.ScalarStores
  refine ⟨?here, ?away⟩
  case here =>
    rintro f e he b a imm s va rfl hw
    refine ⟨fun hal => store_traps (hexec e he b a imm s) hw hal, fun hs hal t ht hk hm hleave ho => ?_⟩
    have hissue : s.mayIssue s.cx.scopeOf t (s.getX a + s.imm imm) = true := by
      rcases hk with hk | hk <;> simp [State.mayIssue, hleave, Target.direct, hk]
    obtain ⟨g, hput, hg⟩ := put_here (o := s.cx.scopeOf) (bank := s.cx.bankSite (s.getX a + s.imm imm)) (va := s.getX a + s.imm imm)
      (v := (s.getX b).toNat) (data := (s.getX b).setWidth 1024) hk hm ho
    exact ⟨_, exec_store (hexec e he b a imm s) hw rfl hal ht hissue hput, stored_leaves hs hg t.pa e.2 (s.getX b).toNat⟩
  case away =>
    rintro f e he b a imm s va rfl hw hal t ht hk hm hissue k hj
    obtain ⟨hpc, hmem, hlog, hrest⟩ := storedAway_leaves s s.cx.scopeOf (s.cx.bankSite (s.getX a + s.imm imm)) t e.2
      (s.storeEntry s.cx.scopeOf (s.cx.bankSite (s.getX a + s.imm imm)) t (s.getX a + s.imm imm) e.2 (s.getX b) k)
    exact ⟨_, _, exec_store (hexec e he b a imm s) hw rfl hal ht hissue (put_away hk hm hj), hpc, hmem, hlog, rfl, rfl, rfl, rfl, rfl, rfl, rfl,
      valueCells_eq .., freeIdx_lowest hj, hrest⟩

end

section
/-! SUPPORT. Read–modify–writes in one step (R142 to R144, R222): what going to a place and coming back leave alone, the values that the AMOs
write, and the reservation of LR and SC. -/

namespace Sys2Proof.Machine

variable {s u w g : State} {t : Target} {va : Word} {n : Nat} {o : Order} {d : BitVec 5} {v : Word}

/-! ## What agrees but for traffic -/

theorem getX_eq_of_traffic (h : u.sansMem.sansTraffic = w.sansMem.sansTraffic) (r : BitVec 5) : u.getX r = w.getX r :=
  (congrArg (fun s : State => s.getX r) h :)

theorem setX_sansX (s : State) (d : BitVec 5) (v : Word) : (s.setX d v).sansX = s.sansX := by
  unfold State.setX Ctx.setX
  split <;> rfl

theorem sansX_result_traffic (h : u.sansX = w.sansX) :
    u.advance.sansCommit.sansMem.sansX.sansTraffic = w.sansCommit.sansMem.sansX.sansTraffic :=
  (congrArg (fun s : State => s.sansCommit.sansMem.sansTraffic) h :)

theorem sansX_traffic (h : u.sansMem.sansTraffic = w.sansMem.sansTraffic) :
    u.sansCommit.sansMem.sansX.sansTraffic = w.sansCommit.sansMem.sansX.sansTraffic :=
  (congrArg (fun s : State => s.sansCommit.sansX) h :)

/-- An instruction that writes one register over a state that agrees with the one before changes nothing else. -/
theorem result_traffic (h : u.sansMem.sansTraffic = w.sansMem.sansTraffic) (d : BitVec 5) (v : Word) :
    (u.result d v).sansCommit.sansMem.sansX.sansTraffic = w.sansCommit.sansMem.sansX.sansTraffic :=
  (sansX_result_traffic (setX_sansX u d v)).trans (sansX_traffic h)

/-- The register that gets an answer, or x0, which discards it (R31). -/
theorem getX_answer {x : Word} (h : ∀ r, u.getX r = if r ≠ 0 ∧ r = d then x else s.getX r) : u.getX d = if d = 0 then 0 else x := by
  rw [h d]
  by_cases h0 : d = 0
  · subst h0
    rfl
  · rw [if_pos ⟨h0, rfl⟩, if_neg h0]

/-! ## There and back -/

/-- The state once a read–modify–write or SC has left for its place (R309, R342). -/
def State.wentTo (s : State) (o : Order) (t : Target) (va : Word) (n : Nat) : State := (s.mark o t n).goTo t va

theorem goTo_agrees (s : State) (t : Target) (va : Word) : s.Agrees (s.goTo t va) := by
  unfold State.goTo
  split
  · exact ⟨rfl, rfl, rfl⟩
  · exact ⟨rfl, rfl, trip_sansMem ..⟩

theorem wentTo_agrees (s : State) (o : Order) (t : Target) (va : Word) (n : Nat) : s.Agrees (s.wentTo o t va n) :=
  (mark_agrees s o t n).trans (goTo_agrees ..)

theorem mapCtx_resv {k : Key} {f : Ctx → Ctx} (hf : ∀ c, (f c).resv = c.resv) : (s.mapCtx k f).cx.resv = s.cx.resv := by
  simp only [State.mapCtx, State.mapIf, State.mapAll]
  split
  · exact hf _
  · rfl

theorem countFor_resv {k : Key} {ev n : Nat} : (s.countFor k ev n).cx.resv = s.cx.resv := mapCtx_resv fun _ => rfl

theorem trip_resv {src dst : Nat} : (s.trip src dst).cx.resv = s.cx.resv := countFor_resv (s := s.stampNext src s.cx.leaf 0)

theorem wentTo_resv (s : State) (o : Order) (t : Target) (va : Word) (n : Nat) : (s.wentTo o t va n).cx.resv = s.cx.resv := by
  rw [← (mark_entry s o t n).1]
  unfold State.wentTo State.goTo
  split
  · rfl
  · exact trip_resv

/-- What stands once a read–modify–write is back in its core, and what its acquire leaves (R209, R210, R345). -/
def State.backFrom (s : State) (o : Order) (t : Target) (n : Nat) : State :=
  if o.acq then ((s.afterRmw t n).heed t n).acquire o.scope else s.afterRmw t n

theorem afterRmw_traffic (s : State) (t : Target) (n : Nat) : (s.afterRmw t n).sansMem.sansTraffic = s.sansMem.sansTraffic := by
  have hquiet : ∀ u : State, (u.mapCx fun c => if t.kind = .localWin then c.settleLoads else c.forget (physOf t.pa) n).sansMem.sansTraffic =
      u.sansMem.sansTraffic := fun u => by
    by_cases hk : t.kind = .localWin
    · simp only [hk, if_true]
      rfl
    · simp only [hk, if_false]
      rfl
  refine (hquiet _).trans ?_
  split
  · exact (congrArg State.sansTraffic (countSlice_sansMem (s.dropCopy t.pa n) s.cx.key)).trans rfl
  · rfl

theorem afterRmw_mem (s : State) (t : Target) (n : Nat) : (s.afterRmw t n).mem = s.mem := by
  unfold State.afterRmw
  dsimp only
  split <;> rfl

theorem acquire_mem (s : State) (scope : Nat) : (s.acquire scope).mem = s.mem := by
  unfold State.acquire
  split <;> rfl

theorem backFrom_traffic (s : State) (o : Order) (t : Target) (n : Nat) : (s.backFrom o t n).sansMem.sansTraffic = s.sansMem.sansTraffic :=
  (heedIf_traffic (s.afterRmw t n) o t n).trans (afterRmw_traffic ..)

theorem heedIf_mem (s : State) (o : Order) (t : Target) (n : Nat) : (if o.acq then (s.heed t n).acquire o.scope else s).mem = s.mem := by
  split
  · exact acquire_mem (s.heed t n) o.scope
  · rfl

theorem backFrom_mem (s : State) (o : Order) (t : Target) (n : Nat) : (s.backFrom o t n).mem = s.mem :=
  (heedIf_mem (s.afterRmw t n) o t n).trans (afterRmw_mem ..)

theorem rmw_eq (s : State) (o : Order) (t : Target) (va : Word) (n : Nat) (f : Nat → Nat) :
    s.rmw o t va n f = (memRead s.mem t.pa n,
      ((s.wentTo o t va n).store t.pa n (f (memRead s.mem t.pa n))).backFrom o t n) := by
  have hmem := (wentTo_agrees s o t va n).mem
  rw [← hmem]
  rfl

/-- What writing `v` at the place, in one step with the way there and back, leaves but for the register that gets the answer (R143). -/
theorem back_leaves (hs : Safe s) (hg : s.Agrees g) (o : Order) (t : Target) (n v : Nat) :
    let u := (g.store t.pa n v).backFrom o t n
    u.sansMem.sansTraffic = s.sansMem.sansTraffic ∧ memRead u.mem t.pa n = v % 256 ^ n ∧ MemSameBut s u t.pa n := by
  have hmem : ((g.store t.pa n v).backFrom o t n).mem = (s.store t.pa n v).mem := by
    rw [backFrom_mem, State.store_mem, hg.mem, State.store_mem]
  exact ⟨(backFrom_traffic ..).trans ((congrArg State.sansTraffic (store_sansMem g t.pa n v)).trans hg.rest), store_reads_back hs hmem⟩

/-- A read–modify–write leaves the named function of the old value at its place and an answer in d, and nothing else (R143). -/
theorem rmw_leaves {i : Instr} {f : Nat → Nat} {x : Word} (hs : Safe s) (hi : exec i s = .next ((s.rmw o t va n f).2.result d x)) :
    ∃ u, exec i s = .next u ∧ u.cx.pc = s.cx.pc + 4 ∧ (∀ r, u.getX r = if r ≠ 0 ∧ r = d then x else s.getX r) ∧
      memRead u.mem t.pa n = f (memRead s.mem t.pa n) % 256 ^ n ∧ MemSameBut s u t.pa n ∧
      u.sansCommit.sansMem.sansX.sansTraffic = s.sansCommit.sansMem.sansX.sansTraffic := by
  obtain ⟨hrest, hread, hsame⟩ := back_leaves hs (wentTo_agrees s o t va n) o t n (f (memRead s.mem t.pa n))
  rw [rmw_eq] at hi
  refine ⟨_, hi, result_pc.trans (congrArg (· + 4) (cx_eq_of_traffic hrest).1), fun r => ?_, hread, hsame, result_traffic hrest d x⟩
  rw [result_getX, getX_eq_of_traffic hrest]

/-! ## The functions of the AMOs (R143, R205) -/

variable {x y : Nat}

theorem pow_bytes (n : Nat) : 256 ^ n = 2 ^ (8 * n) := by rw [Nat.pow_mul]

theorem portOp_mod (code n x y : Nat) : portOp code n x (y % 2 ^ (8 * n)) = portOp code n x y := by
  simp only [portOp, Nat.mod_mod]

section
variable (hx : x < 256 ^ n) (hy : y < 256 ^ n)
include hx hy

/-- On operands of `n` bytes a port operation is its function of them. -/
theorem portOp_add : portOp 0 n x y % 256 ^ n = (x + y) % 256 ^ n := by
  rw [pow_bytes] at *
  simp only [portOp, Nat.mod_eq_of_lt hx, Nat.mod_eq_of_lt hy, Nat.mod_mod]

theorem portOp_and : portOp 1 n x y % 256 ^ n = x &&& y := by
  rw [pow_bytes] at *
  simp only [portOp, Nat.mod_eq_of_lt hx, Nat.mod_eq_of_lt hy, Nat.mod_eq_of_lt (Nat.and_lt_two_pow x hy)]

theorem portOp_or : portOp 2 n x y % 256 ^ n = x ||| y := by
  rw [pow_bytes] at *
  simp only [portOp, Nat.mod_eq_of_lt hx, Nat.mod_eq_of_lt hy, Nat.mod_eq_of_lt (Nat.or_lt_two_pow hx hy)]

theorem portOp_xor : portOp 3 n x y % 256 ^ n = x ^^^ y := by
  rw [pow_bytes] at *
  simp only [portOp, Nat.mod_eq_of_lt hx, Nat.mod_eq_of_lt hy, Nat.mod_eq_of_lt (Nat.xor_lt_two_pow hx hy)]

theorem portOp_smaller :
    portOp 4 n x y % 256 ^ n = if (BitVec.ofNat (8 * n) x).toInt ≤ (BitVec.ofNat (8 * n) y).toInt then x else y := by
  rw [pow_bytes] at *
  simp only [portOp, Nat.mod_eq_of_lt hx, Nat.mod_eq_of_lt hy, bitsInt_signed, apply_ite (· % 2 ^ (8 * n))]

theorem portOp_larger :
    portOp 5 n x y % 256 ^ n = if (BitVec.ofNat (8 * n) x).toInt ≤ (BitVec.ofNat (8 * n) y).toInt then y else x := by
  rw [pow_bytes] at *
  simp only [portOp, Nat.mod_eq_of_lt hx, Nat.mod_eq_of_lt hy, bitsInt_signed, apply_ite (· % 2 ^ (8 * n))]

theorem portOp_min : portOp 6 n x y % 256 ^ n = min x y := by
  rw [pow_bytes] at *
  simp only [portOp, Nat.mod_eq_of_lt hx, Nat.mod_eq_of_lt hy, Nat.mod_eq_of_lt ((min_le_left x y).trans_lt hx)]

theorem portOp_max : portOp 7 n x y % 256 ^ n = max x y := by
  rw [pow_bytes] at *
  simp only [portOp, Nat.mod_eq_of_lt hx, Nat.mod_eq_of_lt hy, Nat.mod_eq_of_lt (max_lt hx hy)]

end

/-! ## The instructions -/

theorem exec_amo {i : Instr} {aq rl z : BitVec 1} {b a : BitVec 5} {op : Nat → Nat → Nat → Nat}
    (hi : exec i s = s.finish (amo s aq rl z b a d op)) (hal : (s.getX a).toNat % amoBytes z = 0)
    (ht : s.rmwTarget (s.getX a) (amoBytes z) = .ok t) (hl : s.cx.mayLeave (s.cx.amoOrder (aq = 1) (rl = 1)) = true) :
    exec i s = .next ((s.rmw (s.cx.amoOrder (aq = 1) (rl = 1)) t (s.getX a) (amoBytes z) fun old =>
      op (amoBytes z) old ((s.getX b).toNat % 256 ^ amoBytes z)).2.result d (extend (amoBytes z) true (memRead s.mem t.pa (amoBytes z)))) := by
  simp only [hi, amo, hal, ht, hl, decide_true, check_true, waitUntil_true, rmw_eq, bind, Except.bind, pow_bytes]
  rfl

theorem amoBytes_pos (z : BitVec 1) : 0 < amoBytes z := by
  unfold amoBytes
  split <;> decide

/-- Bytes of an AMOF's operand (R222). -/
def amofBytes (f : BitVec 3) : Nat := if f = 3 then 8 else 4

/-- The new value of an AMOF: compare and swap against `want`, or a port operation on FP32 words (R222). -/
def amofValue (f : BitVec 3) (want new old : Nat) : Nat :=
  if f.toNat < 4 then (if old = want then new else old) else portOp (f.toNat + 4) 4 old new

theorem amofBytes_port {f : BitVec 3} (hf : 4 ≤ f.toNat) : amofBytes f = 4 :=
  if_neg fun h => by simp [h] at hf

/-- AMOF's answer to a compare and swap is signed; a port operation's is an FP32 word as it stands (R222). -/
theorem amof_answer {f : BitVec 3} {old : Nat} (ho : old < 256 ^ amofBytes f) :
    extend (amofBytes f) (f.toNat < 4 && amofBytes f = 4) old =
      if f.toNat < 4 then (BitVec.ofNat (8 * amofBytes f) old).signExtend 64 else BitVec.ofNat 64 old := by
  rw [extend_eq]
  by_cases hf : f.toNat < 4
  · by_cases h3 : f = 3
    · subst h3
      exact (BitVec.setWidth_eq _).trans (BitVec.signExtend_eq _).symm
    · rw [amofBytes, if_neg h3]
      simp [hf]
  · rw [amofBytes_port (by omega)] at ho ⊢
    rw [if_neg (by simp [hf]), if_neg hf]
    refine BitVec.eq_of_toNat_eq ?_
    simp only [BitVec.toNat_setWidth, BitVec.toNat_ofNat]
    omega

theorem exec_amof {w sc : BitVec 2} {b a : BitVec 5} {f : BitVec 3} (hw : s.cx.waitMet w.toNat 0 = true)
    (hal : (s.getX a).toNat % amofBytes f = 0) (ht : s.rmwTarget (s.getX a) (amofBytes f) = .ok t)
    (hl : s.cx.mayLeave ⟨false, false, true, sc.toNat⟩ = true) :
    exec (.amof w sc b a f d) s = .next ((s.rmw ⟨false, false, true, sc.toNat⟩ t (s.getX a) (amofBytes f)
      (amofValue f ((s.getX d).toNat % 256 ^ amofBytes f) ((s.getX b).toNat % 256 ^ amofBytes f))).2.result d
        (extend (amofBytes f) (f.toNat < 4 && amofBytes f = 4) (memRead s.mem t.pa (amofBytes f)))) := by
  change execAmof w sc b a f d s = _
  unfold amofBytes at *
  simp only [execAmof, hw, hal, ht, hl, decide_true, check_true, waitUntil_true, rmw_eq, bind, Except.bind, pow_bytes]
  rfl

/-! ## LR and SC (R144) -/

theorem resvRoom_traffic {home : Nat} {r : State} (h : s.resvRoom home = some r) :
    r.mem = s.mem ∧ r.sansMem.sansTraffic = s.sansMem.sansTraffic := by
  simp only [State.resvRoom] at h
  split at h
  · obtain rfl := Option.some.inj h
    exact ⟨rfl, rfl⟩
  · split at h
    · cases h
    · obtain rfl := Option.some.inj h
      refine ⟨rfl, ?_⟩
      simp only [State.mapAll, State.sansMem, List.map_map, Function.comp_def]
      rfl

/-- What LR answers: it reads its place once loads performed early there are forgotten (R144, R345). -/
def State.lrLoad (s : State) (t : Target) (va : Word) (n : Nat) : Nat × State :=
  (s.mapCx fun c => c.forget (physOf t.pa) n).loadStrong t va n

/-- The state that LR leaves but for its register: what its acquire leaves, and its reservation (R144, R210). -/
def State.lrDone (s : State) (o : Order) (t : Target) (va : Word) (n : Nat) : State :=
  (if o.acq then ((s.lrLoad t va n).2.heed t n).acquire o.scope else (s.lrLoad t va n).2).reserve t va n

theorem lrLoad_value (he : s.cx.early = []) (hn : 0 < n) : (s.lrLoad t va n).1 = memRead s.mem t.pa n :=
  loadStrong_value hn (by simp [State.mapCx, Ctx.forget, he])

theorem forget_traffic (s : State) (a n : Nat) : (s.mapCx fun c => c.forget a n).sansMem.sansTraffic = s.sansMem.sansTraffic := rfl

theorem reserve_traffic (s : State) (t : Target) (va : Word) (n : Nat) :
    (s.reserve t va n).sansMem.sansTraffic = s.sansMem.sansTraffic := rfl

theorem lrDone_traffic (s : State) (o : Order) (t : Target) (va : Word) (n : Nat) :
    (s.lrDone o t va n).sansMem.sansTraffic = s.sansMem.sansTraffic := calc
  _ = (if o.acq then ((s.lrLoad t va n).2.heed t n).acquire o.scope else (s.lrLoad t va n).2).sansMem.sansTraffic := reserve_traffic ..
  _ = (s.lrLoad t va n).2.sansMem.sansTraffic := heedIf_traffic ..
  _ = (s.mapCx fun c => c.forget (physOf t.pa) n).sansMem.sansTraffic := loadStrong_sansMem
  _ = s.sansMem.sansTraffic := forget_traffic ..

theorem lrDone_mem (s : State) (o : Order) (t : Target) (va : Word) (n : Nat) : (s.lrDone o t va n).mem = s.mem := calc
  _ = (if o.acq then ((s.lrLoad t va n).2.heed t n).acquire o.scope else (s.lrLoad t va n).2).mem := rfl
  _ = (s.lrLoad t va n).2.mem := heedIf_mem ..
  _ = s.mem := loadStrong_mem

/-- The reservation that LR places (R144). -/
theorem lrDone_resv (s : State) (o : Order) (t : Target) (va : Word) (n : Nat) :
    ∃ x, (s.lrDone o t va n).cx.resv = some x ∧ x.line = lineOf t.pa ∧ x.addr = va ∧ x.width = n := ⟨_, rfl, rfl, rfl, rfl⟩

theorem result_resv (s : State) (d : BitVec 5) (v : Word) : (s.result d v).cx.resv = s.cx.resv := Ctx.setX_resv ..

theorem exec_lr {aq rl z : BitVec 1} {a : BitVec 5} {r : State} (hal : (s.getX a).toNat % amoBytes z = 0)
    (hl : s.cx.mayLeave (s.cx.amoOrder (aq = 1) (rl = 1)) = true) (ht : s.resolve .load (s.getX a) (amoBytes z) s.cx.tileco = .ok t)
    (hk : t.kind ≠ .device) (hretry : t.retry = false) (hc : s.checkPlace .load t (s.getX a) (amoBytes z) = .ok ())
    (hr : s.resvRoom t.resvHome = some r) (hgo : r.mayGo t (s.getX a) (amoBytes z) = .ok ()) :
    exec (.lr aq rl a z d) s = .next ((r.lrDone (s.cx.amoOrder (aq = 1) (rl = 1)) t (s.getX a) (amoBytes z)).result d
      (extend (amoBytes z) true (r.lrLoad t (s.getX a) (amoBytes z)).1)) := by
  change execLr aq rl a z d s = _
  simp only [execLr, hal, hl, ht, hk, hretry, hc, hr, hgo, tryExn_ok, ne_eq, not_false_eq_true, Bool.not_false, Bool.true_and, decide_true,
    waitUntil_true, check_true, bind, Except.bind]
  rfl

/-- The state that SC leaves but for its register: its place written where the reservation stands, and no reservation (R144). -/
def State.scDone (s : State) (o : Order) (t : Target) (va : Word) (n : Nat) (won : Bool) (v : Nat) : State :=
  ((if won then (s.wentTo o t va n).store t.pa n v else s.wentTo o t va n).backFrom o t n).unreserve

/-- The reservation that is held is for an address and width (R144). -/
def Ctx.holdsResv (c : Ctx) (va : Word) (n : Nat) : Bool := c.resv.any fun r => r.addr = va && r.width = n

theorem unreserve_traffic (s : State) : s.unreserve.sansMem.sansTraffic = s.sansMem.sansTraffic := rfl

/-- SC that finds its reservation writes its place (R144). -/
theorem scDone_won (hs : Safe s) (o : Order) (t : Target) (va : Word) (n v : Nat) :
    let u := s.scDone o t va n true v
    u.sansMem.sansTraffic = s.sansMem.sansTraffic ∧ memRead u.mem t.pa n = v % 256 ^ n ∧ MemSameBut s u t.pa n := by
  obtain ⟨hrest, hread, hsame⟩ := back_leaves hs (wentTo_agrees s o t va n) o t n v
  exact ⟨(unreserve_traffic _).trans hrest, hread, hsame⟩

/-- SC that finds none writes nothing. -/
theorem scDone_lost (s : State) (o : Order) (t : Target) (va : Word) (n v : Nat) :
    (s.scDone o t va n false v).sansMem.sansTraffic = s.sansMem.sansTraffic ∧ (s.scDone o t va n false v).mem = s.mem := by
  have hg := wentTo_agrees s o t va n
  exact ⟨(unreserve_traffic _).trans ((backFrom_traffic ..).trans hg.rest), (backFrom_mem (s.wentTo o t va n) o t n).trans hg.mem⟩

theorem holdsResv_iff {c : Ctx} : c.holdsResv va n = true ↔ ∃ r, c.resv = some r ∧ r.addr = va ∧ r.width = n := by
  simp [Ctx.holdsResv, Option.any_eq_true]

theorem exec_sc {aq rl z : BitVec 1} {a b : BitVec 5} (hal : (s.getX a).toNat % amoBytes z = 0)
    (ht : s.rmwTarget (s.getX a) (amoBytes z) = .ok t) (hl : s.cx.mayLeave (s.cx.amoOrder (aq = 1) (rl = 1)) = true) :
    exec (.sc aq rl b a z d) s = .next ((s.scDone (s.cx.amoOrder (aq = 1) (rl = 1)) t (s.getX a) (amoBytes z)
      (s.cx.holdsResv (s.getX a) (amoBytes z)) (s.getX b).toNat).result d (if s.cx.holdsResv (s.getX a) (amoBytes z) then 0 else 1)) := by
  have hresv := wentTo_resv s (s.cx.amoOrder (aq = 1) (rl = 1)) t (s.getX a) (amoBytes z)
  change execSc aq rl b a z d s = _
  simp only [State.wentTo] at hresv
  simp only [execSc, hal, ht, hl, hresv, decide_true, check_true, waitUntil_true, bind, Except.bind]
  rfl

end Sys2Proof.Machine
end

section

open Sys2Proof Sys2Proof.Machine

/-- Settles O11: each AMO is one read–modify–write at its place, with its port operation or, for AMOF, a compare and swap. -/
theorem amos : Obligations.Amos := by
  unfold Obligations.Amos
  refine ⟨?amo, ?amof⟩
  case amo =>
    intro sg f
    suffices h : ∀ e ∈ f, ∃ op : Nat → Nat → Nat → Nat,
        (∀ aq rl z b a d (s : State), exec (e.1 aq rl b a z d) s = s.finish (amo s aq rl z b a d op)) ∧
          ∀ n x y, x < 256 ^ n → y < 256 ^ n → op n x y % 256 ^ n = e.2 n x y by
      rintro e he aq rl z b a d s n hn
      obtain rfl : n = amoBytes z := hn
      obtain ⟨op, hexec, hop⟩ := h e he
      refine ⟨amo_traps (hexec aq rl z b a d s), fun hs hal t ht hl o ho => ?_⟩
      obtain ⟨u, hi, hpc, hx, hread, hsame, hrest⟩ := rmw_leaves hs (exec_amo (hexec aq rl z b a d s) hal ht hl)
      refine ⟨u, hi, hpc, ?_, ?_, hsame, hrest⟩
      · simpa only [ho, extend_eq, if_true] using hx
      · rw [hread, ho, hop _ _ _ (memRead_lt ..) (Nat.mod_lt _ (by positivity))]
    simp only [f, List.forall_mem_cons, List.not_mem_nil, false_implies, implies_true, and_true]
    exact ⟨⟨_, fun _ _ _ _ _ _ _ => rfl, fun _ _ _ _ hy => Nat.mod_eq_of_lt hy⟩, ⟨_, fun _ _ _ _ _ _ _ => rfl, fun _ _ _ => portOp_add⟩,
      ⟨_, fun _ _ _ _ _ _ _ => rfl, fun _ _ _ => portOp_xor⟩, ⟨_, fun _ _ _ _ _ _ _ => rfl, fun _ _ _ => portOp_and⟩,
      ⟨_, fun _ _ _ _ _ _ _ => rfl, fun _ _ _ => portOp_or⟩, ⟨_, fun _ _ _ _ _ _ _ => rfl, fun _ _ _ => portOp_smaller⟩,
      ⟨_, fun _ _ _ _ _ _ _ => rfl, fun _ _ _ => portOp_larger⟩, ⟨_, fun _ _ _ _ _ _ _ => rfl, fun _ _ _ => portOp_min⟩,
      ⟨_, fun _ _ _ _ _ _ _ => rfl, fun _ _ _ => portOp_max⟩⟩
  case amof =>
    rintro w sc b a d f s n hn hw hs hal t ht hl old hold
    obtain rfl : n = amofBytes f := hn
    obtain ⟨u, hi, hpc, hx, hread, hsame, -⟩ := rmw_leaves hs (exec_amof (b := b) (d := d) hw hal ht hl)
    have hlt : old < 256 ^ amofBytes f := hold ▸ memRead_lt ..
    rw [← hold] at hread
    have hd := getX_answer hx
    rw [← hold, amof_answer hlt] at hd
    refine ⟨u, hi, hpc, hsame, fun hf => ⟨?_, ?_⟩, fun hf hf' => ⟨?_, ?_⟩⟩
    · rw [hread, amofValue, if_pos hf, apply_ite (· % 256 ^ amofBytes f), Nat.mod_mod, Nat.mod_eq_of_lt hlt]
    · rw [hd, if_pos hf]
    · rw [hread, amofValue, if_neg (by omega), amofBytes_port hf, pow_bytes, portOp_mod]
    · rw [hd, if_neg (Nat.not_lt.mpr hf)]

end

section

open Sys2Proof Sys2Proof.Machine

/-- Settles O12: LR reads its place and reserves its line, and SC writes where the reservation it finds is for its address and width. -/
theorem loadReserved : Obligations.LoadReserved := by
  unfold Obligations.LoadReserved
  rintro aq rl z b a d s n va hn rfl
  obtain rfl : n = amoBytes z := hn
  refine ⟨fun hal => ⟨lr_traps hal, sc_traps hal⟩, fun hs hal hl => ⟨?lr, ?sc⟩⟩
  case lr =>
    rintro t r ht hk hretry hc hr ⟨hearly, hgo⟩
    obtain ⟨hmem, hrest⟩ := resvRoom_traffic hr
    have hdone := (lrDone_traffic r (s.cx.amoOrder (aq = 1) (rl = 1)) t (s.getX a) (amoBytes z)).trans hrest
    obtain ⟨x, hx, hline, haddr, hwidth⟩ := lrDone_resv r (s.cx.amoOrder (aq = 1) (rl = 1)) t (s.getX a) (amoBytes z)
    have hv := lrLoad_value (t := t) (va := s.getX a) hearly (amoBytes_pos z)
    have hi := exec_lr (d := d) hal hl ht hk hretry hc hr hgo
    rw [hv, hmem, extend_eq, if_pos rfl] at hi
    refine ⟨_, x, hi, ?_, ?_, (lrDone_mem ..).trans hmem, (result_resv ..).trans hx, hline, haddr, hwidth⟩
    · rw [result_pc, (cx_eq_of_traffic hdone).1]
    · exact getX_answer fun r => result_getX
  case sc =>
    rintro t ht won hwon
    obtain rfl : won = s.cx.holdsResv (s.getX a) (amoBytes z) := Bool.eq_iff_iff.mpr (hwon.trans holdsResv_iff.symm)
    have hi := exec_sc (b := b) (d := d) hal ht hl
    generalize s.cx.holdsResv (s.getX a) (amoBytes z) = won at hi ⊢
    refine ⟨_, hi, ?_⟩
    cases won with
    | true =>
      obtain ⟨hrest, hread, hsame⟩ := scDone_won hs (s.cx.amoOrder (aq = 1) (rl = 1)) t (s.getX a) (amoBytes z) (s.getX b).toNat
      refine ⟨by rw [result_pc, (cx_eq_of_traffic hrest).1], result_resv .., ?_, hread, hsame⟩
      rw [getX_answer fun r => result_getX]
      simp
    | false =>
      obtain ⟨hrest, hmem⟩ := scDone_lost s (s.cx.amoOrder (aq = 1) (rl = 1)) t (s.getX a) (amoBytes z) (s.getX b).toNat
      refine ⟨by rw [result_pc, (cx_eq_of_traffic hrest).1], result_resv .., ?_, hmem⟩
      simpa using getX_answer fun r => result_getX

end

section
/-! SUPPORT. The CSR instructions: their six members as one shared body, the errors of a CSR write, and the CSRs whose map keeps only bits
of what is written (R56, R57, R109, R150 to R152, R180, R215, R234, R285, R353, R355). -/

namespace Sys2Proof.Machine

variable {s u : State} {word : IWord} {n : Nat} {w old : Word} {c : BitVec 12} {a d : BitVec 5} {wr : Bool} {new : Word → Word}

/-! ## The members (R151) -/

/-- The CSR instructions: the form, its f3, whether it writes with x0 or 0 as its source too, and what it writes. -/
def csrMembers : List ((BitVec 12 → BitVec 5 → BitVec 5 → Instr) × BitVec 3 × Bool × (Word → Word → Word)) := [
  (.csrrw, 1, true, fun _ x => x), (.csrrs, 2, false, fun o x => o ||| x), (.csrrc, 3, false, fun o x => o &&& ~~~x),
  (.csrrwi, 5, true, fun _ x => x), (.csrrsi, 6, false, fun o x => o ||| x), (.csrrci, 7, false, fun o x => o &&& ~~~x)]

/-- The source of a member: x[a], or the number a where bit 2 of f3 is set. -/
def State.csrSource (s : State) (f3 : BitVec 3) (a : BitVec 5) : Word := if f3.getLsbD 2 then a.setWidth 64 else s.getX a

theorem exec_csr : ∀ e ∈ csrMembers, ∀ (c : BitVec 12) (a d : BitVec 5) (s : State), exec (e.1 c a d) s =
    s.finish (csrAccess s (csrWord c a e.2.1 d) c d (e.2.2.1 || decide (a ≠ 0)) fun o => e.2.2.2 o (s.csrSource e.2.1 a)) := by
  simp only [csrMembers, List.forall_mem_cons, List.not_mem_nil, false_implies, implies_true, and_true]
  exact ⟨fun _ _ _ _ => rfl, fun _ _ _ _ => rfl, fun _ _ _ _ => rfl, fun _ _ _ _ => rfl, fun _ _ _ _ => rfl, fun _ _ _ _ => rfl⟩

/-! ## The shared body -/

/-- The level reaches the CSR, and a write is not one of a read-only CSR (R150). -/
def csrAllowed (s : State) (c : BitVec 12) (wr : Bool) : Prop :=
  (c.extractLsb' 8 2).toNat ≤ s.cx.level.rank ∧ (wr = true → c.extractLsb' 10 2 ≠ 3)

theorem csrAllowed_iff : (decide (fld c 9 8 ≤ s.cx.level.rank) && !(wr && decide (fld c 11 10 = 3))) = true ↔ csrAllowed s c wr := by
  have hro : fld c 11 10 = 3 ↔ c.extractLsb' 10 2 = 3 := (fld_eq_extract c 11 10) ▸ BitVec.toNat_inj (y := 3)
  have hlevel : fld c 9 8 = (c.extractLsb' 8 2).toNat := fld_eq_extract c 9 8
  cases wr <;> simp [csrAllowed, hro, hlevel]

theorem csrAccess_none (h : s.readCsr c.toNat = none) : csrAccess s word c d wr new = .error (.trap (exnIllegal word)) := by
  unfold csrAccess
  simp only [h]
  rfl

theorem csrAccess_denied (h : s.readCsr c.toNat = some old) (hp : ¬ csrAllowed s c wr) :
    csrAccess s word c d wr new = .error (.trap (exnIllegal word)) := by
  rw [← csrAllowed_iff, Bool.not_eq_true] at hp
  unfold csrAccess
  simp only [h, hp, check_false, bind, Except.bind]

theorem csrAccess_allowed (h : s.readCsr c.toNat = some old) (hp : csrAllowed s c wr) :
    csrAccess s word c d wr new = if wr then tryExn ((s.result d old).writeCsr word c.toNat (new old)) else .ok (s.result d old) := by
  rw [← csrAllowed_iff] at hp
  unfold csrAccess
  simp only [h, hp, check_true, bind, Except.bind]
  rfl

/-! ## The errors of a write -/

/-- Every exception of a CSR write is a trap of the instruction: none is an error met on a table read. -/
def OffTable (r : Except Exn State) : Prop := ∀ e, r = .error e → e.onTable = false

theorem offTable_ok : OffTable (.ok u) := nofun

theorem offTable_illegal : OffTable (.error (exnIllegal word)) := by
  rintro _ ⟨⟩
  rfl

theorem offTable_writeWsp (l : Level) : OffTable (u.writeWsp word l w) := by
  unfold State.writeWsp
  split
  · exact offTable_illegal
  · split
    · rintro _ ⟨⟩
      rfl
    · exact offTable_ok

theorem offTable_writeTenantCsr : OffTable (u.writeTenantCsr word n w) := by
  unfold State.writeTenantCsr
  split <;> simp only [offTable_ok, offTable_illegal, offTable_writeWsp]

theorem offTable_writeOuterCsr : OffTable (u.writeOuterCsr word n w) := by
  unfold State.writeOuterCsr
  split <;> simp only [offTable_ok, offTable_writeWsp]

theorem offTable_writeCsr : OffTable (u.writeCsr word n w) := by
  unfold State.writeCsr
  split
  case h_4 => exact offTable_writeTenantCsr
  case h_5 => exact offTable_writeOuterCsr
  case h_6 => exact offTable_writeOuterCsr
  case h_7 => exact offTable_ok
  all_goals
    split
    · exact offTable_writeOuterCsr
    · exact offTable_ok

theorem finish_tryExn {r : Except Exn State} (h : OffTable r) : s.finish (tryExn r) = s.orTrap r := by
  cases r with
  | ok t => rfl
  | error e =>
    rw [tryExn_error, h e rfl]
    rfl

theorem orTrap_eq_next (s : State) (r : Except Exn State) : s.orTrap r = .next (match r with | .ok t => t | .error e => s.raise e) := by
  cases r <;> rfl

/-- A member that writes answers the old value, commits and then writes. -/
theorem exec_csr_writes {e : (BitVec 12 → BitVec 5 → BitVec 5 → Instr) × BitVec 3 × Bool × (Word → Word → Word)} (he : e ∈ csrMembers)
    (h : s.readCsr c.toNat = some old) (hw : e.2.2.1 = true ∨ a ≠ 0) (hl : (c.extractLsb' 8 2).toNat ≤ s.cx.level.rank)
    (hro : c.extractLsb' 10 2 ≠ 3) :
    exec (e.1 c a d) s =
      s.orTrap ((s.result d old).writeCsr (csrWord c a e.2.1 d) c.toNat (e.2.2.2 old (s.csrSource e.2.1 a))) := by
  have hwr : (e.2.2.1 || decide (a ≠ 0)) = true := by simpa using hw
  rw [exec_csr e he, hwr, csrAccess_allowed h ⟨hl, fun _ => hro⟩, if_pos rfl, finish_tryExn offTable_writeCsr]

/-! ## Plain maps

The CSRs below keep the bits that their map gives of what is written. `State.plainCsrs` lists what they hold, in the order of
`plainCsrMap`, so that a write is one entry of the list replaced. -/

/-- The plain trap CSRs of a level: ie, vec, scratch, epc, cause, val and val2 (R353). -/
def plainTrapMap (n : Nat) : List (Nat × Word) := [(n + 0x04, irqMask), (n + 0x05, span 47 2), (n + 0x40, span 63 0), (n + 0x41, span 63 2),
  (n + 0x42, span 63 63 ||| span 5 0), (n + 0x43, span 63 0), (n + 0x4B, span 63 0)]

/-- The CSRs with a plain map, and the bits that each keeps. -/
def plainCsrMap : List (Nat × Word) :=
  plainTrapMap 0x100 ++ plainTrapMap 0x200 ++ plainTrapMap 0x300 ++ [(0x180, span 63 63 ||| span 47 12), (0x280, span 63 63 ||| span 47 17),
    (0x380, span 63 63 ||| span 51 17), (0x5D0, span 47 12), (0x5D2, span 63 0), (0x5D8, span 11 8 ||| span 4 0), (0x5E0, span 31 0),
    (0x5EC, span 47 0), (0x5F8, span 63 0), (0x6D8, span 63 0), (0x7D0, span 63 0), (0x7D8, span 7 0), (0x8C0, span 4 0), (0x8C1, span 5 0)]

def TrapRegs.plain (t : TrapRegs) : List Word := [t.ie, t.vec, t.scratch, t.epc, t.cause, t.val, t.val2]

/-- What the CSRs with a plain map hold. -/
def State.plainCsrs (s : State) : List Word :=
  s.cx.tt.plain ++ s.cx.td.plain ++ s.cx.tp.plain ++ [tabGet s.tatp s.cx.leaf 0, tabGet s.datp s.cx.leaf 0, tabGet s.patp s.cx.fl 0,
    s.cx.xbase, s.cx.xprev, s.cx.oplsel, s.cx.cpsel, s.cx.msg.msgcnt, s.cx.tt.cmp, s.cx.td.cmp, s.cx.tp.cmp, (s.cqueue s.cx.key.h).sel,
    s.cx.vctl, s.cx.vflags]

theorem readCsr_plain (s : State) : (plainCsrMap.map fun f => s.readCsr f.1) = s.plainCsrs.map some := rfl

theorem result_plainCsrs : (s.result d old).plainCsrs = s.plainCsrs := by
  unfold State.result State.setX Ctx.setX
  split <;> rfl

/-- A word with the bits of a mask kept, as it computes: a mask of all bits gives the word itself. -/
def keepBits (mask w : Word) : Word := if mask = BitVec.allOnes 64 then w else w &&& mask

theorem keepBits_eq (mask w : Word) : keepBits mask w = w &&& mask := by
  unfold keepBits
  split
  next h => rw [h, BitVec.and_allOnes]
  next => rfl

/-- A write of the CSR of an entry leaves the bits of its mask at the entry's place, and the other entries, pc, x registers and memory as
they are. -/
def PlainWrite (e : (Nat × Word) × Nat) : Prop :=
  ∀ (u : State) (word : IWord) (w : Word), ∃ t, u.writeCsr word e.1.1 w = .ok t ∧ t.plainCsrs = u.plainCsrs.set e.2 (keepBits e.1.2 w) ∧
    t.cx.pc = u.cx.pc ∧ (∀ r, t.getX r = u.getX r) ∧ t.mem = u.mem

theorem tabGet_tabPut_same {α : Type} (l : List (Nat × α)) (k : Nat) (v dflt : α) : tabGet (tabPut l k v) k dflt = v := by
  induction l with
  | nil => simp [tabPut, tabGet]
  | cons e l ih =>
    by_cases h : e.1 = k
    · simp [tabPut, tabGet, h]
    · simp [tabPut, tabGet, h, ih]

theorem cqueue_h (s : State) (h : Nat) : (s.cqueue h).h = h := by
  unfold State.cqueue
  cases hf : s.copyQueues.find? fun x => x.h = h with
  | none => rfl
  | some x => simpa using List.find?_some hf

theorem cqueue_setCqueue (s : State) {x : CopyQueue} {h : Nat} (hx : x.h = h) : (s.setCqueue x).cqueue h = x := by
  subst hx
  have hfind := find?_upsert_same (same := fun y => decide (y.h = x.h)) s.copyQueues (decide_eq_true rfl)
  exact congrArg (fun o : Option CopyQueue => o.getD ⟨x.h, 0, Vector.replicate 12 0, [], 0⟩) hfind

theorem plainCsrs_tatp (u : State) (v : Word) :
    ({ u with tatp := tabPut u.tatp u.cx.leaf v } : State).plainCsrs = u.plainCsrs.set 21 v := by
  simp only [State.plainCsrs, tabGet_tabPut_same]
  rfl

theorem plainCsrs_datp (u : State) (v : Word) :
    ({ u with datp := tabPut u.datp u.cx.leaf v } : State).plainCsrs = u.plainCsrs.set 22 v := by
  simp only [State.plainCsrs, tabGet_tabPut_same]
  rfl

theorem plainCsrs_patp (u : State) (v : Word) :
    ({ u with patp := tabPut u.patp u.cx.fl v } : State).plainCsrs = u.plainCsrs.set 23 v := by
  simp only [State.plainCsrs, tabGet_tabPut_same]
  rfl

theorem plainCsrs_cqsel (u : State) (v : Word) :
    (u.setCqueue { u.cqueue u.cx.key.h with sel := v }).plainCsrs = u.plainCsrs.set 32 v := by
  have h := cqueue_setCqueue u (x := { u.cqueue u.cx.key.h with sel := v }) (cqueue_h u u.cx.key.h)
  have hcx : (u.setCqueue { u.cqueue u.cx.key.h with sel := v }).cx = u.cx := rfl
  simp only [State.plainCsrs, hcx, h]
  rfl

theorem plainWrite_tatp : PlainWrite ((0x180, span 63 63 ||| span 47 12), 21) := fun u _ _ => ⟨_, rfl, plainCsrs_tatp u _, rfl, fun _ => rfl, rfl⟩

theorem plainWrite_datp : PlainWrite ((0x280, span 63 63 ||| span 47 17), 22) := fun u _ _ => ⟨_, rfl, plainCsrs_datp u _, rfl, fun _ => rfl, rfl⟩

theorem plainWrite_patp : PlainWrite ((0x380, span 63 63 ||| span 51 17), 23) := fun u _ _ => ⟨_, rfl, plainCsrs_patp u _, rfl, fun _ => rfl, rfl⟩

theorem plainWrite_cqsel : PlainWrite ((0x7D8, span 7 0), 32) := fun u _ _ => ⟨_, rfl, plainCsrs_cqsel u _, rfl, fun _ => rfl, rfl⟩

/-- Every CSR of the map is written plainly: the root CSRs and cqsel through their tables, and each other one as a field of the context. -/
theorem plainWrite_of_mem : ∀ e ∈ plainCsrMap.zipIdx, PlainWrite e := by
  simp only [plainCsrMap, plainTrapMap, List.cons_append, List.nil_append, List.zipIdx_cons, List.zipIdx_nil, List.forall_mem_cons]
  simp only [List.not_mem_nil, false_implies, implies_true, and_true]
  refine ⟨?_, ?_, ?_, ?_, ?_, ?_, ?_, ?_, ?_, ?_, ?_, ?_, ?_, ?_, ?_, ?_, ?_, ?_, ?_, ?_, ?_, plainWrite_tatp, plainWrite_datp, plainWrite_patp,
    ?_, ?_, ?_, ?_, ?_, ?_, ?_, ?_, plainWrite_cqsel, ?_, ?_⟩
  all_goals exact fun _ _ _ => ⟨_, rfl, rfl, rfl, fun _ => rfl, rfl⟩

/-- The CSR at a place of the map reads what stands at that place of the list. -/
theorem readCsr_plain_get (s : State) {i : Nat} (hi : i < plainCsrMap.length) : s.readCsr plainCsrMap[i].1 = s.plainCsrs[i]? := by
  have h : (plainCsrMap.map fun f => s.readCsr f.1)[i]? = (s.plainCsrs.map some)[i]? := congrArg (·[i]?) (readCsr_plain s)
  rw [List.getElem?_map, List.getElem?_map, List.getElem?_eq_getElem hi] at h
  cases hv : s.plainCsrs[i]? with
  | none => simp [hv] at h
  | some v => simpa [hv] using h

/-- What a write of a CSR with a plain map leaves. -/
theorem writeCsr_plain {e : Nat × Word} (he : e ∈ plainCsrMap) (u : State) (word : IWord) (w : Word) :
    ∃ t, u.writeCsr word e.1 w = .ok t ∧ t.readCsr e.1 = some (w &&& e.2) ∧ t.cx.pc = u.cx.pc ∧ (∀ r, t.getX r = u.getX r) ∧
      t.mem = u.mem ∧ ∀ f ∈ plainCsrMap, f.1 ≠ e.1 → t.readCsr f.1 = u.readCsr f.1 := by
  obtain ⟨i, hi, rfl⟩ := List.getElem_of_mem he
  obtain ⟨t, hw, hp, hpc, hx, hm⟩ := plainWrite_of_mem _ (List.mk_mem_zipIdx_iff_getElem?.mpr (List.getElem?_eq_getElem hi)) u word w
  have hlen : i < u.plainCsrs.length := hi
  refine ⟨t, hw, ?_, hpc, hx, hm, fun f hf hne => ?_⟩
  · rw [readCsr_plain_get, hp, keepBits_eq, List.getElem?_set_self hlen]
  · obtain ⟨j, hj, rfl⟩ := List.getElem_of_mem hf
    have hij : i ≠ j := fun h => hne (by subst h; rfl)
    rw [readCsr_plain_get, readCsr_plain_get, hp, List.getElem?_set_ne hij]

theorem plainCsr_readable {e : Nat × Word} (he : e ∈ plainCsrMap) (s : State) : ∃ old, s.readCsr e.1 = some old := by
  obtain ⟨i, hi, rfl⟩ := List.getElem_of_mem he
  have hlen : i < s.plainCsrs.length := hi
  exact ⟨_, (readCsr_plain_get s hi).trans (List.getElem?_eq_getElem hlen)⟩

theorem plainCsr_writable : ∀ e ∈ plainCsrMap, ∀ c : BitVec 12, c.toNat = e.1 → c.extractLsb' 10 2 ≠ 3 := by
  have hnum : ∀ e ∈ plainCsrMap, e.1 / 1024 % 4 ≠ 3 := by decide
  intro e he c hc h3
  refine hnum e he ?_
  rw [← hc, ← Nat.shiftRight_eq_div_pow c.toNat 10]
  simpa using congrArg BitVec.toNat h3

end Sys2Proof.Machine
end

section

open Sys2Proof Sys2Proof.Machine

/-- Settles O29: the six members share one body, and a write of a CSR with a plain map replaces that CSR's entry in the list of what they
hold. -/
theorem csrAccesses : Obligations.CsrAccesses := by
  unfold Obligations.CsrAccesses
  refine ⟨?access, ?plain⟩
  case access =>
    rintro f e he c a d s x rfl word rfl
    have hexec := exec_csr e he c a d s
    refine ⟨fun h => ?missing, fun old h => ⟨fun hp => ?denied, fun hl => ⟨fun hf ha => ?reads, fun hw hro => ?writes⟩⟩⟩
    case missing => rw [Traps, hexec, csrAccess_none h, finish_trap]; rfl
    case denied =>
      have hno : ¬ csrAllowed s c (e.2.2.1 || decide (a ≠ 0)) := by
        rintro ⟨hl, hro⟩
        rcases hp with hp | ⟨hw, hp⟩
        · omega
        · exact hro (by simpa using hw) hp
      rw [Traps, hexec, csrAccess_denied h hno, finish_trap]; rfl
    case reads =>
      have hwr : (e.2.2.1 || decide (a ≠ 0)) = false := by simp [hf, ha]
      rw [hwr, csrAccess_allowed h ⟨hl, fun hw => absurd hw (by decide)⟩] at hexec
      exact gives_of hexec rfl
    case writes => exact ⟨s.result d old, result_committed s d old, (exec_csr_writes he h hw hl hro).trans (orTrap_eq_next s _)⟩
  case plain =>
    intro members bits irq one all m hm e he c a d s x hwr hx hc hl
    have hall : all = plainCsrMap := rfl
    have hmembers : members = csrMembers.map fun m => (m.1, m.2.1.getLsbD 2, m.2.2) := rfl
    rw [hall] at he ⊢
    rw [hmembers] at hm
    obtain ⟨k, hk, rfl⟩ := List.mem_map.mp hm
    obtain rfl : x = s.csrSource k.2.1 a := hx
    obtain ⟨old, hold⟩ := plainCsr_readable he s
    obtain ⟨t, hw, hread, hpc, hxs, hmem, hrest⟩ := writeCsr_plain he (s.result d old) (csrWord c a k.2.1 d) (k.2.2.2 old (s.csrSource k.2.1 a))
    have hexec := exec_csr_writes (d := d) hk (hc ▸ hold) hwr hl (plainCsr_writable e he c hc)
    rw [hc, hw] at hexec
    refine ⟨old, t, hold, hexec, hread, hpc.trans result_pc, fun r => (hxs r).trans result_getX, hmem, fun f hf hne =>
      (hrest f hf hne).trans ?_⟩
    obtain ⟨i, hi, rfl⟩ := List.getElem_of_mem hf
    rw [readCsr_plain_get, readCsr_plain_get, result_plainCsrs]

end

section
/-! SUPPORT. Floating vector instructions (R160, R161): what members of one and of two operands write, and comparisons. -/

namespace Sys2Proof.Machine

variable {s u : State} {pg : BitVec 3} {b a d : BitVec 5} {o : BitVec 2} {t : Tag} {y : Nat → Nat} {i : Instr}

/-! ## Operand b (R157) -/

theorem popChan_pc (s : State) (ch : Chan) (rest : List StreamEntry) : (s.popChan ch rest).cx.pc = s.cx.pc := by
  unfold State.popChan
  dsimp only
  split <;> rfl

theorem popSource_pc {q : Nat} : Yields (fun p => p.2.cx.pc = s.cx.pc) (s.popSource q) := by
  unfold State.popSource
  split
  · exact .error
  · split
    · exact .error
    · split
      · exact .ok (popChan_pc ..)
      · exact .ite .error (.ite .error .error)

/-- Operand b moves no control, whatever it pops. -/
theorem operandB_pc (h : s.operandB o t b = .ok (y, u)) : u.cx.pc = s.cx.pc := by
  have hy : Yields (fun p => p.2.cx.pc = s.cx.pc) (s.operandB o t b) :=
    .ite (.skip fun _ => .ok rfl) <| .ite (.ok rfl) <| .ite (.ok rfl) <| popSource_pc.bind fun _ hp => .ite (.ok hp) .error
  exact hy _ h

/-! ## Members of one and of two operands (R160) -/

theorem givesV_vfltUnary {op : Fmt → Nat → Nat → Rounded} (hx : exec i s = s.finish (vfltUnary s pg a d op))
    (ht : isVflt (s.getV a).tag = true) :
    GivesV i s s d (s.getV a).tag (Enabled s pg) (fun k => (op (vfltFmt (s.getV a).tag) s.cx.rm ((s.getV a).elem k)).bits)
      fun k => (op (vfltFmt (s.getV a).tag) s.cx.rm ((s.getV a).elem k)).flags := by
  refine givesV_vfltWrite (op := fun t m k => op t m ((s.getV a).elem k)) ?_ rfl
  rw [hx, vfltUnary, vSource_ok (isVflt_ne_zero ht) ht]
  rfl

theorem givesV_vflt {op : Fmt → Nat → Nat → Nat → Rounded} (hx : exec i s = s.finish (vflt s pg b a o d op))
    (ht : isVflt (s.getV a).tag = true) (hb : s.operandB o (s.getV a).tag b = .ok (y, u)) :
    GivesV i s u d (s.getV a).tag (Enabled s pg) (fun k => (op (vfltFmt (s.getV a).tag) s.cx.rm ((s.getV a).elem k) (y k)).bits)
      fun k => (op (vfltFmt (s.getV a).tag) s.cx.rm ((s.getV a).elem k) (y k)).flags := by
  refine givesV_vfltWrite (op := fun t m k => op t m ((s.getV a).elem k) (y k)) ?_ (operandB_pc hb)
  simp only [hx, vflt, vSource_ok (isVflt_ne_zero ht) ht, hb, bind, Except.bind]
  rfl

/-- VFMA reads v[d] under the tag of v[a]. -/
theorem exec_vfma (ht : isVflt (s.getV a).tag = true) (hb : s.operandB o (s.getV a).tag b = .ok (y, u))
    (hd : (s.getV d).tag = (s.getV a).tag) :
    exec (.vfma pg b a o d) s = .next (vfltWrite s u pg (s.getV a).tag d fun t m k =>
      fRound t m (numFma m (t.decode ((s.getV a).elem k)) (t.decode (y k)) (t.decode ((s.getV d).elem k)))) := by
  change execVfma pg b a o d s = _
  simp only [execVfma, vSource_ok (isVflt_ne_zero ht) ht, hb, vExact_ok hd, bind, Except.bind]
  rfl

/-! ## Comparisons and classes (R161) -/

/-- A predicate that a comparison writes: a bit for each element, and 0 above them. -/
theorem getLsbD_packElems {m n k : Nat} (c : Nat → Bool) (hk : k < m) :
    (BitVec.ofNat m (packElems 1 (fun j => if c j then 1 else 0) n)).getLsbD k = true ↔ k < n ∧ c k = true := by
  rw [BitVec.getLsbD_ofNat, decide_eq_true hk, Bool.true_and]
  by_cases hn : k < n
  · have hbit := packElems_elem 1 (fun j => if c j then 1 else 0) hn
    rw [Nat.one_mul, pow_one] at hbit
    rw [Nat.testBit_eq_decide_div_mod_eq, hbit]
    cases hc : c k <;> simp [hn]
  · have hlt : packElems 1 (fun j => if c j then 1 else 0) n < 2 ^ k := packElems_lt_of_le _ (by omega)
    simp [hn, Nat.testBit_lt_two_pow hlt]

theorem vcompare_ok {ok : Tag → Bool} {cond : Tag → Nat → Nat → Bool × VFlags} (h0 : (s.getV a).tag ≠ 0) (ht : ok (s.getV a).tag = true)
    (hb : s.operandB o (s.getV a).tag b = .ok (y, u)) :
    vcompare s ok b a o d cond = .ok ((u.setP (d.setWidth 3) (BitVec.ofNat 128 (packElems 1 (fun k =>
      if (cond (s.getV a).tag ((s.getV a).elem k) (y k)).1 then 1 else 0) (tagElems (s.getV a).tag)))).addFlags
        (gatherFlags (fun _ => true) (fun k => (cond (s.getV a).tag ((s.getV a).elem k) (y k)).2) (tagElems (s.getV a).tag))).advanceV := by
  simp only [vcompare, vSource_ok h0 ht, hb, bind, Except.bind, gatherFlags, if_true]
  rfl

theorem setP_pc (s : State) (r : BitVec 3) (p : BitVec 128) : (s.setP r p).cx.pc = s.cx.pc := by
  unfold State.setP
  split <;> rfl

/-- A comparison of operands gives a bit and the flags of each element. -/
theorem vcompare_completes {ok : Tag → Bool} {cond : Tag → Nat → Nat → Bool × VFlags} (hx : exec i s = s.finish (vcompare s ok b a o d cond))
    (h0 : (s.getV a).tag ≠ 0) (ht : ok (s.getV a).tag = true) (hb : s.operandB o (s.getV a).tag b = .ok (y, u)) : ∃ p fl,
      (∀ k < 128, p.getLsbD k = true ↔ k < tagElems (s.getV a).tag ∧ (cond (s.getV a).tag ((s.getV a).elem k) (y k)).1 = true) ∧
      FlagsOf fl (tagElems (s.getV a).tag) (fun _ => True) (fun k => (cond (s.getV a).tag ((s.getV a).elem k) (y k)).2) ∧
      Completes i s ((u.setP (d.setWidth 3) p).addFlags fl) true := by
  refine ⟨_, _, fun k hk => getLsbD_packElems _ hk, flagsOf_gather (en := fun _ => true) fun _ _ => by simp, _,
    by rw [hx, vcompare_ok h0 ht hb, finish_ok], ?_⟩
  rw [← operandB_pc hb, ← setP_pc u (d.setWidth 3)]
  exact State.advanceV_committed _

theorem exec_vfclass (ht : isVflt (s.getV a).tag = true) :
    exec (.vfclass pg a d) s = .next (s.setV d (mergeV (s.getV d) (if (s.getV a).tag = 6 then 4 else 3) (enabledBy (s.getP pg)) fun k =>
      classMask (s.getV a).tag ((s.getV a).elem k))).advanceV := by
  change execVfclass pg a d s = _
  simp only [execVfclass, vSource_ok (isVflt_ne_zero ht) ht, bind, Except.bind]
  rfl

end Sys2Proof.Machine
end

section

open Sys2Proof Sys2Proof.Machine

/-- Settles O18: the members of VFLT share a body for one operand and a body for two, and each writes what its body computes for the enabled
elements; a comparison packs a bit for each element. -/
theorem vectorFloat : Obligations.VectorFloat := by
  unfold Obligations.VectorFloat
  refine ⟨?arithmetic, ?conditions⟩
  case arithmetic =>
    rintro f g pg b a d o s _ rfl ht _ m rfl rfl
    refine ⟨?unary, fun y u hb => ⟨?binary, fun hd z hz => ?fma⟩⟩
    case unary =>
      suffices h : ∀ e ∈ g, exec (e.1 pg a d) s = s.finish (vfltUnary s pg a d e.2) from fun e he => givesV_vfltUnary (h e he) ht
      simp only [g, List.forall_mem_cons, List.not_mem_nil, false_implies, implies_true, and_true]
      exact ⟨rfl, rfl, rfl, rfl, rfl, rfl⟩
    case binary =>
      suffices h : ∀ e ∈ f, exec (e.1 pg b a o d) s = s.finish (vflt s pg b a o d e.2) from fun e he => givesV_vflt (h e he) ht hb
      simp only [f, List.forall_mem_cons, List.not_mem_nil, false_implies, implies_true, and_true]
      exact ⟨rfl, rfl, rfl, rfl, rfl, rfl, rfl⟩
    case fma =>
      obtain rfl : z = _ := funext hz
      exact givesV_vfltWrite (exec_vfma ht hb hd) (operandB_pc hb)
  case conditions =>
    rintro c pg b a d o s _ rfl ht
    refine ⟨?cls, fun y u hb => ?cmp⟩
    case cls => exact givesV_unflagged (exec_vfclass ht) (fun k _ => enabledBy_getP s pg k) fun _ _ _ => rfl
    case cmp => exact vcompare_completes (cond := fun t x y => floatCond t c.toNat x y) rfl (isVflt_ne_zero ht) ht hb

end

section
/-! SUPPORT. Movers, tags and predicates (R31, R167 to R169): what each lane, register or predicate takes. -/

namespace Sys2Proof.Machine

variable {s u : State} {pg : BitVec 3} {b a d : BitVec 5} {o : BitVec 2} {t : Tag} {i : Instr}

/-- An instruction that answers a committed state has completed over it. -/
theorem completes_advanceV (hx : exec i s = .next u.advanceV) (hpc : u.cx.pc = s.cx.pc) : Completes i s u true := by
  refine ⟨_, hx, ?_⟩
  rw [← hpc]
  exact State.advanceV_committed u

theorem vAny_ok (h : (s.getV a).tag ≠ 0) : s.vAny a = .ok (s.getV a) := if_pos h

/-! ## Movers (R167) -/

theorem exec_vperm (ha : (s.getV a).tag ≠ 0) (hb0 : (s.getV b).tag ≠ 0) (hb : (s.getV b).tag = indexTag (s.getV a).tag) :
    exec (.vperm pg b a d) s = .next (s.setV d (mergeV (s.getV d) (s.getV a).tag (enabledBy (s.getP pg)) fun k =>
      (s.getV a).elem ((s.getV b).elem k % tagElems (s.getV a).tag))).advanceV := by
  have hy : (decide ((s.getV b).tag = 0) || decide ((s.getV b).tag ≠ indexTag (s.getV a).tag)) = false := by
    rw [decide_eq_false hb0, decide_eq_false (not_not.mpr hb)]
    rfl
  change execVperm pg b a d s = _
  simp only [execVperm, vAny_ok ha, bind, Except.bind, hy]
  rfl

/-- Element `k` of VSLIDE's result: the element of v[a] that lies `n` below it, if there is one. -/
def VReg.slid (x : VReg) (n : Int) (k : Nat) : Nat :=
  if 0 ≤ (k : Int) - n ∧ (k : Int) - n < tagElems x.tag then x.elem ((k : Int) - n).toNat else 0

theorem exec_vslide (ha : (s.getV a).tag ≠ 0) :
    exec (.vslide pg b a o d) s = .next (s.setV d (mergeV (s.getV d) (s.getV a).tag (enabledBy (s.getP pg))
      ((s.getV a).slid (if o = 1 then (s.getX b).toInt else b.toInt)))).advanceV := by
  change execVslide pg b a o d s = _
  simp only [execVslide, vAny_ok ha, bind, Except.bind, Bool.and_eq_true, decide_eq_true_eq]
  rfl

/-- VMV.XV takes an element as it is, or the integer that it stands for (R43). -/
theorem exec_vmvXv {z : BitVec 1} (ha : (s.getV a).tag ≠ 0) {e : Nat} (he : e = (s.getV a).elem ((s.getX b).toNat % tagElems (s.getV a).tag)) :
    exec (.vmvXv b a z d) s = .next (s.setX d (if isInt (s.getV a).tag ∧ z = 0 then
      BitVec.ofInt 64 (BitVec.ofNat (tagWidth (s.getV a).tag) e).toInt else BitVec.ofNat 64 e)).advanceV := by
  change execVmvXv b a z d s = _
  simp only [execVmvXv, vAny_ok ha, bind, Except.bind, bitsInt_signed, ← he, Bool.and_eq_true, decide_eq_true_eq]
  rfl

theorem exec_vmvVx (hd : (s.getV d).tag ≠ 0) :
    exec (.vmvVx b a d) s = .next (s.setV d (mergeV (s.getV d) (s.getV d).tag
      (fun k => decide (k = (s.getX b).toNat % tagElems (s.getV d).tag)) fun _ => trimLane (s.getV d).tag (s.getX a).toNat)).advanceV := by
  change execVmvVx b a d s = _
  simp only [execVmvVx, vAny_ok hd, bind, Except.bind]
  rfl

theorem isLutIndex_iff : ∀ {t : Tag}, isLutIndex t = true ↔ t = 2 ∨ t = 13 ∨ t = 14 := by decide

theorem isLutIndex_ne_zero : ∀ {t : Tag}, isLutIndex t = true → t ≠ 0 := by decide

theorem exec_vlut {j : BitVec 2} (ha : isLutIndex (s.getV a).tag = true) (hb0 : (s.getV b).tag ≠ 0) (hb1 : (s.getV b).tag ≠ 1) :
    exec (.vlut pg b a j d) s = .next (s.setV d (mergeV (s.getV d) (s.getV b).tag (enabledBy (s.getP pg)) fun k =>
      (s.getV b).elem ((s.getV a).elem (j.toNat * tagElems (s.getV b).tag % 128 + k) % 16))).advanceV := by
  change execVlut pg b a j d s = _
  simp only [execVlut, vSource_ok (isLutIndex_ne_zero ha) ha, vSource_ok (ok := fun t => decide (t ≠ 1)) hb0 (decide_eq_true hb1), bind,
    Except.bind]
  rfl

/-! ## Tags (R168) -/

/-- The lanes of a register under a new tag. -/
theorem retag_written (old : VReg) (t : Tag) (bits : BitVec 1024) :
    VWritten old (retag t bits) t (fun _ => True) fun k => elemOf (tagWidth t) bits k % 2 ^ laneBits t :=
  ⟨rfl, fun _ hk => ⟨fun _ => elemOf_packElems _ (tagWidth_mul_tagElems t) hk, fun h => absurd trivial h⟩⟩

theorem exec_vsettag (ht : t ≠ 0) (ha : (s.getV a).tag ≠ 0) :
    exec (.vsettag t a d) s = .next (s.setV d (retag t (s.getV a).bits)).advanceV := by
  change execVsettag t a d s = _
  simp only [execVsettag, if_neg ht, vAny_ok ha, bind, Except.bind]
  rfl

/-- VSETTAG gives the bits of v[a] another tag, and sets no flag. -/
theorem givesV_vsettag (ht : t ≠ 0) (ha : (s.getV a).tag ≠ 0) :
    GivesV (.vsettag t a d) s s d t (fun _ => True) (fun k => elemOf (tagWidth t) (s.getV a).bits k % 2 ^ laneBits t) fun _ => 0 := by
  refine ⟨_, 0, retag_written .., flagsOf_zero, ?_⟩
  rw [addFlags_zero]
  exact completes_advanceV (exec_vsettag ht ha) rfl

/-! ## Predicates (R31, R169) -/

/-- p0 reads all ones. -/
theorem getP_eq (s : State) (r : BitVec 3) : s.getP r = if r = 0 then BitVec.allOnes 128 else s.cx.p.get r.toFin :=
  if_congr (by rw [← BitVec.toNat_inj, Fin.ext_iff]; rfl) rfl rfl

/-- An instruction that answers a predicate completes over the state in which it is written. -/
theorem completes_setP {r : BitVec 3} {p : BitVec 128} (hx : exec i s = .next (s.setP r p).advanceV) : Completes i s (s.setP r p) true :=
  completes_advanceV hx (setP_pc ..)

theorem firstOne_of_exists {p : BitVec 128} (h : ∃ k < 128, p.getLsbD k = true) :
    firstOne p < 128 ∧ p.getLsbD (firstOne p) = true ∧ ∀ k < firstOne p, p.getLsbD k = false := by
  obtain ⟨k, hk, hp⟩ := h
  obtain ⟨f, hf⟩ := Option.isSome_iff_exists.mp (List.find?_isSome.mpr ⟨k, List.mem_range.mpr hk, hp⟩)
  obtain ⟨hone, hlt, hlow⟩ := List.find?_range_eq_some.mp hf
  rw [firstOne, hf]
  exact ⟨List.mem_range.mp hlt, hone, fun j hj => by simpa using hlow j hj⟩

theorem firstOne_of_zero {p : BitVec 128} (h : ∀ k < 128, p.getLsbD k = false) : firstOne p = 128 := by
  have hnone : ((List.range 128).find? fun k => p.getLsbD k) = none :=
    List.find?_eq_none.mpr fun k hk => by simp [h k (List.mem_range.mp hk)]
  rw [firstOne, hnone]
  rfl

theorem countOnes_eq (p : BitVec 128) : countOnes p = (List.range 128).countP fun k => p.getLsbD k :=
  List.countP_eq_length_filter.symm

end Sys2Proof.Machine
end

section

open Sys2Proof Sys2Proof.Machine

/-- Settles O20: each mover merges its lanes into v[d] under its predicate, and each predicate instruction reads through p0's ones and writes
past it. -/
theorem vectorMoves : Obligations.VectorMoves := by
  unfold Obligations.VectorMoves
  refine ⟨?movers, ?predicates⟩
  case movers =>
    rintro pg b a d z f j o s _ _ rfl rfl _ rfl
    have hen (t : Tag) : ∀ k < tagElems t, enabledBy (s.getP pg) k = true ↔ Enabled s pg k := fun k _ => enabledBy_getP s pg k
    refine ⟨fun ha hb0 hb => ?perm, ?slide, fun _ => ?bcast, ?xv, fun hd => ?vx, fun ha hb0 hb1 => ?lut, ?release, givesV_vsettag, ?tag⟩
    case perm => exact givesV_unflagged (exec_vperm ha hb0 hb) (hen _) fun _ _ _ => rfl
    case slide =>
      rintro ha - _ rfl
      exact givesV_unflagged (exec_vslide ha) (hen _) fun _ _ _ => rfl
    case bcast => exact givesV_unflagged rfl (hen f) fun _ _ _ => rfl
    case xv =>
      rintro ha v hv
      exact completes_advanceV (exec_vmvXv ha hv) (Ctx.setX_pc ..)
    case vx => exact givesV_unflagged (exec_vmvVx hd) (fun _ _ => decide_eq_true_iff) fun _ _ _ => rfl
    case lut => exact givesV_unflagged (exec_vlut (isLutIndex_iff.mpr ha) hb0 hb1) (hen _) fun _ _ _ => rfl
    case release => exact completes_advanceV rfl rfl
    case tag => exact completes_advanceV rfl (Ctx.setX_pc ..)
  case predicates =>
    rintro b a d e s x y hx hy put
    obtain rfl : x = s.getP a := hx.trans (getP_eq s a).symm
    obtain rfl : y = s.getP b := hy.trans (getP_eq s b).symm
    refine ⟨completes_setP rfl, completes_setP rfl, completes_setP rfl, completes_setP rfl, ?count, firstOne (s.getP a),
      firstOne_of_exists, firstOne_of_zero, ?first⟩
    case count =>
      rw [← countOnes_eq]
      exact completes_advanceV rfl (Ctx.setX_pc ..)
    case first => exact completes_advanceV rfl (Ctx.setX_pc ..)

end

section
/-! SUPPORT. Tiles (R170, R171): the cells of a packed tile, tiles under another tag, and how wide a converted element is. -/

namespace Sys2Proof.Machine

/-! ## Packed values -/

/-- A value is its digits, packed. -/
theorem packElems_digits (w v : Nat) : ∀ n, packElems w (fun i => (v >>> (w * i)) % 2 ^ w) n = v % 2 ^ (w * n)
  | 0 => by simp [packElems, Nat.mod_one]
  | n + 1 => by
    rw [packElems_succ, packElems_digits w v n, Nat.mod_mod, Nat.shiftRight_eq_div_pow, Nat.mul_succ, pow_add, Nat.mod_mul]

/-- A word is its digits, packed. -/
theorem ofNat_packElems_digits {w n m : Nat} (h : w * n = m) (v : BitVec m) :
    BitVec.ofNat m (packElems w (fun i => (v.toNat >>> (w * i)) % 2 ^ w) n) = v := by
  subst h
  rw [packElems_digits, Nat.mod_eq_of_lt v.isLt, BitVec.ofNat_toNat, BitVec.setWidth_eq]

theorem packElems_zero (w n : Nat) : packElems w (fun _ => 0) n = 0 := by
  induction n with
  | zero => rfl
  | succ n ih => rw [packElems_succ, ih, Nat.zero_mod, Nat.mul_zero]

/-! ## The cells of a tile (R171) -/

variable {m : MReg} {f t : Tag} {r c : Nat}

theorem tile_index (hc : c < 64) : (64 * r + c) / 64 = r ∧ (64 * r + c) % 64 = c := by omega

theorem packTile_cell (t : Tag) (g : Nat → Nat → Nat) (side : BitVec 2048) (hr : r < 64) (hc : c < 64) :
    (⟨t, packTile g, side⟩ : MReg).cell r c = g r c % 65536 := by
  obtain ⟨hdiv, hmod⟩ := tile_index (r := r) hc
  have hcell := packElems_elem 16 (fun i => g (i / 64) (i % 64)) (i := 64 * r + c) (n := 4096) (by omega)
  rw [hdiv, hmod] at hcell
  rw [MReg.cell, packTile, toNat_ofNat_packElems _ (by norm_num), Nat.shiftRight_eq_div_pow]
  exact hcell

/-- A tile is its cells, packed. -/
theorem packTile_cells (m : MReg) : packTile m.cell = m.elems := by
  have hcells : (fun i => m.cell (i / 64) (i % 64)) = fun i => (m.elems.toNat >>> (16 * i)) % 2 ^ 16 := funext fun i => by
    rw [MReg.cell, Nat.div_add_mod]
    rfl
  rw [packTile, hcells]
  exact ofNat_packElems_digits (by norm_num) m.elems

theorem packTile_zero : packTile (fun _ _ => 0) = 0 := by
  rw [packTile, packElems_zero]
  rfl

/-- The values that an element of a tile may take. -/
def tileLane (t : Tag) : Nat := if tagWidth t = 8 then 256 else 65536

theorem tileLane_dvd (t : Tag) : tileLane t ∣ 65536 := by
  unfold tileLane
  split <;> decide

theorem tileLane_pos (t : Tag) : 0 < tileLane t := Nat.pos_of_dvd_of_pos (tileLane_dvd t) (by decide)

theorem tileLane_le (t : Tag) : tileLane t ≤ 65536 := Nat.le_of_dvd (by decide) (tileLane_dvd t)

theorem cell_mod (m : MReg) (r c : Nat) : m.cell r c % tileLane m.tag = m.elem r c := rfl

theorem tileElem_lt (m : MReg) (r c : Nat) : m.elem r c < tileLane m.tag := Nat.mod_lt _ (tileLane_pos _)

theorem tileElem_mod (m : MReg) (r c : Nat) : m.elem r c % tileLane m.tag = m.elem r c % 65536 := by
  rw [Nat.mod_eq_of_lt (tileElem_lt m r c), Nat.mod_eq_of_lt ((tileElem_lt m r c).trans_le (tileLane_le _))]

/-- What a packed tile holds. -/
theorem mWritten_packTile {g h : Nat → Nat → Nat} {side : BitVec 2048}
    (he : ∀ r < 64, ∀ c < 64, g r c % tileLane t = h r c % 65536) : MWritten ⟨t, packTile g, side⟩ t side h := by
  refine ⟨rfl, rfl, fun r hr c hc => ?_⟩
  rw [← he r hr c hc, ← cell_mod, packTile_cell t g side hr hc]
  exact Nat.mod_mod_of_dvd _ (tileLane_dvd t)

/-- An instruction that packs a tile into m[d] gives its elements. -/
theorem givesM_packTile {i : Instr} {s : State} {d : BitVec 3} {g h : Nat → Nat → Nat} {side : BitVec 2048}
    (hx : exec i s = .next (s.setM d ⟨t, packTile g, side⟩).advanceV) (he : ∀ r < 64, ∀ c < 64, g r c % tileLane t = h r c % 65536) :
    GivesM i s s d t side h := ⟨_, mWritten_packTile he, completes_advanceV hx rfl⟩

/-! ## Moves (R171) -/

variable {s : State} {a d : BitVec 3}

theorem isTileTag_ne_zero : ∀ {t : Tag}, isTileTag t = true → t ≠ 0 := by decide

theorem tileTag_lane : ∀ {t : Tag}, isTileTag t = true → tileLane t = 2 ^ tagWidth t := by decide

theorem tileTag_width : ∀ {t : Tag}, isTileTag t = true → tagWidth t ≠ 8 → tagWidth t = 16 ∧ laneBits t = 16 := by decide

theorem tileSource_ok (h : isTileTag (s.getM a).tag = true) : s.tileSource a = .ok (s.getM a) := if_pos h

theorem exec_tmov (h : isTileTag (s.getM a).tag = true) : exec (.tmov a d) s = .next (s.setM d (s.getM a)).advanceV := by
  change execTmov a d s = _
  rw [execTmov, tileSource_ok h]
  rfl

theorem exec_ttrans (h : isTileTag (s.getM a).tag = true) (hq : (s.getM a).tag ≠ 14) :
    exec (.ttrans a d) s = .next (s.setM d ⟨(s.getM a).tag, packTile fun r c => (s.getM a).elem c r, 0⟩).advanceV := by
  change execTtrans a d s = _
  simp only [execTtrans, tileSource_ok h, bind, Except.bind, if_neg hq]
  rfl

theorem exec_tpick {b e : BitVec 5} {c : BitVec 1} (h : isTileTag (s.getM a).tag = true) :
    exec (.tpick b a c e) s = .next (s.setV e (mergeV (s.getV e) (s.getM a).tag (fun _ => true) fun i => if i < 64 then
      (if c = 0 then (s.getM a).elem ((s.getX b).toNat % 64) i else (s.getM a).elem i ((s.getX b).toNat % 64)) else 0)).advanceV := by
  change execTpick b a c e s = _
  simp only [execTpick, tileSource_ok h, bind, Except.bind]
  rfl

/-- The cells that TPLACE leaves: row or column `k` takes the elements of a vector, and the rest of an old tile of the same tag stays. -/
def tplaceCell (old : MReg) (y : VReg) (c : BitVec 1) (k r q : Nat) : Nat :=
  if (if c = 0 then r else q) = k then y.elem (if c = 0 then q else r) else if decide (old.tag = y.tag) then old.cell r q else 0

theorem exec_tplace {b v : BitVec 5} {c : BitVec 1} (h : isTileTag (s.getV v).tag = true) :
    exec (.tplace b v c d) s = .next (s.setM d ⟨(s.getV v).tag, packTile (tplaceCell (s.getM d) (s.getV v) c ((s.getX b).toNat % 64)),
      if decide ((s.getM d).tag = (s.getV v).tag) then (s.getM d).side else 0⟩).advanceV := by
  change execTplace b v c d s = _
  simp only [execTplace, vSource_ok (isTileTag_ne_zero h) h, bind, Except.bind]
  rfl

theorem tplaceCell_mod {old : MReg} {y : VReg} (hy : isTileTag y.tag = true) (c : BitVec 1) (k r q : Nat) :
    tplaceCell old y c k r q % tileLane y.tag = (if c = 0 ∧ r = k then y.elem q else if c = 1 ∧ q = k then y.elem r else
      if decide (old.tag = y.tag) then old.elem r q else 0) % 65536 := by
  have hnew : ∀ j, y.elem j % tileLane y.tag = y.elem j % 65536 := fun j => by
    have hlt : y.elem j < tileLane y.tag := tileTag_lane hy ▸ elemOf_lt ..
    rw [Nat.mod_eq_of_lt hlt, Nat.mod_eq_of_lt (hlt.trans_le (tileLane_le _))]
  have hold : (if decide (old.tag = y.tag) then old.cell r q else 0) % tileLane y.tag =
      (if decide (old.tag = y.tag) then old.elem r q else 0) % 65536 := by
    by_cases ht : old.tag = y.tag
    · rw [if_pos (decide_eq_true ht), if_pos (decide_eq_true ht), ← ht, cell_mod,
        Nat.mod_eq_of_lt ((tileElem_lt old r q).trans_le (tileLane_le _))]
    · rw [if_neg (by simpa using ht), if_neg (by simpa using ht), Nat.zero_mod, Nat.zero_mod]
  have hbit : c = 0 ∨ c = 1 := by revert c; decide
  unfold tplaceCell
  rcases hbit with rfl | rfl
  · by_cases hk : r = k
    · simp [hk, hnew]
    · simpa [hk] using hold
  · by_cases hk : q = k
    · simp [hk, hnew]
    · simpa [hk] using hold

/-! ## Tags (R171) -/

theorem exec_ttagSet (hf : f ≠ 0) (hd : (s.getM d).tag ≠ 0) :
    exec (.ttagSet f d) s = .next (s.setM d ((s.getM d).retag f)).advanceV := by
  change execTtagSet f d s = _
  simp only [execTtagSet, if_neg hf, if_neg hd, finish_ok]

theorem getM_advanceV (s : State) (d : BitVec 3) : s.advanceV.getM d = s.getM d := rfl

theorem getM_written (s : State) (d : BitVec 3) (m : MReg) : (s.setM d m).advanceV.getM d = m := by
  rw [getM_advanceV, State.getM_setM, if_pos rfl]

/-- Retagging clears bits of a cell, and sets none. -/
theorem trimCell_le (f : Tag) (v : Nat) : trimCell f v ≤ v := by
  unfold trimCell
  split
  · calc v / 256 * 256 + trimLane f (v % 256) ≤ v / 256 * 256 + v % 256 := Nat.add_le_add_left (Nat.mod_le ..) _
      _ = v := Nat.div_add_mod' v 256
  · exact le_rfl

theorem trimCell_full (h : laneBits f = tagWidth f) (v : Nat) : trimCell f v = v := by
  unfold trimCell
  split
  · next hw =>
    rw [trimLane, h, hw]
    exact (congrArg (v / 256 * 256 + ·) (Nat.mod_mod v 256)).trans (Nat.div_add_mod' v 256)
  · rfl

theorem trimCell_zero (f : Tag) : trimCell f 0 = 0 := Nat.le_zero.mp (trimCell_le f 0)

/-- An element of a retagged cell is the old one without the bits above its format. -/
theorem trimCell_mod (h : isTileTag f = true) (v : Nat) : trimCell f v % tileLane f = v % tileLane f % 2 ^ laneBits f := by
  unfold trimCell tileLane
  split
  · have hlt : trimLane f (v % 256) < 256 := (Nat.mod_le ..).trans_lt (Nat.mod_lt _ (by decide))
    rw [Nat.mul_add_mod_self_right, Nat.mod_eq_of_lt hlt, trimLane]
  · next hw =>
    rw [(tileTag_width h hw).2]
    exact (Nat.mod_mod v 65536).symm

theorem cellsFor_same (hw : tagWidth f = tagWidth m.tag) : m.cellsFor f = m.elems := if_pos hw

theorem cellsFor_narrow (hw : tagWidth f ≠ tagWidth m.tag) (h8 : tagWidth f = 8) : m.cellsFor f = permuteBits Config.tileLayout m.elems :=
  (if_neg hw).trans (if_pos h8)

theorem cellsFor_wide (hw : tagWidth f ≠ tagWidth m.tag) (h8 : tagWidth f ≠ 8) : m.cellsFor f = permuteBits Config.tileLayout.symm m.elems :=
  (if_neg hw).trans (if_neg h8)

theorem retag_elem (hf : isTileTag f = true) (hw : tagWidth f = tagWidth m.tag) (hr : r < 64) (hc : c < 64) :
    (m.retag f).elem r c = m.elem r c % 2 ^ laneBits f := by
  have hlane : tileLane f = tileLane m.tag := by rw [tileLane, hw, tileLane]
  rw [← cell_mod, MReg.retag, packTile_cell _ _ _ hr hc, cellsFor_same hw]
  exact (Nat.mod_mod_of_dvd _ (tileLane_dvd f)).trans ((trimCell_mod hf _).trans (by rw [hlane]; rfl))

/-- A tag of which a cell holds every bit keeps the cells. -/
theorem retag_full (h : laneBits f = tagWidth f) : m.retag f = ⟨f, m.cellsFor f, m.side⟩ := by
  simp only [MReg.retag, trimCell_full h]
  rw [packTile_cells]

theorem permuteBits_symm_cancel (p : Equiv.Perm (Fin 65536)) (v : BitVec 65536) : permuteBits p.symm (permuteBits p v) = v := by
  refine BitVec.eq_of_getLsbD_eq fun i hi => ?_
  simp [permuteBits, hi]

theorem permuteBits_cancel_symm (p : Equiv.Perm (Fin 65536)) (v : BitVec 65536) : permuteBits p (permuteBits p.symm v) = v := by
  have h := permuteBits_symm_cancel p.symm v
  rwa [Equiv.symm_symm] at h

/-- The cells come back with the tag, whichever of the two is of the narrower elements. -/
theorem cellsFor_back (hf : isTileTag f = true) (hm : isTileTag m.tag = true) :
    (⟨f, m.cellsFor f, m.side⟩ : MReg).cellsFor m.tag = m.elems := by
  by_cases hw : tagWidth f = tagWidth m.tag
  · exact (cellsFor_same hw.symm).trans (cellsFor_same hw)
  by_cases h8 : tagWidth f = 8
  · have hm8 : tagWidth m.tag ≠ 8 := fun h => hw (h8.trans h.symm)
    rw [cellsFor_wide (Ne.symm hw) hm8, cellsFor_narrow hw h8, permuteBits_symm_cancel]
  · have hm8 : tagWidth m.tag = 8 := by
      by_contra hne
      exact hw ((tileTag_width hf h8).1.trans (tileTag_width hm hne).1.symm)
    rw [cellsFor_narrow (Ne.symm hw) hm8, cellsFor_wide hw h8, permuteBits_cancel_symm]

theorem retag_back (hf : isTileTag f = true) (hm : isTileTag m.tag = true) (hlf : laneBits f = tagWidth f)
    (hlm : laneBits m.tag = tagWidth m.tag) : (m.retag f).retag m.tag = m := by
  rw [retag_full hlf, retag_full hlm, cellsFor_back hf hm]

theorem permuteBits_zero (p : Equiv.Perm (Fin 65536)) : permuteBits p 0 = 0 := by
  refine BitVec.eq_of_getLsbD_eq fun i hi => ?_
  simp [permuteBits, BitVec.getLsbD_ofFnLE]

theorem cellsFor_zero (h : m.elems = 0) (f : Tag) : m.cellsFor f = 0 := by
  rw [MReg.cellsFor, h, permuteBits_zero, permuteBits_zero, ite_self, ite_self]

theorem cell_zero (h : m.elems = 0) : m.cell r c = 0 := by
  have h0 : m.elems.toNat = 0 := (congrArg BitVec.toNat h).trans BitVec.toNat_zero
  rw [MReg.cell, h0, Nat.zero_shiftRight, Nat.zero_mod]

theorem retag_zero (h : m.elems = 0) (f : Tag) : m.retag f = ⟨f, 0, m.side⟩ := by
  have hcell : ∀ r c, trimCell f ((⟨f, 0, m.side⟩ : MReg).cell r c) = 0 := fun r c => by rw [cell_zero rfl, trimCell_zero]
  simp only [MReg.retag, cellsFor_zero h, hcell]
  rw [packTile_zero]

/-! ## The width of a converted element (R44, R59, R60) -/

/-- Every encoding that conversion into a format may answer lies below a bound. -/
structure Fmt.Below (t : Fmt) (n : Nat) : Prop where
  nan : t.nanBits < n
  inf : ∀ neg, t.infBits neg < n
  max : ∀ neg, t.maxBits neg < n
  top : ∀ neg, t.sign neg + ((t.emax - t.emin).toNat + 1) * 2 ^ t.man < n

variable {x : Fmt} {n : Nat}

theorem sign_lt (h : x.Below n) (neg : Bool) : x.sign neg < n := (Nat.le_add_right ..).trans_lt (h.top neg)

theorem overflow_lt (h : x.Below n) (rm : Nat) (sat neg : Bool) : x.overflow rm sat neg < n := by
  have hite : ∀ {c : Prop} [Decidable c] {k l : Nat}, k < n → l < n → (if c then k else l) < n := fun hk hl => by split <;> assumption
  exact hite (h.max neg) (hite (hite (h.inf neg) h.nan) (h.max neg))

/-- A magnitude in units of its last mantissa place, cut to a whole number, has no more bits than the mantissa. -/
theorem scaled_lt {mag man : Nat} {e qe : Int} (h : e + mag.log2 - man ≤ qe) :
    (mag <<< (e - qe).toNat) / 2 ^ (qe - e).toNat < 2 ^ (man + 1) := by
  refine Nat.div_lt_of_lt_mul ?_
  calc mag <<< (e - qe).toNat = mag * 2 ^ (e - qe).toNat := Nat.shiftLeft_eq ..
    _ < 2 ^ (mag.log2 + 1) * 2 ^ (e - qe).toNat := Nat.mul_lt_mul_of_pos_right Nat.lt_log2_self (Nat.two_pow_pos _)
    _ = 2 ^ (mag.log2 + 1 + (e - qe).toNat) := (pow_add ..).symm
    _ ≤ 2 ^ ((qe - e).toNat + (man + 1)) := Nat.pow_le_pow_right Nat.two_pos (by omega)
    _ = 2 ^ (qe - e).toNat * 2 ^ (man + 1) := pow_add ..

/-- A rounded magnitude that does not overflow: one place below the top exponent there is room for a carry, and at the top the mantissa is
bounded. -/
theorem encoding_lt {m : Nat} {qe : Int} (h : x.Below n) (hm : m ≤ 2 ^ (x.man + 1)) (hlow : x.emin - x.man ≤ qe)
    (hq : ¬ (decide (x.emax - x.man < qe) || (decide (qe = x.emax - x.man) && decide (x.maxMan < m))) = true) (neg : Bool) :
    x.sign neg + (qe - (x.emin - x.man)).toNat * 2 ^ x.man + m < n := by
  simp only [Bool.or_eq_true, Bool.and_eq_true, decide_eq_true_eq, not_or, not_and, not_lt] at hq
  obtain ⟨hle, hmax⟩ := hq
  obtain htop | hbelow := hle.eq_or_lt
  · have hk : (qe - (x.emin - x.man)).toNat = (x.emax - x.emin).toNat := by omega
    have hbits := h.max neg
    rw [Fmt.maxBits] at hbits
    rw [hk]
    exact (Nat.add_le_add_left (hmax htop) _).trans_lt hbits
  · have hk : (qe - (x.emin - x.man)).toNat + 2 ≤ (x.emax - x.emin).toNat + 1 := by omega
    calc x.sign neg + (qe - (x.emin - x.man)).toNat * 2 ^ x.man + m
        ≤ x.sign neg + ((qe - (x.emin - x.man)).toNat + 2) * 2 ^ x.man := by rw [pow_succ] at hm; rw [Nat.add_mul]; omega
      _ ≤ x.sign neg + ((x.emax - x.emin).toNat + 1) * 2 ^ x.man := Nat.add_le_add_left (Nat.mul_le_mul_right _ hk) _
      _ < n := h.top neg

theorem roundFin_lt (h : x.Below n) (rm : Nat) (sat neg : Bool) (mag : Nat) (e : Int) (tail : Bool) :
    (x.roundFin rm sat neg mag e tail).bits < n := by
  unfold Fmt.roundFin
  extract_lets top qe up down unit m0 rem m inexact fl qmax
  have hm0 : m0 < 2 ^ (x.man + 1) := scaled_lt (by omega)
  have hm : m ≤ 2 ^ (x.man + 1) := by
    unfold m
    split <;> omega
  split
  · exact overflow_lt h ..
  · next hq => exact encoding_lt h hm (by omega) hq neg

theorem convert_lt (h : x.Below n) (rm : Nat) (sat : Bool) (y : Num) : (x.convert rm sat y).bits < n := by
  cases y with
  | nan sig neg =>
    dsimp only [Fmt.convert]
    split
    · exact h.nan
    · exact h.max neg
  | inf neg =>
    dsimp only [Fmt.convert]
    unfold Fmt.fromInf
    split_ifs
    · exact h.max neg
    · exact h.inf neg
    · exact h.max neg
    · exact h.nan
    · exact h.max neg
  | fin neg mag e tail =>
    dsimp only [Fmt.convert, Fmt.round]
    split
    · exact sign_lt h neg
    · exact roundFin_lt h ..

theorem intBits_lt (w : Nat) (v : Int) : intBits w v < 2 ^ w := by
  have hpos : (0 : Int) < 2 ^ w := by positivity
  have hlt := Int.emod_lt_of_pos v hpos
  rw [intBits]
  zify
  omega

theorem toIntConvert_lt (w : Nat) (uns : Bool) (rm : Nat) (y : Num) : (toIntConvert w uns rm y).bits < 2 ^ w := by
  cases y with
  | nan sig neg => exact Nat.two_pow_pos w
  | inf neg => exact intBits_lt ..
  | fin neg mag e tail =>
    dsimp only [toIntConvert]
    split
    · exact intBits_lt ..
    · split <;> exact intBits_lt ..

theorem below_e4m3 : e4m3.Below 256 := ⟨by decide, by decide, by decide, by decide⟩
theorem below_e5m2 : e5m2.Below 256 := ⟨by decide, by decide, by decide, by decide⟩
theorem below_e3m2 : e3m2.Below 256 := ⟨by decide, by decide, by decide, by decide⟩
theorem below_e2m3 : e2m3.Below 256 := ⟨by decide, by decide, by decide, by decide⟩
theorem below_e2m1 : e2m1.Below 256 := ⟨by decide, by decide, by decide, by decide⟩

theorem narrow_formats : ∀ {f : Tag}, tagWidth f = 8 → ∀ x ∈ fmtOf f, x = e4m3 ∨ x = e5m2 ∨ x = e3m2 ∨ x = e2m3 ∨ x = e2m1 := by decide

theorem narrow_below (hf : tagWidth f = 8) (hx : fmtOf f = some x) : x.Below 256 := by
  rcases narrow_formats hf x hx with rfl | rfl | rfl | rfl | rfl
  · exact below_e4m3
  · exact below_e5m2
  · exact below_e3m2
  · exact below_e2m3
  · exact below_e2m1

theorem narrow_int : ∀ {f : Tag}, tagWidth f = 8 → ∀ w ∈ intWidth f, w = 8 := by decide

/-- A number converted into a tag of 8-bit elements. -/
theorem convertElem_lt (hf : tagWidth f = 8) (src : Tag) (uns : Bool) (rm : Nat) (sat : Bool) (e : Nat) :
    (convertElem src f uns rm sat e).bits < 256 := by
  unfold convertElem
  split
  · next hx => exact convert_lt (narrow_below hf hx) ..
  · next hw _ =>
    obtain rfl := narrow_int hf _ hw
    exact intBits_lt ..
  · next hw _ =>
    obtain rfl := narrow_int hf _ hw
    exact toIntConvert_lt ..
  · exact Nat.two_pow_pos 8

theorem tileConvert_lt (hf : tagWidth f = 8) (m : MReg) (rm : Nat) (sat : Bool) (r c : Nat) : (tileConvert m f rm sat r c).bits < 256 := by
  unfold tileConvert
  split
  · dsimp only
    split
    · next hx => exact convert_lt (narrow_below hf hx) ..
    · next hw =>
      obtain rfl := narrow_int hf _ hw
      exact toIntConvert_lt ..
    · exact Nat.two_pow_pos 8
  · exact convertElem_lt hf ..

theorem tileConvert_mod (m : MReg) (f : Tag) (rm : Nat) (sat : Bool) (r c : Nat) :
    (tileConvert m f rm sat r c).bits % tileLane f = (tileConvert m f rm sat r c).bits % 65536 := by
  by_cases hf : tagWidth f = 8
  · have hlt := tileConvert_lt hf m rm sat r c
    rw [tileLane, if_pos hf, Nat.mod_eq_of_lt hlt, Nat.mod_eq_of_lt (hlt.trans (by decide))]
  · rw [tileLane, if_neg hf]

/-! ## TCVT and TQSET (R170 to R172) -/

theorem lacksNan_eq_false (h : f.toNat < 11 ∨ 14 < f.toNat) : lacksNan f = false := by
  simp only [lacksNan, Bool.and_eq_false_iff, decide_eq_false_iff_not]
  omega

/-- No NaN is lost where NLT is 0 or the target has one. -/
theorem noNan_lost {nan : Nat → Bool} (h : (s.cx.nlt && lacksNan f) = false) :
    ((List.range 4096).find? fun i => s.cx.nlt && lacksNan f && nan i) = none :=
  List.find?_eq_none.mpr fun _ _ => by rw [h]; exact Bool.false_ne_true

/-- The flags of a conversion of every element of a tile. -/
def tileFlags (g : Nat → Nat → Rounded) : VFlags := gatherFlags (fun _ => true) (fun i => (g (i / 64) (i % 64)).flags) 4096

theorem tcvt_ok {rl : BitVec 3} {sat : Bool} (h : isTileTag (s.getM a).tag = true) (hn : (s.cx.nlt && lacksNan f) = false) :
    tcvt s f a rl d sat = .ok ((s.setM d ⟨f, packTile fun r c => (tileConvert (s.getM a) f (tcvtMode s.cx rl) sat r c).bits, 0⟩).addFlags
      (tileFlags (tileConvert (s.getM a) f (tcvtMode s.cx rl) sat))).advanceV := by
  simp only [tcvt, tileSource_ok h, bind, Except.bind, noNan_lost hn, tileFlags, gatherFlags, if_true]
  rfl

/-- A conversion of a tile writes every element with its flags, and zeroes the side band (R171). -/
theorem tcvt_completes {i : Instr} {rl : BitVec 3} {sat : Bool} (hx : exec i s = s.finish (tcvt s f a rl d sat))
    (h : isTileTag (s.getM a).tag = true) (hn : (s.cx.nlt && lacksNan f) = false) :
    ∃ m fl, MWritten m f 0 (fun r q => (tileConvert (s.getM a) f (tcvtMode s.cx rl) sat r q).bits) ∧
      FlagsOf fl 4096 (fun _ => True) (fun j => (tileConvert (s.getM a) f (tcvtMode s.cx rl) sat (j / 64) (j % 64)).flags) ∧
      Completes i s ((s.setM d m).addFlags fl) true :=
  ⟨_, _, mWritten_packTile fun _ _ _ _ => tileConvert_mod .., flagsOf_gather (en := fun _ => true) fun _ _ => by simp,
    completes_advanceV (by rw [hx, tcvt_ok h hn, finish_ok]; rfl) rfl⟩

theorem isQuantSource_iff : ∀ {t : Tag}, isQuantSource t = true ↔ t = 7 ∨ t = 8 ∨ t = 9 ∨ t = 10 := by decide

theorem exec_tqset (h : isQuantSource (s.getM a).tag = true) (hn : s.cx.nlt = false) :
    exec (.tqset a d) s = .next ((s.setM d (quantiseTile (s.getM a)).1).addFlags (quantiseTile (s.getM a)).2).advanceV := by
  have hnone : ((List.range 4096).find? fun i => s.cx.nlt && ((s.getM a).value (i / 64) (i % 64)).num.isNan) = none :=
    List.find?_eq_none.mpr fun _ _ => by rw [hn]; exact Bool.false_ne_true
  change execTqset a d s = _
  simp only [execTqset, h, hnone, Bool.not_true, Bool.false_eq_true, if_false]
  generalize quantiseTile (s.getM a) = q
  rfl

end Sys2Proof.Machine
end

section

open Sys2Proof Sys2Proof.Machine

/-- Settles O21: a tile is its packed cells, so that a tag under which a cell keeps every bit gives it back; and an element converted into a
tag of eight bits has no more than eight. -/
theorem tileMoves : Obligations.TileMoves := by
  unfold Obligations.TileMoves
  refine ⟨?moves, ?conversions⟩
  case moves =>
    rintro a d b e v c f s _ rfl _ rfl
    refine ⟨completes_advanceV rfl rfl, fun ht => ⟨completes_advanceV (exec_tmov ht) rfl, fun hq => ?trans, ?pick⟩, ?place,
      completes_advanceV rfl rfl, fun hf hd hw => ?retag, ?back, fun hf hd h0 => ?zero, completes_advanceV rfl (Ctx.setX_pc ..)⟩
    case trans => exact givesM_packTile (exec_ttrans ht hq) fun _ _ _ _ => tileElem_mod ..
    case pick => exact givesV_unflagged (exec_tpick ht) (fun _ _ => by simp) fun _ _ _ => rfl
    case place =>
      rintro _ rfl hy _ rfl
      exact givesM_packTile (exec_tplace hy) fun r _ q _ => tplaceCell_mod hy c _ r q
    case retag =>
      exact ⟨(s.getM d).retag f, rfl, rfl, fun _ hr _ hc => retag_elem hf hw hr hc,
        completes_advanceV (exec_ttagSet (isTileTag_ne_zero hf) (isTileTag_ne_zero hd)) rfl⟩
    case back =>
      rintro y rfl hf hd hlf hld
      have hset : (s.setM d ((s.getM d).retag f)).advanceV.getM d = (s.getM d).retag f := getM_written ..
      have htag : ((s.setM d ((s.getM d).retag f)).advanceV.getM d).tag = f := by rw [hset]; rfl
      refine ⟨_, _, exec_ttagSet (isTileTag_ne_zero hf) (isTileTag_ne_zero hd), htag,
        exec_ttagSet (isTileTag_ne_zero hd) (by rw [htag]; exact isTileTag_ne_zero hf), ?_⟩
      rw [getM_written, hset, retag_back hf hd hlf hld]
    case zero =>
      rw [← retag_zero h0 f]
      exact completes_advanceV (exec_ttagSet (isTileTag_ne_zero hf) hd) rfl
  case conversions =>
    rintro a d f rl s _ rfl mode hmode done
    obtain rfl : mode = tcvtMode s.cx rl := hmode
    refine ⟨fun ht hn => ?convert, fun hq hn => completes_advanceV (exec_tqset (isQuantSource_iff.mpr hq) hn) rfl⟩
    have hkept : (s.cx.nlt && lacksNan f) = false := by
      rcases hn with hn | hn
      · rw [show s.cx.nlt = false from hn, Bool.false_and]
      · rw [lacksNan_eq_false hn, Bool.and_false]
    exact ⟨tcvt_completes rfl ht hkept, tcvt_completes rfl ht hkept, tcvt_completes rfl ht hkept⟩

end

section
/-! SUPPORT. The elements of a vector load (R156, R217): where they are placed, which of them stops it, and what the loads answer. -/

namespace Sys2Proof.Machine

variable {s u : State} {t : Target} {h n m w : Nat} {first : Word} {addr : ElemAddr} {g : Nat → Target}

/-! ## Placing the elements (R217) -/

/-- Element `k` of a vector load is aligned and gets its target. -/
def State.placeElem (s : State) (w : Nat) (addr : ElemAddr) (k : Nat) : Try Placed1 := do
  check ((addr k).toNat % w = 0) (exnMisaligned .load (addr k))
  let t ← tryExn (s.resolve .load (addr k) w s.cx.tileco)
  return ⟨⟨addr k, w, 0⟩, t⟩

/-- An element with its target. -/
def placedAt (w : Nat) (addr : ElemAddr) (g : Nat → Target) (k : Nat) : Placed1 := ⟨⟨addr k, w, 0⟩, g k⟩

theorem placeElems_eq (s : State) (w : Nat) (addr : ElemAddr) (l : List Nat) :
    s.placeElems .load w addr (fun _ => 0) l = l.mapM (s.placeElem w addr) := rfl

theorem placeElem_ok {k : Nat} (ha : (addr k).toNat % w = 0) (hr : s.resolve .load (addr k) w s.cx.tileco = .ok (g k)) :
    s.placeElem w addr k = .ok (placedAt w addr g k) := by
  simp only [State.placeElem, ha, decide_true, check_true, hr, tryExn_ok, bind, Except.bind]
  rfl

theorem placeElem_misaligned {k : Nat} (ha : (addr k).toNat % w ≠ 0) : s.placeElem w addr k = .error (.trap (exn 4 (addr k))) := by
  rw [State.placeElem, decide_eq_false ha]
  rfl

theorem placeElem_fault {k : Nat} {e : Exn} (ha : (addr k).toNat % w = 0) (hr : s.resolve .load (addr k) w s.cx.tileco = .error e) :
    s.placeElem w addr k = .error (if e.onTable then .broken e e.val else .trap e) := by
  simp only [State.placeElem, ha, decide_true, check_true, hr, tryExn_error, bind, Except.bind]

theorem mapM_ok {α β ε : Type} {f : α → Except ε β} {f' : α → β} {l : List α} (hl : ∀ x ∈ l, f x = .ok (f' x)) :
    l.mapM f = .ok (l.map f') := by
  induction l with
  | nil => rfl
  | cons x l ih =>
    rw [List.mapM_cons, hl x List.mem_cons_self, ih fun y hy => hl y (List.mem_cons_of_mem _ hy)]
    rfl

/-- The first of a list that stops decides how all stop. -/
theorem mapM_error {α β ε : Type} {f : α → Except ε β} {x : α} {e : ε} (hx : f x = .error e) (r : List α) :
    ∀ {l : List α}, (∀ y ∈ l, ∃ b, f y = .ok b) → (l ++ x :: r).mapM f = .error e
  | [], _ => by
    rw [List.nil_append, List.mapM_cons, hx]
    rfl
  | y :: l, hl => by
    obtain ⟨b, hb⟩ := hl y List.mem_cons_self
    rw [List.cons_append, List.mapM_cons, hb, mapM_error hx r fun z hz => hl z (List.mem_cons_of_mem _ hz)]
    rfl

theorem mem_vectorElems {k : Nat} : k ∈ s.vectorElems n ↔ k < n ∧ s.enabled k = true := by
  simp [State.vectorElems]

/-- The elements come in rising order: those before one of them lie below it. -/
theorem vectorElems_split {k : Nat} (hk : k ∈ s.vectorElems n) : ∃ l r, s.vectorElems n = l ++ k :: r ∧ ∀ j ∈ l, j < k := by
  obtain ⟨l, r, hl⟩ := List.append_of_mem hk
  have hsorted : (s.vectorElems n).Pairwise (· < ·) := List.pairwise_lt_range.filter _
  rw [hl, List.pairwise_append] at hsorted
  exact ⟨l, r, hl, fun j hj => hsorted.2.2 j hj k List.mem_cons_self⟩

/-- What stops an element stops the load, if the elements before it are placed. -/
theorem placeElems_stops {k : Nat} {e : Stop} (hk : k ∈ s.vectorElems n) (he : s.placeElem w addr k = .error e)
    (hbefore : ∀ j ∈ s.vectorElems n, j < k → ∃ p, s.placeElem w addr j = .ok p) :
    s.placeElems .load w addr (fun _ => 0) (s.vectorElems n) = .error e := by
  obtain ⟨l, r, hl, hlow⟩ := vectorElems_split hk
  rw [placeElems_eq, hl]
  exact mapM_error he r fun j hj => hbefore j (hl ▸ List.mem_append_left _ hj) (hlow j hj)

/-! ## What may go (R14, R208) -/

theorem forM_ok {α ε : Type} {f : α → Except ε Unit} {l : List α} (hl : ∀ x ∈ l, f x = .ok ()) : l.forM f = .ok () := by
  induction l with
  | nil => rfl
  | cons x l ih =>
    change (f x >>= fun _ => l.forM f) = _
    rw [hl x List.mem_cons_self]
    exact ih fun y hy => hl y (List.mem_cons_of_mem _ hy)

theorem settleLoads_settled (he : s.cx.early = []) : s.mapCx Ctx.settleLoads = s := by
  have hc : s.cx.settleLoads = s.cx := by rw [Ctx.settleLoads, ← he]
  rw [State.mapCx, hc]

/-- A weak load that nothing is ahead of may be performed, whether a copy serves it or its place. -/
theorem mayLoad_settled (hs : s.settled t first n) (hf : s.foreign (physOf t.pa) n = none) : s.mayLoad .weak t first n w = .ok () := by
  unfold State.mayLoad
  dsimp only
  split
  · rfl
  · split
    · rw [hf]
    · exact hs.2

theorem mayLoadAll_ok {ps : List Placed1} (he : s.cx.early = []) (hc : ∀ p ∈ ps, s.checkPlace .load p.at_ p.piece.va p.piece.n = .ok ())
    (hm : ∀ p ∈ ps, s.mayLoad .weak p.at_ first p.piece.n w = .ok ()) : s.mayLoadAll first w ps = .ok () := by
  rw [State.mayLoadAll, settleLoads_settled he, forM_ok hc]
  exact forM_ok hm

/-- Where the first byte lies matters to a list of pieces only if there are any. -/
theorem firstByte_or_nil {l : List Nat} (hl : ∀ k r, l = k :: r → first = addr k) :
    l.map (placedAt w addr g) = [] ∨ firstByte (l.map (placedAt w addr g)) = first := by
  cases l with
  | nil => exact .inl rfl
  | cons k r => exact .inr (hl k r rfl).symm

theorem loadPieces_first {ps : List Placed1} (hp : ps = [] ∨ firstByte ps = first) :
    s.mayLoadAll (firstByte ps) w ps = s.mayLoadAll first w ps ∧ s.loadPieces (firstByte ps) w ps = s.loadPieces first w ps := by
  obtain rfl | rfl := hp
  · exact ⟨rfl, rfl⟩
  · exact ⟨rfl, rfl⟩

/-! ## The values (R198, R209) -/

/-- The copy of a line that a site takes from its home. -/
def State.lineCopy (s : State) (h pa : Nat) : L1Line := ⟨h, lineOf pa, BitVec.ofNat 1024 (memRead s.mem (pa / 128 * 128) 128)⟩

/-- A part of a line's bytes is what the home holds there. -/
theorem read_line {l : L1Line} {mem : List Host.Cell} {a : Nat} (hl : l.bytes = BitVec.ofNat 1024 (memRead mem (a / 128 * 128) 128))
    (ha : a % 128 + n ≤ 128) : l.read a n = memRead mem a n := by
  obtain ⟨k, hk⟩ : ∃ k, 128 = a % 128 + (n + k) := ⟨128 - (a % 128 + n), by omega⟩
  have hline : l.bytes.toNat = memRead mem (a / 128 * 128) 128 := by rw [hl]; exact toNat_ofNat_memRead mem _ 128
  have hdrop := memRead_drop mem (a / 128 * 128) (a % 128) (n + k)
  rw [← hk, Nat.div_add_mod'] at hdrop
  rw [L1Line.read, hline, Nat.shiftRight_eq_div_pow, Nat.pow_mul, hdrop, Nat.pow_mul]
  exact memRead_take mem a n k

/-- A weak load is served by the copy of its line, or reads its place, and then the line may be taken (R209). -/
theorem loadWeak_cases (he : u.cx.early = []) (hn : 0 < n) :
    (∃ l, t.cacheable = true ∧ u.copyOf (u.cx.bankSite first) (lineOf t.pa) = some l ∧ u.loadWeak t first n n = (l.read t.pa n, u)) ∨
    ∃ v, (t.cacheable = true → u.copyOf (u.cx.bankSite first) (lineOf t.pa) = none) ∧
      u.loadWeak t first n n = (memRead u.mem t.pa n, v) ∧ v.mem = u.mem ∧ v.cx.early = [] ∧
      v.l1 = if t.cacheable then addBounded (fun l => decide (l.h = u.cx.bankSite first)) l1Lines (u.lineCopy (u.cx.bankSite first) t.pa) u.l1
        else u.l1 := by
  have hpass : ∀ {v : State}, v.cx.early = [] → ∀ {site a : Nat}, (v.mapCx fun c => c.passLoad false site a n).cx.early = [] :=
    fun {v} hv {site a} => (congrArg Ctx.early (passLoad_of_no_early hv false site a n)).trans hv
  by_cases hk : t.kind = .localWin
  · have hc : t.cacheable = false := by simp [Target.cacheable, hk]
    exact .inr ⟨u, by simp [hc], loadWeak_local he hn hk, rfl, he, by simp [hc]⟩
  have htrip := trip_early (va := first) he hk
  cases hc : t.cacheable with
  | false => exact .inr ⟨_, nofun, loadWeak_uncached he hn hk hc, rfl, hpass htrip, rfl⟩
  | true =>
    cases hl : u.copyOf (u.cx.bankSite first) (lineOf t.pa) with
    | some l => exact .inl ⟨l, rfl, rfl, loadWeak_hit he hc hl⟩
    | none =>
      have hmiss : ((u.trip (u.cx.bankSite first) t.site).countSlice u.cx.key).copyOf (u.cx.bankSite first) (lineOf t.pa) = none := hl
      have htook : u.tookLine t first = { (u.trip (u.cx.bankSite first) t.site).countSlice u.cx.key with
          l1 := addBounded (fun l => decide (l.h = u.cx.bankSite first)) l1Lines (u.lineCopy (u.cx.bankSite first) t.pa) u.l1 } := by
        rw [State.tookLine, State.fillLine, hmiss]
        rfl
      refine .inr ⟨_, fun _ => rfl, loadWeak_miss he hn hc hl, tookLine_mem, hpass ?_, ?_⟩
      · rw [htook]
        exact (countSlice_early ..).trans htrip
      · change (u.tookLine t first).l1 = _
        rw [htook]
        rfl

/-- The state after at most `n` loads, queued at the site `h`, of places that meet `P`: their lines may have been taken. -/
structure State.Loaded (s u : State) (h n : Nat) (P : Nat → Prop) : Prop where
  mem : u.mem = s.mem
  rest : u.sansMem.sansTraffic = s.sansMem.sansTraffic
  early : u.cx.early = []
  lines : ∃ ls, u.l1 = s.l1 ++ ls ∧ ls.length ≤ n ∧ ∀ l ∈ ls, ∃ pa, P pa ∧ l = s.lineCopy h pa

variable {P : Nat → Prop}

theorem State.Loaded.start (he : s.cx.early = []) : s.Loaded s h 0 P := 
  ⟨rfl, rfl, he, [], by simp, le_rfl, fun _ hl => absurd hl List.not_mem_nil⟩

theorem State.Loaded.bankSite (hu : s.Loaded u h n P) (va : Word) : u.cx.bankSite va = s.cx.bankSite va :=
  (congrArg (fun v : State => v.cx.bankSite va) hu.rest :)

theorem addBounded_room {α : Type} {same : α → Bool} {cap : Nat} {x : α} {l : List α} (hl : (l.filter same).length < cap) :
    addBounded same cap x l = l ++ [x] := by
  rw [addBounded, if_neg (Nat.not_le.mpr hl)]

/-- While its site has room, a load takes at most the line of its place. -/
theorem State.Loaded.step (hu : s.Loaded u (s.cx.bankSite first) n P) (hm : 0 < m) (hP : P t.pa)
    (hroom : s.cacheRoom (s.cx.bankSite first) (n + 1)) :
    s.Loaded (u.loadWeak t first m m).2 (s.cx.bankSite first) (n + 1) P := by
  obtain ⟨ls, hl1, hlen, hls⟩ := hu.lines
  have hrest := (loadWeak_traffic u t first m m).trans hu.rest
  have hsame : s.Loaded u (s.cx.bankSite first) (n + 1) P := ⟨hu.mem, hu.rest, hu.early, ls, hl1, hlen.trans (Nat.le_succ n), hls⟩
  obtain ⟨l, -, -, hload⟩ | ⟨v, -, hload, hmem, hearly, hv⟩ := loadWeak_cases (t := t) (first := first) hu.early hm
  · rw [hload]
    exact hsame
  · rw [hload] at hrest ⊢
    cases hc : t.cacheable with
    | false =>
      rw [hc] at hv
      exact ⟨hmem.trans hu.mem, hrest, hearly, ls, hv.trans hl1, hlen.trans (Nat.le_succ n), hls⟩
    | true =>
      have hfull : ((u.l1.filter fun l => decide (l.h = s.cx.bankSite first))).length < l1Lines := by
        have hle := List.length_filter_le (fun l : L1Line => decide (l.h = s.cx.bankSite first)) ls
        rw [hl1, List.filter_append, List.length_append]
        unfold State.cacheRoom at hroom
        omega
      have hcopy : u.lineCopy (s.cx.bankSite first) t.pa = s.lineCopy (s.cx.bankSite first) t.pa := by rw [State.lineCopy, hu.mem]; rfl
      rw [hc, if_pos rfl, hu.bankSite, addBounded_room hfull, hcopy, hl1, List.append_assoc] at hv
      refine ⟨hmem.trans hu.mem, hrest, hearly, ls ++ [s.lineCopy (s.cx.bankSite first) t.pa], hv, by simp [hlen], fun l hl => ?_⟩
      rcases List.mem_append.mp hl with hl | hl
      · exact hls l hl
      · exact ⟨t.pa, hP, List.mem_singleton.mp hl⟩

/-- A load finds after other loads what it would have found before them: a line that one of them took is as its home holds it. -/
theorem State.Loaded.value (hu : s.Loaded u (s.cx.bankSite first) n P) (he : s.cx.early = []) (hm : 0 < m) (hin : t.pa % 128 + m ≤ 128)
    (hP : ∀ pa, P pa → lineOf pa = lineOf t.pa → pa / 128 = t.pa / 128) :
    (u.loadWeak t first m m).1 = (s.loadWeak t first m m).1 := by
  obtain ⟨ls, hl1, -, hls⟩ := hu.lines
  have hcopy : u.copyOf (s.cx.bankSite first) (lineOf t.pa) = (s.copyOf (s.cx.bankSite first) (lineOf t.pa)).or
      (ls.find? fun e => e.h = s.cx.bankSite first && e.line = lineOf t.pa) := by
    rw [State.copyOf, hl1, List.find?_append]
    rfl
  have htaken : ∀ l, (ls.find? fun e => e.h = s.cx.bankSite first && e.line = lineOf t.pa) = some l → l.read t.pa m = memRead s.mem t.pa m := by
    intro l hl
    obtain ⟨pa, hpa, rfl⟩ := hls l (List.mem_of_find?_eq_some hl)
    have hline : lineOf pa = lineOf t.pa := by
      have hmatch := List.find?_some hl
      exact of_decide_eq_true ((Bool.and_eq_true ..).mp hmatch).2
    exact read_line (by rw [State.lineCopy, hP pa hpa hline]) hin
  have hsite := hu.bankSite first
  rcases loadWeak_cases (t := t) (first := first) he hm with ⟨l, hc, hl, hload⟩ | ⟨v, hl, hload, -⟩ <;> rw [hload]
  · have hserves : u.copyOf (u.cx.bankSite first) (lineOf t.pa) = some l := by rw [hsite, hcopy, hl, Option.some_or]
    rcases loadWeak_cases (t := t) (first := first) hu.early hm with ⟨l', -, hl', hload'⟩ | ⟨v', hl', -⟩
    · rw [hload', Option.some.inj (hl'.symm.trans hserves)]
    · exact absurd (hserves.symm.trans (hl' hc)) nofun
  · rcases loadWeak_cases (t := t) (first := first) hu.early hm with ⟨l', hc, hl', hload'⟩ | ⟨v', -, hload', -⟩ <;> rw [hload']
    · rw [hsite, hcopy, hl hc, Option.none_or] at hl'
      exact htaken l' hl'
    · exact congrArg (memRead · t.pa m) hu.mem

/-- Weak loads of placed elements, each of which finds what it would have found alone (R217). -/
theorem State.Loaded.loadPieces (he : s.cx.early = []) (hm : 0 < m) :
    ∀ {l : List Nat} {u : State} {n : Nat}, s.Loaded u (s.cx.bankSite first) n P → s.cacheRoom (s.cx.bankSite first) (n + l.length) →
    (∀ k ∈ l, isMmio (g k).pa = false ∧ (g k).pa % 128 + m ≤ 128 ∧ P (g k).pa ∧
      ∀ pa, P pa → lineOf pa = lineOf (g k).pa → pa / 128 = (g k).pa / 128) →
    ∃ v, u.loadPieces first m (l.map (placedAt m addr g)) = (l.map fun k => (s.loadWeak (g k) first m m).1, v) ∧
      s.Loaded v (s.cx.bankSite first) (n + l.length) P
  | [], u, n, hu, _, _ => ⟨u, rfl, hu⟩
  | k :: l, u, n, hu, hroom, hl => by
    obtain ⟨hmmio, hin, hP, hlines⟩ := hl k List.mem_cons_self
    have hlen : n + (k :: l).length = n + 1 + l.length := by rw [List.length_cons]; omega
    rw [hlen] at hroom ⊢
    have hone : s.cacheRoom (s.cx.bankSite first) (n + 1) := by
      unfold State.cacheRoom at hroom ⊢
      omega
    obtain ⟨v, hv, hloaded⟩ := State.Loaded.loadPieces he hm (hu.step (t := g k) hm hP hone) hroom fun j hj => hl j (List.mem_cons_of_mem _ hj)
    refine ⟨v, ?_, hloaded⟩
    simp only [List.map_cons, State.loadPieces, placedAt, loadAt_weak hmmio, hu.value he hm hin hlines] at hv ⊢
    rw [hv]

/-! ## A vector load (R156, R217) -/

theorem pickElem_map (f : Nat → Nat) {k : Nat} : ∀ {l : List Nat}, k ∈ l → pickElem l (l.map f) k = f k
  | j :: l, hk => by
    by_cases hj : j = k
    · simp [pickElem, hj]
    · have ih := pickElem_map f ((List.mem_cons.mp hk).resolve_left (Ne.symm hj))
      simpa [pickElem, hj] using ih

theorem vectorTag_bytes : ∀ {t : Tag}, t ≠ 0 → t ≠ 1 → 0 < tagWidth t / 8 := by decide

theorem accessWidth_eq {t : Tag} (h1 : t ≠ 1) : accessWidth t = tagWidth t / 8 := if_neg h1

variable {wt : BitVec 2} {tag : Tag} {d : BitVec 5} {i : Instr}

theorem mem_elements {k : Nat} : k ∈ s.vectorElems (min n (tagElems tag)) ↔ k < n ∧ k < tagElems tag ∧ s.enabled k = true := by
  rw [mem_vectorElems, lt_min_iff, and_assoc]

theorem vectorElems_head {k : Nat} {r : List Nat} (h : s.vectorElems n = k :: r) : k ∈ s.vectorElems n ∧ ∀ j < k, j ∉ s.vectorElems n := by
  have hk : k ∈ s.vectorElems n := h ▸ List.mem_cons_self
  have hsorted : (s.vectorElems n).Pairwise (· < ·) := List.pairwise_lt_range.filter _
  rw [h, List.pairwise_cons] at hsorted
  refine ⟨hk, fun j hj hmem => ?_⟩
  rw [h] at hmem
  rcases List.mem_cons.mp hmem with rfl | hmem
  · exact lt_irrefl _ hj
  · exact lt_asymm hj (hsorted.1 j hmem)

/-- The first element that is not placed stops a vector load. -/
theorem vectorLoad_stops {k : Nat} {e : Stop} (h1 : tag ≠ 1) (hw : s.cx.waitMet wt.toNat 0 = true)
    (hk : k ∈ s.vectorElems (min n (tagElems tag))) (he : s.placeElem (tagWidth tag / 8) addr k = .error e)
    (hbefore : ∀ j ∈ s.vectorElems (min n (tagElems tag)), j < k → ∃ p, s.placeElem (tagWidth tag / 8) addr j = .ok p) :
    vectorLoad s wt tag n addr d = .error e := by
  simp only [vectorLoad, hw, waitUntil_true, if_neg h1, accessWidth_eq h1, placeElems_stops hk he hbefore, bind, Except.bind]

/-- The register that a vector load writes where its elements `is` answer `f` (R156). -/
def State.loadedReg (s : State) (tag : Tag) (is : List Nat) (d : BitVec 5) (f : Nat → Nat) : VReg :=
  mergeV (s.getV d) tag (fun k => is.contains k) fun k => trimLane tag (pickElem is (is.map f) k)

/-- Element `k` is placed at `g k`, and its load may go as soon as the load of the element at `first` (R14, R217). -/
def State.loadable (s : State) (first : Word) (m : Nat) (addr : ElemAddr) (g : Nat → Target) (k : Nat) : Prop :=
  (addr k).toNat % m = 0 ∧ s.resolve .load (addr k) m s.cx.tileco = .ok (g k) ∧ (g k).retry = false ∧ isMmio (g k).pa = false ∧
    s.checkPlace .load (g k) (addr k) m = .ok () ∧ s.settled (g k) first m ∧ s.foreign (physOf (g k).pa) m = none ∧ (g k).pa % 128 + m ≤ 128

theorem mayLoadAll_loadable {is : List Nat} (hp : ∀ k ∈ is, s.loadable first m addr g k) :
    s.mayLoadAll first m (is.map (placedAt m addr g)) = .ok () := by
  cases his : is with
  | nil => rfl
  | cons k r =>
    rw [← his]
    obtain ⟨-, -, -, -, -, ⟨he, -⟩, -⟩ := hp k (his ▸ List.mem_cons_self)
    have hready : ∀ q ∈ is.map (placedAt m addr g), s.checkPlace .load q.at_ q.piece.va q.piece.n = .ok () ∧
        s.mayLoad .weak q.at_ first q.piece.n m = .ok () := fun q hq => by
      obtain ⟨j, hj, rfl⟩ := List.mem_map.mp hq
      obtain ⟨-, -, -, -, hcheck, hset, hforeign, -⟩ := hp j hj
      exact ⟨hcheck, mayLoad_settled hset hforeign⟩
    exact mayLoadAll_ok he (fun q hq => (hready q hq).1) fun q hq => (hready q hq).2

theorem loadPieces_loadable {is : List Nat} (hm : 0 < m) (hp : ∀ k ∈ is, s.loadable first m addr g k)
    (hroom : s.cacheRoom (s.cx.bankSite first) is.length)
    (hlines : ∀ k ∈ is, ∀ j ∈ is, lineOf (g k).pa = lineOf (g j).pa → (g k).pa / 128 = (g j).pa / 128) :
    ∃ v, s.loadPieces first m (is.map (placedAt m addr g)) = (is.map fun k => (s.loadWeak (g k) first m m).1, v) ∧ v.mem = s.mem ∧
      v.sansMem.sansTraffic = s.sansMem.sansTraffic := by
  cases his : is with
  | nil => exact ⟨s, rfl, rfl, rfl⟩
  | cons k r =>
    rw [← his]
    obtain ⟨-, -, -, -, -, ⟨he, -⟩, -⟩ := hp k (his ▸ List.mem_cons_self)
    obtain ⟨v, hv, hloaded⟩ := State.Loaded.loadPieces (P := fun pa => ∃ j ∈ is, (g j).pa = pa) he hm (addr := addr) (.start he)
      (by rwa [Nat.zero_add]) fun j hj => by
        obtain ⟨-, -, -, hmmio, -, -, -, hin⟩ := hp j hj
        refine ⟨hmmio, hin, ⟨j, hj, rfl⟩, ?_⟩
        rintro _ ⟨l, hl, rfl⟩
        exact hlines l hl j hj
    exact ⟨v, hv, hloaded.mem, hloaded.rest⟩

theorem vectorElems_length (s : State) (n : Nat) : (s.vectorElems n).length ≤ n :=
  (List.length_filter_le ..).trans_eq List.length_range

/-- A load of placed elements that may go completes with what a weak load of each finds. -/
theorem vectorLoad_loads {is : List Nat} (h0 : tag ≠ 0) (h1 : tag ≠ 1) (hm : m = tagWidth tag / 8) (hw : s.cx.waitMet wt.toNat 0 = true)
    (his : is = s.vectorElems (min n (tagElems tag))) (hfirst : ∀ k r, is = k :: r → first = addr k)
    (hroom : s.cacheRoom (s.cx.bankSite first) (tagElems tag)) (hp : ∀ k ∈ is, s.loadable first m addr g k)
    (hlines : ∀ k ∈ is, ∀ j ∈ is, lineOf (g k).pa = lineOf (g j).pa → (g k).pa / 128 = (g j).pa / 128) :
    ∃ v : State, vectorLoad s wt tag n addr d = .ok (v.setV d (s.loadedReg tag is d fun k => (s.loadWeak (g k) first m m).1)).advance ∧
      v.mem = s.mem ∧ v.sansMem.sansTraffic = s.sansMem.sansTraffic := by
  have hlen : is.length ≤ tagElems tag := his ▸ (vectorElems_length ..).trans (Nat.min_le_right ..)
  obtain ⟨v, hv, hmem, hrest⟩ := loadPieces_loadable (hm ▸ vectorTag_bytes h0 h1) hp (by unfold State.cacheRoom at hroom ⊢; omega) hlines
  have hplaced : s.placeElems .load m addr (fun _ => 0) is = .ok (is.map (placedAt m addr g)) :=
    mapM_ok fun k hk => placeElem_ok (hp k hk).1 (hp k hk).2.1
  have hretry : anyRetry (is.map (placedAt m addr g)) = false := by
    refine List.any_eq_false.mpr fun p hmem => ?_
    obtain ⟨k, hk, rfl⟩ := List.mem_map.mp hmem
    obtain ⟨-, -, hretry, -⟩ := hp k hk
    simp [placedAt, hretry]
  obtain ⟨hgo, hload⟩ := loadPieces_first (s := s) (w := m) (firstByte_or_nil (w := m) (g := g) hfirst)
  rw [mayLoadAll_loadable hp] at hgo
  rw [hv] at hload
  refine ⟨v, ?_, hmem, hrest⟩
  simp only [vectorLoad, hw, waitUntil_true, if_neg h1, accessWidth_eq h1, ← hm, ← his, hplaced, hretry, Bool.not_false, hgo, hload, bind,
    Except.bind]
  rfl

/-- The lanes of a vector load: its elements take what they answer, and the others keep or lose theirs (R156). -/
theorem loadedReg_written (s : State) (tag : Tag) (d : BitVec 5) (f : Nat → Nat) {is : List Nat} {on : Nat → Prop}
    (hon : ∀ k < tagElems tag, k ∈ is ↔ on k) : VWritten (s.getV d) (s.loadedReg tag is d f) tag on fun k => trimLane tag (f k) :=
  vWritten_mergeV (fun k hk => List.contains_iff_mem.trans (hon k hk)) fun k hk hk' => by rw [pickElem_map f ((hon k hk).mpr hk')]

/-- An index element, sign-extended (R217). -/
theorem index_eq (r : VReg) (k : Nat) : r.index k = (BitVec.ofNat (tagWidth r.tag) (r.elem k)).signExtend 64 := by
  rw [VReg.index, bitsInt_signed, BitVec.signExtend]

theorem indexTag_source : ∀ {t : Tag}, t = 4 ∨ t = 5 → t ≠ 0 ∧ (decide (t = 4) || decide (t = 5)) = true := by decide

theorem exec_vldx {a b : BitVec 5} (hw : s.cx.waitMet wt.toNat 0 = true) (hx : (s.getV b).tag = 4 ∨ (s.getV b).tag = 5) :
    exec (.vldx wt tag b a d) s = s.finish (vectorLoad s wt tag (tagElems (s.getV b).tag)
      (fun k => s.getX a + (BitVec.ofNat (tagWidth (s.getV b).tag) ((s.getV b).elem k)).signExtend 64) d) := by
  obtain ⟨h0, hok⟩ := indexTag_source hx
  change execVldx wt tag b a d s = _
  simp only [execVldx, hw, waitUntil_true, State.indexSource, vSource_ok (ok := fun t => t = 4 || t = 5) h0 hok, bind, Except.bind, index_eq]

/-- The state in which a vector load commits over one that shows no more than its traffic. -/
theorem loaded_leaves {v : State} (r : VReg) (hmem : v.mem = s.mem) (hrest : v.sansMem.sansTraffic = s.sansMem.sansTraffic) :
    (v.setV d r).advance.cx.pc = s.cx.pc + 4 ∧ (v.setV d r).advance.mem = s.mem ∧
      (v.setV d r).advance.sansCommit.sansMem.sansTraffic = (s.setV d r).sansCommit.sansMem.sansTraffic :=
  ⟨congrArg (· + 4) (cx_eq_of_traffic hrest).1, hmem, advance_traffic (congrArg (fun w : State => w.setV d r) hrest :)⟩

end Sys2Proof.Machine
end

section
/-! SUPPORT. A load of 128 bytes in the local window (R98, R105, R217): its pieces lie where their bytes lie, and their values are joined. -/

namespace Sys2Proof.Machine

variable {s : State} {t : Target} {v : Word} {n k j p : Nat} {acc : Access} {tc : Option (Nat × Nat)}

/-! ## Places in the local window (R98, R105) -/

theorem regionOf_local : regionOf v = .localWindow ↔ localWindowBase ≤ v.toNat := by
  unfold regionOf
  dsimp only
  split
  · next h => exact ⟨nofun, fun hle => absurd (hle.trans_lt h) (by decide)⟩
  · split
    · next h => exact ⟨fun _ => h, fun _ => rfl⟩
    · next h =>
      refine ⟨fun hr => ?_, fun hle => absurd hle h⟩
      split at hr <;> cases hr

theorem siteTarget_kind {kid : Nat} {cl : Client} : Yields (fun t => t.kind ≠ .localWin) (s.siteTarget kid cl acc v n) := by
  unfold State.siteTarget
  dsimp only
  refine .ite .error (.ite (.ite (.ok nofun) ?_) (.ite (.ok nofun) .error))
  split
  · exact .error
  · exact .map (Q := fun _ => True) (fun _ _ => trivial) fun _ _ => nofun

theorem globalTarget_kind {cl : Client} {x : Xlat} : Yields (fun t => t.kind ≠ .localWin) (s.globalTarget cl acc v x tc) := by
  unfold State.globalTarget State.physicalSite
  exact .ite (.ite (.ok nofun) .error) (.ite (.ok nofun) (.ok nofun))

/-- Only an address of the local window has a place there, in one of the context's banks. -/
theorem placeFor_local {c : Ctx} {cl : Client} (h : s.placeFor c cl acc v n tc = .ok t) (hk : t.kind = .localWin) :
    regionOf v = .localWindow ∧ ∃ p, bankPlace c cl.lvl acc v (v.toNat - localWindowBase) n = .ok p ∧
      t = ⟨siteAddr c.key.h p, .localWin, c.key.h, 0, false⟩ := by
  unfold State.placeFor at h
  split at h
  · cases h
  · split at h
    · cases h
    · next hr =>
      split at h
      · cases h
      · cases hp : bankPlace c cl.lvl acc v (v.toNat - localWindowBase) n with
        | error e => rw [hp] at h; cases h
        | ok p =>
          rw [hp] at h
          cases h
          exact ⟨hr, p, rfl, rfl⟩
    · split at h
      · cases h
      · exact absurd hk (siteTarget_kind _ h)
    · split at h
      · cases h
      · exact absurd hk (globalTarget_kind _ h)

theorem resolve_local (h : s.resolve acc v n tc = .ok t) (hk : t.kind = .localWin) :
    regionOf v = .localWindow ∧ ∃ p, bankPlace s.cx s.cx.client.lvl acc v (v.toNat - localWindowBase) n = .ok p ∧
      t = ⟨siteAddr s.cx.key.h p, .localWin, s.cx.key.h, 0, false⟩ := by
  cases hp : s.placeFor s.cx s.cx.client acc v n tc with
  | error e =>
    rw [State.resolve, State.resolveFor, hp] at h
    cases h
  | ok t' =>
    rw [State.resolve, State.resolveFor, hp] at h
    have ht : (if t'.kind = .localWin then t' else { t' with retry := t'.retry || s.behind (s.cx.bankSite v) t'.site }) = t := Except.ok.inj h
    split at ht
    · subst ht
      exact placeFor_local hp hk
    · next hne =>
      subst ht
      exact absurd hk hne

/-- An access whose ends lie in the local window, and whose bank may be reached, has its place there. -/
theorem resolve_of_bank (hacc : acc ≠ .fetch) (hv : regionOf v = .localWindow) (hend : regionOf (v + toWord (n - 1)) = .localWindow)
    (hp : bankPlace s.cx s.cx.client.lvl acc v (v.toNat - localWindowBase) n = .ok p) :
    s.resolve acc v n tc = .ok ⟨siteAddr s.cx.key.h p, .localWin, s.cx.key.h, 0, false⟩ := by
  have hplace : s.placeFor s.cx s.cx.client acc v n tc = .ok ⟨siteAddr s.cx.key.h p, .localWin, s.cx.key.h, 0, false⟩ := by
    simp only [State.placeFor, hend, hv, hp, hacc, ne_eq, not_true_eq_false, if_false]
    rfl
  rw [State.resolve, State.resolveFor, hplace]
  rfl

/-- What decides whether bytes of a bank may be reached (R98). -/
theorem bankPlace_iff {c : Ctx} {lvl : Level} {o : Nat} : bankPlace c lvl acc v o n = .ok p ↔
    ∃ b, c.banks[o / 0x10000]? = some b ∧ p = b * 0x10000 + o % 0x10000 ∧
      (lvl ≠ .P → c.regBanks ≤ o / 0x10000 ∧ (b = 15 → p + n ≤ reserveBase)) := by
  unfold bankPlace
  cases hb : c.banks[o / 0x10000]? with
  | none => simp
  | some b =>
    simp only [Option.some.injEq, exists_eq_left']
    by_cases hP : lvl = .P
    · simp [hP, eq_comm]
    by_cases hreg : o / 0x10000 < c.regBanks
    · simp [hP, hreg]
    simp only [hP, hreg, if_false, ne_eq, not_false_eq_true, forall_const, Nat.le_of_not_lt hreg, true_and]
    split
    · next hres =>
      obtain ⟨h15, hlt⟩ := (Bool.and_eq_true ..).mp hres
      refine ⟨nofun, ?_⟩
      rintro ⟨rfl, hle⟩
      exact absurd (of_decide_eq_true hlt) (Nat.not_lt.mpr (hle (of_decide_eq_true h15)))
    · next hres =>
      refine ⟨fun h => ?_, fun h => by rw [h.1]⟩
      obtain rfl := Except.ok.inj h
      exact ⟨rfl, fun h15 => Nat.le_of_not_lt fun hlt => hres ((Bool.and_eq_true ..).mpr ⟨decide_eq_true h15, decide_eq_true hlt⟩)⟩

/-! ## Bytes of one line -/

theorem toNat_add_line (h : v.toNat % 128 + j < 128) : (v + BitVec.ofNat 64 j).toNat = v.toNat + j := by
  have hv := v.isLt
  rw [BitVec.toNat_add, BitVec.toNat_ofNat]
  omega

/-- Bytes of one line that may be reached one by one may be reached at once. -/
theorem bankPlace_line {c : Ctx} {lvl : Level} {o : Nat} {w : Nat → Word} (hn : 0 < n) (hline : o % 128 + n ≤ 128)
    (hb : ∀ j < n, ∃ p, bankPlace c lvl acc (w j) (o + j) 1 = .ok p) :
    ∃ p, bankPlace c lvl acc v o n = .ok p ∧ p % 128 = o % 128 ∧ ∀ j < n, ∀ q, bankPlace c lvl acc (w j) (o + j) 1 = .ok q → q = p + j := by
  have hbank : ∀ j < n, (o + j) / 0x10000 = o / 0x10000 ∧ (o + j) % 0x10000 = o % 0x10000 + j := fun j hj => by omega
  obtain ⟨q, hq⟩ := hb (n - 1) (by omega)
  obtain ⟨b, hget, rfl, hmay⟩ := bankPlace_iff.mp hq
  obtain ⟨hdiv, hmod⟩ := hbank (n - 1) (by omega)
  rw [hdiv] at hget hmay
  rw [hmod] at hmay
  refine ⟨b * 0x10000 + o % 0x10000, bankPlace_iff.mpr ⟨b, hget, rfl, fun hP => ?_⟩, by omega, fun j hj q' hq' => ?_⟩
  · obtain ⟨hreg, hres⟩ := hmay hP
    exact ⟨hreg, fun hb => by have := hres hb; omega⟩
  · obtain ⟨b', hget', rfl, -⟩ := bankPlace_iff.mp hq'
    obtain ⟨hdiv', hmod'⟩ := hbank j hj
    rw [hdiv', hget] at hget'
    rw [hmod', Option.some.inj hget', Nat.add_assoc]

/-- An access within a line meets the errors of its line (R208, R214). -/
theorem broken_line {a : Nat} (ha : a % 128 + n ≤ 128) (hn : 0 < n) : s.broken a n = s.broken a 1 := by
  have hend : (physOf a + n - 1) / 128 = (physOf a + 1 - 1) / 128 := by
    unfold physOf sliceSpace
    omega
  have hmeets : ∀ l, meetsLine a n l = meetsLine a 1 l := fun l => by rw [meetsLine, meetsLine, hend]
  simp only [State.broken, hmeets]

theorem checkPlace_line (ht : t.pa % 128 + n ≤ 128) (hn : 0 < n) : s.checkPlace acc t v n = s.checkPlace acc t v 1 := by
  unfold State.checkPlace State.refusedAt
  rw [broken_line ht hn]

/-- A byte of the local window that a load may read, and its place. -/
def State.byteHere (s : State) (v : Word) (a : Nat) : Prop := ∃ t, s.resolve .load v 1 s.cx.tileco = .ok t ∧ t.kind = .localWin ∧
  isMmio t.pa = false ∧ s.checkPlace .load t v 1 = .ok () ∧ t.pa = a

/-- A piece of a load that lies in the local window, and that a load may read. -/
structure Placed1.Here (s : State) (q : Placed1) : Prop where
  kind : q.at_.kind = .localWin
  retry : q.at_.retry = false
  mmio : isMmio q.at_.pa = false
  some : 0 < q.piece.n
  check : s.checkPlace .load q.at_ q.piece.va q.piece.n = .ok ()

/-- A piece of a line lies where its bytes lie. -/
theorem piece_here {pl : Nat → Nat} (x : Nat) (hn : 0 < n) (hline : v.toNat % 128 + n ≤ 128)
    (hb : ∀ j < n, s.byteHere (v + BitVec.ofNat 64 j) (pl j)) :
    ∃ t, s.resolve .load v n s.cx.tileco = .ok t ∧ Placed1.Here s ⟨⟨v, n, x⟩, t⟩ ∧ ∀ j < n, pl j = t.pa + j := by
  have hnat : ∀ j < n, (v + BitVec.ofNat 64 j).toNat = v.toNat + j := fun j hj => toNat_add_line (by omega)
  have hbyte : ∀ j < n, localWindowBase ≤ v.toNat + j ∧ ∃ p, bankPlace s.cx s.cx.client.lvl .load (v + BitVec.ofNat 64 j)
      (v.toNat + j - localWindowBase) 1 = .ok p ∧ pl j = siteAddr s.cx.key.h p := fun j hj => by
    obtain ⟨t, hr, hk, -, -, hpa⟩ := hb j hj
    obtain ⟨hlocal, p, hp, rfl⟩ := resolve_local hr hk
    rw [regionOf_local, hnat j hj] at hlocal
    rw [hnat j hj] at hp
    exact ⟨hlocal, p, hp, hpa.symm⟩
  have hbase : localWindowBase ≤ v.toNat := (hbyte 0 hn).1
  have hsub : ∀ j, v.toNat + j - localWindowBase = v.toNat - localWindowBase + j := fun j => by omega
  have hoff : (v.toNat - localWindowBase) % 128 = v.toNat % 128 := by
    unfold localWindowBase at hbase ⊢
    omega
  simp only [hsub] at hbyte
  obtain ⟨p, hp, hpline, hpl⟩ := bankPlace_line (v := v) hn (by omega) fun j hj => (hbyte j hj).2.imp fun _ h => h.1
  have hplace : ∀ j < n, pl j = siteAddr s.cx.key.h p + j := fun j hj => by
    obtain ⟨q, hq, hpa⟩ := (hbyte j hj).2
    rw [hpa, hpl j hj q hq]
    exact (Nat.add_assoc ..).symm
  have hend : regionOf (v + toWord (n - 1)) = .localWindow := by
    rw [regionOf_local, toWord, hnat (n - 1) (by omega)]
    omega
  refine ⟨_, resolve_of_bank nofun (regionOf_local.mpr hbase) hend hp, ?_, hplace⟩
  obtain ⟨t, hr, hk, hmmio, hcheck, hpa⟩ := hb 0 hn
  obtain ⟨-, q, -, rfl⟩ := resolve_local hr hk
  have hsame : siteAddr s.cx.key.h q = siteAddr s.cx.key.h p := hpa.trans (hplace 0 hn)
  have hzero : v + BitVec.ofNat 64 0 = v := BitVec.add_zero v
  rw [hsame, hzero] at hcheck
  rw [hsame] at hmmio
  refine ⟨rfl, rfl, hmmio, hn, (checkPlace_line ?_ hn).trans hcheck⟩
  change siteAddr s.cx.key.h p % 128 + n ≤ 128
  unfold siteAddr siteBase
  omega

/-! ## The pieces of 128 bytes (R217) -/

theorem placeAll_cons {q : Piece} {ps : List Piece} {qs : List Placed1} (hr : s.resolve acc q.va q.n tc = .ok t)
    (hps : s.placeAll acc tc ps = .ok qs) : s.placeAll acc tc (q :: ps) = .ok (⟨q, t⟩ :: qs) := by
  rw [State.placeAll] at hps ⊢
  rw [List.mapM_cons, hr, hps]
  rfl

/-- The value of a piece in its place. -/
def State.pieceValue (s : State) (q : Placed1) : Nat := memRead s.mem q.at_.pa q.piece.n

theorem memRead_byte (m : List Host.Cell) (a : Nat) (h : j < n) : memRead m a n / 256 ^ j % 256 = (memGet m (a + j)).toNat := by
  obtain ⟨r, rfl⟩ : ∃ r, n = j + (1 + r) := ⟨n - (j + 1), by omega⟩
  have hbyte := memRead_take m (a + j) 1 r
  rw [pow_one] at hbyte
  rw [memRead_drop, hbyte]
  simp [memRead]

theorem joined_low {x y : Nat} (h : j < n) : (x + y <<< (8 * n)) / 256 ^ j % 256 = x / 256 ^ j % 256 := by
  obtain ⟨r, rfl⟩ : ∃ r, n = j + 1 + r := ⟨n - (j + 1), by omega⟩
  have hy : y <<< (8 * (j + 1 + r)) = 256 ^ j * (256 * (256 ^ r * y)) := by
    rw [Nat.shiftLeft_eq, Nat.pow_mul]
    ring
  rw [hy, Nat.add_mul_div_left _ _ (by positivity), Nat.add_mul_mod_self_left]

theorem joined_high {x y : Nat} (hx : x < 256 ^ n) : (x + y <<< (8 * n)) / 256 ^ (n + j) = y / 256 ^ j := by
  have hy : y <<< (8 * n) = 256 ^ n * y := by rw [Nat.shiftLeft_eq, Nat.pow_mul, Nat.mul_comm]
  rw [pow_add, ← Nat.div_div_eq_div_mul, hy, Nat.add_mul_div_left _ _ (by positivity), Nat.div_eq_of_lt hx, Nat.zero_add]

/-- The pieces of bytes that lie in the local window lie there, and their values joined hold the bytes. -/
theorem lines_here (x : Nat) : ∀ {fuel n : Nat} {v : Word} {pl : Nat → Nat}, n = 0 ∨ v.toNat % 128 + n ≤ 128 * fuel →
    (∀ j < n, s.byteHere (v + BitVec.ofNat 64 j) (pl j)) →
    ∃ qs, s.placeAll .load s.cx.tileco (cutLines v n x fuel) = .ok qs ∧ (∀ q ∈ qs, q.Here s) ∧
      ∀ j < n, joinPieces (qs.map (·.piece)) (qs.map s.pieceValue) / 256 ^ j % 256 = (memGet s.mem (pl j)).toNat
  | 0, n, v, pl, hfuel, _ => by
    obtain rfl : n = 0 := hfuel.elim id fun h => by omega
    exact ⟨[], rfl, nofun, fun _ h => absurd h (Nat.not_lt_zero _)⟩
  | fuel + 1, n, v, pl, hfuel, hb => by
    by_cases hn : n = 0
    · subst hn
      exact ⟨[], rfl, nofun, fun _ h => absurd h (Nat.not_lt_zero _)⟩
    obtain ⟨k, hk⟩ : ∃ k, k = min n (128 - v.toNat % 128) := ⟨_, rfl⟩
    have hcut : cutLines v n x (fuel + 1) = ⟨v, k, x % 2 ^ (8 * k)⟩ :: cutLines (v + toWord k) (n - k) (x >>> (8 * k)) fuel := by
      rw [cutLines, if_neg hn, hk]
    have hmod : (v + toWord k).toNat % 128 = (v.toNat + k) % 128 := by
      rw [toWord, BitVec.toNat_add, BitVec.toNat_ofNat]
      omega
    obtain ⟨t, hr, hhere, hpl⟩ := piece_here (x % 2 ^ (8 * k)) (n := k) (by omega) (by omega) fun j hj => hb j (by omega)
    obtain ⟨qs, hqs, hall, hjoin⟩ := lines_here (x >>> (8 * k)) (fuel := fuel) (n := n - k) (v := v + toWord k) (pl := fun j => pl (k + j))
      (by omega) fun j hj => by
        rw [toWord, BitVec.add_assoc, ← BitVec.ofNat_add]
        exact hb (k + j) (by omega)
    refine ⟨_, hcut ▸ placeAll_cons hr hqs, List.forall_mem_cons.mpr ⟨hhere, hall⟩, fun j hj => ?_⟩
    simp only [List.map_cons, joinPieces, State.pieceValue]
    by_cases hjk : j < k
    · rw [joined_low hjk, memRead_byte _ _ hjk, hpl j hjk]
    · obtain ⟨l, rfl⟩ := Nat.exists_eq_add_of_le (Nat.le_of_not_lt hjk)
      rw [joined_high (memRead_lt ..)]
      exact hjoin l (by omega)

/-! ## The load (R217) -/

theorem ofNat_byte {w : Nat} (hw : 8 * n = w) (x : Nat) (h : j < n) : (BitVec.ofNat w x).toNat / 256 ^ j % 256 = x / 256 ^ j % 256 := by
  subst hw
  obtain ⟨r, rfl⟩ : ∃ r, n = j + (1 + r) := ⟨n - (j + 1), by omega⟩
  have hp : 2 ^ (8 * (j + (1 + r))) = 256 ^ j * (256 * 256 ^ r) := by
    rw [Nat.pow_mul]
    ring
  rw [BitVec.toNat_ofNat, hp, Nat.mod_mul_right_div_self, Nat.mod_mul_right_mod]

/-- Nothing that the core has sent to its own pool is on its way. -/
theorem settled_local {m : Nat} {va : Word} (he : s.cx.early = []) (ha : s.ahead s.cx.key.h s.cx.key.h = []) (hp : s.posts = [])
    (hk : t.kind = .localWin) : s.settled t va m := by
  refine ⟨he, ?_⟩
  have hopen : s.localOpen t.pa m = true := by simp [State.localOpen, ha, hp]
  simp [State.mayGo, hk, hopen]

theorem loadPieces_here {va : Word} (he : s.cx.early = []) :
    ∀ {qs : List Placed1}, (∀ q ∈ qs, q.Here s) → s.loadPieces va 1 qs = (qs.map s.pieceValue, s)
  | [], _ => rfl
  | q :: qs, h => by
    have hq := h q List.mem_cons_self
    simp only [State.loadPieces, loadAt_local hq.kind hq.mmio he, loadPieces_here he fun p hp => h p (List.mem_cons_of_mem _ hp)]
    rfl

/-- A register that keeps its bits where it held BITS. -/
theorem mergeV_keeps (old : VReg) (f : Nat → Nat) : (mergeV old 1 (fun _ => false) f).bits = if old.tag = 1 then old.bits else 0 := by
  change BitVec.ofNat 1024 (packElems 1 (fun k => if old.tag = 1 then elemOf 1 old.bits k else 0) 1024) = _
  split
  · exact ofNat_packElems_digits (by norm_num) old.bits
  · rw [packElems_zero]
    rfl

variable {wt : BitVec 2} {d : BitVec 5} {addr : ElemAddr}

theorem vectorLoad_bits_off (hw : s.cx.waitMet wt.toNat 0 = true) (hen : s.enabled 0 = false) :
    vectorLoad s wt 1 n addr d = .ok (s.setV d (mergeV (s.getV d) 1 (fun _ => false) fun _ => 0)).advance := by
  have hplace : s.placeBits .load (addr 0) 0 = .ok [] := by rw [State.placeBits, hen]; rfl
  simp only [vectorLoad, hw, waitUntil_true, if_true, hplace, hen, bind, Except.bind]
  rfl

/-- The joined pieces of a whole-register load. -/
def State.joined (s : State) (qs : List Placed1) : VReg := ⟨1, BitVec.ofNat 1024 (joinPieces (qs.map (·.piece)) (qs.map s.pieceValue))⟩

theorem joined_byte (s : State) (qs : List Placed1) (h : j < 128) : (s.joined qs).bits.toNat / 256 ^ j % 256 =
    joinPieces (qs.map (·.piece)) (qs.map s.pieceValue) / 256 ^ j % 256 := by
  rw [State.joined, ofNat_byte (n := 128) (by norm_num) _ h]

theorem vectorLoad_bits_on {qs : List Placed1} (hw : s.cx.waitMet wt.toNat 0 = true) (hen : s.enabled 0 = true)
    (hregion : regionOf (addr 0 + toWord (128 - 1)) = regionOf (addr 0)) (he : s.cx.early = []) (ha : s.ahead s.cx.key.h s.cx.key.h = [])
    (hp : s.posts = []) (hqs : s.placeAll .load s.cx.tileco (cutLines (addr 0) 128 0 3) = .ok qs) (hh : ∀ q ∈ qs, q.Here s) :
    vectorLoad s wt 1 n addr d = .ok (s.setV d (s.joined qs)).advance := by
  have hplace : s.placeBits .load (addr 0) 0 = .ok qs := by
    simp only [State.placeBits, hen, inOneRegion, hregion, decide_true, check_true, bind, Except.bind, Bool.not_true, Bool.false_eq_true, if_false]
    exact hqs
  have hretry : anyRetry qs = false := List.any_eq_false.mpr fun q hq => by simp [(hh q hq).retry]
  have hgo : s.mayLoadAll (firstByte qs) 1 qs = .ok () := mayLoadAll_ok he (fun q hq => (hh q hq).check) fun q hq =>
    mayLoad_local (hh q hq).kind (hh q hq).some (settled_local he ha hp (hh q hq).kind)
  simp only [vectorLoad, hw, waitUntil_true, if_true, hplace, hretry, Bool.not_false, hgo, loadPieces_here he hh, hen, bind, Except.bind]
  rfl

end Sys2Proof.Machine
end

section

open Sys2Proof Sys2Proof.Machine

/-- Settles O22: the first element that is not placed stops the load, and a load that goes finds for each element what it would have found
alone; the pieces of a whole register lie where its bytes lie. -/
theorem vectorLoads : Obligations.VectorLoads := by
  unfold Obligations.VectorLoads
  refine ⟨?elements, ?bits⟩
  case elements =>
    rintro w imm a b d t s _ rfl h0 h1 hw loads
    suffices h : ∀ i n addr, exec i s = s.finish (vectorLoad s w t n addr d) → loads i n addr by
      refine ⟨h _ _ _ ?vld, h _ _ _ rfl, ?vldx⟩
      case vld =>
        change execVld w imm t a d s = _
        rw [execVld, accessWidth_eq h1]
        rfl
      case vldx =>
        rintro _ rfl hx
        exact h _ _ _ (exec_vldx hw hx)
    intro i n addr hexec
    have hmem : ∀ k, k ∈ s.vectorElems (min n (tagElems t)) ↔ k < n ∧ k < tagElems t ∧ s.enabled k = true := fun k => mem_elements
    dsimp only [loads]
    refine ⟨fun k hk hbefore => ?faults, fun g first hfirst hroom hp hlines => ?loaded⟩
    case faults =>
      have hplaced : ∀ j ∈ s.vectorElems (min n (tagElems t)), j < k → ∃ p, s.placeElem (tagWidth t / 8) addr j = .ok p := fun j hj hlt => by
        obtain ⟨hal, g, hg⟩ := hbefore j hlt ((hmem j).mp hj)
        exact ⟨_, placeElem_ok (g := fun _ => g) hal hg⟩
      refine ⟨fun hal => traps_of hexec (vectorLoad_stops h1 hw ((hmem k).mpr hk) (placeElem_misaligned hal) hplaced), fun e hal hr => ?_⟩
      rw [hexec, vectorLoad_stops h1 hw ((hmem k).mpr hk) (placeElem_fault hal hr) hplaced]
      cases e.onTable <;> rfl
    case loaded =>
      obtain ⟨v, hload, hvmem, hrest⟩ := vectorLoad_loads (d := d) h0 h1 rfl hw rfl
        (fun k r h => by
          obtain ⟨hk, hlow⟩ := vectorElems_head h
          exact hfirst k ((hmem k).mp hk) fun j hj hon => hlow j hj ((hmem j).mpr hon)) hroom
        (fun k hk => hp k ((hmem k).mp hk)) fun k hk j hj => hlines k j ((hmem k).mp hk) ((hmem j).mp hj)
      exact ⟨_, _, loadedReg_written s t d _ fun k _ => hmem k, by rw [hexec, hload, finish_ok], loaded_leaves _ hvmem hrest⟩
  case bits =>
    rintro w imm a d s _ g hw rfl hplace he ha hp
    have hexec : exec (.vld w imm 1 a d) s = s.finish (vectorLoad s w 1 1024 (fun k => blockAddr128 s imm a + toWord (k * accessWidth 1)) d) := rfl
    have hva : blockAddr128 s imm a + toWord (0 * accessWidth 1) = s.getX a + imm.signExtend 64 * 128 := BitVec.add_zero _
    cases hen : s.enabled 0 with
    | false =>
      rw [vectorLoad_bits_off hw hen] at hexec
      exact ⟨_, _, rfl, nofun, fun _ => mergeV_keeps .., hexec, rfl, rfl, rfl⟩
    | true =>
      have hbytes : ∀ j < 128, s.byteHere (s.getX a + imm.signExtend 64 * 128 + BitVec.ofNat 64 j) (g j).pa := fun j hj => by
        obtain ⟨hr, hk, hmmio, hcheck⟩ := hplace hen j hj
        exact ⟨_, hr, hk, hmmio, hcheck, rfl⟩
      obtain ⟨qs, hqs, hhere, hjoin⟩ := lines_here 0 (fuel := 3) (.inr (by omega)) hbytes
      have hregion : ∀ j < 128, regionOf (s.getX a + imm.signExtend 64 * 128 + BitVec.ofNat 64 j) = .localWindow := fun j hj =>
        (resolve_local (hplace hen j hj).1 (hplace hen j hj).2.1).1
      have hends : regionOf (s.getX a + imm.signExtend 64 * 128 + toWord (128 - 1)) = regionOf (s.getX a + imm.signExtend 64 * 128) :=
        (hregion 127 (by decide)).trans ((hregion 0 (by decide)).symm.trans (congrArg regionOf (BitVec.add_zero _)))
      rw [vectorLoad_bits_on hw hen (by rw [hva]; exact hends) he ha hp (by rw [hva]; exact hqs) hhere] at hexec
      exact ⟨s.joined qs, _, rfl, fun _ j hj => (joined_byte s qs hj).trans (hjoin j hj), nofun, hexec, rfl, rfl, rfl⟩

end

section
/-! SUPPORT. Time, and what a boundary takes (R144, R185, R283, R309, R312, R355, R360, R361, R394): what cycles that pass change in a
context, and what taking a trap leaves in its level and its queues. -/

namespace Sys2Proof.Machine

variable {s : State}

/-! ## Cycles that pass (R185, R283, R355) -/

theorem holdsCore_iff {c : Ctx} : c.holdsCore = true ↔ c.status = .running ∧ ∀ x, c.halt = some x → x.halted = false := by
  cases hh : c.halt <;> simp [Ctx.holdsCore, hh]

/-- The cycles that count against the watchdog of a context when `n` pass: all of them where it holds the core at K under handler
discipline, else none (R185, R283). -/
def Ctx.watched (c : Ctx) (n : Nat) : Nat := if c.holdsCore = true ∧ c.level = .K ∧ c.thread = false then n else 0

theorem watched_eq (c : Ctx) (n : Nat) : c.watched n =
    if c.status = .running ∧ (∀ x, c.halt = some x → x.halted = false) ∧ c.thread = false ∧ c.level = .K then n else 0 :=
  if_congr (by rw [holdsCore_iff]; tauto) rfl rfl

/-- Cycles that pass leave a context its registers and its place, and raise the watchdog's count by those that are watched. -/
theorem pass_fields (c : Ctx) (n wait : Nat) : (c.pass n wait).x = c.x ∧ (c.pass n wait).pc = c.pc ∧
    (c.pass n wait).wdog = { c.wdog with count := c.wdog.count + c.watched n } := by
  unfold Ctx.pass Ctx.watched
  dsimp only
  generalize hd : (if c.resident then c.count 10 (min n wait) else c) = d
  obtain ⟨hx, hpc, hwdog, hcore, hlevel, hthread⟩ : d.x = c.x ∧ d.pc = c.pc ∧ d.wdog = c.wdog ∧ d.holdsCore = c.holdsCore ∧
      d.level = c.level ∧ d.thread = c.thread := by
    subst hd
    split <;> exact ⟨rfl, rfl, rfl, rfl, rfl, rfl⟩
  rw [← hx, ← hpc, ← hwdog, ← hcore, ← hlevel, ← hthread]
  have hcount : (d.count 1 n).thread = d.thread := rfl
  rw [hcount]
  by_cases hk : d.holdsCore = true ∧ d.level = .K
  case neg =>
    rw [if_neg (by simpa using hk), if_neg fun h => hk ⟨h.1, h.2.1⟩]
    exact ⟨rfl, rfl, rfl⟩
  case pos =>
    rw [if_pos (by simpa using hk)]
    cases d.thread with
    | true => exact ⟨rfl, rfl, by simp [Ctx.count]⟩
    | false => exact ⟨rfl, rfl, by simp [Ctx.count, hk]⟩

/-- A frame has 4,096 cycles, and NOW wraps at a multiple of them (R309, R355). -/
theorem nextFrame_mod (now : Word) : (now + toWord (4096 - now.toNat % 4096)).toNat % 4096 = 0 := by
  simp only [toWord, BitVec.toNat_add, BitVec.toNat_ofNat]
  omega

/-! ## The table of tokens (R312) -/

theorem tabGet_tabPut_ne {α : Type} (l : List (Nat × α)) {j k : Nat} (v dflt : α) (h : j ≠ k) : tabGet (tabPut l k v) j dflt = tabGet l j dflt := by
  induction l with
  | nil => simp [tabPut, tabGet, h.symm]
  | cons e l ih =>
    by_cases hk : e.1 = k
    · simp [tabPut, tabGet, hk, h.symm]
    · simp [tabPut, tabGet, hk, ih]

/-! ## The watchdog (R283) -/

theorem exec_watchdogExpiry {k : Key} {c : Ctx} (hc : s.ctx? k = some c) : exec (.watchdogExpiry k) s =
    if c.thread || c.wdog.limit = 0 || c.wdog.count < c.wdog.limit || !c.holdsCore then .next s
    else .next (s.mapCtx k fun c => ({ c with wdog := { c.wdog with limit := 0 } } : Ctx).async 26 (toWord c.wdog.limit) 0 .T) := by
  change execWatchdogExpiry k s = _
  rw [execWatchdogExpiry, hc]

/-! ## Taking what is due (R359 to R361) -/

theorem wroteBack_irqs (base : Nat) (l : List Nat) (s : State) : (l.foldl (writeBackOne base) s).cx.irqs = s.cx.irqs := by
  induction l generalizing s with
  | nil => rfl
  | cons i l ih =>
    rw [List.foldl_cons, ih, writeBackOne]
    split <;> rfl

theorem toLevel_irqs (s : State) (l : Level) : (s.toLevel l).cx.irqs = s.cx.irqs := by
  unfold State.toLevel
  split
  · rfl
  · exact wroteBack_irqs ..

theorem toLevel_asyncs (s : State) (l : Level) : (s.toLevel l).cx.asyncs = s.cx.asyncs := by
  unfold State.toLevel
  split
  · rfl
  · exact (congrArg Ctx.asyncs (writeBack_marks s) :)

/-- The context after a trap to level `l`: it runs there, with the trap in that level's CSRs (R361). -/
structure Ctx.Entered (c : Ctx) (l : Level) (epc : Word) (code : Nat) (int : Bool) (val val2 : Word) : Prop where
  level : c.level = l
  epc : (c.tr l).epc = epc
  cause : (c.tr l).cause = causeWord code int
  val : (c.tr l).val = val
  val2 : (c.tr l).val2 = val2

/-- A context that keeps its level and that level's CSRs keeps the trap that it entered. -/
theorem Ctx.Entered.congr {c d : Ctx} {l : Level} {epc val val2 : Word} {code : Nat} {int : Bool} (h : c.Entered l epc code int val val2)
    (hl : d.level = c.level) (ht : d.tr l = c.tr l) : d.Entered l epc code int val val2 := by
  obtain ⟨hlevel, hepc, hcause, hval, hval2⟩ := h
  exact ⟨hl.trans hlevel, ht ▸ hepc, ht ▸ hcause, ht ▸ hval, ht ▸ hval2⟩

theorem takeTrap_entered (s : State) (l : Level) (code : Nat) (int : Bool) (val val2 : Word) :
    (s.takeTrap l code int val val2).cx.Entered l s.cx.precise code int val val2 := by
  unfold State.takeTrap
  dsimp only
  rw [dissolve_precise]
  generalize (s.dissolve 2).cx.level = run
  have hu := toLevel_level (s.dissolve 2) l
  generalize (s.dissolve 2).toLevel l = u at hu ⊢
  have hset : (u.cx.setTr l ((u.cx.tr l).enter s.cx.precise code int val val2 run)).Entered l s.cx.precise code int val val2 := by
    refine ⟨(setTr_level ..).trans hu, ?_, ?_, ?_, ?_⟩ <;> rw [tr_setTr] <;> rfl
  exact hset.congr rfl (by cases l <;> rfl)

/-- Outside a composition a trap leaves both queues of its context (R359, R360). -/
theorem takeTrap_queues (h : s.cx.comp.n ≤ 1) (l : Level) (code : Nat) (int : Bool) (val val2 : Word) :
    (s.takeTrap l code int val val2).cx.irqs = s.cx.irqs ∧ (s.takeTrap l code int val val2).cx.asyncs = s.cx.asyncs := by
  unfold State.takeTrap
  dsimp only
  rw [dissolve_lone h]
  have hi := toLevel_irqs s l
  have ha := toLevel_asyncs s l
  generalize s.toLevel l = u at hi ha ⊢
  exact ⟨by rw [← hi]; cases l <;> rfl, by rw [← ha]; cases l <;> rfl⟩

theorem takeIrq_entered (s : State) (l : Level) (p : Pending) :
    (s.takeIrq l p).cx.Entered l s.cx.precise p.code true p.val (if p.merged then 1 else 0) :=
  (takeTrap_entered ..).congr rfl (by cases l <;> rfl)

theorem takeIrq_irqs (h : s.cx.comp.n ≤ 1) (l : Level) (p : Pending) : (s.takeIrq l p).cx.irqs = popIrq s.cx.irqs p.code p.floor :=
  congrArg (popIrq · p.code p.floor) (takeTrap_queues h ..).1

theorem takeAsync_entered (s : State) (a : AsyncExc) :
    (s.takeAsync a).cx.Entered (s.cx.route a.code false a.floor) s.cx.precise a.code false a.val a.val2 :=
  (takeTrap_entered ..).congr rfl (by unfold State.takeAsync; cases s.cx.route a.code false a.floor <;> rfl)

theorem takeAsync_asyncs (h : s.cx.comp.n ≤ 1) (a : AsyncExc) : (s.takeAsync a).cx.asyncs = s.cx.asyncs.erase a :=
  congrArg (·.erase a) (takeTrap_queues h ..).2

theorem exec_trapEntry (s : State) : exec .trapEntry s =
    .next (if s.canRun && s.cx.hint.isNone && !s.cx.waiting then (s.trapDue.map s.takeDue).getD s else s) := rfl

/-- Nothing is taken by a context that may not run, within a pair, in a WFI that waits, or with nothing due (R30, R360, R365). -/
theorem trapEntry_idle (h : s.canRun = false ∨ s.cx.hint ≠ none ∨ s.cx.waiting = true ∨ s.trapDue = none) : exec .trapEntry s = .next s := by
  rw [exec_trapEntry]
  rcases h with h | h | h | h
  · simp [h]
  · simp [Option.isNone_eq_false_iff.mpr (Option.isSome_iff_ne_none.mpr h)]
  · simp [h]
  · simp [h]

theorem trapEntry_takes {d : Due} (hrun : s.canRun = true) (hh : s.cx.hint = none) (hw : s.cx.waiting = false) (hd : s.trapDue = some d) :
    exec .trapEntry s = .next (s.takeDue d) := by
  simp [exec_trapEntry, hrun, hh, hw, hd]

/-! ## External interrupts (R394) -/

theorem hold9_stays (e : ExtIrq) (on : Bool) : Ctx.Stays fun c => c.hold9 e on := {}

theorem mem_hold9 (c : Ctx) (e : ExtIrq) : e ∈ (c.hold9 e true).ext := by
  unfold Ctx.hold9
  by_cases h : e ∈ c.ext <;> simp [h]

/-! ## Reservations that age (R144) -/

/-- A reservation that none of the others is older than is the oldest. -/
theorem oldestResv_head {r : Resv} {l : List Resv} (h : ∀ x ∈ l, r.order ≤ x.order) : oldestResv (r :: l) = some r := by
  change l.foldl _ (some r) = some r
  induction l with
  | nil => rfl
  | cons x l ih =>
    rw [List.forall_mem_cons] at h
    obtain ⟨hx, hl⟩ := h
    rw [List.foldl_cons]
    dsimp only
    rw [if_neg (Nat.not_lt.mpr hx)]
    exact ih hl

/-- The reservations of a home that have not aged. -/
def State.youngResvs (s : State) (h : Nat) : List Resv := s.ctxs.filterMap fun c => c.resv.filter fun r => r.home = h && !r.aged

theorem exec_reservationAging {h : Nat} {r : Resv} (ho : oldestResv (s.youngResvs h) = some r) : exec (.reservationAging h) s =
    .next (s.mapAll fun c => { c with resv := c.resv.map fun (x : Resv) => if x = r then { x with aged := true } else x }) := by
  change execReservationAging h s = _
  rw [State.youngResvs] at ho
  simp only [execReservationAging, ho]

/-- The reservation of the running context is the oldest of its home's where none of the others there is older. -/
theorem oldest_young {h : Nat} {r : Resv} (hr : s.cx.resv = some r) (hh : r.home = h) (ha : r.aged = false)
    (ho : ∀ c ∈ s.others, ∀ x, c.resv = some x → x.home = h → x.aged = false → r.order ≤ x.order) :
    oldestResv (s.youngResvs h) = some r := by
  have hhead : s.youngResvs h = r :: s.others.filterMap fun c => c.resv.filter fun r => r.home = h && !r.aged := by
    simp [State.youngResvs, State.ctxs, hr, hh, ha, Option.filter]
  rw [hhead]
  refine oldestResv_head fun x hx => ?_
  obtain ⟨c, hc, hcx⟩ := List.mem_filterMap.mp hx
  obtain ⟨hres, hp⟩ := Option.filter_eq_some_iff.mp hcx
  simp only [Bool.and_eq_true, decide_eq_true_eq, Bool.not_eq_true'] at hp
  exact ho c hc x hres hp.1 hp.2

end Sys2Proof.Machine
end

section

open Sys2Proof Sys2Proof.Machine

/-- Settles O53: cycles that pass change of a context its counters and its watchdog alone, and a boundary takes a trap over queues that
only lose what is taken. -/
theorem timeAndBoundaries : Obligations.TimeAndBoundaries := by
  unfold Obligations.TimeAndBoundaries
  refine ⟨fun s n h => ⟨?timer, ?frame, ?token, fun k c hc => ⟨fun hidle => ?idle, fun hthread hlimit hover hcore => ?expires⟩⟩,
    fun s => ⟨trapEntry_idle, fun hrun hh hw hn => ⟨fun l p hd => ?irq, fun a l hd hl => ?async⟩, ?xirq, ?aging⟩⟩
  case timer =>
    obtain ⟨hx, hpc, hwdog⟩ := pass_fields s.cx n (Config.contention s.tick)
    exact ⟨s.pass n, rfl, rfl, rfl, hx, hpc, (congrArg Wdog.limit hwdog :), watched_eq s.cx n ▸ (congrArg Wdog.count hwdog :)⟩
  case frame =>
    obtain ⟨hx, hpc, -⟩ := pass_fields s.cx (4096 - s.now.toNat % 4096) (Config.contention s.tick)
    exact ⟨_, rfl, nextFrame_mod s.now, rfl, hx, hpc, fun x => List.mem_filter.trans (and_congr_right' decide_eq_true_iff)⟩
  case token =>
    refine ⟨_, rfl, rfl, fun g => ?_⟩
    split
    · next hg => rw [hg]; exact tabGet_tabPut_same ..
    · next hg => exact tabGet_tabPut_ne _ _ _ hg
  case idle =>
    rw [exec_watchdogExpiry hc, if_pos (by simpa [or_assoc] using hidle)]
  case expires =>
    rw [exec_watchdogExpiry hc, if_neg (by simp [hthread, hlimit, hover, hcore])]
    exact ⟨_, _, rfl, rfl, ctx?_mapCtx {} hc, rfl⟩
  case irq =>
    obtain ⟨hlevel, hepc, hcause, hval, hval2⟩ := takeIrq_entered s l p
    exact ⟨_, trapEntry_takes hrun hh hw hd, hlevel, hepc.trans (by rw [Ctx.precise, hh]), hcause, hval, hval2, takeIrq_irqs hn l p⟩
  case async =>
    subst hl
    obtain ⟨hlevel, hepc, hcause, hval, hval2⟩ := takeAsync_entered s a
    exact ⟨_, trapEntry_takes hrun hh hw hd, hlevel, hepc.trans (by rw [Ctx.precise, hh]), hcause.trans (by simp [causeWord, toWord]),
      hval, hval2, takeAsync_asyncs hn a⟩
  case xirq =>
    rintro r v o rfl
    have hstep : exec (.xirqWrite r v) s = .next (s.writeXirq r v) := rfl
    have hat : s.reached r (fld v 25 16) (fld v 28 26) = s.reached r (v.toNat / 2 ^ 16 % 1024) (v.toNat / 2 ^ 26 % 8) := by
      simp only [fld_eq_div_mod, Nat.reduceSub, Nat.reduceAdd, Nat.reducePow]
    have hsource : fld v 7 0 = v.toNat % 256 := by simp [fld_eq_div_mod]
    rw [hstep, State.writeXirq, hat, hsource]
    refine ⟨fun hnone => by rw [hnone], fun c hc => ?_⟩
    rw [hc]
    obtain ⟨hctx, -⟩ := Option.filter_eq_some_iff.mp hc
    rw [← (ctx?_spec hctx).1] at hctx
    refine ⟨_, _, rfl, rfl, ctx?_mapCtx (hold9_stays _ _) hctx, rfl, fun hon => ?_, fun hoff => ?_⟩
    · rw [hon]; exact mem_hold9 ..
    · rw [hoff]; rfl
  case aging =>
    intro h r hr hh ha ho
    refine ⟨_, exec_reservationAging (oldest_young hr hh ha ho), rfl, ?_⟩
    simp [State.mapAll, hr]

end

section
/-! SUPPORT. Compositions (R190 to R204): why a COMPOSE takes no effect, what the write-back of several sites and the gathering of all registers leave
in a workspace, and the words of INSPECT. -/

namespace Sys2Proof.Machine

variable {s : State}

/-! ## What writing registers back leaves of a context -/

/-- A context without its dirty bits and the marks of writes. -/
def Ctx.sansDirty (c : Ctx) : Ctx := { c.sansMarks with dirty := 0 }

section

variable {c d : Ctx}

theorem sansDirty_of_marks (h : c.sansMarks = { d.sansMarks with dirty := 0 }) : c.sansDirty = d.sansDirty := by
  rw [Ctx.sansDirty, Ctx.sansDirty, h]

theorem pc_of_sansDirty (h : c.sansDirty = d.sansDirty) : c.pc = d.pc := (congrArg Ctx.pc h :)

theorem x_of_sansDirty (h : c.sansDirty = d.sansDirty) : c.x = d.x := (congrArg Ctx.x h :)

theorem rel_of_sansDirty (h : c.sansDirty = d.sansDirty) : c.rel = d.rel := (congrArg Ctx.rel h :)

theorem place_of_sansDirty (h : c.sansDirty = d.sansDirty) : c.workspace c.level = d.workspace d.level := by
  have hlevel : c.level = d.level := (congrArg Ctx.level h :)
  have hkey : c.key = d.key := (congrArg Ctx.key h :)
  have hbanks : c.banks = d.banks := (congrArg Ctx.banks h :)
  have hwsp : c.wsp = d.wsp := (congrArg Ctx.wsp h :)
  rw [hlevel]
  cases d.level <;> simp only [Ctx.workspace, Ctx.wspOf, Ctx.poolOff, hkey, hbanks, hwsp]

end

/-! ## Write-back of the sites of a composition (R192) -/

/-- A clean register keeps its doubleword. -/
theorem wroteBack_read_clean (h : Safe s) (base : Nat) {i : Nat} (hd : s.cx.dirty.getLsbD i = false) :
    ∀ n, memRead (s.wroteBack base n).mem (base + 8 * i) 8 = memRead s.mem (base + 8 * i) 8
  | 0 => rfl
  | n + 1 => by
    have hdirty : (s.wroteBack base n).cx.dirty = s.cx.dirty := (congrArg Ctx.dirty (wroteBack_marks s base n) :)
    rw [wroteBack_succ, ← wroteBack_read_clean h base hd n]
    by_cases hi : i = n + 1
    · rw [writeBackOne, if_neg (by rw [hdirty, ← hi, hd]; exact Bool.false_ne_true)]
    · exact (writeBackOne_memSameBut (wroteBack_safe h base n) base (n + 1)).memRead (by omega)

/-- A context with the running context's registers and dirty bits is written back register by register as that one is. -/
theorem writeBackCtx_running {c : Ctx} (h : s.cx.sansMarks = c.sansMarks) : s.writeBackCtx c = s.wroteBack (c.workspace c.level) 31 := by
  unfold State.writeBackCtx State.wroteBack
  generalize List.range' 1 31 = l
  induction l generalizing s with
  | nil => rfl
  | cons i l ih =>
    have hx : s.cx.x = c.x := (congrArg Ctx.x h :)
    have hd : s.cx.dirty = c.dirty := (congrArg Ctx.dirty h :)
    have hone : (if c.dirty.getLsbD i then s.store (c.workspace c.level + 8 * i) 8 (c.getX (BitVec.ofNat 5 i)).toNat else s) =
        writeBackOne (c.workspace c.level) s i := by
      rw [writeBackOne, hd, Ctx.getX, Ctx.getX, hx]
    rw [List.foldl_cons, List.foldl_cons, hone]
    exact ih ((writeBackOne_marks ..).trans h)

theorem writeBackCtx_clean {c : Ctx} (h : c.dirty = 0) (s : State) : s.writeBackCtx c = s := by
  simp [State.writeBackCtx, h]

theorem writeBackCtx_marks (s : State) (c : Ctx) : (s.writeBackCtx c).cx.sansMarks = s.cx.sansMarks := by
  unfold State.writeBackCtx
  generalize List.range' 1 31 = l
  induction l generalizing s with
  | nil => rfl
  | cons i l ih =>
    rw [List.foldl_cons, ih]
    split <;> rfl

/-- Sites that are written back leave the running context as it was, but for its dirty bits and the marks of writes. -/
theorem writeBackSites_sansDirty (s : State) (hs : List Nat) : (s.writeBackSites hs).cx.sansDirty = s.cx.sansDirty := by
  have hfold : ∀ (l : List Ctx) (t : State), (l.foldl (fun u c => u.writeBackCtx c) t).cx.sansMarks = t.cx.sansMarks := fun l => by
    induction l with
    | nil => exact fun _ => rfl
    | cons c l ih => exact fun t => (ih _).trans (writeBackCtx_marks t c)
  rw [Ctx.sansDirty, Ctx.sansDirty, ← hfold (s.ctxs.filter fun c => c.resident && hs.contains c.key.h) s]
  unfold State.writeBackSites
  dsimp only [State.mapIf, State.mapAll]
  split <;> rfl

/-- Where no other context of the sites has a dirty register, their write-back is that of the running context. -/
theorem writeBackSites_mem {hs : List Nat} (hr : s.cx.resident = true) (hh : s.cx.key.h ∈ hs)
    (ho : ∀ c ∈ s.others, c.resident = true → c.key.h ∈ hs → c.dirty = 0) :
    (s.writeBackSites hs).mem = (s.wroteBack (s.cx.workspace s.cx.level) 31).mem := by
  have hclean : ∀ (l : List Ctx) (t : State), (∀ c ∈ l, c.dirty = 0) → l.foldl (fun u c => u.writeBackCtx c) t = t := fun l => by
    induction l with
    | nil => exact fun _ _ => rfl
    | cons c l ih =>
      intro t hl
      obtain ⟨hc, hrest⟩ := List.forall_mem_cons.mp hl
      rw [List.foldl_cons, writeBackCtx_clean hc, ih t hrest]
  have hhead : (s.ctxs.filter fun c => c.resident && hs.contains c.key.h) =
      s.cx :: s.others.filter fun c => c.resident && hs.contains c.key.h :=
    List.filter_cons_of_pos (by simp [hr, hh])
  have hothers : ∀ c ∈ s.others.filter fun c => c.resident && hs.contains c.key.h, c.dirty = 0 := fun c hc => by
    rw [List.mem_filter, Bool.and_eq_true, List.contains_iff_mem] at hc
    exact ho c hc.1 hc.2.1 hc.2.2
  change ((s.ctxs.filter fun c => c.resident && hs.contains c.key.h).foldl (fun u c => u.writeBackCtx c) s).mem = _
  rw [hhead, List.foldl_cons, hclean _ _ hothers, writeBackCtx_running rfl]

/-! ## COMPOSE (R192, R193) -/

theorem composeReason_nested {n : Nat} (h : 2 ≤ s.cx.comp.n) : s.composeReason n = 3 := if_pos h

theorem composeReason_misaligned {n : Nat} (h : s.cx.comp.n < 2)
    (hok : ¬ (s.cx.key.h % n = 0 ∧ s.cx.kbase ≤ s.cx.rel ∧ s.cx.rel + n ≤ s.cx.kbase + s.cx.klen)) : s.composeReason n = 2 := by
  unfold State.composeReason
  rw [if_neg (Nat.not_le.mpr h), if_pos]
  simp only [Bool.or_eq_true, decide_eq_true_eq]
  omega

theorem composeReason_aligned {n : Nat} (h : s.cx.comp.n < 2)
    (hok : s.cx.key.h % n = 0 ∧ s.cx.kbase ≤ s.cx.rel ∧ s.cx.rel + n ≤ s.cx.kbase + s.cx.klen) :
    s.composeReason n = if ∀ j < n, s.available s.cx.key (s.cx.key.h + j) = true then 0 else 1 := by
  unfold State.composeReason
  rw [if_neg (Nat.not_le.mpr h), if_neg]
  · exact if_congr (by rw [List.all_eq_true]; simp only [List.mem_range]) rfl rfl
  · simp only [Bool.or_eq_true, decide_eq_true_eq]
    omega

/-- The sites of a composition of `n` that the running core owns (R190). -/
def State.sitesFrom (s : State) (n : Nat) : List Nat := (List.range n).map (s.cx.key.h + ·)

theorem mem_sitesFrom {n h : Nat} : h ∈ s.sitesFrom n ↔ ∃ j < n, h = s.cx.key.h + j := by
  simp only [State.sitesFrom, List.mem_map, List.mem_range, eq_comm]

/-- The context as the composed thread of `n` sites (R192). -/
def Ctx.owning (c : Ctx) (n : Nat) : Ctx := { c with comp := { c.comp with n := n, oh := c.rel, due := none } }

/-- The state in which the running context is the composed thread of `n` sites, with x[d] answered (R192). -/
def State.composed (s : State) (d : BitVec 5) (n : Nat) : State :=
  (((s.result d 1).writeBackSites (s.sitesFrom n)).invalidateAll (s.sitesFrom n)).loadX.mapCx (Ctx.owning · n)

theorem exec_compose {b : BitVec 2} {d : BitVec 5} (hr : s.leafGrants 5 = true) : exec (.compose b d) s =
    .next (if s.composeReason (2 ^ b.toNat) ≠ 0 then s.result d (bindStatus (s.composeReason (2 ^ b.toNat)))
      else s.composed d (2 ^ b.toNat)) := by
  change execCompose b d s = _
  simp only [execCompose, rightCompose, hr, Bool.not_true, Bool.false_eq_true, if_false]
  split <;> rfl

theorem compose_refused {b : BitVec 2} {d : BitVec 5} {why : Nat} {v : Word} (hr : s.leafGrants 5 = true)
    (hwhy : s.composeReason (2 ^ b.toNat) = why) (h0 : why ≠ 0) (hv : bindStatus why = v) : Gives (.compose b d) s d v :=
  gives_of (by rw [exec_compose hr, hwhy, if_pos h0]) hv

/-! ## The new composed thread (R192) -/

theorem result_rel {d : BitVec 5} {v : Word} : (s.result d v).cx.rel = s.cx.rel := by
  simp only [State.result, State.advance_cx, State.setX_cx, Ctx.rel, Ctx.advance_ident, Ctx.setX_ident]

theorem owning_pc {n : Nat} : (s.mapCx (Ctx.owning · n)).cx.pc = s.cx.pc := rfl

theorem owning_oh {n : Nat} : (s.mapCx (Ctx.owning · n)).cx.comp.oh = s.cx.rel := rfl

theorem owning_getX {n : Nat} {r : BitVec 5} : (s.mapCx (Ctx.owning · n)).getX r = s.getX r := rfl

theorem loadX_rel : s.loadX.cx.rel = s.cx.rel := by simp only [State.loadX, Ctx.rel]

theorem invalidateAll_mem {hs : List Nat} : (s.invalidateAll hs).mem = s.mem := rfl

theorem invalidateAll_cx {hs : List Nat} : (s.invalidateAll hs).cx = s.cx := rfl

theorem composed_pc {d : BitVec 5} {n : Nat} : (s.composed d n).cx.pc = s.cx.pc + 4 := by
  rw [State.composed, owning_pc, loadX_pc, invalidateAll_cx, pc_of_sansDirty (writeBackSites_sansDirty ..), result_pc]

theorem composed_oh {d : BitVec 5} {n : Nat} : (s.composed d n).cx.comp.oh = s.cx.rel := by
  rw [State.composed, owning_oh, loadX_rel, invalidateAll_cx, rel_of_sansDirty (writeBackSites_sansDirty ..), result_rel]

theorem composed_l1 {d : BitVec 5} {n j : Nat} (hj : j < n) {l : L1Line} (hl : l ∈ (s.composed d n).l1) : l.h ≠ s.cx.key.h + j := by
  obtain ⟨-, hout⟩ := List.mem_filter.mp hl
  intro h
  have hin : l.h ∈ s.sitesFrom n := mem_sitesFrom.mpr ⟨j, hj, h⟩
  rw [List.contains_iff_mem.mpr hin] at hout
  exact Bool.false_ne_true hout

/-- x[d] ← v leaves x[d] dirty, and no other register that was clean. -/
theorem result_dirty {d r : BitVec 5} {v : Word} (hr : r ≠ 0) :
    (s.result d v).cx.dirty.getLsbD r.toNat = (s.cx.dirty.getLsbD r.toNat || decide (r = d)) := by
  change (s.cx.setX d v).dirty.getLsbD r.toNat = _
  unfold Ctx.setX
  split
  next h => rw [decide_eq_false (h ▸ hr), Bool.or_false]
  next => simp [BitVec.getLsbD_twoPow, d.isLt, BitVec.toNat_inj, eq_comm]

/-- A register that goes through the workspace comes back: the dirty ones as they were, the clean ones as the workspace held them (R200). -/
theorem wroteBack_reads (h : Safe s) (base : Nat) {r : BitVec 5} (hr : r ≠ 0) :
    toWord (memRead (s.wroteBack base 31).mem (base + 8 * r.toNat) 8) =
      if s.cx.dirty.getLsbD r.toNat then s.getX r else toWord (memRead s.mem (base + 8 * r.toNat) 8) := by
  have hpos : 0 < r.toNat := Nat.pos_of_ne_zero fun h0 => hr (BitVec.eq_of_toNat_eq h0)
  have hlt : r.toNat < 32 := r.isLt
  cases hd : s.cx.dirty.getLsbD r.toNat with
  | true =>
    rw [wroteBack_read h base hpos hd (by omega), BitVec.ofNat_toNat, BitVec.setWidth_eq, if_pos rfl, toWord, BitVec.ofNat_toNat,
      BitVec.setWidth_eq]
    rfl
  | false => rw [wroteBack_read_clean h base hd, if_neg Bool.false_ne_true]

theorem result_place {d : BitVec 5} {v : Word} :
    (s.result d v).cx.workspace (s.result d v).cx.level = s.cx.workspace s.cx.level := by
  rw [result_workspace, result_level]

/-- The registers of the new composed thread (R192). -/
theorem composed_getX {d : BitVec 5} {n : Nat} (h : Safe s) (hn : 0 < n) (hr : s.cx.resident = true)
    (ho : ∀ c ∈ s.others, c.resident = true → (∃ j < n, c.key.h = s.cx.key.h + j) → c.dirty = 0) (r : BitVec 5) :
    (s.composed d n).getX r = if r = 0 then 0 else if r = d then 1 else if s.cx.dirty.getLsbD r.toNat then s.getX r else
      toWord (memRead s.mem (s.cx.workspace s.cx.level + 8 * r.toNat) 8) := by
  have hkey : (s.result d 1).cx.key = s.cx.key := by simp [State.result]
  have hres : (s.result d 1).cx.resident = true := by simpa [State.result, Ctx.resident] using hr
  have hown : (s.result d 1).cx.key.h ∈ s.sitesFrom n := mem_sitesFrom.mpr ⟨0, hn, by rw [hkey]; rfl⟩
  have hmem := writeBackSites_mem hres hown fun c hc hcr hh => ho c hc hcr (mem_sitesFrom.mp hh)
  rw [State.composed, owning_getX, loadX_getX, invalidateAll_mem, invalidateAll_cx,
    place_of_sansDirty (writeBackSites_sansDirty ..), hmem, result_place]
  by_cases h0 : r = 0
  · rw [if_pos h0, if_pos h0]
  · rw [if_neg h0, if_neg h0, wroteBack_reads h.result _ h0, result_dirty h0, result_getX]
    by_cases hd : r = d
    · rw [decide_eq_true hd, Bool.or_true, if_pos rfl, if_pos ⟨h0, hd⟩, if_pos hd]
    · rw [decide_eq_false hd, Bool.or_false, if_neg (not_and_of_not_right _ hd), if_neg hd]
      simp only [State.result, State.advance_mem, State.setX_mem]

/-! ## RELEASE (R200, R201) -/

/-- The state with every register of the running context dirty. -/
def State.allDirty (s : State) : State := s.mapCx fun c => { c with dirty := BitVec.allOnes 32 }

theorem allDirty_getLsbD {i : Nat} (hi : i < 32) : s.allDirty.cx.dirty.getLsbD i = true :=
  (BitVec.getLsbD_allOnes ..).trans (decide_eq_true hi)

/-- Registers written one after the other are written back as dirty ones. -/
theorem foldl_writeBackOne_allDirty (base : Nat) {l : List Nat} (hl : ∀ i ∈ l, i < 32) : l.foldl (writeBackOne base) s.allDirty =
    (l.foldl (fun s i => s.store (base + 8 * i) 8 (s.cx.getX (BitVec.ofNat 5 i)).toNat) s).allDirty := by
  induction l generalizing s with
  | nil => rfl
  | cons i l ih =>
    obtain ⟨hi, hrest⟩ := List.forall_mem_cons.mp hl
    have hone : writeBackOne base s.allDirty i = (s.store (base + 8 * i) 8 (s.cx.getX (BitVec.ofNat 5 i)).toNat).allDirty :=
      if_pos (allDirty_getLsbD hi)
    rw [List.foldl_cons, List.foldl_cons, hone, ih hrest]

theorem allDirty_clean :
    ({ s.allDirty with cx := { s.allDirty.cx with dirty := 0 } } : State) = { s with cx := { s.cx with dirty := 0 } } := rfl

/-- To gather the registers is to write them back with all of them dirty. -/
theorem gatherX_eq (s : State) : s.gatherX = s.allDirty.writeBack := by
  have hl : ∀ i ∈ List.range' 1 31, i < 32 := fun i hi => by
    rw [List.mem_range'_1] at hi
    omega
  have hplace : s.allDirty.cx.workspace s.allDirty.cx.level = s.cx.workspace s.cx.level := rfl
  rw [State.writeBack, hplace, foldl_writeBackOne_allDirty _ hl, allDirty_clean]
  rfl

theorem gatherX_read (h : Safe s) {r : BitVec 5} (hr : r ≠ 0) :
    memRead s.gatherX.mem (s.cx.workspace s.cx.level + 8 * r.toNat) 8 = (s.getX r).toNat := by
  have hpos : 0 < r.toNat := Nat.pos_of_ne_zero fun h0 => hr (BitVec.eq_of_toNat_eq h0)
  have hread := writeBack_read (s := s.allDirty) h hpos r.isLt (allDirty_getLsbD r.isLt)
  rw [BitVec.ofNat_toNat, BitVec.setWidth_eq] at hread
  rw [gatherX_eq]
  exact hread

theorem exec_release_lone {d : BitVec 5} (h : s.cx.comp.n < 2) : exec (.release d) s = .next (s.result d (bindStatus 4)) := by
  change execRelease d s = _
  rw [execRelease, if_pos h]

theorem exec_release {d : BitVec 5} (h : 2 ≤ s.cx.comp.n) :
    exec (.release d) s = .next ((s.setX d 1).dissolved (s.setX d 1).gatherX 1).advance := by
  have hn : ¬ (s.setX d 1).cx.comp.n ≤ 1 := by
    rw [State.setX_cx, Ctx.setX_comp]
    omega
  change execRelease d s = _
  rw [execRelease, if_neg (Nat.not_lt.mpr h), dissolve_composed hn]

theorem setX_place {d : BitVec 5} {v : Word} : (s.setX d v).cx.workspace (s.setX d v).cx.level = s.cx.workspace s.cx.level := by
  rw [State.setX_cx]
  unfold Ctx.setX
  split <;> rfl

theorem dissolved_mem {g : State} {last : Nat} : (s.dissolved g last).mem = g.mem := rfl

theorem dissolved_pc {g : State} {last : Nat} : (s.dissolved g last).cx.pc = g.cx.pc := rfl

theorem dissolved_x {g : State} {last : Nat} : (s.dissolved g last).cx.x = g.cx.x := rfl

theorem gatherX_sansDirty (s : State) : s.gatherX.cx.sansDirty = s.cx.sansDirty := sansDirty_of_marks (gatherX_marks s)

theorem released_pc {last : Nat} : (s.dissolved s.gatherX last).advance.cx.pc = s.cx.pc + 4 := by
  rw [State.advance_cx, Ctx.advance_pc, dissolved_pc, pc_of_sansDirty (gatherX_sansDirty s)]

theorem released_getX {last : Nat} {r : BitVec 5} : (s.dissolved s.gatherX last).advance.getX r = s.getX r := by
  have hx : (s.dissolved s.gatherX last).advance.cx.x = s.cx.x := by
    rw [State.advance_cx, Ctx.advance_x, dissolved_x, x_of_sansDirty (gatherX_sansDirty s)]
  rw [State.getX, State.getX, Ctx.getX, Ctx.getX, hx]

/-- The workspace then holds the registers (R200). -/
theorem released_read (h : Safe s) {last : Nat} {r : BitVec 5} (hr : r ≠ 0) :
    memRead (s.dissolved s.gatherX last).advance.mem (s.cx.workspace s.cx.level + 8 * r.toNat) 8 = (s.getX r).toNat := by
  rw [State.advance_mem, dissolved_mem, gatherX_read h hr]

/-! ## INSPECT (R368) -/

theorem inspectWord_value (e a d : BitVec 5) : (systemWord 14 e a d).setWidth 64 =
    0x1C000073 + e.setWidth 64 * 2 ^ 20 + a.setWidth 64 * 2 ^ 15 + d.setWidth 64 * 128 := by
  have hw : (systemWord 14 e a d).toNat = 0x1C000073 + e.toNat * 2 ^ 20 + a.toNat * 2 ^ 15 + d.toNat * 128 := by
    have h14 : (14 : BitVec 7).toNat = 14 := rfl
    rw [systemWord_toNat, h14]
    omega
  simp only [← BitVec.ofNat_toNat, hw, BitVec.ofNat_add, BitVec.ofNat_mul]
  rfl

theorem exec_inspect {e a d : BitVec 5} (h : s.cx.level ≠ .K) :
    exec (.inspect e a d) s = .next (s.result d (s.inspectWord s.cx.requester (s.getX a) (s.getX e))) := by
  change execInspect e a d s = _
  simp only [execInspect, h, ne_eq, not_false_eq_true, decide_true, check_true]
  rfl

end Sys2Proof.Machine
end

section

open Sys2Proof Sys2Proof.Machine

/-- Settles O31: a COMPOSE answers by the reason that is met first, the registers of a new composed thread are those of a workspace that was
written back, and those that RELEASE gathers are all in it. -/
theorem composing : Obligations.Composing := by
  unfold Obligations.Composing
  rintro b e a d s n rfl
  refine ⟨fun hr => ?right, fun hr => ⟨fun hn => ?nested, fun hn ok hok => ⟨fun hbad => ?align, fun hgood => ⟨fun hbusy => ?busy, fun hfree => ?composes⟩⟩⟩,
    fun hn => ?lone, fun hn => ?releases, gives_of rfl rfl, fun hl => ?atK, fun hl => gives_of (exec_inspect hl) rfl⟩
  case right =>
    refine traps_of (rfl : _ = execCompose b d s) ?_
    simp only [rightCompose, hr]
    rfl
  case nested => exact compose_refused hr (composeReason_nested hn) (by decide) rfl
  case align => exact compose_refused hr (composeReason_misaligned hn (hok.not.mp hbad)) (by decide) rfl
  case busy =>
    have hwhy := composeReason_aligned hn (hok.mp hgood)
    obtain ⟨j, hj, hj0⟩ := hbusy
    rw [if_neg fun h => Bool.false_ne_true (hj0.symm.trans (h j hj))] at hwhy
    exact compose_refused hr hwhy (by decide) rfl
  case composes =>
    have hwhy := composeReason_aligned hn (hok.mp hgood)
    rw [if_pos hfree] at hwhy
    refine ⟨s.composed d (2 ^ b.toNat), ?_, composed_pc, rfl, composed_oh, fun l hl j hj => composed_l1 hj hl,
      fun hs hres ho r => composed_getX hs (Nat.two_pow_pos _) hres ho r⟩
    rw [exec_compose hr, hwhy, if_neg (not_not.mpr rfl)]
  case lone => exact gives_of (exec_release_lone hn) rfl
  case releases =>
    refine ⟨_, exec_release hn, ?_, rfl, rfl, fun r => released_getX.trans (State.getX_setX ..), fun hs r hr => ?_⟩
    · exact released_pc.trans (congrArg (· + 4) (Ctx.setX_pc ..))
    · rw [released_getX, ← setX_place (d := d) (v := 1)]
      exact released_read (Safe.setX hs) hr
  case atK =>
    refine traps_of (rfl : _ = execInspect e a d s) ?_
    rw [← inspectWord_value]
    simp only [hl]
    rfl

end

section
/-! SUPPORT. Strong accesses (R210, R213, R219, R220): what LD.S and LD.ACQ read and drop, and what a strong store or a release waits for. -/

namespace Sys2Proof.Machine

variable {s : State} {t : Target} {va : Word} {n : Nat} {o : Order} {i : Instr} {w sc : BitVec 2} {a b d : BitVec 5} {acq rel : Bool}

/-! ## Strong loads -/

/-- The order of LD.S and LD.ACQ (R220). -/
def ldOrder (acq : Bool) (sc : BitVec 2) : Order := ⟨acq, false, true, sc.toNat⟩

/-- The state after a strong load, and what its acquire leaves (R209, R210). -/
def State.strongLoaded (s : State) (o : Order) (t : Target) (va : Word) (n : Nat) : State :=
  if o.acq then ((s.loadStrong t va n).2.heed t n).acquire o.scope else (s.loadStrong t va n).2

theorem strongLoaded_traffic : (s.strongLoaded o t va n).sansMem.sansTraffic = s.sansMem.sansTraffic :=
  (heedIf_traffic ..).trans loadStrong_sansMem

theorem strongLoaded_mem : (s.strongLoaded o t va n).mem = s.mem := (heedIf_mem ..).trans loadStrong_mem

theorem loadStrong_l1 : (s.loadStrong t va n).2.l1 = s.l1 := by
  unfold State.loadStrong
  dsimp only
  split <;> split <;> rfl

theorem strongLoaded_l1 (h : o.acq = false) : (s.strongLoaded o t va n).l1 = s.l1 := by
  rw [State.strongLoaded, h]
  exact loadStrong_l1

/-- An acquire of span scope or wider drops every copy of the thread's caches (R209, R210). -/
theorem acquire_drops {scope : Nat} (h : 1 ≤ scope) {l : L1Line} (hl : l ∈ (s.acquire scope).l1) : l.h ∉ s.cx.members := by
  rw [State.acquire, if_pos h] at hl
  simpa using (List.mem_filter.mp hl).2

theorem mem_members {c : Ctx} {j : Nat} (h : j < c.comp.n) : c.key.h + j ∈ c.members := List.mem_map.mpr ⟨j, List.mem_range.mpr h, rfl⟩

theorem strongLoaded_drops (ha : o.acq = true) (hs : 1 ≤ o.scope) {l : L1Line} (hl : l ∈ (s.strongLoaded o t va n).l1) {j : Nat}
    (hj : j < s.cx.comp.n) : l.h ≠ s.cx.key.h + j := by
  have hmembers : (s.loadStrong t va n).2.cx.members = s.cx.members :=
    (congrArg (fun u : State => u.cx.members) (loadStrong_sansMem (s := s) (t := t) (va := va) (n := n)) :)
  rw [State.strongLoaded, if_pos ha] at hl
  have hnot : l.h ∉ (s.loadStrong t va n).2.cx.members := acquire_drops (s := (s.loadStrong t va n).2.heed t n) hs hl
  rw [hmembers] at hnot
  rintro heq
  exact hnot (heq ▸ mem_members hj)

/-- A strong load that nothing is ahead of may be performed. -/
theorem mayLoad_strong (ho : o.strong = true) (hs : s.settled t va n) : s.mayLoad o t va n n = .ok () := by
  unfold State.mayLoad
  dsimp only
  split
  · rfl
  · rw [ho, Bool.or_true]
    exact hs.2

theorem loadAt_strong (hm : isMmio t.pa = false) (ho : o.strong = true) (hs : s.settled t va n) (hn : 0 < n) :
    s.loadAt o t va n n = (memRead s.mem t.pa n, s.strongLoaded o t va n) := by
  rw [← loadStrong_value (t := t) (va := va) hn hs.1]
  simp only [State.loadAt, hm, State.loadOrd, ho, Bool.or_true, if_true, State.strongLoaded]
  rfl

theorem accessBytes_pos {k : Nat} (f : BitVec k) : 0 < accessBytes f := Nat.two_pow_pos _

/-- Bit 2 of f3 is set in the forms that extend with zeros (R136). -/
theorem loads_signed : ∀ f : BitVec 3, (!f.getLsbD 2) = decide (f.toNat < 4) := by decide

theorem exec_strongLoad {f : BitVec 3} (hi : exec i s = s.finish (strongLoad s w sc acq b a f d)) (hw : s.cx.waitMet w.toNat 0 = true)
    (hva : va = s.getX a + s.getX b) (hal : va.toNat % accessBytes f = 0) (ht : s.reach .load va (accessBytes f) = .ok t)
    (hm : isMmio t.pa = false) (hs : s.settled t va (accessBytes f)) :
    exec i s = .next ((s.strongLoaded (ldOrder acq sc) t va (accessBytes f)).result d
      (extend (accessBytes f) (f.toNat < 4) (memRead s.mem t.pa (accessBytes f)))) := by
  have hmay : s.mayLoad (ldOrder acq sc) t va (accessBytes f) (accessBytes f) = .ok () := mayLoad_strong rfl hs
  have hload := loadAt_strong (o := ldOrder acq sc) hm rfl hs (accessBytes_pos f)
  rw [ldOrder] at *
  simp only [hi, strongLoad, hw, ← hva, loadInto, hal, ht, hmay, hload, loads_signed, decide_true, check_true, waitUntil_true, bind, Except.bind]
  rfl

theorem strongLoad_traps {f : BitVec 3} (hi : exec i s = s.finish (strongLoad s w sc acq b a f d)) (hw : s.cx.waitMet w.toNat 0 = true)
    (hal : (s.getX a + s.getX b).toNat % accessBytes f ≠ 0) : Traps i s (exn 4 (s.getX a + s.getX b)) := by
  rw [Traps, hi, strongLoad, hw, loadInto_misaligned hal]
  rfl

/-! ## Strong stores -/

/-- The order of ST.S and ST.REL (R220). -/
def stOrder (rel : Bool) (sc : BitVec 2) : Order := ⟨false, rel, true, sc.toNat⟩

theorem accessBytes_two (f : BitVec 2) : accessBytes f = 2 ^ f.toNat := by rw [accessBytes, Nat.mod_eq_of_lt f.isLt]

theorem strongStore_traps {f : BitVec 2} (hi : exec i s = s.finish (strongStore s w sc rel b a f)) (hw : s.cx.waitMet w.toNat 0 = true)
    (hal : (s.getX a).toNat % accessBytes f ≠ 0) : Traps i s (exn 6 (s.getX a)) := by
  rw [Traps, hi, strongStore, hw, storeFrom_misaligned hal]
  rfl

/-- A strong store whose target is reached and which may leave does what `put` does, and commits (R220). -/
theorem exec_strongStore {f : BitVec 2} {u : State} (hi : exec i s = s.finish (strongStore s w sc rel b a f))
    (hw : s.cx.waitMet w.toNat 0 = true) (hal : (s.getX a).toNat % accessBytes f = 0)
    (ht : s.storeTarget (s.getX a) (accessBytes f) s.cx.tileco = .ok t) (hissue : s.mayIssue (stOrder rel sc) t (s.getX a) = true)
    (hput : s.put (stOrder rel sc) (s.cx.bankSite (s.getX a)) t (s.getX a) (accessBytes f) ((s.getX b).setWidth 1024)
      (valueCells (accessBytes f) (s.getX b).toNat) (accessBytes f) = .ok u) : exec i s = .next u.advance := by
  rw [stOrder] at *
  simp only [hi, strongStore, hw, storeFrom, hal, ht, hissue, hput, decide_true, check_true, waitUntil_true, bind, Except.bind]
  rfl

/-! ## What a release and a strong store wait for (R210, R211) -/

theorem storeCount_of_drained {c : Ctx} {k : CountClass} (h : c.drained = true) (hk : k ≠ .none) : c.storeCount k = 0 := by
  rw [Ctx.storeCount, List.length_eq_zero_iff, List.filter_eq_nil_iff]
  rintro e he hout
  have hent := List.all_eq_true.mp h e he
  simp_all

/-- A release of span scope or wider leaves with no posted write outstanding. -/
theorem drained_of_mayLeave {c : Ctx} (h : c.mayLeave o = true) (hr : o.rel = true) (hs : 1 ≤ o.scope) : c.drained = true := by
  have := ((Bool.and_eq_true ..).mp h).1
  simpa [hr, hs] using this

theorem failed_of_not_outstanding {e : OpEntry} (h : e.outstanding = false) : ∃ why, e.st = .failed why := by
  cases hst : e.st with
  | failed why => exact ⟨why, rfl⟩
  | sent | performed | refused => simp [OpEntry.outstanding, hst] at h

/-- A strong store or a release of span scope or wider leaves with no strong store of span scope or wider outstanding. -/
theorem failed_of_mayLeave {c : Ctx} {e : OpEntry} (h : c.mayLeave o = true) (ho : o.strong = true ∨ o.rel = true) (hs : 1 ≤ o.scope)
    (he : e ∈ c.log) (hk : e.kind = .store) (hst : e.strong = true) (hes : 1 ≤ e.scope.toNat) : ∃ why, e.st = .failed why := by
  have hall : (c.log.all fun x => !x.holdsBack o.scope) = true := by
    have := ((Bool.and_eq_true ..).mp h).2
    rwa [show (o.strong || o.rel) = true from (Bool.or_eq_true ..).mpr ho] at this
  have hback := List.all_eq_true.mp hall e he
  refine failed_of_not_outstanding ?_
  simpa [OpEntry.holdsBack, hk, hst, hs, hes] using hback

end Sys2Proof.Machine
end

section

open Sys2Proof Sys2Proof.Machine

/-- Settles O13: a strong load reads its place, and an acquire drops the copies of the thread's caches; a strong store goes out as its order
lets it go, at once in the local window and as an entry of the log elsewhere. -/
theorem strongAccesses : Obligations.StrongAccesses := by
  unfold Obligations.StrongAccesses
  refine ⟨?load, ?store, ?order⟩
  case load =>
    rintro w sc b a d f acq s n va i rfl hn hva hw
    obtain rfl : n = accessBytes f := hn
    have hi : exec (if acq then Instr.ldAcq w sc b a f d else Instr.ldS w sc b a f d) s = s.finish (strongLoad s w sc acq b a f d) := by
      cases acq <;> rfl
    refine ⟨fun hal => hva ▸ strongLoad_traps hi hw (hva ▸ hal), ?_⟩
    rintro hal t ht hm hs v rfl
    refine ⟨_, exec_strongLoad hi hw hva hal ht hm hs, ?pc, strongLoaded_mem, fun r => ?reg, fun ha => strongLoaded_l1 ha, ?drops,
      result_traffic strongLoaded_traffic ..⟩
    case pc => exact result_pc.trans (congrArg (· + 4) (cx_eq_of_traffic strongLoaded_traffic).1)
    case reg =>
      rw [result_getX, getX_eq_of_traffic strongLoaded_traffic, extend_eq]
      simp only [decide_eq_true_eq]
    case drops =>
      exact fun ha hsc l hl j hj => strongLoaded_drops ha (Nat.pos_of_ne_zero fun h => hsc (BitVec.eq_of_toNat_eq h)) hl hj
  case store =>
    rintro w sc b a f rel s n va i rfl hn rfl hw
    obtain rfl : n = accessBytes f := hn.trans (accessBytes_two f).symm
    have hi : exec (if rel then Instr.stRel w sc b a f else Instr.stS w sc b a f) s = s.finish (strongStore s w sc rel b a f) := by
      cases rel <;> rfl
    refine ⟨fun hal => strongStore_traps hi hw hal, fun hs hal t ht hm hissue => ⟨fun hk ho => ?here, fun hk k hj => ?away⟩⟩
    case here =>
      obtain ⟨g, hput, hg⟩ := put_here (o := stOrder rel sc) (bank := s.cx.bankSite (s.getX a)) (va := s.getX a) (v := (s.getX b).toNat)
        (data := (s.getX b).setWidth 1024) hk hm ho
      obtain ⟨hpc, hread, hsame, -, hrest⟩ := stored_leaves hs hg t.pa (accessBytes f) (s.getX b).toNat
      exact ⟨_, exec_strongStore hi hw hal ht hissue hput, hpc, hread, hsame, hrest⟩
    case away =>
      obtain ⟨hpc, hmem, hlog, hrest⟩ := storedAway_leaves s (stOrder rel sc) (s.cx.bankSite (s.getX a)) t (accessBytes f)
        (s.storeEntry (stOrder rel sc) (s.cx.bankSite (s.getX a)) t (s.getX a) (accessBytes f) (s.getX b) k)
      exact ⟨_, _, exec_strongStore hi hw hal ht hissue (put_away hk hm hj), hpc, hmem, hlog, rfl, rfl, rfl, rfl, BitVec.ofNat_toNat .., rfl,
        valueCells_eq .., hrest⟩
  case order =>
    refine fun c o hl => ⟨fun hr hs => ?_, fun ho hs e he hk hst hes => failed_of_mayLeave hl ho hs he hk hst hes⟩
    have hd := drained_of_mayLeave hl hr hs
    exact ⟨storeCount_of_drained hd nofun, storeCount_of_drained hd nofun, storeCount_of_drained hd nofun⟩

end

section
/-! SUPPORT. Pins and fences (R146 to R148, R224, R225): where a slice holds a line that it is to keep, and what a fence drops. -/

namespace Sys2Proof.Machine

variable {s : State} {t : Target} {home line : Nat} {ways : List Nat} {keep : Nat → Bool} {w : BitVec 2} {a b d : BitVec 5} {p c : BitVec 4}

/-! ## The lines that a slice holds apart (R9, R124) -/

/-- Where a line is held: its home, the line, and the way. -/
def SliceLine.seat (l : SliceLine) : Nat × Nat × Nat := (l.home, l.line, l.way)

/-- The seats of the lines that slices hold apart. -/
def State.seats (s : State) : List (Nat × Nat × Nat) := s.slices.map SliceLine.seat

theorem mem_seats {x : Nat × Nat × Nat} : x ∈ s.seats ↔ ∃ l ∈ s.slices, l.home = x.1 ∧ l.line = x.2.1 ∧ l.way = x.2.2 := by
  simp only [State.seats, List.mem_map, SliceLine.seat, Prod.ext_iff]

theorem sliceClean_seats (s : State) (home line : Nat) : (s.sliceClean home line).seats = s.seats := by
  unfold State.sliceClean
  split
  · rfl
  · simp only [State.seats, List.map_map]
    refine List.map_congr_left fun l _ => ?_
    simp only [Function.comp_apply]
    split <;> rfl

/-- An eviction takes the seats of one line. -/
theorem mem_sliceEvict_seats {x : Nat × Nat × Nat} :
    x ∈ (s.sliceEvict home line).seats ↔ x ∈ s.seats ∧ ¬ (x.1 = home ∧ x.2.1 = line) := by
  unfold State.sliceEvict
  split
  · rw [← sliceClean_seats s home line]
    simp only [mem_seats, List.mem_filter]
    constructor
    · rintro ⟨l, ⟨hl, hne⟩, hh, hli, hw⟩
      exact ⟨⟨l, hl, hh, hli, hw⟩, by simpa [← hh, ← hli, imp_iff_not_or] using hne⟩
    · rintro ⟨⟨l, hl, hh, hli, hw⟩, hne⟩
      exact ⟨l, ⟨hl, by simpa [← hh, ← hli, imp_iff_not_or] using hne⟩, hh, hli, hw⟩
  · next hnone =>
    refine ⟨fun hx => ⟨hx, ?_⟩, And.left⟩
    rintro ⟨hh, hli⟩
    obtain ⟨l, hl, hlh, hll, -⟩ := mem_seats.mp hx
    exact hnone (List.any_eq_true.mpr ⟨l, hl, by simp [hlh, hll, hh, hli]⟩)

/-- Making room picks one of the ways. -/
theorem roomIn_way (hw : ways ≠ []) : (s.roomIn home ways keep).1 ∈ ways := by
  unfold State.roomIn
  split
  · next h => exact List.mem_of_find?_eq_some h
  · split
    · next h =>
      have := List.find?_some h
      simp only [Bool.and_eq_true, List.contains_iff_mem] at this
      exact this.1.1.2
    · cases ways with
      | nil => exact absurd rfl hw
      | cons x l => exact List.mem_cons_self

/-- Making room leaves the seats of the lines that are to be kept. -/
theorem mem_roomIn_seats {x : Nat × Nat × Nat} (hk : keep x.2.1 = true) : x ∈ (s.roomIn home ways keep).2.seats ↔ x ∈ s.seats := by
  unfold State.roomIn
  split
  · rfl
  · split
    · next l h =>
      have hl := List.find?_some h
      rw [mem_sliceEvict_seats]
      refine and_iff_left ?_
      rintro ⟨-, hline⟩
      simp [← hline, hk] at hl
    · rfl

/-- A slice that is to hold a line holds it in one of the ways. -/
theorem sliceHold_holds (hw : ways ≠ []) : ∃ l ∈ (s.sliceHold home line ways keep).slices, l.home = home ∧ l.line = line ∧ l.way ∈ ways := by
  have hway := roomIn_way (s := s) (home := home) (keep := fun l => decide (l = line) || keep l) hw
  have hseats : ∀ way, (home, line, way) ∈ (s.roomIn home ways fun l => decide (l = line) || keep l).2.seats ↔ (home, line, way) ∈ s.seats :=
    fun way => mem_roomIn_seats (by simp)
  unfold State.sliceHold
  generalize s.roomIn home ways (fun l => decide (l = line) || keep l) = r at hway hseats ⊢
  dsimp only
  split
  · next hnone =>
    have habsent : ¬ (r.2.slices.any fun l => l.home = home && l.line = line) = true := by
      rintro h
      obtain ⟨l, hl, hm⟩ := List.any_eq_true.mp h
      obtain ⟨hh, hli⟩ : l.home = home ∧ l.line = line := by simpa using hm
      obtain ⟨l', hl', hh', hli', -⟩ := mem_seats.mp ((hseats l.way).mp (mem_seats.mpr ⟨l, hl, hh, hli, rfl⟩))
      exact absurd (List.find?_eq_none.mp hnone l' hl') (by simp [hh', hli'])
    rw [State.sliceFill, if_neg habsent]
    exact ⟨_, List.mem_append_right _ (List.mem_singleton_self _), rfl, rfl, hway⟩
  · next x hx =>
    have hxm := List.mem_of_find?_eq_some hx
    obtain ⟨hh, hli⟩ : x.home = home ∧ x.line = line := by simpa using List.find?_some hx
    split
    · next hin => exact ⟨x, hxm, hh, hli, List.contains_iff_mem.mp hin⟩
    · obtain ⟨l, hl, hlh, hll, -⟩ := mem_seats.mp ((hseats x.way).mpr (mem_seats.mpr ⟨x, hxm, hh, hli, rfl⟩))
      refine ⟨{ l with way := r.1 }, List.mem_map.mpr ⟨l, hl, ?_⟩, hlh, hll, hway⟩
      simp only [hlh, hll, decide_true, Bool.and_self, if_true]

theorem sliceHold_cx (s : State) (home line : Nat) (ways : List Nat) (keep : Nat → Bool) : (s.sliceHold home line ways keep).cx = s.cx := by
  obtain ⟨m, l, h⟩ := sliceHold_slicedTo s home line ways keep
  rw [h]

/-! ## Pins (R224) -/

theorem exec_pin_window (hw : s.cx.waitMet w.toNat 0 = true) (hr : regionOf (s.getX a) = .localWindow ∨ regionOf (s.getX a) = .siteWindow) :
    exec (.pin w a d) s = .next (s.result d 6) := by
  change execPin w a d s = _
  rcases hr with hr | hr <;>
  · simp only [execPin, hw, waitUntil_true, hr]
    rfl

theorem exec_pin_held (hw : s.cx.waitMet w.toNat 0 = true) (hr : regionOf (s.getX a) = .global)
    (ht : s.resolve .load (s.getX a) 1 s.cx.tileco = .ok t) (hk : t.kind = .glob) (hp : isPeer t.pa = false)
    (hwhy : s.pinReason (lineOf t.pa) t.site = 0) (hpin : s.cx.pinsLine (lineOf t.pa) = true) :
    exec (.pin w a d) s = .next (s.result d 1) := by
  change execPin w a d s = _
  simp only [execPin, hw, waitUntil_true, hr, ht, hk, hp, hwhy, hpin, tryExn_ok, bind, Except.bind]
  rfl

/-- The state in which a line is pinned: its slice holds it in way 0 or 1 (R224). -/
def State.pinned (s : State) (va : Word) (t : Target) : State :=
  (s.mapCx fun c => { c with pins := c.pins ++ [⟨s.viaOf va, t.site, va, lineOf t.pa⟩] }).sliceHold t.site (lineOf t.pa) [0, 1] fun _ => false

theorem exec_pin_new (hw : s.cx.waitMet w.toNat 0 = true) (hr : regionOf (s.getX a) = .global)
    (ht : s.resolve .load (s.getX a) 1 s.cx.tileco = .ok t) (hk : t.kind = .glob) (hp : isPeer t.pa = false)
    (hwhy : s.pinReason (lineOf t.pa) t.site = 0) (hpin : s.cx.pinsLine (lineOf t.pa) = false) :
    exec (.pin w a d) s = .next ((s.pinned (s.getX a) t).result d 1) := by
  change execPin w a d s = _
  simp only [execPin, hw, waitUntil_true, hr, ht, hk, hp, hwhy, hpin, tryExn_ok, bind, Except.bind]
  rfl

theorem pinned_cx (s : State) (va : Word) (t : Target) :
    (s.pinned va t).cx = { s.cx with pins := s.cx.pins ++ [⟨s.viaOf va, t.site, va, lineOf t.pa⟩] } := sliceHold_cx ..

theorem pinsLine_iff {c : Ctx} : c.pinsLine line = true ↔ ∃ p ∈ c.pins, p.line = line := by simp [Ctx.pinsLine]

theorem result_pins {v : Word} : (s.result d v).cx.pins = s.cx.pins := Ctx.setX_pins ..

theorem result_slices {v : Word} : (s.result d v).slices = s.slices := rfl

theorem result_answer {v : Word} : (s.result d v).getX d = if d = 0 then 0 else v := getX_answer fun _ => result_getX

/-- The pin is of an address in the line of another (R224). -/
def PinEntry.hits (va : Word) (p : PinEntry) : Bool := p.va.toNat / 128 = va.toNat / 128

theorem exec_unpin (hw : s.cx.waitMet w.toNat 0 = true) :
    exec (.unpin w a d) s = .next ((s.mapCx fun c => { c with pins := c.pins.filter fun p => !p.hits (s.getX a) }).result d
      (if s.cx.pins.any (PinEntry.hits (s.getX a)) then 1 else 0)) := by
  change execUnpin w a d s = _
  simp only [execUnpin, hw, waitUntil_true]
  rfl

/-! ## Fences (R146 to R148) -/

/-- What a fence with a read after it leaves: no first-level copy of the thread, and no load performed early (R147, R345). -/
def State.fenced (s : State) : State := (s.invalidateAll s.cx.members).mapCx Ctx.settleLoads

theorem fence_idle (h : p = 0 ∨ c = 0) : fence s p c = .ok s.advance := by
  unfold fence
  rcases h with h | h <;> simp [h] <;> rfl

theorem fence_met (hp : p ≠ 0) (hc : c ≠ 0) (hd : p.getLsbD 0 = true ∨ p.getLsbD 2 = true → s.cx.drained = true) :
    fence s p c = .ok (if c.getLsbD 1 then s.fenced else s).advance := by
  have hgo : (!(p.getLsbD 0 || p.getLsbD 2) || s.cx.drained) = true := by
    simpa only [Bool.or_eq_true, Bool.not_eq_true', ← imp_iff_not_or, Bool.or_eq_false_iff, ← Bool.not_eq_true, ← not_or] using hd
  unfold fence
  simp only [hp, hc, decide_false, Bool.or_self, Bool.false_eq_true, if_false, hgo, waitUntil_true]
  rfl

theorem fence_waits (hp : p ≠ 0) (hc : c ≠ 0) (ho : p.getLsbD 0 = true ∨ p.getLsbD 2 = true) (hd : s.cx.drained = false) :
    fence s p c = .error .wait := by
  have hgo : (!(p.getLsbD 0 || p.getLsbD 2) || s.cx.drained) = false := by
    rw [(Bool.or_eq_true ..).mpr ho, hd]
    rfl
  unfold fence
  simp only [hp, hc, decide_false, Bool.or_self, Bool.false_eq_true, if_false, hgo, waitUntil_false]
  rfl

theorem completes_advance {i : Instr} {u : State} (hx : exec i s = .next u.advance) (hpc : u.cx.pc = s.cx.pc) : Completes i s u false :=
  ⟨_, hx, hpc ▸ u.advance_committed⟩

end Sys2Proof.Machine
end

section

open Sys2Proof Sys2Proof.Machine

/-- Settles O15: a pin that is not refused puts its line into way 0 or 1 of its home, and the fences share one body, which waits and drops as
its two sets say. -/
theorem pinsAndFences : Obligations.PinsAndFences := by
  unfold Obligations.PinsAndFences
  refine ⟨fun w a b d s => ⟨?cwait, fun hw => ⟨fun hr => gives_of (exec_pin_window hw hr) rfl, ?pin, ?unpin⟩⟩, fun p c s => ?fences⟩
  case cwait =>
    intro hw
    refine completes_advance ?_ rfl
    change execCwait w b s = _
    rw [execCwait, hw]
    rfl
  case pin =>
    rintro t hr ht hk hp hwhy
    cases hpin : s.cx.pinsLine (lineOf t.pa) with
    | true =>
      refine ⟨_, exec_pin_held hw hr ht hk hp hwhy hpin, result_pc, result_answer, ?_, nofun⟩
      rw [result_pins]
      exact pinsLine_iff.mp hpin
    | false =>
      have hpc : (s.pinned (s.getX a) t).cx.pc = s.cx.pc := by rw [pinned_cx]
      obtain ⟨l, hl, hh, hli, hway⟩ := sliceHold_holds (s := s.mapCx fun c => { c with pins := c.pins ++ [⟨s.viaOf (s.getX a), t.site, s.getX a,
        lineOf t.pa⟩] }) (home := t.site) (line := lineOf t.pa) (keep := fun _ => false) (List.cons_ne_nil 0 [1])
      refine ⟨_, exec_pin_new hw hr ht hk hp hwhy hpin, result_pc.trans (congrArg (· + 4) hpc), result_answer, ?_,
        fun _ => ⟨l, hl, hh, hli, ?_⟩⟩
      · rw [result_pins, pinned_cx]
        exact ⟨_, List.mem_append_right _ (List.mem_singleton_self _), rfl⟩
      · simp only [List.mem_cons, List.not_mem_nil, or_false] at hway
        omega
  case unpin =>
    refine ⟨_, exec_unpin hw, result_pc, ?_, ?_⟩
    · rw [result_pins]
      simp [State.mapCx, PinEntry.hits]
    · rw [result_answer]
      simp [PinEntry.hits, ite_and]
  case fences =>
    intro dropped
    have hall : ∀ {f : BitVec 4}, f = 3 → s.cx.drained = true → fence s f f = .ok s.fenced.advance := by
      rintro f rfl hd
      exact fence_met (by decide) (by decide) fun _ => hd
    refine ⟨fun h => ?_, fun hp hc hd => ?_, fun hp hc ho hd => ?_, fun hd => ⟨?_, ?_⟩⟩
    · exact completes_advance (congrArg s.finish (fence_idle h)) rfl
    · exact completes_advance (congrArg s.finish (fence_met hp hc hd)) (by split <;> rfl)
    · exact congrArg s.finish (fence_waits hp hc ho hd)
    · exact completes_advance (congrArg s.finish (hall rfl hd)) rfl
    · refine completes_advance (u := { dropped with icache := s.icache.filter fun x => !s.cx.members.contains x.h }) ?_ rfl
      change s.finish ((fence s 3 3).map _) = _
      rw [hall rfl hd]
      rfl

end

section
/-! SUPPORT. What O23 says of a local window that lies in the peer region (R107, R397): `BytesReach` leaves open what a peer answers there, a
free value, so that the statement holds only if no peer ever refuses. -/

namespace Sys2Proof.Machine

/-- A context at a site whose window lies in the peer region, in a handler's first instruction at P, with one byte to store in its local window. -/
def State.far (n : Nat) : State :=
  { State.reset with
    tick := n
    cx := { State.reset.cx with
      key := ⟨0x1400000, 0⟩, level := .P, first := some .P, banks := [0]
      hint := some ⟨4, 1, 0⟩, p := Vector.replicate 8 1
      x := Vector.replicate 32 0xFFFFFFFFFFF00000, v := Vector.replicate 32 ⟨2, 0⟩ } }

/-- Where the byte goes. -/
def farTarget : Target := ⟨siteAddr 0x1400000 0, .localWin, 0x1400000, 0, false⟩

theorem far_resolve (n : Nat) : (State.far n).resolve .store 0xFFFFFFFFFFF00000 1 none = .ok farTarget := rfl

theorem far_refusedAt (n : Nat) : (State.far n).refusedAt farTarget 1 = none := rfl

theorem far_elems (n : Nat) : (State.far n).vectorElems 128 = [0] := by
  have h : (State.far n).enabled = (State.far 0).enabled := rfl
  rw [State.vectorElems, h]
  decide

/-- A peer's refusal stops the far context, which is in a handler's first instruction at P, where it stands (R362). -/
theorem far_raise_pc (n : Nat) (f : Ctx → Ctx) (hf : ∀ c, (f c).first = c.first ∧ (f c).pc = c.pc) (e : Exn) :
    (((State.far n).mapCx f).raise e).cx.pc = 0 := by
  have hfirst : ((State.far n).mapCx f).cx.first = some .P := (hf _).1
  rw [State.raise, hfirst]
  exact (hf _).2

theorem far_addr (n : Nat) : blockAddr128 (State.far n) 0 1 + toWord (0 * 1) = 0xFFFFFFFFFFF00000 := by
  have hx : (State.far n).getX 1 = 0xFFFFFFFFFFF00000 := rfl
  rw [blockAddr128, hx]
  decide

theorem far_placeElems (n : Nat) : (State.far n).placeElems .store 1 (fun i => blockAddr128 (State.far n) 0 1 + toWord (i * 1)) (VReg.elem ⟨2, 0⟩) [0] =
    .ok [⟨⟨0xFFFFFFFFFFF00000, 1, VReg.elem ⟨2, 0⟩ 0⟩, farTarget⟩] := by
  have ht : (State.far n).cx.tileco = none := rfl
  simp only [State.placeElems, List.mapM_cons, List.mapM_nil, far_addr, Nat.mod_one, decide_true, check_true, ht, far_resolve, tryExn_ok, bind, Except.bind,
    pure, Except.pure]

theorem far_exec (n : Nat) {e : Stop} (h : (State.far n).checkPlace .store farTarget 0xFFFFFFFFFFF00000 1 = .error e) :
    exec (.vst 0 0 1 0) (State.far n) = (State.far n).finish (.error e) := by
  change execVst 0 0 1 0 (State.far n) = _
  have hs : (State.far n).storeSource 0 true = .ok ⟨2, 0⟩ := rfl
  have hw : (State.far n).cx.waitMet (0 : BitVec 2).toNat 0 = true := rfl
  have hd : farTarget.direct = true := rfl
  have ht : ¬ (⟨2, 0⟩ : VReg).tag = 1 := by decide
  have hm : min 1024 (tagElems (⟨2, 0⟩ : VReg).tag) = 128 := rfl
  have ha : accessWidth (⟨2, 0⟩ : VReg).tag = 1 := rfl
  simp only [execVst, hw, waitUntil_true, hs, bind, Except.bind, vectorStore, if_neg ht, hm, ha, far_elems, far_placeElems, State.storePieces,
    State.checkDirect, hd, if_true, h]

theorem far_ahead (n : Nat) : (State.far n).ahead (State.far n).cx.key.h (State.far n).cx.key.h = [] := by
  simp [State.ahead, State.ctxs, State.far, State.reset, Ctx.blank]

/-- The bytes that the far context stores. -/
theorem far_bytes (n : Nat) (f : Nat → Nat → Word × Byte) :
    (((List.range (min 1024 (tagElems 2))).filter (State.far n).enabled).flatMap fun k => (List.range 1).map (f k)) = [f 0 0] := by
  have h : (List.range (min 1024 (tagElems 2))).filter (State.far n).enabled = [0] := far_elems n
  rw [h]
  rfl

theorem far_reach (n : Nat) (y : Byte) :
    BytesReach (State.far n) (State.far n).cx.tileco [.localWin] (fun _ => siteAddr 0x1400000 0) [(0xFFFFFFFFFFF00000, y)] := by
  simp only [BytesReach, List.mem_singleton, forall_eq]
  exact ⟨⟨rfl, farTarget, far_resolve n, rfl, rfl, rfl⟩, rfl, trivial⟩

/-- A peer's refusal traps the store at its place (R208). -/
theorem far_checkPlace {n : Nat} {why : LateReason} (h : (State.far n).peerRefuses farTarget = some why) :
    ∃ e, (State.far n).checkPlace .store farTarget 0xFFFFFFFFFFF00000 1 =
      .error (if why = .rejected then .trap e else .broken e (toWord (siteAddr farTarget.site 0))) := by
  refine ⟨⟨(exnAccess .store 0xFFFFFFFFFFF00000).cause, 0xFFFFFFFFFFF00000, toWord (lateCode why), .T⟩, ?_⟩
  rw [State.checkPlace, far_refusedAt, h]
  cases why <;> rfl

/-- A store that a peer refuses leaves the far context at its instruction. -/
theorem far_exec_pc {n : Nat} {why : LateReason} {t : State} (h : (State.far n).peerRefuses farTarget = some why)
    (ht : exec (.vst 0 0 1 0) (State.far n) = .next t) : t.cx.pc = 0 := by
  obtain ⟨e, he⟩ := far_checkPlace h
  rw [far_exec n he] at ht
  split at ht
  · injection ht with ht
    exact ht ▸ far_raise_pc n id (fun _ => ⟨rfl, rfl⟩) e
  · injection ht with ht
    exact ht ▸ far_raise_pc n (fun c => c.irq 17 .P _) (fun _ => ⟨rfl, rfl⟩) e

theorem far_peerRefuses {n : Nat} {pl : Word → Nat} {bs : List (Word × Byte)} (h : StoresNow (.vst 0 0 1 0) (State.far n) (State.far n) pl bs) :
    (State.far n).peerRefuses farTarget = none := by
  obtain ⟨t, ht, hpc, -, -⟩ := h
  by_contra hne
  obtain ⟨why, hwhy⟩ := Option.ne_none_iff_exists'.mp hne
  rw [far_exec_pc hwhy ht] at hpc
  exact absurd hpc (by change ¬ (0 : Word) = 0 + 4; decide)

/-- In a state whose local window lies in the peer region, the statement of vector stores rests on what a peer answers (R397). -/
theorem peerAnswer_of_vectorStores (h : Obligations.VectorStores) (n : Nat) :
    Config.peerAnswer n ≠ 1 ∧ Config.peerAnswer n ≠ 2 ∧ Config.peerAnswer n ≠ 3 := by
  unfold Obligations.VectorStores at h
  obtain ⟨-, -, -, hform⟩ := h 0 0 1 0 0 (State.far n) ⟨2, 0⟩ 1 rfl rfl rfl
  obtain ⟨hvst, -⟩ := hform (by decide)
  have hst := (hvst (fun _ _ _ _ => Nat.mod_one _) (fun _ => siteAddr 0x1400000 0)).1 (by rfl) (far_ahead n) rfl rfl ?_
  · have hp := far_peerRefuses hst
    have hpeer : isPeer (physOf farTarget.pa) = true := by decide
    have htick : (State.far n).tick = n := rfl
    simp only [State.peerRefuses, hpeer, if_true, htick] at hp
    refine ⟨?_, ?_, ?_⟩ <;> intro he <;> simp [he] at hp
  · change BytesReach _ _ _ _ (((List.range (min 1024 (tagElems 2))).filter (State.far n).enabled).flatMap fun k => (List.range 1).map fun j => _)
    rw [far_bytes]
    exact far_reach n _

end Sys2Proof.Machine
end
